-- ==== Sys2Proof/Word.lean ====
section
/-!
DEFINITION. The machine's word and byte types (R9, R10): a register is 64 bits wide, memory is
addressed by the byte.
-/

namespace Sys2Proof

/-- A 64-bit value: a register, a virtual address, a command parameter (R10). -/
abbrev Word := BitVec 64

/-- One byte of memory (R9). -/
abbrev Byte := BitVec 8

/-- One Tile vector register, 1 KiB (Table TIL-1). -/
abbrev VReg := BitVec 8192

end Sys2Proof
end

