-- ==== Sys2Proof/Syntax.lean ====
section
/-!
DEFINITION. The commands of the device, one constructor per row of the opcode table. A tile
instruction carries the number `c` of its context (tile × 8 + slot, R10) and bits [55:0] of its word
`w` (R53); the constructor stands for the opcode. A hub command carries its queue `q` and its SEQ
`k`. A timed row carries `now`, the campus time in ns at which it happens.
-/

namespace Sys2Proof

/-- A Caravan frame without its link trailer (Tables FAB-3 and FAB-4): `area` is the 160-bit
type-specific area, `tly` bit 15 of the first word. -/
structure Frame where
  type : Nat
  vc : Nat
  fence : Bool
  resp : Bool
  last : Bool
  tly : Bool
  tag : Nat
  dst : Nat
  src : Nat
  fseq : Nat
  area : Nat
  payload : List Byte
deriving DecidableEq, Repr

/-- The commands (spec/opcode_table.json). -/
inductive Instr
  /-- NOP (R55). -/
  | nop (c : Nat) (w : BitVec 64)
  /-- ADD (R55). -/
  | add (c : Nat) (w : BitVec 56)
  /-- SUB (R55). -/
  | sub (c : Nat) (w : BitVec 56)
  /-- MUL (R55). -/
  | mul (c : Nat) (w : BitVec 56)
  /-- AND (R55). -/
  | and (c : Nat) (w : BitVec 56)
  /-- OR (R55). -/
  | or (c : Nat) (w : BitVec 56)
  /-- XOR (R55). -/
  | xor (c : Nat) (w : BitVec 56)
  /-- SHL (R55). -/
  | shl (c : Nat) (w : BitVec 56)
  /-- SHR (R55). -/
  | shr (c : Nat) (w : BitVec 56)
  /-- SRA (R55). -/
  | sra (c : Nat) (w : BitVec 56)
  /-- CMP (R55). -/
  | cmp (c : Nat) (w : BitVec 56)
  /-- ADDI (R55). -/
  | addi (c : Nat) (w : BitVec 56)
  /-- MOVI (R55). -/
  | movi (c : Nat) (w : BitVec 56)
  /-- CMPI (R55). -/
  | cmpi (c : Nat) (w : BitVec 56)
  /-- LD (R52). -/
  | ld (c : Nat) (w : BitVec 56)
  /-- LDU (R52). -/
  | ldu (c : Nat) (w : BitVec 56)
  /-- ST (R52). -/
  | st (c : Nat) (w : BitVec 56)
  /-- L1INV (R52). -/
  | l1inv (c : Nat) (w : BitVec 56)
  /-- LDS (R55). -/
  | lds (c : Nat) (w : BitVec 56)
  /-- STS (R55). -/
  | sts (c : Nat) (w : BitVec 56)
  /-- AADD (R55). -/
  | aadd (c : Nat) (w : BitVec 56)
  /-- BR (R55). -/
  | br (c : Nat) (w : BitVec 56)
  /-- CALL (R45). -/
  | call (c : Nat) (w : BitVec 56)
  /-- RET (R55). -/
  | ret (c : Nat) (w : BitVec 56)
  /-- LOOP (R55). -/
  | loop (c : Nat) (w : BitVec 56)
  /-- EXIT (R50). -/
  | exit (c : Nat) (w : BitVec 56)
  /-- SEMWAIT (R344). -/
  | semwait (c : Nat) (w : BitVec 56)
  /-- SEMSIG (R344). -/
  | semsig (c : Nat) (w : BitVec 56)
  /-- BARRIER (R152). -/
  | barrier (c : Nat) (w : BitVec 56)
  /-- FENCE (R48). -/
  | fence (c : Nat) (w : BitVec 56)
  /-- RINGWAIT (R132). -/
  | ringwait (c : Nat) (w : BitVec 56)
  /-- RINGREL (R133). -/
  | ringrel (c : Nat) (w : BitVec 56)
  /-- ITSTART (R139). -/
  | itstart (c : Nat) (w : BitVec 56)
  /-- ITSTOP (R139). -/
  | itstop (c : Nat) (w : BitVec 56)
  /-- ITSTAT (R139). -/
  | itstat (c : Nat) (w : BitVec 56)
  /-- MMA (R58). -/
  | mma (c : Nat) (w : BitVec 56)
  /-- MMA_STREAM_START (R61). -/
  | mmaStreamStart (tile : Nat)
  /-- MDRAIN (R67). -/
  | mdrain (c : Nat) (w : BitVec 56)
  /-- MZERO (R60). -/
  | mzero (c : Nat) (w : BitVec 56)
  /-- MREAD (R67). -/
  | mread (c : Nat) (w : BitVec 56)
  /-- MWRITE (R67). -/
  | mwrite (c : Nat) (w : BitVec 56)
  /-- VADD (R463). -/
  | vadd (c : Nat) (w : BitVec 56)
  /-- VSUB (R463). -/
  | vsub (c : Nat) (w : BitVec 56)
  /-- VMUL (R463). -/
  | vmul (c : Nat) (w : BitVec 56)
  /-- VFMA (R463). -/
  | vfma (c : Nat) (w : BitVec 56)
  /-- VMAX (R89). -/
  | vmax (c : Nat) (w : BitVec 56)
  /-- VMIN (R89). -/
  | vmin (c : Nat) (w : BitVec 56)
  /-- VCMP (R88). -/
  | vcmp (c : Nat) (w : BitVec 56)
  /-- VSEL (R463). -/
  | vsel (c : Nat) (w : BitVec 56)
  /-- VRSUM (R68). -/
  | vrsum (c : Nat) (w : BitVec 56)
  /-- VRMAX (R68). -/
  | vrmax (c : Nat) (w : BitVec 56)
  /-- VAMAX (R68). -/
  | vamax (c : Nat) (w : BitVec 56)
  /-- VLD (R463). -/
  | vld (c : Nat) (w : BitVec 56)
  /-- VST (R463). -/
  | vst (c : Nat) (w : BitVec 56)
  /-- VBCAST (R463). -/
  | vbcast (c : Nat) (w : BitVec 56)
  /-- VPERM (R463). -/
  | vperm (c : Nat) (w : BitVec 56)
  /-- SEXP (R106). -/
  | sexp (c : Nat) (w : BitVec 56)
  /-- SLOG (R106). -/
  | slog (c : Nat) (w : BitVec 56)
  /-- SRCP (R106). -/
  | srcp (c : Nat) (w : BitVec 56)
  /-- SRSQ (R106). -/
  | srsq (c : Nat) (w : BitVec 56)
  /-- SPROG (R118). -/
  | sprog (c : Nat) (w : BitVec 56)
  /-- DCHAIN (R155). -/
  | dchain (c : Nat) (w : BitVec 56)
  /-- CVT (R98). -/
  | cvt (c : Nat) (w : BitVec 56)
  /-- CVTMX (R100). -/
  | cvtmx (c : Nat) (w : BitVec 56)
  /-- RPUT (R128). -/
  | rput (c : Nat) (w : BitVec 56) (sram units : Nat) (target : Word)
  /-- RACC (R284). -/
  | racc (c : Nat) (w : BitVec 56) (sram units : Nat) (target : Word) (op : Nat)
  /-- RSIG (R281). -/
  | rsig (c : Nat) (w : BitVec 56) (chip sem : Nat) (amount : Word)
  /-- ENQ (R333). -/
  | enq (c : Nat) (w : BitVec 56)
  /-- SIGNBOARD_SCAN (R212). -/
  | signboardScan (c : Nat) (w : BitVec 56)
  /-- CONTEXT_SELECT (R49). -/
  | contextSelect (c : Nat)
  /-- CONTEXT_SWITCH (R40). -/
  | contextSwitch (c : Nat)
  /-- CONTEXT_RETIRE (R50). -/
  | contextRetire (c : Nat)
  /-- PARITY_REFETCH (R73). -/
  | parityRefetch (tile ring elem : Nat)
  /-- TILE_CTL_WRITE (R78). -/
  | tileCtlWrite (tile : Nat) (v : Word)
  /-- ITINERARY_LOOP (R135). -/
  | itineraryLoop (tile n : Nat)
  /-- STRIDE (R136). -/
  | stride (tile n : Nat)
  /-- SETA (R136). -/
  | seta (tile n : Nat)
  /-- ITINERARY_FETCH (R141). -/
  | itineraryFetch (tile n : Nat)
  /-- GATHER (R142). -/
  | gather (tile n : Nat)
  /-- WAITSEM (R136). -/
  | waitsem (tile n : Nat)
  /-- SIGSEM (R136). -/
  | sigsem (tile n : Nat)
  /-- ITINERARY_END (R136). -/
  | itineraryEnd (tile n : Nat)
  /-- ELEMENT_DELIVERY (R131). -/
  | elementDelivery (tile n e : Nat)
  /-- ELEMENT_WRITTEN (R131). -/
  | elementWritten (tile n e : Nat)
  /-- MCAST_BIND (R150). -/
  | mcastBind (tile ring : Nat)
  /-- OVERWRITE_EVENT (R149). -/
  | overwriteEvent (pa : Nat)
  /-- DB_TAIL_WRITE (R331). -/
  | dbTailWrite (q width : Nat) (v : Word) (companion : Bool)
  /-- DB_CQHEAD_WRITE (R331). -/
  | dbCqheadWrite (q width : Nat) (v : Word) (companion : Bool)
  /-- COMMAND_ACCEPT (R336). -/
  | commandAccept (q now : Nat)
  /-- COMMAND_START (R340). -/
  | commandStart (p engine now : Nat)
  /-- COMMAND_RETIRE (R341). -/
  | commandRetire (q : Nat)
  /-- NOTIFY_US_EXPIRY (R339). -/
  | notifyUsExpiry (q now : Nat)
  /-- COMMAND_TIMEOUT (R348). -/
  | commandTimeout (q k held now : Nat)
  /-- QUEUE_ENABLE (R334). -/
  | queueEnable (q : Nat)
  /-- QUEUE_STOP (R334). -/
  | queueStop (q : Nat)
  /-- QUEUE_RESUME (R334). -/
  | queueResume (q : Nat)
  /-- QUEUE_FLUSH (R334). -/
  | queueFlush (q : Nat)
  /-- QUEUE_DISABLE (R334). -/
  | queueDisable (q : Nat)
  /-- QTR_QSEL_WRITE (R334). -/
  | qtrQselWrite (quarter : Nat) (v : Word)
  /-- NOP_COMMAND (R350). -/
  | nopCommand (q k : Nat)
  /-- QUEUE_CTL (R350). -/
  | queueCtl (q k : Nat)
  /-- COPY (R351). -/
  | copy (q k : Nat)
  /-- FILL (R351). -/
  | fill (q k : Nat)
  /-- BAND_SET (R175). -/
  | bandSet (q k : Nat)
  /-- SATCHEL_STORE (R228). -/
  | satchelStore (q k : Nat)
  /-- SATCHEL_RESTORE (R234). -/
  | satchelRestore (q k : Nat)
  /-- LAUNCH (R160). -/
  | launch (q k : Nat)
  /-- LAUNCH_CHECK_DONE (R162). -/
  | launchCheckDone (c : Nat)
  /-- TABLE_LOAD_SFU (R124). -/
  | tableLoadSfu (q k : Nat)
  /-- TABLE_LOAD_SIGNBOARD (R214). -/
  | tableLoadSignboard (q k : Nat)
  /-- ADDR_INVALIDATE (R36). -/
  | addrInvalidate (q k : Nat)
  /-- ACT_SET_DEFINE (R224). -/
  | actSetDefine (q k : Nat)
  /-- ACT_SET_RELEASE (R224). -/
  | actSetRelease (q k : Nat)
  /-- SCALE_STEP (R242). -/
  | scaleStep (q k : Nat)
  /-- SEM_SIGNAL (R343). -/
  | semSignal (q k : Nat)
  /-- SEM_WAIT (R343). -/
  | semWait (q k : Nat)
  /-- BARRIER_COMMAND (R345). -/
  | barrierCommand (q k : Nat)
  /-- SEM_SET (R343). -/
  | semSet (q k : Nat)
  /-- PAGE_MAP_ALLOC (R207). -/
  | pageMapAlloc (q k : Nat)
  /-- PAGE_MAP_WRITE (R207). -/
  | pageMapWrite (q k : Nat)
  /-- PAGE_COPY_DONE (R208). -/
  | pageCopyDone (q k : Nat)
  /-- PAGE_MAP_DEFINE (R207). -/
  | pageMapDefine (q k : Nat)
  /-- PAGE_MAP_BANK (R207). -/
  | pageMapBank (q k : Nat)
  /-- PAGE_SHARE (R207). -/
  | pageShare (q k : Nat)
  /-- PAGE_RELEASE_ENTRIES (R207). -/
  | pageReleaseEntries (q k : Nat)
  /-- PAGE_RELEASE_RETURN (R207). -/
  | pageReleaseReturn (q k : Nat)
  /-- PAGE_RELEASE_UNBANK (R207). -/
  | pageReleaseUnbank (q k : Nat)
  /-- PAGE_RELEASE_UNDEFINE (R207). -/
  | pageReleaseUndefine (q k : Nat)
  /-- KV_PASS (R215). -/
  | kvPass (q k : Nat)
  /-- TALLY_CONTRIBUTE (R261). -/
  | tallyContribute (q k : Nat)
  /-- TALLY_FINISH (R262). -/
  | tallyFinish (q k : Nat)
  /-- TALLY_OPEN (R249). -/
  | tallyOpen (q k : Nat)
  /-- TALLY_CLOSE (R249). -/
  | tallyClose (q k : Nat)
  /-- SNAP_BEGIN (R393). -/
  | snapBegin (q k : Nat)
  /-- SNAP_COMMIT (R395). -/
  | snapCommit (q k : Nat)
  /-- RESTORE (R397). -/
  | restore (q k : Nat)
  /-- SPARE_FILL (R400). -/
  | spareFill (q k : Nat)
  /-- SPARE_ADMIT (R402). -/
  | spareAdmit (q k : Nat)
  /-- POWER_HINT (R413). -/
  | powerHint (q k : Nat)
  /-- BELL_ARM (R301). -/
  | bellArm (q k : Nat)
  /-- BELL_DISARM (R301). -/
  | bellDisarm (q k : Nat)
  /-- DUMP (R369). -/
  | dump (q k : Nat)
  /-- GROUP_SET (R290). -/
  | groupSet (q k : Nat)
  /-- GROUP_CLEAR (R290). -/
  | groupClear (q k : Nat)
  /-- DISPATCH_TABLE_LOAD (R294). -/
  | dispatchTableLoad (q k : Nat)
  /-- PARAM_GATHER (R237). -/
  | paramGather (q k : Nat)
  /-- DISPATCH (R295). -/
  | dispatch (q k : Nat)
  /-- ATTEST (R441). -/
  | attest (q k : Nat)
  /-- DEBUG_CHALLENGE (R440). -/
  | debugChallenge (q k : Nat)
  /-- DEBUG_UNLOCK (R442). -/
  | debugUnlock (q k : Nat)
  /-- DEBUG_LOCK (R442). -/
  | debugLock (q k : Nat)
  /-- LC_TRANSITION (R437). -/
  | lcTransition (q k : Nat)
  /-- SVN_ADVANCE (R440). -/
  | svnAdvance (q k : Nat)
  /-- KEY_REVOKE (R438). -/
  | keyRevoke (q k : Nat)
  /-- LDG_ENTRY_SEL_WRITE (R203). -/
  | ldgEntrySelWrite (v : Word)
  /-- TLY_CTX_SEL_WRITE (R257). -/
  | tlyCtxSelWrite (v : Word)
  /-- PEAK_RESET (R225). -/
  | peakReset (quarter : Nat) (v : Word)
  /-- REGISTER_WRITE (R11). -/
  | registerWrite (pa width : Nat) (v : Word)
  /-- RC_FIELD_READ (R12). -/
  | rcFieldRead (pa width : Nat)
  /-- SCRUB_GRANULE (R185). -/
  | scrubGranule (chan now : Nat)
  /-- SCRUB_FORCED (R186). -/
  | scrubForced (chan now : Nat)
  /-- CHANNEL_TRAIN (R188). -/
  | channelTrain (chan : Nat) (ok : Bool)
  /-- WIPE_DONE (R189). -/
  | wipeDone (p now : Nat)
  /-- TRANSFER_PARITY_ERROR (R356). -/
  | transferParityError (kind nth : Nat)
  /-- HANG_PATH (R370). -/
  | hangPath (engine tileEng now : Nat)
  /-- SUSPECT_PROBE_EXPIRY (R371). -/
  | suspectProbeExpiry (engine tileEng : Nat) (hung : Bool) (now : Nat)
  /-- SUSPEND_RELEASE (R373). -/
  | suspendRelease (p : Nat)
  /-- FIRMWARE_HEARTBEAT (R361). -/
  | firmwareHeartbeat (agent now : Nat)
  /-- HEARTBEAT_LOSS (R361). -/
  | heartbeatLoss (agent now : Nat)
  /-- NP_HEARTBEAT (R362). -/
  | npHeartbeat
  /-- CRASH_DUMP (R363). -/
  | crashDump (now : Nat)
  /-- SCAN_READ_TIMEOUT (R364). -/
  | scanReadTimeout (unit index : Nat)
  /-- HOLD_END (R368). -/
  | holdEnd (dom now : Nat)
  /-- DUMP_ACK (R368). -/
  | dumpAck (v : Word)
  /-- RESET_REQ_PARTITION (R379). -/
  | resetReqPartition (v : Word)
  /-- RESET_REQ_CHIP (R379). -/
  | resetReqChip (v : Word)
  /-- RESET_REQ_POWER_CYCLE (R379). -/
  | resetReqPowerCycle (v : Word)
  /-- ESCALATION (R377). -/
  | escalation (level a b now : Nat)
  /-- CONTEXT_RESET (R166). -/
  | contextReset (c : Nat)
  /-- ENGINE_RESET (R370). -/
  | engineReset (engine tileEng : Nat)
  /-- PARTITION_RESET (R23). -/
  | partitionReset (p now : Nat)
  /-- CHIP_RESET (R376). -/
  | chipReset (now : Nat)
  /-- POWER_CYCLE (R377). -/
  | powerCycle
  /-- LASER_INPUT_LOW (R269). -/
  | laserInputLow (engine fibre level now : Nat)
  /-- LASER_INPUT_RESTORED (R269). -/
  | laserInputRestored (engine fibre level now : Nat)
  /-- PORT_BRINGUP (R270). -/
  | portBringup (port now : Nat)
  /-- PORT_UP (R270). -/
  | portUp (port now : Nat)
  /-- PORT_FAULT (R270). -/
  | portFault (port now : Nat)
  /-- PORT_DOWN (R271). -/
  | portDown (port corr uncorr now : Nat)
  /-- RETRAIN (R270). -/
  | retrain (engine : Nat) (v : Word)
  /-- CAL_WINDOW (R272). -/
  | calWindow (port now : Nat)
  /-- CAL_FORCED (R272). -/
  | calForced (port now : Nat)
  /-- CAL_DONE (R272). -/
  | calDone (port now : Nat)
  /-- CARAVAN_WRITE (R280). -/
  | caravanWrite (now port : Nat) (trailer : Word) (f : Frame)
  /-- CARAVAN_READ (R280). -/
  | caravanRead (now port : Nat) (trailer : Word) (f : Frame)
  /-- CARAVAN_READ_RESPONSE (R284). -/
  | caravanReadResponse (now port : Nat) (trailer : Word) (f : Frame)
  /-- CARAVAN_ACCUMULATE (R280). -/
  | caravanAccumulate (now port : Nat) (trailer : Word) (f : Frame)
  /-- CARAVAN_TALLY_EXP (R257). -/
  | caravanTallyExp (now port : Nat) (trailer : Word) (f : Frame)
  /-- CARAVAN_TALLY_MANT (R257). -/
  | caravanTallyMant (now port : Nat) (trailer : Word) (f : Frame)
  /-- CARAVAN_TALLY_PUBLISH (R261). -/
  | caravanTallyPublish (now port : Nat) (trailer : Word) (f : Frame)
  /-- EXP_DEADLINE (R259). -/
  | expDeadline (gnum step now : Nat)
  /-- CLOSE_DEADLINE (R260). -/
  | closeDeadline (gnum step now : Nat)
  /-- PARTIAL_WAIT_EXPIRY (R260). -/
  | partialWaitExpiry (gnum chunk step now : Nat)
  /-- CARAVAN_SEM_SIGNAL (R281). -/
  | caravanSemSignal (now port : Nat) (trailer : Word) (f : Frame)
  /-- CARAVAN_KV_PASS (R216). -/
  | caravanKvPass (now port : Nat) (trailer : Word) (f : Frame)
  /-- CARAVAN_DISPATCH (R295). -/
  | caravanDispatch (now port : Nat) (trailer : Word) (f : Frame)
  /-- LINK_INIT (R270). -/
  | linkInit (now port : Nat) (trailer : Word) (f : Frame) (c0 c1 c2 : Nat)
  /-- CARAVAN_CREDIT (R277). -/
  | caravanCredit (now port : Nat) (trailer : Word) (f : Frame) (c0 c1 c2 : Nat)
  /-- LINK_ACK (R277). -/
  | linkAck (now port : Nat) (trailer : Word) (f : Frame)
  /-- FLOW_OPEN (R278). -/
  | flowOpen (now port : Nat) (trailer : Word) (f : Frame)
  /-- FLOW_ACCEPT (R278). -/
  | flowAccept (now port : Nat) (trailer : Word) (f : Frame)
  /-- ACK (R284). -/
  | ack (now port : Nat) (trailer : Word) (f : Frame)
  /-- STATUS (R280). -/
  | status (now port : Nat) (trailer : Word) (f : Frame)
  /-- PTP (R298). -/
  | ptp (now port : Nat) (trailer : Word) (f : Frame) (kind domain seq time : Nat) (corr : Int) (twoStep : Bool) (interval : Int)
  /-- ID_ASSIGN (R273). -/
  | idAssign (now port : Nat) (trailer : Word) (f : Frame) (chip tag : Nat)
  /-- MEMBER_LOST (R292). -/
  | memberLost (now port : Nat) (trailer : Word) (f : Frame) (chip : Nat)
  /-- MEMBER_REPLACE (R293). -/
  | memberReplace (now port : Nat) (trailer : Word) (f : Frame) (old new tray : Nat)
  /-- FENCE_CLEAR (R293). -/
  | fenceClear (now port : Nat) (trailer : Word) (f : Frame) (chip : Nat)
  /-- SHARE_SET (R288). -/
  | shareSet (now port : Nat) (trailer : Word) (f : Frame) (ceilings : List Nat) (wraps : List (Nat × Nat × Nat))
  /-- ROUTE_SET (R287). -/
  | routeSet (now port : Nat) (trailer : Word) (f : Frame) (rules : List (Nat × Nat × Nat))
  /-- BELL_SHIFT (R302). -/
  | bellShift (now port : Nat) (trailer : Word) (f : Frame) (step : Nat) (shift : Int)
  /-- RETRANSMIT_TIMEOUT (R283). -/
  | retransmitTimeout (p dst fseq now : Nat)
  /-- NO_ROUTE (R283). -/
  | noRoute (p dst now : Nat)
  /-- FLOW_RETIRE (R279). -/
  | flowRetire (p peer : Nat) (tx : Bool) (now : Nat)
  /-- TIME_HOLDOVER (R297). -/
  | timeHoldover (now : Nat)
  /-- PPS_IN_EDGE (R299). -/
  | ppsInEdge (now : Nat)
  /-- PPS_OUT_PULSE (R299). -/
  | ppsOutPulse (now : Nat)
  /-- FAB_TIME_SET (R297). -/
  | fabTimeSet (v : Word)
  /-- FAB_TIME_NS_READ (R297). -/
  | fabTimeNsRead
  /-- DEPARTURE_BELL (R301). -/
  | departureBell (p now : Nat)
  /-- TELEMETRY_SAMPLE (R300). -/
  | telemetrySample (now : Nat)
  /-- DRAIN_WINDOW (R393). -/
  | drainWindow (p now : Nat)
  /-- DRAIN_DEADLINE (R393). -/
  | drainDeadline (p now : Nat)
  /-- HINT_FIRE (R414). -/
  | hintFire (p start now : Nat)
  /-- HINT_END (R414). -/
  | hintEnd (p start now : Nat)
  /-- MRD (R313). -/
  | mrd (tag addr rlen : Nat)
  /-- MRD_S (R319). -/
  | mrdS (tag addr : Nat)
  /-- MRD_M (R319). -/
  | mrdM (tag addr : Nat)
  /-- MWR (R314). -/
  | mwr (tag addr : Nat) (ack : Bool) (data : List Byte)
  /-- WB (R319). -/
  | wb (addr : Nat) (data : List Byte)
  /-- EVICT (R319). -/
  | evict (addr : Nat)
  /-- CPL (R325). -/
  | cpl (tag status : Nat)
  /-- CPL_DATA (R313). -/
  | cplData (tag status : Nat) (data : List Byte)
  /-- WR_DONE (R315). -/
  | wrDone (tag : Nat)
  /-- SNP_RSP (R320). -/
  | snpRsp (line : Nat) (data : List Byte) (wb : Bool)
  /-- CREDIT (R312). -/
  | credit (req rsp snp srsp evt : Nat)
  /-- SNOOP_TIMEOUT (R321). -/
  | snoopTimeout (line now : Nat)
  /-- LINK_DOWN (R322). -/
  | linkDown (now : Nat)
  /-- LINK_TRAINING_START (R307). -/
  | linkTrainingStart (now : Nat)
  /-- LINK_ACTIVE (R307). -/
  | linkActive (width : Nat) (reversed : Bool) (req rsp snp srsp evt now : Nat)
  /-- LINK_TRAINING_TIMEOUT (R307). -/
  | linkTrainingTimeout (now : Nat)
  /-- FLIT_NAK (R309). -/
  | flitNak (rx : Bool) (seq resent : Nat)
  /-- LINK_RECOVERY (R309). -/
  | linkRecovery (now : Nat)
  /-- RECOVERY_TIMEOUT (R309). -/
  | recoveryTimeout (now : Nat)
  /-- LINK_RETRAIN (R307). -/
  | linkRetrain (v : Word)
  /-- L1_ENTRY (R324). -/
  | l1Entry (now : Nat)
  /-- L1_EXIT (R324). -/
  | l1Exit (now : Nat)
  /-- BOOT_OFFER (R428). -/
  | bootOffer (addr len : Nat)
  /-- BOOT_HELLO (R428). -/
  | bootHello (now : Nat)
  /-- ROM_INIT_DONE (R425). -/
  | romInitDone (ident : Bool)
  /-- IMAGE_VERIFY (R430). -/
  | imageVerify
  /-- FIRMWARE_RUNNING (R426). -/
  | firmwareRunning (now : Nat)
  /-- NVME_COMPLETION (R388). -/
  | nvmeCompletion (id sct sc now : Nat)
  /-- NVME_TIMEOUT (R388). -/
  | nvmeTimeout (id : Nat) (aborted : Bool) (now : Nat)
  /-- SNAPSHOT_PORT_TRAIN (R388). -/
  | snapshotPortTrain (speed width : Nat) (spaces : List (Nat × Bool)) (now : Nat)
  /-- REPLICA_CHUNK (R394). -/
  | replicaChunk (p k now : Nat)
  /-- CAP_LOOP_PERIOD (R407). -/
  | capLoopPeriod (power compute now : Nat)
  /-- CAP_UNMET (R409). -/
  | capUnmet (now : Nat)
  /-- TRAY_CAP_WRITE (R406). -/
  | trayCapWrite (code : Nat)
  /-- DROOP (R411). -/
  | droop (tile : Nat)
  /-- DROOP_RELEASE (R411). -/
  | droopRelease (tile : Nat)
  /-- SOFT_START (R412). -/
  | softStart (tile now : Nat)
  /-- IDLE_ENTRY (R416). -/
  | idleEntry (now : Nat)
  /-- WAKE (R416). -/
  | wake (now : Nat)
  /-- STATE_REQ_ACTIVE (R416). -/
  | stateReqActive (v : Word)
  /-- STATE_REQ_DEEP (R416). -/
  | stateReqDeep (v : Word)
  /-- STATE_REQ_NIGHT (R417). -/
  | stateReqNight (v : Word) (now : Nat)
  /-- I3C_STATE_REQ_NIGHT (R417). -/
  | i3cStateReqNight (off : Bool) (now : Nat)
  /-- I3C_STATE_REQ_WAKE (R416). -/
  | i3cStateReqWake (now : Nat)
  /-- NIGHT_WAKE (R416). -/
  | nightWake (now : Nat)
  /-- NP_SAMPLE (R420). -/
  | npSample (readings : List (Option Int)) (now : Nat)
  /-- ENTDAA (R421). -/
  | entdaa (addr : Nat)
  /-- PWR_FAIL_N (R422). -/
  | pwrFailN (now : Nat)
  /-- NP_START (R451). -/
  | npStart (pos now : Nat)
  /-- RAIL_GOOD (R452). -/
  | railGood (level railsOut : Bool) (now : Nat)
  /-- CHIP_RESET_N (R453). -/
  | chipResetN (low : Bool) (held now : Nat)
  /-- JTAG_INSTRUCTION (R459). -/
  | jtagInstruction (code : Nat)
  /-- VDD_NP_LOST (R423). -/
  | vddNpLost (now : Nat)
  /-- SNAPSHOT_LINK_DOWN (R388). -/
  | snapshotLinkDown (now : Nat)
  /-- WIPE_FAILED (R190). -/
  | wipeFailed (chan pct : Nat)
  /-- RECOVERY_DONE (R309). -/
  | recoveryDone (now : Nat)
  /-- CONTROL_IGNORED (R276). -/
  | controlIgnored (now port : Nat) (trailer : Word) (f : Frame)
  /-- MESSAGE_DROPPED (R311). -/
  | messageDropped (type : Nat)
  /-- HUB_STORE_DOUBLE_BIT (R427). -/
  | hubStoreDoubleBit
deriving DecidableEq, Repr

end Sys2Proof
end

