-- ==== Sys2Proof/Decode.lean ====
section
/-!
DEFINITION. The words of the opcode table, which gives no row bits (its `fields` are empty throughout), so
no word of it spells a command; and the tile's own opcode map (R53 to R55, Table TIL-4).
-/

namespace Sys2Proof

/-- The command a table word spells: none, since the table gives no row bits. -/
def decodeTableWord (_nbits _w : Nat) : Option Instr := none

/-- The opcodes of Table TIL-4 whose words a command carries whole, with their commands. -/
def tileOps : List (Nat × (Nat → BitVec 56 → Instr)) :=
  [(0x01, .add), (0x02, .sub), (0x03, .mul), (0x04, .and), (0x05, .or), (0x06, .xor), (0x07, .shl), (0x08, .shr),
    (0x09, .sra), (0x0A, .cmp), (0x10, .addi), (0x11, .movi), (0x12, .cmpi), (0x20, .ld), (0x21, .ldu),
    (0x22, .st), (0x23, .l1inv), (0x24, .lds), (0x25, .sts), (0x26, .aadd), (0x30, .br), (0x31, .call),
    (0x32, .ret), (0x33, .loop), (0x3F, .exit)] ++
  [(0x40, .semwait), (0x41, .semsig), (0x42, .barrier), (0x43, .fence), (0x44, .ringwait), (0x45, .ringrel),
    (0x50, .itstart), (0x51, .itstop), (0x52, .itstat), (0x60, .mma), (0x61, .mdrain), (0x62, .mzero),
    (0x63, .mread), (0x64, .mwrite), (0x70, .vadd), (0x71, .vsub), (0x72, .vmul), (0x73, .vfma), (0x74, .vmax),
    (0x75, .vmin), (0x76, .vcmp), (0x77, .vsel), (0x78, .vrsum), (0x79, .vrmax), (0x7A, .vamax)] ++
  [(0x80, .vld), (0x81, .vst), (0x82, .vbcast), (0x83, .vperm), (0x90, .sexp), (0x91, .slog), (0x92, .srcp),
    (0x93, .srsq), (0x9F, .sprog), (0xA0, .dchain), (0xB0, .cvt), (0xB1, .cvtmx), (0xC3, .enq),
    (0xD0, .signboardScan)]

/-- An opcode that Table TIL-4 does not list (R55). -/
def reservedOpcode (o : Nat) : Bool := o != 0 && !(decide (0xC0 ≤ o ∧ o ≤ 0xC2)) && tileOps.all fun e => e.1 != o

/-- The command that an instruction word in context `c` is: its opcode in bits 63:56 picks it, and a reserved
opcode goes to NOP's command, which faults on it. RPUT, RACC and RSIG (0xC0 to 0xC2) name operands whose
fields the spec does not lay out (log 25). -/
def decodeTile (c : Nat) (w : BitVec 64) : Option Instr :=
  let o := w.toNat / 2 ^ 56
  if 0xC0 ≤ o ∧ o ≤ 0xC2 then none
  else
    match tileOps.find? fun e => e.1 == o with
    | some e => some (e.2 c (w.setWidth 56))
    | none => some (.nop c w)

end Sys2Proof
end

