-- ==== Sys2Proof/Config.lean ====
section
/-!
DEFINITION. What the spec leaves open, as constants without a body: nothing can be proved about a
value of them, so a claim holds whatever they are (assumption log 3, 6 and 11).
-/

namespace Sys2Proof

/-- A free value for each use: the step applies it to the counter `free` of the state and advances
the counter (log 3). -/
opaque Config.freeValue : Nat → BitVec 64

/-- The function ROM of stepping B0 (R105, R106): coefficient `k` of a segment of built-in function `fn`, in
two's complement and units of 2^-72 (log 11). -/
opaque Config.sfuRom : (fn segment k : Nat) → BitVec 96

/-- The set of a Quarter Cache, of its 32,768, that a line maps to (R75, log 153). -/
opaque Config.qcSet : Nat → Nat

/-- The set of an L1, of its 256, that a line maps to (R43, log 153). -/
opaque Config.l1Set : Nat → Nat

/-- The set of a quarter's translation buffer, of its 1,024, that an ASID and page map to (R35, log 153). -/
opaque Config.tlbSet : Nat → Nat

/-- The six FEC check bytes of a flit over its first 250 bytes: the code of PCIe 6.0, whose field and
generator are not restated (R305, R308, log 160). -/
opaque Config.flitFec : List (BitVec 8) → BitVec 48

/-- The fused identity of the part: CHIP_UID (R431, log 6). -/
opaque Config.chipUid : BitVec 128

/-- The fused key hash of a slot (R431, log 6). -/
opaque Config.keyHash : Nat → BitVec 384

/-- The version of the boot ROM (R428, log 6). -/
opaque Config.romVersion : BitVec 32

/-- The fused FMAX_TILE of a tile, as an offset above 2,000 MHz, used modulo 401 (log 6). -/
opaque Config.fmaxTile : Nat → Nat

end Sys2Proof
end

