-- ==== Sys2Proof/Machine/Bits.lean ====
section
/-!
DEFINITION. Bit fields of words, little-endian byte lists and the lanes of a vector register
(R9, R84). Every other file takes fields apart and puts them together through these.
-/

namespace Sys2Proof.Machine

/-- Bits `[hi:lo]` of a number, as a number. -/
def bits (w hi lo : Nat) : Nat := w / 2 ^ lo % 2 ^ (hi + 1 - lo)

/-- Bit `i` of a number. -/
def bit (w i : Nat) : Bool := w.testBit i

/-- Bits `[hi:lo]` of a 64-bit word. -/
def wbits (w : Word) (hi lo : Nat) : Nat := bits w.toNat hi lo

/-- Bit `i` of a 64-bit word. -/
def wbit (w : Word) (i : Nat) : Bool := w.toNat.testBit i

/-- A number reduced to a 64-bit word. -/
def toW (n : Nat) : Word := BitVec.ofNat 64 n

/-- `w` with bits `[hi:lo]` replaced by `v`. -/
def setBits (w hi lo v : Nat) : Nat :=
  w - bits w hi lo * 2 ^ lo + v % 2 ^ (hi + 1 - lo) * 2 ^ lo

/-- A 64-bit word with bits `[hi:lo]` replaced by `v`. -/
def wsetBits (w : Word) (hi lo v : Nat) : Word := toW (setBits w.toNat hi lo v)

/-- A 64-bit word with bit `i` replaced. -/
def wsetBit (w : Word) (i : Nat) (b : Bool) : Word := wsetBits w i i b.toNat

/-- Two's complement reading of the low `n` bits. -/
def sext (n v : Nat) : Int :=
  let u := v % 2 ^ n
  if u < 2 ^ (n - 1) then (u : Int) else (u : Int) - (2 ^ n : Nat)

/-- The low `n` bits of an integer, two's complement. -/
def wrapN (n : Nat) (x : Int) : Nat := (x % (2 ^ n : Nat)).toNat

/-- An integer clamped to a range. -/
def clampI (lo hi x : Int) : Int := max lo (min hi x)

/-- Little-endian value of a byte list (R9). -/
def leNat : List Byte → Nat
  | [] => 0
  | b :: bs => b.toNat + 256 * leNat bs

/-- The `n` low bytes of a number, little-endian (R9). -/
def leBytes : Nat → Nat → List Byte
  | 0, _ => []
  | n + 1, v => BitVec.ofNat 8 v :: leBytes n (v / 256)

/-- `len` bytes of a list from offset `off`, as a number. -/
def leAt (bs : List Byte) (off len : Nat) : Nat := leNat ((bs.drop off).take len)

/-- Byte `i` of a list, 0 past its end. -/
def byteAt (bs : List Byte) (i : Nat) : Byte := bs.getD i 0

/-- Element `j` of width `b` bits of a packed little-endian string (R84). -/
def elemAt (v b j : Nat) : Nat := v / 2 ^ (b * j) % 2 ^ b

/-- Elements packed densely, element 0 lowest (R84). -/
def packElems (b : Nat) : List Nat → Nat
  | [] => 0
  | x :: xs => x % 2 ^ b + 2 ^ b * packElems b xs

/-- The lanes of a vector register: `n` lanes of `b` bits. -/
def lanes (b n : Nat) (v : VReg) : List Nat := (List.range n).map (elemAt v.toNat b)

/-- A vector register from its lanes. -/
def ofLanes (b : Nat) (xs : List Nat) : VReg := BitVec.ofNat 8192 (packElems b xs)

/-- Number of ones in the low `n` bits. -/
def popcount : Nat → Nat → Nat
  | 0, _ => 0
  | n + 1, v => v % 2 + popcount n (v / 2)

/-- Index of the lowest set bit below `n`, or `n`. -/
def lowestBit : Nat → Nat → Nat
  | 0, _ => 0
  | n + 1, v => if v % 2 = 1 then 0 else 1 + lowestBit n (v / 2)

/-- Rounds down to a multiple of `m`. -/
def alignDown (m a : Nat) : Nat := a / m * m

/-- Rounds up to a multiple of `m`. -/
def alignUp (m a : Nat) : Nat := (a + (m - 1)) / m * m

/-- Replaces element `i` of a list, leaving a shorter list alone. -/
def setAt {α : Type} : List α → Nat → α → List α
  | [], _, _ => []
  | _ :: xs, 0, a => a :: xs
  | x :: xs, i + 1, a => x :: setAt xs i a

/-- Pads bytes with zeros to a length. -/
def padTo (n : Nat) (bs : List Byte) : List Byte := bs ++ List.replicate (n - bs.length) 0

end Sys2Proof.Machine
end

