-- ==== Sys2Proof/Machine/Num.lean ====
section
/-!
DEFINITION. Number formats, exact values, rounding, the stochastic generator and the sticky flags
(03_number_formats.md). Every unit of the machine rounds through `roundF`.
-/

namespace Sys2Proof.Machine

/-- The special codes a floating format keeps (Table NUM-2). -/
inductive Special
  /-- Top exponent: infinity for fraction 0, NaN otherwise. -/
  | ieee
  /-- FP8 E4M3: only the all-ones codes, NaN. -/
  | e4m3
  /-- Every code is finite. -/
  | none
deriving DecidableEq, Repr

/-- A floating format (Table NUM-1); `ignored` low fraction bits do not take part in telling a NaN
from an infinity (R85), `saturates` follows Table NUM-4, `flushes` follows R90. -/
structure FloatFmt where
  expBits : Nat
  fracBits : Nat
  bias : Nat
  special : Special
  saturates : Bool
  flushes : Bool
  ignored : Nat
deriving DecidableEq, Repr

def fp32 : FloatFmt := ⟨8, 23, 127, .ieee, false, true, 0⟩
def bf16 : FloatFmt := ⟨8, 7, 127, .ieee, false, true, 0⟩
def fp16 : FloatFmt := ⟨5, 10, 15, .ieee, false, true, 0⟩
def fp8e4m3 : FloatFmt := ⟨4, 3, 7, .e4m3, true, false, 0⟩
def fp8e5m2 : FloatFmt := ⟨5, 2, 15, .ieee, true, false, 0⟩
def mxE3m2 : FloatFmt := ⟨3, 2, 3, .none, true, false, 0⟩
def mxE2m3 : FloatFmt := ⟨2, 3, 1, .none, true, false, 0⟩
def mxE2m1 : FloatFmt := ⟨2, 1, 1, .none, true, false, 0⟩
/-- An MW48 value as one 48-bit code: the FP32 high word above its extension (R85). -/
def mw48 : FloatFmt := ⟨8, 39, 127, .ieee, false, true, 16⟩

/-- Bits of an element of the format. -/
def FloatFmt.width (f : FloatFmt) : Nat := 1 + f.expBits + f.fracBits

/-- Exponent of the smallest subnormal. -/
def FloatFmt.qmin (f : FloatFmt) : Int := 1 - (f.bias : Int) - (f.fracBits : Int)

/-- The largest finite magnitude code (Table NUM-1). -/
def FloatFmt.maxCode (f : FloatFmt) : Nat :=
  match f.special with
  | .ieee => (2 ^ f.expBits - 1) * 2 ^ f.fracBits - 1
  | .e4m3 => 2 ^ (f.expBits + f.fracBits) - 2
  | .none => 2 ^ (f.expBits + f.fracBits) - 1

/-- The infinity code without its sign. -/
def FloatFmt.infCode (f : FloatFmt) : Nat := (2 ^ f.expBits - 1) * 2 ^ f.fracBits

/-- The canonical NaN (Table NUM-2, R81). -/
def FloatFmt.nanCode (f : FloatFmt) : Nat :=
  match f.special with
  | .ieee => f.infCode + 2 ^ (f.fracBits - 1)
  | .e4m3 => 2 ^ (f.expBits + f.fracBits) - 1
  | .none => 0

/-- The sign bit of the format, set or not. -/
def FloatFmt.sign (f : FloatFmt) (neg : Bool) : Nat :=
  if neg then 2 ^ (f.expBits + f.fracBits) else 0

/-- An exact value: `(-1)^neg * man * 2^exp`, an infinity or a NaN. -/
inductive Fx
  | nan
  | inf (neg : Bool)
  | fin (neg : Bool) (man : Nat) (exp : Int)
deriving DecidableEq, Repr

def Fx.isNan : Fx → Bool
  | .nan => true
  | _ => false

def Fx.isZero : Fx → Bool
  | .fin _ m _ => m == 0
  | _ => false

def Fx.neg : Fx → Fx
  | .nan => .nan
  | .inf s => .inf (!s)
  | .fin s m e => .fin (!s) m e

def Fx.abs : Fx → Fx
  | .nan => .nan
  | .inf _ => .inf false
  | .fin _ m e => .fin false m e

/-- The exact integer value. -/
def Fx.ofInt (x : Int) : Fx := .fin (x < 0) x.natAbs 0

/-- `2^k`. -/
def Fx.pow2 (k : Int) : Fx := .fin false 1 k

/-- The sticky flags of R91. -/
structure Flags where
  flush : Bool := false
  ovf : Bool := false
  nangen : Bool := false
deriving DecidableEq, Repr

def Flags.or (a b : Flags) : Flags :=
  ⟨a.flush || b.flush, a.ovf || b.ovf, a.nangen || b.nangen⟩

/-- The rounding modes of the RND field (Table TIL-5). -/
inductive Rnd
  | near | zero | up | down | stoch
deriving DecidableEq, Repr

/-- RND code to mode; codes above 0b100 are reserved (R56). -/
def Rnd.ofCode : Nat → Option Rnd
  | 0 => some .near
  | 1 => some .zero
  | 2 => some .up
  | 3 => some .down
  | 4 => some .stoch
  | _ => none

/-- The value a code stands for (R79, R80). -/
def decodeF (f : FloatFmt) (c : Nat) : Fx :=
  let m := f.fracBits
  let neg := bit c (f.expBits + m)
  let e := c / 2 ^ m % 2 ^ f.expBits
  let fr := c % 2 ^ m
  let value : Fx :=
    if e = 0 then .fin neg fr f.qmin
    else .fin neg (2 ^ m + fr) (f.qmin + (e : Int) - 1)
  match f.special with
  | .ieee =>
    if e = 2 ^ f.expBits - 1 then
      if fr / 2 ^ f.ignored = 0 then .inf neg else .nan
    else value
  | .e4m3 => if e = 2 ^ f.expBits - 1 ∧ fr = 2 ^ m - 1 then .nan else value
  | .none => value

/-- Reads an operand under the subnormal mode (R90): a subnormal of a wide format becomes a zero of
its sign when SUBN = 0, which sets FLUSH. -/
def readF (subn : Bool) (f : FloatFmt) (c : Nat) : Fx × Bool :=
  let x := decodeF f c
  match x with
  | .fin neg man _ =>
    if !subn && f.flushes && man != 0 && c / 2 ^ f.fracBits % 2 ^ f.expBits == 0 then
      (.fin neg 0 0, true)
    else (x, false)
  | _ => (x, false)

/-- Whether a magnitude between `n` and `n + 1` ulps, `rem / 2^sh` above `n`, rounds up. `r` is the
generator's word (R94). -/
def roundsUp (mode : Rnd) (neg : Bool) (n rem sh r : Nat) : Bool :=
  match mode with
  | .near => decide (2 * rem > 2 ^ sh) || (decide (2 * rem = 2 ^ sh) && n % 2 == 1)
  | .zero => false
  | .up => rem != 0 && !neg
  | .down => rem != 0 && neg
  | .stoch => decide (r % 2 ^ 32 < rem * 2 ^ 32 / 2 ^ sh)

/-- `man * 2^exp` rounded to a multiple of `2^q`, as that multiple. -/
def roundAt (mode : Rnd) (neg : Bool) (man : Nat) (exp q : Int) (r : Nat) : Nat :=
  if q ≤ exp then man * 2 ^ (exp - q).toNat
  else
    let sh := (q - exp).toNat
    let n := man / 2 ^ sh
    if roundsUp mode neg n (man % 2 ^ sh) sh r then n + 1 else n

/-- `a * 2^ea < b * 2^eb` on magnitudes. -/
def magLt (a : Nat) (ea : Int) (b : Nat) (eb : Int) : Bool :=
  let e := min ea eb
  decide (a * 2 ^ (ea - e).toNat < b * 2 ^ (eb - e).toNat)

/-- Floor of the base-2 logarithm of `man * 2^exp`, `man` not 0. -/
def ilog2 (man : Nat) (exp : Int) : Int := (Nat.log2 man : Int) + exp

/-- Code of an overflowed result under IEEE 754 (Table NUM-4). -/
def overflowCode (f : FloatFmt) (mode : Rnd) (neg : Bool) : Nat :=
  match mode with
  | .near | .stoch => f.infCode
  | .zero => f.maxCode
  | .up => if neg then f.maxCode else f.infCode
  | .down => if neg then f.infCode else f.maxCode

/-- Rounds an exact value to a floating format: R90 (flush), R92 to R94, Table NUM-4. -/
def roundF (subn : Bool) (f : FloatFmt) (mode : Rnd) (r : Nat) : Fx → Nat × Flags
  | .nan => (f.nanCode, {})
  | .inf neg =>
    match f.special with
    | .ieee => (f.sign neg + f.infCode, {})
    | .e4m3 => (f.nanCode, { nangen := true })
    | .none => (f.sign neg + f.maxCode, { ovf := true })
  | .fin neg man exp =>
    if man = 0 then (f.sign neg, {})
    else
      let m := f.fracBits
      let e := ilog2 man exp
      let qfree := e - m
      let q := max qfree f.qmin
      let maxMan := if f.special = .e4m3 then 2 ^ (m + 1) - 2 else 2 ^ (m + 1) - 1
      let maxExp := f.qmin + ((f.maxCode / 2 ^ m : Nat) : Int) - 1
      if f.saturates && magLt maxMan maxExp man exp then
        (f.sign neg + f.maxCode, { ovf := true })
      else if !subn && f.flushes &&
          magLt (roundAt mode neg man exp qfree r) qfree (2 ^ m) f.qmin then
        (f.sign neg, { flush := true })
      else
        let n := roundAt mode neg man exp q r
        let code := (q - f.qmin).toNat * 2 ^ m + n
        if code > f.maxCode then (f.sign neg + overflowCode f mode neg, { ovf := true })
        else (f.sign neg + code, {})

/-- Rounds to an integer of `w` bits and saturates (R93, R99). DEDUCED (log 171): the rounding comes first under
stochastic rounding too, so a value between the maximum and the next integer may set OVF. -/
def roundInt (w : Nat) (mode : Rnd) (r : Nat) : Fx → Nat × Flags
  | .nan => (0, {})
  | .inf neg => (if neg then 2 ^ (w - 1) else 2 ^ (w - 1) - 1, {})
  | .fin neg man exp =>
    let n := roundAt mode neg man exp 0 r
    let x : Int := if neg then -(n : Int) else n
    let lo : Int := -((2 ^ (w - 1) : Nat) : Int)
    let hi : Int := ((2 ^ (w - 1) : Nat) : Int) - 1
    (wrapN w (clampI lo hi x), { ovf := decide (x < lo ∨ hi < x) })

/-- Signed mantissa at exponent `e` (at most the value's own exponent). -/
def signedAt (neg : Bool) (man : Nat) (exp e : Int) : Int :=
  let v : Int := (man * 2 ^ (exp - e).toNat : Nat)
  if neg then -v else v

/-- The exact sum; the sign of a zero follows R87. The Bool says that a NaN was generated. -/
def addX (mode : Rnd) : Fx → Fx → Fx × Bool
  | .nan, _ => (.nan, false)
  | _, .nan => (.nan, false)
  | .inf a, .inf b => if a = b then (.inf a, false) else (.nan, true)
  | .inf a, .fin _ _ _ => (.inf a, false)
  | .fin _ _ _, .inf b => (.inf b, false)
  | .fin sa ma ea, .fin sb mb eb =>
    let e := min ea eb
    let s := signedAt sa ma ea e + signedAt sb mb eb e
    if s = 0 then
      if ma = 0 ∧ mb = 0 ∧ sa = sb then (.fin sa 0 0, false)
      else (.fin (mode == .down) 0 0, false)
    else (.fin (s < 0) s.natAbs e, false)

/-- The exact product (R87). -/
def mulX : Fx → Fx → Fx × Bool
  | .nan, _ => (.nan, false)
  | _, .nan => (.nan, false)
  | .inf a, .inf b => (.inf (a != b), false)
  | .inf a, .fin b m _ => if m = 0 then (.nan, true) else (.inf (a != b), false)
  | .fin a m _, .inf b => if m = 0 then (.nan, true) else (.inf (a != b), false)
  | .fin a ma ea, .fin b mb eb => (.fin (a != b) (ma * mb) (ea + eb), false)

/-- The exact `x * y + z`. -/
def fmaX (mode : Rnd) (x y z : Fx) : Fx × Bool :=
  let (p, g) := mulX x y
  if z.isNan then (.nan, false)
  else
    let (s, g') := addX mode p z
    (s, g || g')

/-- Order of two values: `none` when a NaN is among them (R88). -/
def cmpX : Fx → Fx → Option Ordering
  | .nan, _ => none
  | _, .nan => none
  | .inf a, .inf b => some (if a = b then .eq else if a then .lt else .gt)
  | .inf a, .fin _ _ _ => some (if a then .lt else .gt)
  | .fin _ _ _, .inf b => some (if b then .gt else .lt)
  | .fin sa ma ea, .fin sb mb eb =>
    let e := min ea eb
    some (compare (signedAt sa ma ea e) (signedAt sb mb eb e))

def ltX (a b : Fx) : Bool := cmpX a b == some .lt

def Fx.isNeg : Fx → Bool
  | .nan => false
  | .inf s => s
  | .fin s _ _ => s

/-- NaN-propagating maximum with +0 above −0 (R89). -/
def maxX (a b : Fx) : Fx :=
  match cmpX a b with
  | none => .nan
  | some .lt => b
  | some .gt => a
  | some .eq => if a.isNeg then b else a

/-- NaN-propagating minimum (R89). -/
def minX (a b : Fx) : Fx :=
  match cmpX a b with
  | none => .nan
  | some .lt => a
  | some .gt => b
  | some .eq => if a.isNeg then a else b

/-- `floor` of a finite value. -/
def floorX (neg : Bool) (man : Nat) (exp : Int) : Int :=
  if 0 ≤ exp then signedAt neg man exp 0
  else (signedAt neg man exp exp) / (2 ^ (-exp).toNat : Nat)

/-! ### The generator of R95 -/

/-- The rounding key of a context (R96). -/
structure SrKey where
  seed : Nat
  step : Nat
  tensor : Nat
  base : Nat
deriving DecidableEq, Repr

def philoxRound (c0 c1 c2 c3 k0 k1 : Nat) : Nat × Nat × Nat × Nat :=
  let p := 0xD2511F53 * c0
  let q := 0xCD9E8D57 * c2
  (((q / 2 ^ 32) ^^^ c1) ^^^ k0, q % 2 ^ 32, ((p / 2 ^ 32) ^^^ c3) ^^^ k1, p % 2 ^ 32)

def philoxRounds : Nat → Nat → Nat → Nat → Nat → Nat → Nat → Nat × Nat × Nat × Nat
  | 0, c0, c1, c2, c3, _, _ => (c0, c1, c2, c3)
  | n + 1, c0, c1, c2, c3, k0, k1 =>
    let (d0, d1, d2, d3) := philoxRound c0 c1 c2 c3 k0 k1
    philoxRounds n d0 d1 d2 d3 ((k0 + 0x9E3779B9) % 2 ^ 32) ((k1 + 0xBB67AE85) % 2 ^ 32)

/-- Philox-4×32-10 on the rounding key and an element index (R95). -/
def srWord (k : SrKey) (index : Nat) : Nat :=
  let (c0, c1, c2, c3) := philoxRounds 10 (index / 4 % 2 ^ 32) (index / 2 ^ 34 % 2 ^ 30)
    (k.tensor % 2 ^ 32) (k.step % 2 ^ 32) (k.seed % 2 ^ 32) (k.seed / 2 ^ 32 % 2 ^ 32)
  match index % 4 with
  | 0 => c0
  | 1 => c1
  | 2 => c2
  | _ => c3

/-- The word for offset `off` from the key's element base; 0 when the mode does not use it. -/
def srFor (mode : Rnd) (k : SrKey) (off : Nat) : Nat :=
  if mode = .stoch then srWord k ((k.base + off) % 2 ^ 64) else 0

/-! ### MX blocks (R83, R100, R101) -/

/-- The value `2^(X_e - 127)` of an E8M0 scale, NaN for 0xFF. -/
def e8m0 (s : Nat) : Fx := if s % 256 = 255 then .nan else .fin false 1 ((s % 256 : Nat) - 127)

/-- An MX element under its scale. -/
def mxValue (f : FloatFmt) (scale c : Nat) : Fx :=
  if scale % 256 = 255 then .nan else (mulX (decodeF f c) (e8m0 scale)).1

/-- `x * 2^k`, exact. -/
def scaleX (x : Fx) (k : Int) : Fx :=
  match x with
  | .fin s m e => .fin s m (e + k)
  | y => y

/-- `emax` of R101. -/
def mxEmax (f : FloatFmt) : Int :=
  ((f.maxCode / 2 ^ f.fracBits : Nat) : Int) - f.bias

end Sys2Proof.Machine
end

