-- ==== Sys2Proof/Machine/RegTable.lean ====
section
/-!
DEFINITION. The register maps of the chapters as one table (Tables HIE-5 and SCP-6): block, offset,
stride, count, the mask of the bits of each field type, and the reset value.
-/

namespace Sys2Proof.Machine

/-- The MMIO blocks of Table HIE-5. -/
inductive Blk
  | chip | pwr | np | sec | fab | rnl | snp | ldg | tly | dbg | mc | qtr | tile
deriving DecidableEq, Repr

/-- Base, distance between copies and number of copies (Table HIE-5). -/
def Blk.range : Blk → Nat × Nat × Nat
  | .chip => (0x400000000000, 0x1000000, 1)
  | .pwr => (0x400001000000, 0x1000000, 1)
  | .np => (0x400002000000, 0x1000000, 1)
  | .sec => (0x400003000000, 0x1000000, 1)
  | .fab => (0x400004000000, 0x1000000, 1)
  | .rnl => (0x400005000000, 0x1000000, 1)
  | .snp => (0x400006000000, 0x1000000, 1)
  | .ldg => (0x400007000000, 0x1000000, 1)
  | .tly => (0x400008000000, 0x1000000, 1)
  | .dbg => (0x400009000000, 0x1000000, 1)
  | .mc => (0x400010000000, 0x100000, 24)
  | .qtr => (0x400020000000, 0x1000000, 4)
  | .tile => (0x400040000000, 0x100000, 64)

/-- Every register the chapters name. -/
inductive Reg
  | chipPartCfg | chipPartStatus | chipAsidTbl | tileCtxState | tileCtxPc | tileCtxFault
  | tileCtxFaddr | tileCtxSeq | tileCtl | tileInfo | tileSramErr | tileMeStatus
  | tilePerfMe | tilePerfCyc | qtrQcErr | tileNumFlags | tileCtxNum | qtrSfuGen
  | tileStrState | tileStrElem | tileStrTime | tileStrDisc | tileStrOvw | tileStrRdwait
  | mcStatus | mcErrCnt | mcErrLast | mcScrubCtl | mcScrubStat | mcScrubLast
  | mcPerfRd | mcPerfWr | qtrBandMap | ldgStatus | ldgFree | ldgEntrySel
  | ldgEntryLo | ldgEntryHi | ldgErrLast | qtrSbGen | qtrStageHot | qtrStagePeak
  | qtrStageOffLocal | qtrStageOffComp | qtrStageOffPeer | qtrStageSets | qtrStageCtl | qtrSatStat
  | qtrSatIn | qtrSatOut | qtrSatLast | qtrScaleStat | tlyCtxSel | tlyCtxState
  | tlyStat | tlyFail | tlyErrLast | tlyErrChunk | fabPortStatus | fabEngineCtl
  | fabEngineStatus | fabId | fabXact | fabRuleSel | fabRuleRange | fabRuleVal
  | fabTimeCtl | fabTimeStatus | fabTimeNs | fabTimeFrac | fabTimeSet | fabBellStat
  | fabBellNext | fabBellStep | fabFence | fabErrLast | fabDspGen | fabDspDrop
  | rnlLinkStatus | rnlLinkCtl | rnlErrCnt | rnlSfStatus | rnlEvtStatus | qtrQtbl
  | qtrQcmd | qtrQcmdResult | qtrQsel | qtrQstate | qtrQcount | qtrDbStat
  | qtrTclassDef | qtrQarb | dbgDumpCtl | dbgDumpAck | dbgDumpStatus | dbgLastDump
  | dbgRecoveryCtl | dbgRecoveryState | dbgResetReq | dbgHbStatus | dbgParity | dbgRecCnt
  | snpPortStatus | snpNsInfo | snpReplCtl | snpReplSrc | snpState | snpProg
  | snpFill | snpErrLast | pwrCapCtl | pwrStatus | pwrEnergy | pwrStateCtl
  | pwrStateStatus | pwrTileLim | npStatus | npAlarm | npSensorSel | npSensorVal
  | npWakeTime | secLcStatus | secChipUidLo | secChipUidHi | secBootStatus | secImageHash
  | secErr
deriving DecidableEq, Repr

/-- What a register map says of a register: block, offset, stride and count, the bits of types RW,
RWS, LCK, W1C, RC and WO, and the reset value of the fields that the map gives a number. -/
structure RegInfo where
  blk : Blk
  off : Nat
  stride : Nat
  count : Nat
  rw : Nat
  rws : Nat
  lck : Nat
  w1c : Nat
  rc : Nat
  wo : Nat
  reset : Nat
deriving DecidableEq, Repr

/-- The map of a register. -/
def Reg.info : Reg → RegInfo
  | .chipPartCfg => ⟨.chip, 0x100, 0x8, 1, 0x0, 0xFF3, 0x0, 0x0, 0x0, 0x0, 0x0⟩
  | .chipPartStatus => ⟨.chip, 0x108, 0x8, 1, 0x0, 0x0, 0x0, 0x0, 0xFFFF000000, 0x0, 0x0⟩
  | .chipAsidTbl => ⟨.chip, 0x140, 0x8, 4, 0x0, 0x0, 0xFFFFFFFFF001, 0x0, 0x0, 0x0, 0x0⟩
  | .tileCtxState => ⟨.tile, 0x0, 0x8, 8, 0x0, 0x0, 0x0, 0x0, 0x0, 0x0, 0x0⟩
  | .tileCtxPc => ⟨.tile, 0x40, 0x8, 8, 0x0, 0x0, 0x0, 0x0, 0x0, 0x0, 0x0⟩
  | .tileCtxFault => ⟨.tile, 0x80, 0x8, 8, 0x0, 0x0, 0x0, 0x0, 0x0, 0x0, 0x0⟩
  | .tileCtxFaddr => ⟨.tile, 0xC0, 0x8, 8, 0x0, 0x0, 0x0, 0x0, 0x0, 0x0, 0x0⟩
  | .tileCtxSeq => ⟨.tile, 0x100, 0x8, 8, 0x0, 0x0, 0x0, 0x0, 0x0, 0x0, 0x0⟩
  | .tileCtl => ⟨.tile, 0x200, 0x8, 1, 0xFF, 0x0, 0x0, 0x0, 0x0, 0x0, 0x0⟩
  | .tileInfo => ⟨.tile, 0x208, 0x8, 1, 0x0, 0x0, 0x0, 0x0, 0x0, 0x0, 0x0⟩
  | .tileSramErr => ⟨.tile, 0x210, 0x8, 1, 0x0, 0x0, 0x0, 0x0, 0xFFFF, 0x0, 0x0⟩
  | .tileMeStatus => ⟨.tile, 0x218, 0x8, 1, 0x0, 0x0, 0x0, 0x3, 0x0, 0x0, 0x0⟩
  | .tilePerfMe => ⟨.tile, 0x220, 0x8, 1, 0x0, 0x0, 0x0, 0x0, 0x0, 0x0, 0x0⟩
  | .tilePerfCyc => ⟨.tile, 0x228, 0x8, 1, 0x0, 0x0, 0x0, 0x0, 0x0, 0x0, 0x0⟩
  | .qtrQcErr => ⟨.qtr, 0x400, 0x8, 1, 0x0, 0x0, 0x0, 0x0, 0xFFFFFFFFFFFF, 0x0, 0x0⟩
  | .tileNumFlags => ⟨.tile, 0x230, 0x8, 1, 0x0, 0x0, 0x0, 0x7, 0x0, 0x0, 0x0⟩
  | .tileCtxNum => ⟨.tile, 0x240, 0x8, 8, 0x0, 0x0, 0x0, 0x0, 0x0, 0x0, 0x1⟩
  | .qtrSfuGen => ⟨.qtr, 0x500, 0x8, 1, 0x0, 0x0, 0x0, 0x0, 0xFFFF00000000, 0x0, 0x0⟩
  | .tileStrState => ⟨.tile, 0x400, 0x20, 16, 0x0, 0x0, 0x0, 0x0, 0x0, 0x0, 0x0⟩
  | .tileStrElem => ⟨.tile, 0x408, 0x20, 16, 0x0, 0x0, 0x0, 0x0, 0x0, 0x0, 0x0⟩
  | .tileStrTime => ⟨.tile, 0x410, 0x20, 16, 0x0, 0x0, 0x0, 0x0, 0x0, 0x0, 0x0⟩
  | .tileStrDisc => ⟨.tile, 0x418, 0x20, 16, 0x0, 0x0, 0x0, 0x0, 0x0, 0x0, 0x0⟩
  | .tileStrOvw => ⟨.tile, 0x600, 0x8, 1, 0x0, 0x0, 0x0, 0x0, 0xFFFFFFFFFFFF, 0x0, 0x0⟩
  | .tileStrRdwait => ⟨.tile, 0x608, 0x8, 1, 0x0, 0x0, 0x0, 0x0, 0x0, 0x0, 0x0⟩
  | .mcStatus => ⟨.mc, 0x0, 0x8, 1, 0x0, 0x0, 0x0, 0x0, 0x0, 0x0, 0x0⟩
  | .mcErrCnt => ⟨.mc, 0x100, 0x8, 16, 0x0, 0x0, 0x0, 0x0, 0xFFFFFFFFFFFFFF, 0x0, 0x0⟩
  | .mcErrLast => ⟨.mc, 0x200, 0x8, 1, 0x0, 0x0, 0x0, 0x0, 0x0, 0x0, 0x0⟩
  | .mcScrubCtl => ⟨.mc, 0x300, 0x8, 1, 0x1F, 0x0, 0x0, 0x0, 0x0, 0x0, 0x18⟩
  | .mcScrubStat => ⟨.mc, 0x308, 0x8, 1, 0x0, 0x0, 0x0, 0x0, 0x0, 0x0, 0x0⟩
  | .mcScrubLast => ⟨.mc, 0x310, 0x8, 1, 0x0, 0x0, 0x0, 0x0, 0x0, 0x0, 0x0⟩
  | .mcPerfRd => ⟨.mc, 0x400, 0x8, 1, 0x0, 0x0, 0x0, 0x0, 0x0, 0x0, 0x0⟩
  | .mcPerfWr => ⟨.mc, 0x408, 0x8, 1, 0x0, 0x0, 0x0, 0x0, 0x0, 0x0, 0x0⟩
  | .qtrBandMap => ⟨.qtr, 0x1000, 0x8, 768, 0x0, 0x0, 0x0, 0x0, 0x0, 0x0, 0x0⟩
  | .ldgStatus => ⟨.ldg, 0x0, 0x8, 1, 0x0, 0x0, 0x0, 0x0, 0xFFFFFFFFFFFF00, 0x0, 0x0⟩
  | .ldgFree => ⟨.ldg, 0x100, 0x8, 4, 0x0, 0x0, 0x0, 0x0, 0x0, 0x0, 0x0⟩
  | .ldgEntrySel => ⟨.ldg, 0x200, 0x8, 1, 0x7FFFF, 0x0, 0x0, 0x0, 0x0, 0x0, 0x0⟩
  | .ldgEntryLo => ⟨.ldg, 0x208, 0x8, 1, 0x0, 0x0, 0x0, 0x0, 0x0, 0x0, 0x0⟩
  | .ldgEntryHi => ⟨.ldg, 0x210, 0x8, 1, 0x0, 0x0, 0x0, 0x0, 0x0, 0x0, 0x0⟩
  | .ldgErrLast => ⟨.ldg, 0x300, 0x8, 1, 0x0, 0x0, 0x0, 0x0, 0x0, 0x0, 0x0⟩
  | .qtrSbGen => ⟨.qtr, 0x600, 0x8, 1, 0x0, 0x0, 0x0, 0x0, 0xFFFF00000000, 0x0, 0x0⟩
  | .qtrStageHot => ⟨.qtr, 0x700, 0x40, 8, 0x0, 0x0, 0x0, 0x0, 0x0, 0x0, 0x0⟩
  | .qtrStagePeak => ⟨.qtr, 0x708, 0x40, 8, 0x0, 0x0, 0x0, 0x0, 0x0, 0x0, 0x0⟩
  | .qtrStageOffLocal => ⟨.qtr, 0x710, 0x40, 8, 0x0, 0x0, 0x0, 0x0, 0x0, 0x0, 0x0⟩
  | .qtrStageOffComp => ⟨.qtr, 0x718, 0x40, 8, 0x0, 0x0, 0x0, 0x0, 0x0, 0x0, 0x0⟩
  | .qtrStageOffPeer => ⟨.qtr, 0x720, 0x40, 8, 0x0, 0x0, 0x0, 0x0, 0x0, 0x0, 0x0⟩
  | .qtrStageSets => ⟨.qtr, 0x728, 0x40, 8, 0x0, 0x0, 0x0, 0x0, 0x0, 0x0, 0x0⟩
  | .qtrStageCtl => ⟨.qtr, 0x900, 0x8, 1, 0x0, 0x0, 0x0, 0x0, 0x0, 0xFF, 0x0⟩
  | .qtrSatStat => ⟨.qtr, 0x908, 0x8, 1, 0x0, 0x0, 0x0, 0x0, 0xFFFFFFFF0000, 0x0, 0x0⟩
  | .qtrSatIn => ⟨.qtr, 0x910, 0x8, 1, 0x0, 0x0, 0x0, 0x0, 0x0, 0x0, 0x0⟩
  | .qtrSatOut => ⟨.qtr, 0x918, 0x8, 1, 0x0, 0x0, 0x0, 0x0, 0x0, 0x0, 0x0⟩
  | .qtrSatLast => ⟨.qtr, 0x920, 0x8, 1, 0x0, 0x0, 0x0, 0x0, 0x0, 0x0, 0x0⟩
  | .qtrScaleStat => ⟨.qtr, 0x928, 0x8, 1, 0x0, 0x0, 0x0, 0x0, 0xFFFFFFFFFFFFFFFF, 0x0, 0x0⟩
  | .tlyCtxSel => ⟨.tly, 0x0, 0x8, 1, 0xFFF, 0x0, 0x0, 0x0, 0x0, 0x0, 0x0⟩
  | .tlyCtxState => ⟨.tly, 0x8, 0x8, 1, 0x0, 0x0, 0x0, 0x0, 0x0, 0x0, 0x0⟩
  | .tlyStat => ⟨.tly, 0x100, 0x8, 4, 0x0, 0x0, 0x0, 0x0, 0xFFFFFFFFFFFFFFFF, 0x0, 0x0⟩
  | .tlyFail => ⟨.tly, 0x120, 0x8, 4, 0x0, 0x0, 0x0, 0x0, 0xFFFFFFFFFFFFFFFF, 0x0, 0x0⟩
  | .tlyErrLast => ⟨.tly, 0x200, 0x8, 1, 0x0, 0x0, 0x0, 0x0, 0x0, 0x0, 0x0⟩
  | .tlyErrChunk => ⟨.tly, 0x208, 0x8, 1, 0x0, 0x0, 0x0, 0x0, 0x0, 0x0, 0x0⟩
  | .fabPortStatus => ⟨.fab, 0x0, 0x8, 32, 0x0, 0x0, 0x0, 0x0, 0xFFFFFFFFFFFFFF00, 0x0, 0x0⟩
  | .fabEngineCtl => ⟨.fab, 0x100, 0x8, 8, 0xFF00, 0x1, 0x0, 0x0, 0x0, 0x2, 0xA00⟩
  | .fabEngineStatus => ⟨.fab, 0x140, 0x8, 8, 0x0, 0x0, 0x0, 0x0, 0xFFFF0000, 0x0, 0x0⟩
  | .fabId => ⟨.fab, 0x200, 0x8, 4, 0x0, 0x0, 0x0, 0x0, 0x0, 0x0, 0x0⟩
  | .fabXact => ⟨.fab, 0x220, 0x8, 4, 0x0, 0x0, 0x0, 0x0, 0x0, 0x0, 0x0⟩
  | .fabRuleSel => ⟨.fab, 0x260, 0x8, 1, 0x1FF, 0x0, 0x0, 0x0, 0x0, 0x0, 0x0⟩
  | .fabRuleRange => ⟨.fab, 0x268, 0x8, 1, 0x0, 0x0, 0x0, 0x0, 0x0, 0x0, 0x0⟩
  | .fabRuleVal => ⟨.fab, 0x270, 0x8, 1, 0x0, 0x0, 0x0, 0x0, 0x0, 0x0, 0x0⟩
  | .fabTimeCtl => ⟨.fab, 0x300, 0x8, 1, 0x1FFF0F, 0x0, 0x0, 0x0, 0x0, 0x0, 0x1⟩
  | .fabTimeStatus => ⟨.fab, 0x308, 0x8, 1, 0x0, 0x0, 0x0, 0x0, 0xFFFF0000, 0x0, 0x0⟩
  | .fabTimeNs => ⟨.fab, 0x310, 0x8, 1, 0x0, 0x0, 0x0, 0x0, 0x0, 0x0, 0x0⟩
  | .fabTimeFrac => ⟨.fab, 0x318, 0x8, 1, 0x0, 0x0, 0x0, 0x0, 0x0, 0x0, 0x0⟩
  | .fabTimeSet => ⟨.fab, 0x320, 0x8, 1, 0x0, 0x0, 0x0, 0x0, 0x0, 0xFFFFFFFFFFFFFFFF, 0x0⟩
  | .fabBellStat => ⟨.fab, 0x400, 0x8, 4, 0x0, 0x0, 0x0, 0x0, 0xFFFFFFFF0000, 0x0, 0x0⟩
  | .fabBellNext => ⟨.fab, 0x420, 0x8, 4, 0x0, 0x0, 0x0, 0x0, 0x0, 0x0, 0x0⟩
  | .fabBellStep => ⟨.fab, 0x440, 0x8, 4, 0x0, 0x0, 0x0, 0x0, 0x0, 0x0, 0x0⟩
  | .fabFence => ⟨.fab, 0x500, 0x8, 4, 0x0, 0x0, 0x0, 0x0, 0xFFFFFFFF0000, 0x0, 0x0⟩
  | .fabErrLast => ⟨.fab, 0x600, 0x8, 1, 0x0, 0x0, 0x0, 0x0, 0xFFFF000000000000, 0x0, 0x0⟩
  | .fabDspGen => ⟨.fab, 0x700, 0x8, 4, 0x0, 0x0, 0x0, 0x0, 0xFFFF00000000, 0x0, 0x0⟩
  | .fabDspDrop => ⟨.fab, 0x720, 0x8, 4, 0x0, 0x0, 0x0, 0x0, 0xFFFFFFFF, 0x0, 0x0⟩
  | .rnlLinkStatus => ⟨.rnl, 0x0, 0x8, 1, 0x0, 0xFF00, 0x0, 0x0, 0xFFFF0000, 0x0, 0x0⟩
  | .rnlLinkCtl => ⟨.rnl, 0x8, 0x8, 1, 0xFFFF0002, 0x0, 0x0, 0x0, 0x0, 0x1, 0x640002⟩
  | .rnlErrCnt => ⟨.rnl, 0x10, 0x8, 1, 0x0, 0x0, 0x0, 0x0, 0xFFFFFFFFFFFFFFFF, 0x0, 0x0⟩
  | .rnlSfStatus => ⟨.rnl, 0x18, 0x8, 1, 0x0, 0x0, 0x0, 0x0, 0xFFFFFFFFFFF00000, 0x0, 0x0⟩
  | .rnlEvtStatus => ⟨.rnl, 0x20, 0x8, 1, 0x0, 0x0, 0x0, 0x0, 0xFFFFFFFF0000, 0x0, 0x0⟩
  | .qtrQtbl => ⟨.qtr, 0x3000, 0x8, 1, 0xFFFFFFFF0001, 0x0, 0x0, 0x0, 0x0, 0x0, 0x0⟩
  | .qtrQcmd => ⟨.qtr, 0x3008, 0x8, 1, 0x0, 0x0, 0x0, 0x0, 0x0, 0xFFFFFFFFFFFFFFFF, 0x0⟩
  | .qtrQcmdResult => ⟨.qtr, 0x3010, 0x8, 1, 0x0, 0x0, 0x0, 0x0, 0x0, 0x0, 0x0⟩
  | .qtrQsel => ⟨.qtr, 0x3018, 0x8, 1, 0xFFFF, 0x0, 0x0, 0x0, 0x0, 0x0, 0x0⟩
  | .qtrQstate => ⟨.qtr, 0x3020, 0x8, 1, 0x0, 0x0, 0x0, 0x0, 0x0, 0x0, 0x0⟩
  | .qtrQcount => ⟨.qtr, 0x3028, 0x8, 1, 0x0, 0x0, 0x0, 0x0, 0x0, 0x0, 0x0⟩
  | .qtrDbStat => ⟨.qtr, 0x3030, 0x8, 1, 0x0, 0xFFFF, 0x0, 0x0, 0xFFFFFFFFFFFF0000, 0x0, 0x0⟩
  | .qtrTclassDef => ⟨.qtr, 0x3100, 0x8, 16, 0xFFFF, 0x0, 0x0, 0x0, 0x0, 0x0, 0x4064⟩
  | .qtrQarb => ⟨.qtr, 0x3180, 0x8, 1, 0xFFFF, 0x0, 0x0, 0x0, 0x0, 0x0, 0xA⟩
  | .dbgDumpCtl => ⟨.dbg, 0x0, 0x8, 1, 0x3FF, 0x0, 0x0, 0x0, 0x0, 0x0, 0x64⟩
  | .dbgDumpAck => ⟨.dbg, 0x8, 0x8, 1, 0x0, 0x0, 0x0, 0x0, 0x0, 0xFFFFFFFFFFFFFFFF, 0x0⟩
  | .dbgDumpStatus => ⟨.dbg, 0x10, 0x8, 1, 0x0, 0x0, 0x0, 0x0, 0x0, 0x0, 0x0⟩
  | .dbgLastDump => ⟨.dbg, 0x18, 0x8, 1, 0x0, 0xFFFFFFFF07FFFFFF, 0x0, 0x0, 0x0, 0x0, 0x0⟩
  | .dbgRecoveryCtl => ⟨.dbg, 0x20, 0x8, 1, 0x1FFFF, 0x0, 0x0, 0x0, 0x0, 0x0, 0x14⟩
  | .dbgRecoveryState => ⟨.dbg, 0x40, 0x8, 4, 0x0, 0x0, 0x0, 0x0, 0x0, 0x8, 0x0⟩
  | .dbgResetReq => ⟨.dbg, 0x80, 0x8, 1, 0x0, 0x0, 0x0, 0x0, 0x0, 0xFFFFFFFFFFFFFFFF, 0x0⟩
  | .dbgHbStatus => ⟨.dbg, 0x100, 0x8, 1, 0x0, 0x0, 0x0, 0x0, 0xFFFFFFFF0000, 0x0, 0x0⟩
  | .dbgParity => ⟨.dbg, 0x110, 0x8, 1, 0x0, 0xFF000000000000, 0x0, 0x0, 0xFFFFFFFFFFFF, 0x0, 0x0⟩
  | .dbgRecCnt => ⟨.dbg, 0x118, 0x8, 1, 0x0, 0xFFFFFFFF00000000, 0x0, 0x0, 0xFFFFFFFF, 0x0, 0x0⟩
  | .snpPortStatus => ⟨.snp, 0x0, 0x8, 1, 0x0, 0x0, 0x0, 0x0, 0xFFFFFFFF0000, 0x0, 0x0⟩
  | .snpNsInfo => ⟨.snp, 0x100, 0x8, 4, 0x0, 0x0, 0x0, 0x0, 0x0, 0x0, 0x0⟩
  | .snpReplCtl => ⟨.snp, 0x200, 0x8, 4, 0xFFFFFFFF0001, 0x0, 0x0, 0x0, 0x0, 0x0, 0x0⟩
  | .snpReplSrc => ⟨.snp, 0x220, 0x8, 4, 0x1FFFFFFFFFFFFFF, 0x0, 0x0, 0x0, 0x0, 0x0, 0x0⟩
  | .snpState => ⟨.snp, 0x300, 0x8, 4, 0x0, 0x0, 0x0, 0x0, 0x0, 0x0, 0x0⟩
  | .snpProg => ⟨.snp, 0x320, 0x8, 4, 0x0, 0x0, 0x0, 0x0, 0x0, 0x0, 0x0⟩
  | .snpFill => ⟨.snp, 0x340, 0x8, 4, 0x0, 0x0, 0x0, 0x0, 0x0, 0x0, 0x0⟩
  | .snpErrLast => ⟨.snp, 0x400, 0x8, 1, 0x0, 0x0, 0x0, 0x0, 0x0, 0x0, 0x0⟩
  | .pwrCapCtl => ⟨.pwr, 0x0, 0x8, 1, 0x0, 0x17F, 0x0, 0x0, 0x0, 0x0, 0x40⟩
  | .pwrStatus => ⟨.pwr, 0x8, 0x8, 1, 0x0, 0x0, 0x0, 0x0, 0xFFFF000000000000, 0x0, 0x807D040000⟩
  | .pwrEnergy => ⟨.pwr, 0x10, 0x8, 1, 0x0, 0x0, 0x0, 0x0, 0x0, 0x0, 0x0⟩
  | .pwrStateCtl => ⟨.pwr, 0x18, 0x8, 1, 0xFFFF0000, 0x0, 0x0, 0x0, 0x0, 0x7, 0x320000⟩
  | .pwrStateStatus => ⟨.pwr, 0x20, 0x8, 1, 0x0, 0x0, 0x0, 0x0, 0xFFFF00, 0x0, 0x0⟩
  | .pwrTileLim => ⟨.pwr, 0x100, 0x8, 64, 0x0, 0x0, 0x0, 0x0, 0xFFFF000000, 0x0, 0x7D00000404040⟩
  | .npStatus => ⟨.np, 0x0, 0x8, 1, 0x0, 0x0, 0x0, 0x0, 0x0, 0x0, 0x0⟩
  | .npAlarm => ⟨.np, 0x8, 0x8, 1, 0x0, 0x0, 0x0, 0x7FE, 0x0, 0x0, 0x0⟩
  | .npSensorSel => ⟨.np, 0x10, 0x8, 1, 0xFF, 0x0, 0x0, 0x0, 0x0, 0x0, 0x0⟩
  | .npSensorVal => ⟨.np, 0x18, 0x8, 1, 0x0, 0x0, 0x0, 0x0, 0x0, 0x0, 0x0⟩
  | .npWakeTime => ⟨.np, 0x20, 0x8, 1, 0xFFFFFFFFFFFFFFFF, 0x0, 0x0, 0x0, 0x0, 0x0, 0x0⟩
  | .secLcStatus => ⟨.sec, 0x0, 0x8, 1, 0x0, 0x38000000, 0x0, 0x0, 0x0, 0x0, 0x0⟩
  | .secChipUidLo => ⟨.sec, 0x8, 0x8, 1, 0x0, 0x0, 0x0, 0x0, 0x0, 0x0, 0x0⟩
  | .secChipUidHi => ⟨.sec, 0x10, 0x8, 1, 0x0, 0x0, 0x0, 0x0, 0x0, 0x0, 0x0⟩
  | .secBootStatus => ⟨.sec, 0x18, 0x8, 1, 0x0, 0xFFFFFFFFFFFF0000, 0x0, 0x0, 0x0, 0x0, 0x0⟩
  | .secImageHash => ⟨.sec, 0x40, 0x8, 6, 0x0, 0x0, 0x0, 0x0, 0x0, 0x0, 0x0⟩
  | .secErr => ⟨.sec, 0x80, 0x8, 1, 0x0, 0x0, 0x0, 0x0, 0xFFFFFFFF, 0x0, 0x0⟩

/-- The registers of a block. -/
def Blk.regs : Blk → List Reg
  | .chip =>
    [.chipPartCfg, .chipPartStatus, .chipAsidTbl]
  | .pwr =>
    [.pwrCapCtl, .pwrStatus, .pwrEnergy, .pwrStateCtl, .pwrStateStatus, .pwrTileLim]
  | .np =>
    [.npStatus, .npAlarm, .npSensorSel, .npSensorVal, .npWakeTime]
  | .sec =>
    [.secLcStatus, .secChipUidLo, .secChipUidHi, .secBootStatus, .secImageHash, .secErr]
  | .fab =>
    [.fabPortStatus, .fabEngineCtl, .fabEngineStatus, .fabId, .fabXact, .fabRuleSel,
    .fabRuleRange, .fabRuleVal, .fabTimeCtl, .fabTimeStatus, .fabTimeNs, .fabTimeFrac,
    .fabTimeSet, .fabBellStat, .fabBellNext, .fabBellStep, .fabFence, .fabErrLast, .fabDspGen,
    .fabDspDrop]
  | .rnl =>
    [.rnlLinkStatus, .rnlLinkCtl, .rnlErrCnt, .rnlSfStatus, .rnlEvtStatus]
  | .snp =>
    [.snpPortStatus, .snpNsInfo, .snpReplCtl, .snpReplSrc, .snpState, .snpProg, .snpFill,
    .snpErrLast]
  | .ldg =>
    [.ldgStatus, .ldgFree, .ldgEntrySel, .ldgEntryLo, .ldgEntryHi, .ldgErrLast]
  | .tly =>
    [.tlyCtxSel, .tlyCtxState, .tlyStat, .tlyFail, .tlyErrLast, .tlyErrChunk]
  | .dbg =>
    [.dbgDumpCtl, .dbgDumpAck, .dbgDumpStatus, .dbgLastDump, .dbgRecoveryCtl, .dbgRecoveryState,
    .dbgResetReq, .dbgHbStatus, .dbgParity, .dbgRecCnt]
  | .mc =>
    [.mcStatus, .mcErrCnt, .mcErrLast, .mcScrubCtl, .mcScrubStat, .mcScrubLast, .mcPerfRd,
    .mcPerfWr]
  | .qtr =>
    [.qtrQcErr, .qtrSfuGen, .qtrBandMap, .qtrSbGen, .qtrStageHot, .qtrStagePeak,
    .qtrStageOffLocal, .qtrStageOffComp, .qtrStageOffPeer, .qtrStageSets, .qtrStageCtl,
    .qtrSatStat, .qtrSatIn, .qtrSatOut, .qtrSatLast, .qtrScaleStat, .qtrQtbl, .qtrQcmd,
    .qtrQcmdResult, .qtrQsel, .qtrQstate, .qtrQcount, .qtrDbStat, .qtrTclassDef, .qtrQarb]
  | .tile =>
    [.tileCtxState, .tileCtxPc, .tileCtxFault, .tileCtxFaddr, .tileCtxSeq, .tileCtl, .tileInfo,
    .tileSramErr, .tileMeStatus, .tilePerfMe, .tilePerfCyc, .tileNumFlags, .tileCtxNum,
    .tileStrState, .tileStrElem, .tileStrTime, .tileStrDisc, .tileStrOvw, .tileStrRdwait]

/-- Number of a register, for its key in the state. -/
def Reg.code : Reg → Nat
  | .chipPartCfg => 0
  | .chipPartStatus => 1
  | .chipAsidTbl => 2
  | .tileCtxState => 3
  | .tileCtxPc => 4
  | .tileCtxFault => 5
  | .tileCtxFaddr => 6
  | .tileCtxSeq => 7
  | .tileCtl => 8
  | .tileInfo => 9
  | .tileSramErr => 10
  | .tileMeStatus => 11
  | .tilePerfMe => 12
  | .tilePerfCyc => 13
  | .qtrQcErr => 14
  | .tileNumFlags => 15
  | .tileCtxNum => 16
  | .qtrSfuGen => 17
  | .tileStrState => 18
  | .tileStrElem => 19
  | .tileStrTime => 20
  | .tileStrDisc => 21
  | .tileStrOvw => 22
  | .tileStrRdwait => 23
  | .mcStatus => 24
  | .mcErrCnt => 25
  | .mcErrLast => 26
  | .mcScrubCtl => 27
  | .mcScrubStat => 28
  | .mcScrubLast => 29
  | .mcPerfRd => 30
  | .mcPerfWr => 31
  | .qtrBandMap => 32
  | .ldgStatus => 33
  | .ldgFree => 34
  | .ldgEntrySel => 35
  | .ldgEntryLo => 36
  | .ldgEntryHi => 37
  | .ldgErrLast => 38
  | .qtrSbGen => 39
  | .qtrStageHot => 40
  | .qtrStagePeak => 41
  | .qtrStageOffLocal => 42
  | .qtrStageOffComp => 43
  | .qtrStageOffPeer => 44
  | .qtrStageSets => 45
  | .qtrStageCtl => 46
  | .qtrSatStat => 47
  | .qtrSatIn => 48
  | .qtrSatOut => 49
  | .qtrSatLast => 50
  | .qtrScaleStat => 51
  | .tlyCtxSel => 52
  | .tlyCtxState => 53
  | .tlyStat => 54
  | .tlyFail => 55
  | .tlyErrLast => 56
  | .tlyErrChunk => 57
  | .fabPortStatus => 58
  | .fabEngineCtl => 59
  | .fabEngineStatus => 60
  | .fabId => 61
  | .fabXact => 62
  | .fabRuleSel => 63
  | .fabRuleRange => 64
  | .fabRuleVal => 65
  | .fabTimeCtl => 66
  | .fabTimeStatus => 67
  | .fabTimeNs => 68
  | .fabTimeFrac => 69
  | .fabTimeSet => 70
  | .fabBellStat => 71
  | .fabBellNext => 72
  | .fabBellStep => 73
  | .fabFence => 74
  | .fabErrLast => 75
  | .fabDspGen => 76
  | .fabDspDrop => 77
  | .rnlLinkStatus => 78
  | .rnlLinkCtl => 79
  | .rnlErrCnt => 80
  | .rnlSfStatus => 81
  | .rnlEvtStatus => 82
  | .qtrQtbl => 83
  | .qtrQcmd => 84
  | .qtrQcmdResult => 85
  | .qtrQsel => 86
  | .qtrQstate => 87
  | .qtrQcount => 88
  | .qtrDbStat => 89
  | .qtrTclassDef => 90
  | .qtrQarb => 91
  | .dbgDumpCtl => 92
  | .dbgDumpAck => 93
  | .dbgDumpStatus => 94
  | .dbgLastDump => 95
  | .dbgRecoveryCtl => 96
  | .dbgRecoveryState => 97
  | .dbgResetReq => 98
  | .dbgHbStatus => 99
  | .dbgParity => 100
  | .dbgRecCnt => 101
  | .snpPortStatus => 102
  | .snpNsInfo => 103
  | .snpReplCtl => 104
  | .snpReplSrc => 105
  | .snpState => 106
  | .snpProg => 107
  | .snpFill => 108
  | .snpErrLast => 109
  | .pwrCapCtl => 110
  | .pwrStatus => 111
  | .pwrEnergy => 112
  | .pwrStateCtl => 113
  | .pwrStateStatus => 114
  | .pwrTileLim => 115
  | .npStatus => 116
  | .npAlarm => 117
  | .npSensorSel => 118
  | .npSensorVal => 119
  | .npWakeTime => 120
  | .secLcStatus => 121
  | .secChipUidLo => 122
  | .secChipUidHi => 123
  | .secBootStatus => 124
  | .secImageHash => 125
  | .secErr => 126

/-- Every register, by its number. -/
def Reg.all : List Reg :=
  Blk.chip.regs ++ Blk.pwr.regs ++ Blk.np.regs ++ Blk.sec.regs ++ Blk.fab.regs ++ Blk.rnl.regs ++
    Blk.snp.regs ++ Blk.ldg.regs ++ Blk.tly.regs ++ Blk.dbg.regs ++ Blk.mc.regs ++ Blk.qtr.regs ++
    Blk.tile.regs

/-- The blocks, in the order of Table HIE-5. -/
def Blk.all : List Blk :=
  [.chip, .pwr, .np, .sec, .fab, .rnl, .snp, .ldg, .tly, .dbg, .mc, .qtr, .tile]

/-- Where copy `inst`, element `i` of a register lies. -/
def Reg.addr (r : Reg) (inst i : Nat) : Nat :=
  let x := r.info
  x.blk.range.1 + x.blk.range.2.1 * inst + x.off + x.stride * i

/-- The key of a register in the state's register file. -/
def Reg.key (r : Reg) (inst i : Nat) : Nat := (r.code * 64 + inst) * 1024 + i

/-- The register, copy and element at an address, if a chapter names one there. -/
def regAt (a : Nat) : Option (Reg × Nat × Nat) :=
  (Blk.all.filterMap fun b =>
    let (base, step, n) := b.range
    if a < base ∨ base + step * n ≤ a then none
    else
      let inst := (a - base) / step
      let o := (a - base) % step
      b.regs.findSome? fun r =>
        let x := r.info
        if x.off ≤ o ∧ o < x.off + x.stride * x.count ∧ (o - x.off) % x.stride = 0 then
          some (r, inst, (o - x.off) / x.stride)
        else none).head?

end Sys2Proof.Machine
end

