-- ==== Sys2Proof/Machine/Store.lean ====
section
/-!
DEFINITION. Sparse data as a list of keys and values in one canonical form: keys strictly rising, no
entry equal to what an unlisted key reads as. Memory, registers and every large table of the state
are kept this way, so that equal contents are equal data.
-/

namespace Sys2Proof.Machine

/-- The value at key `k`; `d` is what an unlisted key reads as. -/
def mget {α : Type} (d : α) : List (Nat × α) → Nat → α
  | [], _ => d
  | (k, v) :: m, i => if i = k then v else mget d m i

/-- Removes key `i`. -/
def merase {α : Type} : List (Nat × α) → Nat → List (Nat × α)
  | [], _ => []
  | (k, v) :: m, i => if i = k then merase m i else (k, v) :: merase m i

/-- Puts an entry at key `i`, in order. -/
def mput {α : Type} : List (Nat × α) → Nat → α → List (Nat × α)
  | [], i, a => [(i, a)]
  | (k, v) :: m, i, a =>
    if i = k then (i, a) :: m else if i < k then (i, a) :: (k, v) :: m else (k, v) :: mput m i a

/-- Writes key `i`, keeping the canonical form. -/
def mset {α : Type} [DecidableEq α] (d : α) (m : List (Nat × α)) (i : Nat) (a : α) :
    List (Nat × α) :=
  if a = d then merase m i else mput m i a

/-- Keeps the entries whose key satisfies `p`. -/
def mkeep {α : Type} (p : Nat → Bool) (m : List (Nat × α)) : List (Nat × α) :=
  m.filter fun e => p e.1

/-- The canonical form: keys strictly rising, from `lo`, and no entry equal to its default. -/
def mwfFrom {α : Type} [DecidableEq α] (d : Nat → α) : Nat → List (Nat × α) → Bool
  | _, [] => true
  | lo, (k, v) :: m => decide (lo ≤ k) && decide (v ≠ d k) && mwfFrom d (k + 1) m

def mwf {α : Type} [DecidableEq α] (d : Nat → α) (m : List (Nat × α)) : Bool := mwfFrom d 0 m

/-- Canonical form of a memory: an unlisted byte reads 0. -/
abbrev Memory.wf (m : List (Nat × Byte)) : Bool := mwf (fun _ => 0) m

/-- `n` bytes from address `a`; an unlisted byte reads 0. -/
def bytesAt (m : List (Nat × Byte)) (a : Nat) : Nat → List Byte
  | 0 => []
  | n + 1 => mget 0 m a :: bytesAt m (a + 1) n

/-- Stores bytes from address `a`. -/
def bytesPut (m : List (Nat × Byte)) : Nat → List Byte → List (Nat × Byte)
  | _, [] => m
  | a, b :: bs => bytesPut (mset 0 m a b) (a + 1) bs

/-- Zeroes the addresses `[a, a + n)`. -/
def bytesClear (m : List (Nat × Byte)) (a n : Nat) : List (Nat × Byte) :=
  mkeep (fun k => k < a || a + n ≤ k) m

end Sys2Proof.Machine
end

