-- ==== Sys2Proof/Machine/State.lean ====
section
/-!
DEFINITION. The machine's state: everything the spec gives the device, as plain data, and the queue
of commands that wait. Large tables are sparse lists in the canonical form of Store.lean; a register
of the register maps lives in `regs`, once, under its key.
-/

namespace Sys2Proof.Machine

/-! ### Tiles and contexts (02, 05) -/

/-- Context states (Table TIL-2). -/
inductive CtxState
  | idle | checking | ready | running | waiting | draining | faulted | halted
deriving DecidableEq, Repr

/-- What a context that holds back its later instructions waits for (R40, R48). -/
inductive Wait
  /-- Nothing. -/
  | none
  /-- A condition that the instruction tests again when it is issued anew; `long` for one that R40
  lets a THREADED tile switch on (a ring element, a fabric completion); `eng` is the engine that holds the
  instruction, as TILE_CTX_FAULT.ENGINE. -/
  | retry (long : Bool) (eng : Nat)
  /-- A hub semaphore (R344). -/
  | sem
  /-- A partition barrier (R152). -/
  | barrier
  /-- A ring element that the Stream Engine refetches (R73). -/
  | refetch (ring elem eng : Nat)
  /-- A fault is pending until what was issued before it has completed (R51). -/
  | fault
deriving DecidableEq, Repr

/-- An instruction that its context issues anew, on a condition of `R40` where `long`. -/
def Wait.tries (w : Wait) (long : Bool) : Bool :=
  match w with
  | .retry l _ => l == long
  | _ => false

/-- Waits for the refetch of an element. -/
def Wait.onElem (w : Wait) (ring elem : Nat) : Bool :=
  match w with
  | .refetch r e _ => r == ring && e == elem
  | _ => false

/-- The engine in which the waiting instruction is queued, as TILE_CTX_FAULT.ENGINE (R77, R360). -/
def Wait.engine : Wait → Option Nat
  | .none => Option.none
  | .retry _ e => some e
  | .sem => some 7
  | .barrier => some 7
  | .refetch _ _ e => some e
  | .fault => Option.none

/-- An operation of a context that goes on after its instruction: its number (a transaction of the fabric
unit, or 2^20 + that of a window write), the instruction's PC, the address involved, and its engine (R51). -/
structure OutOp where
  id : Nat
  pc : Nat
  addr : Nat
  eng : Nat
deriving DecidableEq, Repr

/-- The oldest fault of a context so far (R51): the operation that failed, or none for the instruction
last issued. -/
structure Pend where
  op : Option Nat
  status : Nat
  pc : Nat
  addr : Nat
  eng : Nat
deriving DecidableEq, Repr

/-- A hardware loop: body from `start` to `stop`, `left` passes still to come (R55). -/
structure Loop where
  start : Nat
  stop : Nat
  left : Nat
deriving DecidableEq, Repr

/-- The part of a write of Tile SRAM that lies in one 64-byte granule, while a reader on another engine may
still see what was there before (R47): `handed` once a ring handoff has published it. -/
structure Unfenced where
  eng : Nat
  addr : Nat
  old : List Byte
  handed : Bool
deriving DecidableEq, Repr

/-- One context (R43, R45, R49, R51, R90, R91 and what its manifest bound, R160). -/
structure Ctx where
  state : CtxState
  asid : Nat
  queue : Nat
  seq : Nat
  pc : Nat
  sregs : List (Nat × Word)
  preds : Nat
  vregs : List (Nat × VReg)
  fStatus : Nat
  fEngine : Nat
  fAddr : Nat
  subn : Bool
  flags : Flags
  loops : List Loop
  sramBase : Nat
  sramSize : Nat
  acc : Nat
  /-- Tile ring number of each manifest ring. -/
  rings : List Nat
  /-- Tile slot number of each manifest itinerary. -/
  itins : List Nat
  /-- Semaphore ranges: first and count. -/
  semRanges : List (Nat × Nat)
  /-- Number of shapes and windows bound (Table ITN-1). -/
  nShapes : Nat
  nWins : Nat
  chain : Option (List Byte)
  wait : Wait
  /-- Tags of window writes not yet reported visible (R315). -/
  writesOut : List Nat
  /-- Transactions of the fabric unit not yet acknowledged (R48). -/
  remoteOut : List Nat
  /-- Those operations, failed ones included, in program order, and the fault that waits for their end
  (R51). -/
  ops : List OutOp
  pend : Option Pend
  /-- Ring releases not yet due: ring, earlier MMAs still to stream, count (R133). -/
  relDue : List (Nat × Nat × Nat)
  /-- Time of the reference clock at which it became FAULTED (R377). -/
  faultAt : Nat
  /-- Place in launch order (R49). -/
  order : Nat
  /-- SRAM writes that no fence and no handoff has ordered, newest first (R47). -/
  unfenced : List Unfenced
  /-- Totals signalled and totals to be absorbed by a replay, per semaphore (R374). -/
  ledger : List (Nat × Nat)
  replayed : List (Nat × Nat)
  /-- Parameters 0 to 5 of the LAUNCH. -/
  params : List Word
deriving DecidableEq, Repr

/-- A context after a reset that covers it (Table TIL-11). -/
def Ctx.reset : Ctx where
  state := .idle
  asid := 0
  queue := 0
  seq := 0
  pc := 0
  sregs := []
  preds := 0
  vregs := []
  fStatus := 0
  fEngine := 0
  fAddr := 0
  subn := true
  flags := {}
  loops := []
  sramBase := 0
  sramSize := 0
  acc := 0
  rings := []
  itins := []
  semRanges := []
  nShapes := 0
  nWins := 0
  chain := none
  wait := .none
  writesOut := []
  remoteOut := []
  ops := []
  pend := none
  relDue := []
  faultAt := 0
  order := 0
  unfenced := []
  ledger := []
  replayed := []
  params := []

/-- Slot states of the Stream Engine (TILE_STR_STATE). -/
inductive SlotState
  | free | loaded | running | waitSem | held | stopping | ended
deriving DecidableEq, Repr

/-- A shape entry (R138). -/
structure Shape where
  rows : Nat
  vrows : Nat
  units : Nat
  stride : Int
deriving DecidableEq, Repr

/-- A permitted window (Table ITN-8). -/
structure Window where
  base : Nat
  len : Nat
  rd : Bool
  wr : Bool
deriving DecidableEq, Repr

/-- An active loop level of an itinerary: first word of the body, word after it, COUNT, ORDER, ROT,
iteration and the parity of the entry (R135, R137). -/
structure ItLoop where
  first : Nat
  stop : Nat
  count : Nat
  order : Nat
  rot : Nat
  k : Nat
  odd : Bool
deriving DecidableEq, Repr

/-- An element issued and not yet delivered or written (R131). `ring` numbers it within the ring,
`bytes` are the granules read at issue, `addr` its first memory address. -/
structure Elem where
  num : Nat
  ringElem : Nat
  addr : Nat
  shape : Shape
  hint : Nat
  bytes : List Byte
  /-- Its runs of granules in DRAM while it is fetched: physical address, offset in `bytes`, number
  of granules (R148, R149). -/
  phys : List (Nat × Nat × Nat)
  status : Nat
  faultAddr : Nat
  /-- Fabric transactions and, from 2^20 on, window writes it still waits for (R140, R315). -/
  xacts : List Nat
  /-- Delivered or written, and waiting for its turn in element order. -/
  done : Bool
  mcast : Nat
deriving DecidableEq, Repr

/-- An itinerary slot (R129). -/
structure Slot where
  state : SlotState
  owner : Nat
  itin : Nat
  ring : Nat
  store : Bool
  remote : Bool
  watch : Nat
  elements : Nat
  instrs : List Word
  shapes : List Shape
  windows : List Window
  pc : Nat
  addrs : List Nat
  strides : List (Nat × Int)
  loops : List ItLoop
  /-- Entries of the loop at each level, for serpentine order. -/
  entries : List (Nat × Nat)
  /-- Executions of each WAITSEM word. -/
  waits : List (Nat × Nat)
  /-- Address registers that hold gathered values. -/
  gathered : Nat
  issued : Nat
  /-- Ring number of element 0 of the run. -/
  base : Nat
  flight : List Elem
  /-- Reads on their way that are no element of the run: a GATHER's index and refetches (R73, R142). -/
  side : List Elem
  /-- Semaphore signals that wait for earlier elements: elements, semaphore, amount (R136). -/
  signals : List (Nat × Nat × Nat)
  stopReq : Bool
  /-- A write fault held for the context (R145), or a parity error of a STORE element (R73). -/
  fault : Nat
  faultAddr : Nat
  heldStatus : Nat
  heldElem : Nat
  delivered : Nat
  consumed : Nat
  late : Nat
  ahead : Nat
  discarded : Nat
  refetched : Nat
deriving DecidableEq, Repr

def Slot.reset : Slot where
  state := .free
  owner := 0
  itin := 0
  ring := 0
  store := false
  remote := false
  watch := 0
  elements := 0
  instrs := []
  shapes := []
  windows := []
  pc := 0
  addrs := []
  strides := []
  loops := []
  entries := []
  waits := []
  gathered := 0
  issued := 0
  base := 0
  flight := []
  side := []
  signals := []
  stopReq := false
  fault := 0
  faultAddr := 0
  heldStatus := 0
  heldElem := 0
  delivered := 0
  consumed := 0
  late := 0
  ahead := 0
  discarded := 0
  refetched := 0

/-- Ring kinds (Table ITN-2). -/
inductive RingKind
  | load | store | local | mcastRecv
deriving DecidableEq, Repr

/-- A ring bound to a context (R130). -/
structure Ring where
  owner : Nat
  kind : RingKind
  base : Nat
  elem : Nat
  depth : Nat
  pub : Nat
  rel : Nat
  slot : Option Nat
  leaderCtx : Nat
  leaderRing : Nat
  bound : Bool
  /-- Held elements: number, status, address (R145). -/
  held : List (Nat × Nat × Nat)
  /-- Published elements not yet released, with their sources, for a refetch (R73). -/
  src : List Elem
deriving DecidableEq, Repr

/-- Types of an accumulator tile (R60). -/
inductive AccTy
  | none | fp32 | int32
deriving DecidableEq, Repr

/-- Accumulator tile state beside its rows: type, K count, pass count (R60, R62, Table NUM-5). -/
structure AccInfo where
  ty : AccTy
  k : Nat
  n : Nat
deriving DecidableEq, Repr

def AccInfo.reset : AccInfo := ⟨.none, 0, 0⟩

/-- A block of B in the array: owner, format, whether a dense MMA loaded it, its rows and its scales
by slab (R61). -/
structure BBlock where
  owner : Nat
  fmt : Nat
  dense : Bool
  rows : List Nat
  scales : List Nat
deriving DecidableEq, Repr

/-- An MMA that has issued and not yet streamed (R58 to R66): its checks are passed and its operands
are read. `aRows` and `b.rows` hold each row's bits as one number, `aScales` and `b.scales` each
slab's scale bytes, `sel` the metadata rows or the mask nibbles, `rowScales` the lanes of VS when
RS = 1. With BKEEP, `b` is empty and the array's active block is used. -/
structure MmaReq where
  ctx : Nat
  acc : Nat
  m : Nat
  fmtA : Nat
  fmtB : Nat
  sparse : Nat
  zero : Bool
  bkeep : Bool
  rowScales : Option (List Nat)
  aRows : List Nat
  aScales : List Nat
  b : BBlock
  sel : List Nat
  key : SrKey
deriving DecidableEq, Repr

/-- The tiles. Keys: context number; tile × 16 + slot; tile × 32 + ring; tile × 8 + AT (rows:
× 128 + row); SRAM byte tile × 0xC0_0000 + address. -/
structure Tiles where
  ctxs : List (Nat × Ctx)
  slots : List (Nat × Slot)
  rings : List (Nat × Ring)
  acc : List (Nat × AccInfo)
  accRows : List (Nat × BitVec 4096)
  /-- Queued MMAs per tile, oldest first, and the active block (R61). -/
  mmaQ : List (Nat × List MmaReq)
  array : List (Nat × Option BBlock)
  sram : List Host.Cell
  /-- 32-bit SRAM words whose parity is bad, by word key (R73). -/
  sramBad : List Nat
  /-- L1 data: tile, ASID, line virtual address, bytes (R52). -/
  l1 : List (Nat × Nat × Nat × List Byte)
  /-- Watched lines: physical line, tile, slot, element (R149). -/
  watch : List (Nat × Nat × Nat × Nat)
  /-- Launches accepted so far, which orders READY contexts (R49). -/
  launches : Nat
deriving DecidableEq, Repr

/-! ### Memory (01, 06) -/

/-- The damage of one DRAM line, as an error pattern over data and check bytes (R174). -/
structure LineErr where
  data : BitVec 512
  chk : BitVec 64
deriving DecidableEq, Repr

/-- A line of 128 bytes in a Quarter Cache (R75, R76): `line` its number in physical memory, `held` and
`dirty` a bit for each of its two DRAM lines, `low` whether it stands in the least recently used
position, `bad` its damaged 64-bit words of the array with how many bits of each are wrong. Its bytes are
those of `Mem.bytes`. -/
structure QLine where
  line : Nat
  held : Nat
  dirty : Nat
  low : Bool
  bad : List (Nat × Nat)
deriving DecidableEq, Repr

/-- DRAM, caches, translation buffers and controllers. -/
structure Mem where
  /-- DRAM by physical address (R25). -/
  bytes : List Host.Cell
  lineErr : List (Nat × LineErr)
  tagErr : List (Nat × BitVec 16)
  /-- Watched granules that another agent has written: line, tile, slot, element (R149). -/
  overwritten : List (Nat × Nat × Nat × Nat)
  /-- Corrections of a line within the scrub period (R181). -/
  corrCnt : List (Nat × Nat)
  /-- Band attributes: true for CORRECT (R170). -/
  bandMap : List (Nat × Bool)
  /-- Busy bands: first, count (R175). -/
  busy : List (Nat × Nat)
  /-- The Quarter Caches, least recently used line first (R75). -/
  qc : List QLine
  /-- Buffered leaf entries, keyed by buffer (tile, or 64 + quarter), ASID and 64 KiB page (R35). -/
  tlb : List (Nat × Nat)
  /-- Next granule of each channel's scrub, passes completed, pass start, FORCED (R185, R186). -/
  scrubPos : List (Nat × Nat)
  scrubPasses : List (Nat × Nat)
  scrubStart : List (Nat × Nat)
  scrubPeriod : List (Nat × Nat)
  scrubForced : List Nat
  /-- Channels trained, out of service, wiped, failed in their wipe (R188 to R190). -/
  chanTrained : List Nat
  chanFailed : List Nat
  chanWiped : List Nat
deriving DecidableEq, Repr

/-! ### Command queues, semaphores, barriers, tables (12, 04) -/

/-- Queue states (Table CMD-3). -/
inductive QState
  | off | run | stopped
deriving DecidableEq, Repr

/-- Where a command stands between acceptance and retirement (R336, R340, R341). -/
inductive CmdState
  | accepted | started | finished
deriving DecidableEq, Repr

/-- A command read from its ring. `data` is its packet, `engine` the engine of Table CMD-7 that runs
it, `step` how far an engine that works in steps has come, `aux` what that engine keeps. -/
structure Cmd where
  seq : Nat
  /-- Its place among the commands accepted. -/
  acc : Nat
  data : List Byte
  st : CmdState
  /-- Failed acceptance at check 1 or 2 of Table CMD-5. -/
  gateFail : Bool
  status : Nat
  result : Word
  engine : Nat
  start : Nat
  finish : Nat
  /-- The reference clock at its start, from which its timer runs (R348). -/
  startClock : Nat
  /-- Since when it has been a ready head (R346). -/
  readyAt : Option Nat
  /-- It has been handed to its engine (R340). -/
  began : Bool
  replayed : Bool
  opcode : Nat
  step : Nat
  aux : List Nat
  aux2 : List Nat
  /-- Bytes read from another chip for it. -/
  buf : List Byte
deriving DecidableEq, Repr

/-- One command queue (R327, R329, R334). -/
structure Queue where
  state : QState
  desc : List Byte
  tail : Nat
  retire : Nat
  reply : Nat
  cqhead : Nat
  dbStatus : Nat
  lastStatus : Nat
  /-- Commands accepted and not retired, oldest first. -/
  cmds : List Cmd
  deficit : Nat
  /-- Time of the last notification event, and the status a delayed one will carry (R339). -/
  notified : Option Nat
  notifyDue : Option Nat
deriving DecidableEq, Repr

def Queue.reset : Queue where
  state := .off
  desc := []
  tail := 0
  retire := 0
  reply := 0
  cqhead := 0
  dbStatus := 0
  lastStatus := 0
  cmds := []
  deficit := 0
  notified := none
  notifyDue := none

/-- Who waits: a command of a queue, a context, or a stream slot. -/
inductive Who
  | cmd (q seq : Nat)
  | ctx (c : Nat)
  | slot (tile n : Nat)
deriving DecidableEq, Repr

/-- A wait on a semaphore (R342). -/
structure Waiter where
  sem : Nat
  threshold : Nat
  who : Who
deriving DecidableEq, Repr

/-- An open barrier episode (R152). -/
structure Episode where
  count : Nat
  arrived : List Who
deriving DecidableEq, Repr

/-- The two copies of a generation-tagged table (R125). -/
structure Gen where
  active : Nat
  image : List Byte
  shadow : List Byte
  pending : Bool
  /-- The load in progress, until it retires. -/
  loading : Option (Nat × Nat)
  deferred : Nat
deriving DecidableEq, Repr

def Gen.reset : Gen := ⟨0, [], [], false, none, 0⟩

/-- The hub's queue and synchronisation state. -/
structure Hub where
  queues : List (Nat × Queue)
  sems : List (Nat × Word)
  waiters : List Waiter
  /-- Episodes by partition × 64 + barrier. -/
  barriers : List (Nat × Option Episode)
  /-- Tables by kind × 4 + partition: kind 0 SFU, 1 signboard, 2 dispatch. -/
  gens : List (Nat × Gen)
  /-- Round-robin positions by partition, engine and class: last ASID, and last queue of
  each ASID (R346). -/
  rrAsid : List (Nat × Nat)
  rrQueue : List (Nat × Nat)
  /-- For engines that all partitions share: the partition served last, and what a partition has gained and
  not spent, by engine × 4 + partition (R20). -/
  rrPart : List (Nat × Nat)
  shares : List (Nat × Nat)
  /-- Commands accepted so far. -/
  accepted : Nat
  /-- Partitions whose CHIP_ASID_TBL a LAUNCH has locked (R13). -/
  asidLocked : List Nat
deriving DecidableEq, Repr

/-! ### Ranolink (11) -/

/-- A message or frame header and its data, as it leaves or enters a port. -/
structure Msg where
  type : Nat
  ack : Bool
  coh : Bool
  tag : Nat
  status : Nat
  addr : Nat
  word : Nat
  data : List Byte
deriving DecidableEq, Repr

/-- A snoop filter entry: sector number, S bits, M bits (R319). -/
structure Sector where
  num : Nat
  s : Nat
  m : Nat
deriving DecidableEq, Repr

/-- A snoop that the companion has not answered: line, whether it takes the line away, the request
that waits for it, and whether the data come from a WB in flight (R320). -/
structure Snoop where
  line : Nat
  inv : Bool
  wbPending : Bool
  /-- It evicts an entry of the filter. -/
  evict : Bool
  since : Nat
deriving DecidableEq, Repr

/-- An outstanding request of the device to the companion window, by its number, whose low 16 bits are its
TAG, and line (R313). -/
structure DevReq where
  tag : Nat
  read : Bool
  line : Nat
deriving DecidableEq, Repr

structure Rnl where
  /-- Flits that have failed: FSEQ × 2, plus 1 for one the device received, and failures in a row
  (R309). -/
  naks : List (Nat × Nat)
  /-- Requests of the companion not yet served, oldest first (R314, R320), and responses that wait for
  credit (R312). -/
  reqs : List Msg
  rspQ : List Msg
  /-- Window writes of the device that wait to be sent, oldest first, each with its number as TAG and its
  physical address (R312, R314). -/
  reqQ : List Msg
  /-- MGT messages that wait while the link is in L1 or RECOVERY (R324). -/
  mgtQ : List Msg
  /-- Credits held per class: REQ, RSP, SNP, SRSP, EVT (R312). -/
  credit : List (Nat × Nat)
  devReqs : List DevReq
  /-- Lines that have arrived for a waiting reader: line, status, data. -/
  arrived : List (Nat × Nat × List Byte)
  /-- Numbers of the writes of the access in progress, which its owner waits for (R315). -/
  fresh : List Nat
  nextTag : Nat
  /-- Snoop filter, entries in order of last use, newest last (R319, R320). -/
  filter : List Sector
  snoops : List Snoop
  /-- Events that wait for credit (R323). -/
  evtQ : List (List Word)
  evtSeq : List (Nat × Nat)
  lostBefore : Bool
  /-- Lines lost to a DOWN, whose events are due when the link is ACTIVE (R322). -/
  lostLines : List Nat
  /-- Events lost since the link went DOWN (event 0x0008). -/
  lostSince : Nat
  /-- Training is due at once: power-up or a chip reset has ended (R307). -/
  startDue : Bool
  /-- The link has been ACTIVE since power-up. -/
  wasUp : Bool
  downAt : Nat
  trainAt : Nat
  recoverAt : Nat
  lastTraffic : Nat
deriving DecidableEq, Repr

/-- Device power states (R416). -/
inductive Power
  | active | idle | deep | night
deriving DecidableEq, Repr

/-! ### Fabric and campus time (10) -/

/-- Who waits for a fabric transaction. -/
inductive XWho
  | none
  | ctx (c : Nat)
  /-- Element `num` of a stream slot. -/
  | elem (tile slot num : Nat)
  | cmd (q seq : Nat)
  /-- A frame that a KV_PASS sends (R215). -/
  | kv (q seq frame : Nat)
  /-- Packets of a chunk that a TALLY_CONTRIBUTE sends (R261). -/
  | tally (q seq chunk : Nat)
  /-- Replica traffic of a partition's snapshot to a buddy (R394). -/
  | snap (p chip : Nat)
deriving DecidableEq, Repr

/-- An outstanding transaction (R284, R286): packets without a reply, READ responses still to come,
the highest status so far, the address it reports, and where READ data go. -/
structure Xact where
  part : Nat
  dst : Nat
  who : XWho
  left : Nat
  resp : Nat
  status : Nat
  addr : Nat
  base : Nat
deriving DecidableEq, Repr

/-- Where the payload of a packet lies at its source, to be read again for every transmission after the
first (R282); `fixed` for one that the device has made, which lies nowhere. -/
inductive PktSrc
  | fixed
  | sram (tile addr : Nat)
  | dram (pa : Nat)
  /-- A data range and an offset in it. -/
  | range (base off : Nat)
  | virt (asid unit va : Nat)
deriving DecidableEq, Repr

/-- A packet of a flow that is not acknowledged: where its payload lies, its transaction, its port once
sent, the time of the last transmission and the number of retransmissions (R282, R283). -/
structure OutPkt where
  frame : Frame
  src : PktSrc
  xact : Option Nat
  sent : Bool
  port : Nat
  sentAt : Nat
  tries : Nat
deriving DecidableEq, Repr

/-- States of a transmit flow: waiting for a free flow, waiting for FLOW_ACCEPT, open (R278, R279). -/
inductive FlowState
  | held | opening | ready
deriving DecidableEq, Repr

/-- A transmit flow (R278, R279, R283). -/
structure TxFlow where
  part : Nat
  dst : Nat
  state : FlowState
  inc : Nat
  next : Nat
  pkts : List OutPkt
  /-- Smoothed round trip and deviation in ns, once there is a history. -/
  rtt : Option (Nat × Nat)
  usedAt : Nat
  openedAt : Nat
  /-- Retransmissions of its FLOW_OPEN. -/
  opens : Nat
  rr : Nat
deriving DecidableEq, Repr

/-- A receive flow (R278, R280, R281): `base` is the first FSEQ not yet handled, `handled` those
above it, `refused` the replies given with a status, `waiting` the packets, with their ports, that wait
for lower FSEQs or for the companion to give up a line. -/
structure RxFlow where
  part : Nat
  src : Nat
  inc : Nat
  base : Nat
  handled : List Nat
  refused : List (Nat × Nat)
  waiting : List (Nat × Frame)
  usedAt : Nat
deriving DecidableEq, Repr

/-- A token bucket: tokens in 1/256 byte, and when they were counted (R288). -/
structure Bucket where
  level : Nat
  since : Nat
deriving DecidableEq, Repr

/-- A port: link sequence numbers, the replay list, credit per VC, bucket, times. -/
structure Port where
  lseq : Nat
  rxSeq : Nat
  /-- Frames not acknowledged, oldest first, with their LSEQs (R277). -/
  unacked : List (Nat × Frame × PktSrc)
  /-- Frames that wait for room in the replay list, and whether they take credit (R277). -/
  linkQ : List (Frame × Bool)
  /-- What a port of a partition without an identity owes its switch: an acknowledgement, a NAK, credits by
  VC (R273). -/
  ackDue : Bool
  nakDue : Bool
  owed : List (Nat × Nat)
  credit : List (Nat × Nat)
  ceiling : Nat
  bucket : Bucket
  /-- When it was last UP (R283), and from when it may be brought up again (R270). -/
  downAt : Nat
  startAt : Nat
  /-- When its bring-up began, and whether LINK_INIT has been exchanged since. -/
  trainAt : Nat
  init : Bool
  /-- Start of its last calibration (R272). -/
  calAt : Nat
deriving DecidableEq, Repr

/-- A wrap rule (R288). -/
structure Wrap where
  lo : Nat
  hi : Nat
  ceiling : Nat
  bucket : Bucket
deriving DecidableEq, Repr

/-- A communication group (R290): where its image lies, as a virtual address and as physical runs, and
its header. -/
structure Group where
  va : Nat
  runs : List (Nat × Nat)
  members : Nat
  self : Nat
  seed : Nat
deriving DecidableEq, Repr

/-- A Departure Bell (R301, R302): `next` is the step that rings next, `shifts` holds for a step the sum
of its shifts and the shift in force. -/
structure Bell where
  t0 : Nat
  s0 : Nat
  period : Nat
  sem : Nat
  shifts : List (Nat × Int × Int)
  next : Nat
deriving DecidableEq, Repr

/-- Fabric state of a partition. -/
structure FabPart where
  fence : List Nat
  /-- IDs lost under FENCE_OVERFLOW, which hold no entry of the list (R292). -/
  beyond : List Nat
  overflow : Bool
  routes : List (Nat × Nat × Nat)
  wraps : List Wrap
  incs : Nat
  bell : Option Bell
  /-- Campus time of the last Departure Bell (R272). -/
  lastBell : Option Nat
deriving DecidableEq, Repr

/-- The fabric and campus time. -/
structure Fab where
  ports : List (Nat × Port)
  /-- Laser inputs below their minimum: engine × 8 + fibre (R269). -/
  lowFibres : List Nat
  tx : List TxFlow
  rx : List RxFlow
  /-- FLOW_OPENs that wait for a free receive flow: partition, source, incarnation, first FSEQ (R279). -/
  opens : List (Nat × Nat × Nat × Nat)
  xacts : List (Nat × Xact)
  /-- Control frames that wait for credit, by partition. -/
  ctlQ : List (Nat × Frame)
  parts : List (Nat × FabPart)
  groups : List (Nat × Group)
  /-- Member entries still to be written in place: physical address, entry (R292, R293). -/
  edits : List (Nat × Nat)
  /-- Time of the last valid measurement, and how many in a row were below 100 ns (Table FAB-8). -/
  measuredAt : Nat
  goodRun : Nat
  /-- Correction still to be slewed, in 2^-16 ns, and the frequency correction in force, in ppb. -/
  slew : Int
  freq : Int
  /-- A FAB_TIME_SET waiting for a PPS edge (R299). -/
  setNext : Option Nat
  ppsOut : Bool
  /-- PTP: the last Sync as (sequence, its time here, origin and corrections so far), a Delay_Req that
  waits for its port and one under way, as (sequence, time sent), and the sync interval in ns (R298). -/
  sync : Option (Nat × Int × Int)
  delayOut : Option (Nat × Frame)
  delayReq : Option (Nat × Int)
  interval : Nat
  pathDelay : Int
deriving DecidableEq, Repr

/-! ### The Page Ledger (07) -/

/-- States of a Ledger entry (Table ATT-7). -/
inductive FrameState
  | absent | free | active | copying | banked | arriving | circulating
deriving DecidableEq, Repr

/-- A Ledger entry (Table ATT-6): `pa` and `scPa` are whole physical addresses. -/
structure KvFrame where
  state : FrameState
  fmt : Nat
  refcnt : Nat
  pins : Nat
  pa : Nat
  scPa : Nat
  group : Nat
  bank : Nat
  pass : Nat
deriving DecidableEq, Repr

def KvFrame.reset : KvFrame := ⟨.absent, 0, 0, 0, 0, 0, 0, 0, 0⟩

/-- A visitor bank (R207, R216): its slots, arrival and credit semaphores, the next slot to count, and
the packets received for each ARRIVING frame (PKT × 2 + SIDECAR). -/
structure KvBank where
  slots : List Nat
  sem : Nat
  credit : Nat
  next : Nat
  got : List (Nat × List Nat)
deriving DecidableEq, Repr

/-- The Page Ledger: entries by frame, banks by group × 2 + bank, frames taken as targets of copies
under way. -/
structure Ledger where
  frames : List (Nat × KvFrame)
  banks : List (Nat × KvBank)
  taken : List Nat
  /-- Commands that wait for an entry, in the order the Ledger met them: frame, queue, command (R204). -/
  waits : List (Nat × Nat × Nat)
deriving DecidableEq, Repr

/-! ### Activation sets (08) -/

/-- States of an activation set (Table TRN-2). -/
inductive SetState
  | free | hot | storing | offloaded | restoring | lost
deriving DecidableEq, Repr

/-- An activation set (R223); `cls` is its destination class: 0 LOCAL, 1 COMPANION, 2 PEER. -/
structure ActSet where
  state : SetState
  stage : Nat
  tag : Nat
  declared : Nat
  stored : Nat
  cls : Nat
deriving DecidableEq, Repr

def ActSet.reset : ActSet := ⟨.free, 0, 0, 0, 0, 0⟩

/-! ### Tally (09) -/

/-- A 1 ms wait for PARTIAL members of an owned chunk: its main or its carried packets (R260). -/
structure TallyWait where
  carried : Bool
  step : Nat
  idx : Nat
  since : Nat
deriving DecidableEq, Repr

/-- An open tally context (R249); `c` is its current step (R257). -/
structure TallyCtx where
  late : Bool
  carry : Bool
  base : Nat
  cpm : Nat
  s0 : Nat
  closeOff : Nat
  expLead : Nat
  c : Nat
  waits : List TallyWait
  /-- IN and CARRIED sets of its last finished step, chunk by chunk; none of them empty for no step (R262,
  R266). -/
  sets : List Byte
  /-- Deadlines that have fired: the step, and whether it is the close (R300). -/
  fired : List (Nat × Bool)
deriving DecidableEq, Repr

/-- Agreed codes received for a chunk that a started TALLY_CONTRIBUTE sends (R259, R261). -/
structure TallyPub where
  group : Nat
  step : Nat
  chunk : Nat
  codes : List Byte
deriving DecidableEq, Repr

/-- Tally contexts by group, and the publications kept. -/
structure Tally where
  ctxs : List (Nat × TallyCtx)
  pubs : List TallyPub
deriving DecidableEq, Repr

/-! ### Crash dumps, recovery and resets (13) -/

/-- Words 2 to 7 of a dump's header and event (Table FLT-4), its quarters and the campus time of its
start. -/
structure DumpHead where
  id : Nat
  scope : Nat
  cause : Nat
  outcome : Nat
  parts : Nat
  truncated : Bool
  unreadable : Nat
  engine : Nat
  tileEng : Nat
  queue : Nat
  seq : Nat
  suspects : Nat
  culprits : Nat
  notReplayable : Nat
  slotPa : Nat
  bytes : Nat
  time : Nat
  quarters : List Nat
deriving DecidableEq, Repr

/-- What waits for a dump: a DUMP command, the recovery of an engine, a reset of a domain. -/
inductive DumpFor
  | command (q seq : Nat)
  | engine (engine tileEng : Nat)
  | domain (dom : Nat)
deriving DecidableEq, Repr

/-- A dump being taken or waiting for the debug engine (R364, R369): `silent` are the reads, by unit
and index, that have gone unanswered. -/
structure DumpReq where
  owner : DumpFor
  head : DumpHead
  silent : List (Nat × Nat)
deriving DecidableEq, Repr

/-- Where an engine in recovery stands: its dump is being taken, is written, or the engine is reset and
its suspects are settled (R370, R371). -/
inductive RecStage
  | dumping | dumped | settling
deriving DecidableEq, Repr

/-- An engine in recovery (R370, R371): `engine` as Table CMD-7, from 2^16 on an Innkeeper core,
`tileEng` as TILE_CTX_FAULT.ENGINE. Suspects are (queue, SEQ) in R370 order. -/
structure Recovery where
  engine : Nat
  tileEng : Nat
  part : Nat
  stage : RecStage
  suspects : List (Nat × Nat)
  cleared : List (Nat × Nat)
  /-- Cleared suspects that are still to run again after a culprit (R371). -/
  again : List (Nat × Nat)
  probing : Option (Nat × Nat)
  probeAt : Nat
  /-- When its dump was written and its reset began (R377). -/
  since : Nat
  head : DumpHead
deriving DecidableEq, Repr

/-- Stages of a reset at partition level or above: its dump, its hold, ready to begin, the replies of
interrupted commands being written, under way until READY (R354, R363, R368, R376). -/
inductive ResetStage
  | dumping | holding | due | replying | running
deriving DecidableEq, Repr

/-- A reset that is requested or under way. `dom` is a partition, 4 for the chip, 5 for a power cycle;
`cause` as Table FLT-4. -/
structure ResetReq where
  dom : Nat
  cause : Nat
  stage : ResetStage
  since : Nat
  head : DumpHead
  /-- CHIP_PART_CFG as the reset found it when it began (R24). -/
  cfg : Word
deriving DecidableEq, Repr

/-- Recovery state of the chip. -/
structure Rec where
  nextDump : Nat
  dumps : List DumpReq
  engines : List Recovery
  resets : List ResetReq
  /-- Partitions that are SUSPENDED (R373). -/
  suspended : List Nat
  /-- Times at which each engine entered the hang path, newest first (R377): key engine × 16 + tile
  engine. -/
  entries : List (Nat × List Nat)
  /-- Beats counted and time of the last beat per firmware agent (R361): 0 to 3 Innkeeper cores, 4
  fabric engine, 5 snapshot engine. -/
  beats : List (Nat × Nat × Nat)
  /-- Time at which a core was last declared hung. -/
  hungAt : List (Nat × Nat)
deriving DecidableEq, Repr

/-! ### Snapshots (14) -/

/-- An NVMe command to the drive: block numbers within the namespace (R387 to R389). -/
inductive NvOp
  | read (blk n : Nat)
  | write (blk : Nat) (data : List Byte)
  | flush
deriving DecidableEq, Repr

/-- Who issued an NVMe command: a snapshot command, or the replica service of a partition's source. -/
inductive NvWho
  | none
  | cmd (q seq : Nat)
  | repl (p i : Nat)
deriving DecidableEq, Repr

/-- An outstanding NVMe command; `off` is where read data go in its issuer's buffer, `lost` that the
link went down under it. -/
structure NvCmd where
  id : Nat
  ns : Nat
  op : NvOp
  off : Nat
  who : NvWho
  since : Nat
  lost : Bool
deriving DecidableEq, Repr

/-- A buddy of a snapshot: its chip, and whether its replica goes on (R394). -/
structure Buddy where
  chip : Nat
  live : Bool
deriving DecidableEq, Repr

/-- A SNAP_BEGIN of a partition, kept until its SNAP_COMMIT (R392, R393). `next` is the next chunk to
drain, `hashes` those of the drained chunks, `section` the device section. -/
structure Snap where
  queue : Nat
  seq : Nat
  step : Nat
  nsmask : Nat
  gen : Nat
  slot : Nat
  regions : List (Nat × Nat)
  devSection : List Byte
  nchunk : Nat
  next : Nat
  hashes : List (List Byte)
  offset : Nat
  length : Nat
  deadline : Nat
  sem : Nat
  forced : Bool
  window : Bool
  drained : Bool
  done : Bool
  /-- COMMIT_TIME of its commit, once begun. -/
  commitAt : Option Nat
  buddies : List Buddy
deriving DecidableEq, Repr

/-- Replica service of a partition for source 0 (A), 1 (B) or fills (2) (R394): the signals not yet
served, as sending chip and amount; the control record in force; the next chunk and the hashes of those
before it; how far the request in hand has come, with what was read for it, and whether an NVMe command
for it has failed. -/
structure Repl where
  todo : List (Nat × Nat)
  record : List Byte
  next : Nat
  hashes : List (List Byte)
  step : Nat
  buf : List Byte
  bad : Bool
deriving DecidableEq, Repr

/-- The snapshot engine, its port and the drive. Drive blocks by namespace × 2^48 + block; an unlisted
block is all zeros. -/
structure Snp where
  drive : List (Nat × List Byte)
  nvme : List NvCmd
  nextId : Nat
  /-- From when the port may train (R388), and SNP_PERST_N. -/
  trainFrom : Nat
  perstN : Bool
  snaps : List (Nat × Snap)
  /-- By partition × 4 + source. -/
  repls : List (Nat × Repl)
  /-- Signals received on the acknowledgement semaphore, by partition × 2^20 + sending chip. -/
  acks : List (Nat × Nat)
deriving DecidableEq, Repr

/-! ### Power and the Night Porter (15) -/

/-- A power hint (R413): class 0 IDLE to 3 FULL; `fired` from START − 50 µs on, `inForce` from START. -/
structure Hint where
  part : Nat
  start : Nat
  dur : Nat
  cls : Nat
  fired : Bool
  inForce : Bool
deriving DecidableEq, Repr

/-- The power controller. -/
structure Pwr where
  hints : List Hint
  /-- Package power of the last periods, newest first, for the 1 ms average. -/
  history : List Nat
  /-- Compute-rail power of the last period. -/
  compute : Nat
  /-- Since when L has been 1 with power above the cap (R409). -/
  oneSince : Option Nat
  /-- Sum and number of periods of the interval in force, by class (R414). -/
  interval : List (Nat × Nat × Nat)
  /-- Mean powers of the last 8 intervals of each class, newest first. -/
  predictor : List (Nat × List Nat)
  /-- Core rail setpoint raised by 1.5 % (R414). -/
  raised : Bool
  /-- Droop limits by tile (R411); soft-start limits by tile and when they last rose (R412). -/
  droop : List (Nat × Nat)
  soft : List (Nat × Nat × Nat)
  /-- Quarters held at 1/64 by decision 0x02; every tile held by a power failure (R420, R422). -/
  held : List Nat
  failHold : Bool
  /-- A NIGHT entry that waits for Ranolink: whether DRAM goes off; a wake held until it is over
  (R417, R418). -/
  nightOff : Option Bool
  wakeHeld : Bool
  /-- When the reference clock last saw work that keeps the device from IDLE (Table PWR-4). -/
  busyAt : Nat
deriving DecidableEq, Repr

/-- The Night Porter (R419 to R423): `samples` are the last five of each sensor, newest first; `since`
tells from when a condition of Table PWR-3 has held (code × 1024 + index); `taken` the decisions in
force. -/
structure Np where
  on : Bool
  samples : List (Nat × List Int)
  since : List (Nat × Nat)
  taken : List Nat
  trayCap : Nat
  lastIbi : Nat
  cycleAsked : Bool
  failAsserted : Bool
  /-- Dynamic I3C address (R421) and package position (Table PKG-3). -/
  addr : Option Nat
  pos : Nat
  /-- Campus time is held on NP_CLK25 (R423). -/
  timeHeld : Bool
deriving DecidableEq, Repr

/-! ### Boot, security, pins (16, 17) -/

/-- Boot and security engine: the hub store, the offer under way, the status of the last offer, when
BOOT_HELLO was last sent, and the outstanding challenge (R427, R428, R438). -/
structure Boot where
  store : List Byte
  offerAddr : Nat
  offerLen : Nat
  lastStatus : Nat
  helloAt : Nat
  challenge : Option (List Byte)
  /-- A life-cycle transition is in progress (R437). -/
  moving : Bool
deriving DecidableEq, Repr

/-- Instructions of the test port (R459). -/
inductive Jtag
  | bypass | idcode | sample | extest | clamp | highz
deriving DecidableEq, Repr

/-- Pins that hold state: RAIL_GOOD, CHIP_RESET_N as the package sees it held, THERMTRIP_N, and the test
port's instruction (Table PKG-3, R459). -/
structure Pins where
  railGood : Bool
  resetHeld : Bool
  thermtripN : Bool
  jtag : Jtag
deriving DecidableEq, Repr

/-- The fuses (Table BOT-4); nothing but the security engine's burns changes them (R431). -/
structure Fuses where
  uid : BitVec 128
  prov : BitVec 32
  depl : BitVec 32
  ret : BitVec 32
  keyHash : List (BitVec 384)
  revoked : List (BitVec 32)
  svn : BitVec 64
  uds : BitVec 256
  pIter : BitVec 16
  qIter : BitVec 16
deriving DecidableEq, Repr

/-! ### The whole machine -/

/-- What leaves the device, in order (log 4). -/
inductive Out
  /-- A Ranolink message to the companion. -/
  | rnl (m : Msg)
  /-- Completion of an Innkeeper access to the register window: status and data (R462). -/
  | mmio (status : Nat) (data : Option Word)
  /-- A Caravan frame with its link trailer on a fabric port. -/
  | frame (port : Nat) (trailer : Word) (f : Frame)
  /-- A Ranolink flit that carries no message (R308, R309). -/
  | flit (bytes : List Byte)
  /-- An I3C in-band interrupt with its mandatory byte, and the answer to ENTDAA (R420, R457). -/
  | ibi (byte : Nat)
  | daa (pid addr : Nat)
deriving DecidableEq, Repr

/-- Everything but the fuses and the command queue. -/
structure Dev where
  regs : List (Nat × Word)
  tiles : Tiles
  mem : Mem
  hub : Hub
  rnl : Rnl
  fab : Fab
  ledger : Ledger
  /-- Activation sets by number. -/
  sets : List (Nat × ActSet)
  tally : Tally
  recov : Rec
  snp : Snp
  pwr : Pwr
  np : Np
  boot : Boot
  pins : Pins
  /-- Campus time: nanoseconds and the fraction in 2^-16 ns (R297). -/
  ns : Nat
  frac : Nat
  /-- The reference clock's count in ns when campus time was last brought up to date. -/
  clock : Nat
  /-- Uses made of free values so far (log 3). -/
  free : Nat
  out : List Out
  /-- A thermal trip has stopped every clock (R420). -/
  tripped : Bool
  power : Power
deriving DecidableEq, Repr

/-- The state of the machine. -/
structure State where
  pending : List Instr
  dev : Dev
  fuses : Fuses
deriving DecidableEq, Repr

/-- The block has no fault that stops it: a fault puts a context into FAULTED (R51) or completes a
command with a status (R353). -/
inductive Fault
deriving DecidableEq, Repr

/-- Why the model answers no next state. -/
inductive Refusal
  /-- Raised by an arm of `exec` for a command that has no meaning yet; safe. -/
  | notModelled (mnemonic : String)
deriving DecidableEq, Repr

/-- What register `key` reads as before anything is written to it (the reset values of the maps). -/
def keyReset (key : Nat) : Word :=
  match Reg.all.find? (fun r => r.code == key / 65536) with
  | some r => toW r.info.reset
  | none => 0

/-- The tiles after power-up (Table TIL-11). -/
def Tiles.reset : Tiles where
  ctxs := []
  slots := []
  rings := []
  acc := []
  accRows := []
  mmaQ := []
  array := []
  sram := []
  sramBad := []
  l1 := []
  watch := []
  launches := 0

/-- Memory after power-up: nothing trained, nothing wiped (R176, R188, R189). -/
def Mem.reset : Mem where
  bytes := []
  lineErr := []
  tagErr := []
  overwritten := []
  corrCnt := []
  bandMap := []
  busy := []
  qc := []
  tlb := []
  scrubPos := []
  scrubPasses := []
  scrubStart := []
  scrubPeriod := []
  scrubForced := []
  chanTrained := []
  chanFailed := []
  chanWiped := []

/-- The hub after reset (Table CMD-11). -/
def Hub.reset : Hub where
  queues := []
  sems := []
  waiters := []
  barriers := []
  gens := []
  rrAsid := []
  rrQueue := []
  rrPart := []
  shares := []
  accepted := 0
  asidLocked := []

/-- Ranolink after reset: DOWN (R325). -/
def Rnl.reset : Rnl where
  naks := []
  reqs := []
  rspQ := []
  reqQ := []
  mgtQ := []
  credit := []
  devReqs := []
  arrived := []
  fresh := []
  nextTag := 0
  filter := []
  snoops := []
  evtQ := []
  evtSeq := []
  lostBefore := false
  lostLines := []
  lostSince := 0
  startDue := true
  wasUp := false
  downAt := 0
  trainAt := 0
  recoverAt := 0
  lastTraffic := 0

def Port.reset : Port where
  lseq := 0
  rxSeq := 0
  unacked := []
  linkQ := []
  ackDue := false
  nakDue := false
  owed := []
  credit := []
  ceiling := 256
  bucket := ⟨0x4000000, 0⟩
  downAt := 0
  startAt := 0
  trainAt := 0
  init := false
  calAt := 0

def FabPart.reset : FabPart where
  fence := []
  beyond := []
  overflow := false
  routes := []
  wraps := []
  incs := 0
  bell := none
  lastBell := none

/-- The fabric after power-up: every port DOWN, no identity (R303, Table FAB-11). -/
def Fab.reset : Fab where
  ports := []
  lowFibres := []
  tx := []
  rx := []
  opens := []
  xacts := []
  ctlQ := []
  parts := []
  groups := []
  edits := []
  measuredAt := 0
  goodRun := 0
  slew := 0
  freq := 0
  setNext := none
  ppsOut := false
  sync := none
  delayOut := none
  delayReq := none
  interval := 1000000000
  pathDelay := 0

/-- Every entry ABSENT (R219). -/
def Ledger.reset : Ledger := ⟨[], [], [], []⟩

/-- No context is open (R266). -/
def Tally.reset : Tally := ⟨[], []⟩

/-- A header with nothing filled in. -/
def DumpHead.empty : DumpHead :=
  ⟨0, 0, 0, 0, 0, false, 0, 0, 0, 0, 0, 0, 0, 0, 0, 0, 0, []⟩

/-- No dump, recovery or reset under way. -/
def Rec.reset : Rec := ⟨0, [], [], [], [], [], [], []⟩

def Repl.reset : Repl := ⟨[], [], 0, [], 0, [], false⟩

/-- The snapshot engine after reset; the drive is empty (log 8). -/
def Snp.reset : Snp := ⟨[], [], 0, 0, false, [], [], []⟩

/-- The power controller after a power cycle (Table PWR-6). -/
def Pwr.reset : Pwr where
  hints := []
  history := []
  compute := 0
  oneSince := none
  interval := []
  predictor := []
  raised := false
  droop := []
  soft := []
  held := []
  failHold := false
  nightOff := none
  wakeHeld := false
  busyAt := 0

/-- The Night Porter once it has started (R423, Table PKG-4). -/
def Np.reset : Np where
  on := true
  samples := []
  since := []
  taken := []
  trayCap := 64
  lastIbi := 0
  cycleAsked := false
  failAsserted := false
  addr := none
  pos := 0
  timeHeld := false

def Boot.reset : Boot := ⟨[], 0, 0, 0, 0, none, false⟩

/-- Pins as the tray drives them once the package runs (log 9); the test port after its own reset (R459,
log 10). -/
def Pins.reset : Pins := ⟨true, false, true, .idcode⟩

/-- The fuses of a part that has left wafer test: BLANK, with its identity and key hashes fused and
nothing else burnt (log 6). -/
def Fuses.blank : Fuses where
  uid := Config.chipUid
  prov := 0
  depl := 0
  ret := 0
  keyHash := (List.range 4).map Config.keyHash
  revoked := [0, 0, 0, 0]
  svn := 0
  uds := 0
  pIter := 0
  qIter := 0

/-- The registers after power-up: every one at its reset value, and partition 0 of layout ONE in reset
until its wipe is done (CHIP_PART_STATUS.IN_RESET, R42). -/
def bootRegs : List (Nat × Word) :=
  (List.range 24).foldl (fun m s => mset 0 m (Reg.key .mcStatus s 0) 0x40000)
    [(Reg.key .chipPartStatus 0 0, 0x10000)]

/-- The hub's clocks run: power is good, no reset is held, no thermal trip, and the device is not in
NIGHT (R416, R420, R452, R453). -/
def Dev.live (d : Dev) : Bool :=
  d.pins.railGood && !d.pins.resetHeld && !d.tripped && d.power != .night

/-- The device right after power-up, boot beginning (R425). -/
def Dev.reset : Dev where
  regs := bootRegs
  tiles := Tiles.reset
  mem := Mem.reset
  hub := Hub.reset
  rnl := Rnl.reset
  fab := Fab.reset
  ledger := Ledger.reset
  sets := []
  tally := Tally.reset
  recov := Rec.reset
  snp := Snp.reset
  pwr := Pwr.reset
  np := Np.reset
  boot := Boot.reset
  pins := Pins.reset
  ns := 0
  frac := 0
  clock := 0
  free := 0
  out := []
  tripped := false
  power := .active

/-- The machine right after reset. -/
def State.reset : State where
  pending := []
  dev := Dev.reset
  fuses := Fuses.blank

end Sys2Proof.Machine
end

