-- ==== Sys2Proof/Machine/Status.lean ====
section
/-!
DEFINITION. The status codes of the chapters' tables (R353, Table CMD-9 gives the classes).
-/

namespace Sys2Proof.Machine

/-- OK -/
def stOk : Nat := 0x0000
/-- TALLY_LATE_DROPPED -/
def stTallyLateDropped : Nat := 0x0031
/-- TALLY_LATE_CARRIED -/
def stTallyLateCarried : Nat := 0x0032
/-- TALLY_STALE -/
def stTallyStale : Nat := 0x0033
/-- DISPATCH_DROPPED -/
def stDispatchDropped : Nat := 0x0034
/-- RESTORE_UNCOMPARED -/
def stRestoreUncompared : Nat := 0x0035
/-- HINT_LATE -/
def stHintLate : Nat := 0x0036
/-- OPCODE_RESERVED -/
def stOpcodeReserved : Nat := 0x0101
/-- HEADER_RESERVED -/
def stHeaderReserved : Nat := 0x0102
/-- SEQUENCE_MISMATCH -/
def stSequenceMismatch : Nat := 0x0103
/-- PARAM_RESERVED -/
def stParamReserved : Nat := 0x0104
/-- QUEUE_DESCRIPTOR -/
def stQueueDescriptor : Nat := 0x0105
/-- QUEUE_STATE -/
def stQueueState : Nat := 0x0106
/-- COPY_OVERLAP -/
def stCopyOverlap : Nat := 0x0107
/-- PARTITION_VIOLATION -/
def stPartitionViolation : Nat := 0x0110
/-- ADDR_RANGE -/
def stAddrRange : Nat := 0x0111
/-- TABLE_INVALID -/
def stTableInvalid : Nat := 0x0120
/-- TABLE_KIND_UNKNOWN -/
def stTableKindUnknown : Nat := 0x0121
/-- BAND_RANGE -/
def stBandRange : Nat := 0x0130
/-- PAGE_MODE_INVALID -/
def stPageModeInvalid : Nat := 0x0140
/-- PAGE_ENTRY_STATE -/
def stPageEntryState : Nat := 0x0141
/-- FRAME_RANGE -/
def stFrameRange : Nat := 0x0142
/-- PAGE_READ_ONLY -/
def stPageReadOnly : Nat := 0x0143
/-- PAGE_NOT_REPLAYABLE -/
def stPageNotReplayable : Nat := 0x0144
/-- ACT_SET_STATE -/
def stActSetState : Nat := 0x0150
/-- SATCHEL_PARAM -/
def stSatchelParam : Nat := 0x0151
/-- SATCHEL_CAPACITY -/
def stSatchelCapacity : Nat := 0x0152
/-- SATCHEL_STREAM -/
def stSatchelStream : Nat := 0x0153
/-- SCALE_RECORD -/
def stScaleRecord : Nat := 0x0154
/-- GATHER_PARAM -/
def stGatherParam : Nat := 0x0155
/-- COMMAND_NOT_REPLAYABLE -/
def stCommandNotReplayable : Nat := 0x0156
/-- TALLY_PARAM -/
def stTallyParam : Nat := 0x0160
/-- TALLY_CONTEXT_STATE -/
def stTallyContextState : Nat := 0x0161
/-- GROUP_PARAM -/
def stGroupParam : Nat := 0x0170
/-- GROUP_BUSY -/
def stGroupBusy : Nat := 0x0171
/-- DISPATCH_PARAM -/
def stDispatchParam : Nat := 0x0172
/-- BELL_PARAM -/
def stBellParam : Nat := 0x0173
/-- HINT_PARAM -/
def stHintParam : Nat := 0x0174
/-- DUMP_PARAM -/
def stDumpParam : Nat := 0x0180
/-- SNAP_PARAM -/
def stSnapParam : Nat := 0x0190
/-- SNAP_REGION -/
def stSnapRegion : Nat := 0x0191
/-- RING_FULL -/
def stRingFull : Nat := 0x0201
/-- DOORBELL_INVALID -/
def stDoorbellInvalid : Nat := 0x0202
/-- QUEUE_OFF -/
def stQueueOff : Nat := 0x0203
/-- QUEUE_ASID -/
def stQueueAsid : Nat := 0x0204
/-- LEDGER_NO_FREE -/
def stLedgerNoFree : Nat := 0x0210
/-- REFCOUNT_LIMIT -/
def stRefcountLimit : Nat := 0x0211
/-- HINT_TABLE_FULL -/
def stHintTableFull : Nat := 0x0212
/-- MANIFEST_FORMAT -/
def stManifestFormat : Nat := 0x0301
/-- SRAM_RANGE -/
def stSramRange : Nat := 0x0302
/-- ALIGNMENT -/
def stAlignment : Nat := 0x0303
/-- RING_INVALID -/
def stRingInvalid : Nat := 0x0304
/-- ITINERARY_INVALID -/
def stItineraryInvalid : Nat := 0x0305
/-- ITINERARY_COUNT -/
def stItineraryCount : Nat := 0x0306
/-- ITINERARY_SPAN -/
def stItinerarySpan : Nat := 0x0307
/-- SLOT_LIMIT -/
def stSlotLimit : Nat := 0x0308
/-- SEMAPHORE_RANGE -/
def stSemaphoreRange : Nat := 0x0309
/-- ACC_BUSY -/
def stAccBusy : Nat := 0x030A
/-- MANIFEST_FETCH -/
def stManifestFetch : Nat := 0x030B
/-- SLOT_BUSY -/
def stSlotBusy : Nat := 0x030C
/-- ILLEGAL_INSTRUCTION -/
def stIllegalInstruction : Nat := 0x0401
/-- OPERAND_FAULT -/
def stOperandFault : Nat := 0x0402
/-- SFU_PROGRAM_EMPTY -/
def stSfuProgramEmpty : Nat := 0x0403
/-- DRAIN_CHAIN_INVALID -/
def stDrainChainInvalid : Nat := 0x0404
/-- SEMAPHORE_UNDECLARED -/
def stSemaphoreUndeclared : Nat := 0x0405
/-- ITINERARY_BOUND -/
def stItineraryBound : Nat := 0x0406
/-- MCAST_MISMATCH -/
def stMcastMismatch : Nat := 0x0407
/-- RING_FAULT -/
def stRingFault : Nat := 0x0408
/-- ITINERARY_STATE -/
def stItineraryState : Nat := 0x0409
/-- TRANSLATION_FAULT -/
def stTranslationFault : Nat := 0x0410
/-- PERMISSION_FAULT -/
def stPermissionFault : Nat := 0x0411
/-- ADDRESS_UNMAPPED -/
def stAddressUnmapped : Nat := 0x0412
/-- CHECK_STORE_ACCESS -/
def stCheckStoreAccess : Nat := 0x0413
/-- WINDOW_FAULT -/
def stWindowFault : Nat := 0x0414
/-- MISALIGNED -/
def stMisaligned : Nat := 0x0415
/-- MMIO_ACCESS -/
def stMmioAccess : Nat := 0x0416
/-- SRAM_PARITY -/
def stSramParity : Nat := 0x0420
/-- BARRIER_MISMATCH -/
def stBarrierMismatch : Nat := 0x0430
/-- SIGNBOARD_PARAM_EMPTY -/
def stSignboardParamEmpty : Nat := 0x0431
/-- DRAM_UNCORRECTABLE -/
def stDramUncorrectable : Nat := 0x0440
/-- DRAM_CRC -/
def stDramCrc : Nat := 0x0441
/-- DRAM_TAG -/
def stDramTag : Nat := 0x0442
/-- BAND_BUSY -/
def stBandBusy : Nat := 0x0443
/-- DUMP_REGION_WRITE -/
def stDumpRegionWrite : Nat := 0x0444
/-- FIRMWARE_AREA_WRITE -/
def stFirmwareAreaWrite : Nat := 0x0445
/-- SATCHEL_CHECK -/
def stSatchelCheck : Nat := 0x0450
/-- TALLY_CHECK_MISMATCH -/
def stTallyCheckMismatch : Nat := 0x0460
/-- COMMAND_TIMEOUT -/
def stCommandTimeout : Nat := 0x0501
/-- WAIT_TIMEOUT -/
def stWaitTimeout : Nat := 0x0502
/-- FABRIC_TIMEOUT -/
def stFabricTimeout : Nat := 0x0601
/-- TARGET_REFUSED -/
def stTargetRefused : Nat := 0x0602
/-- CHIP_ID_INVALID -/
def stChipIdInvalid : Nat := 0x0603
/-- NO_ROUTE -/
def stNoRoute : Nat := 0x0604
/-- JOB_TAG_MISMATCH -/
def stJobTagMismatch : Nat := 0x0606
/-- FLOW_UNKNOWN -/
def stFlowUnknown : Nat := 0x0607
/-- BANK_BUSY -/
def stBankBusy : Nat := 0x0620
/-- PASS_INCOMPLETE -/
def stPassIncomplete : Nat := 0x0621
/-- GATHER_INCOMPLETE -/
def stGatherIncomplete : Nat := 0x0622
/-- TALLY_MEMBER_LOST -/
def stTallyMemberLost : Nat := 0x0630
/-- TALLY_STEP_AHEAD -/
def stTallyStepAhead : Nat := 0x0631
/-- TALLY_NOT_OPEN -/
def stTallyNotOpen : Nat := 0x0632
/-- TALLY_PARTIAL -/
def stTallyPartial : Nat := 0x0633
/-- MEMBER_LOST -/
def stMemberLost : Nat := 0x0640
/-- SOURCE_FENCED -/
def stSourceFenced : Nat := 0x0641
/-- NOT_ADMITTED -/
def stNotAdmitted : Nat := 0x0642
/-- TIME_NOT_LOCKED -/
def stTimeNotLocked : Nat := 0x0650
/-- RANOLINK_DOWN -/
def stRanolinkDown : Nat := 0x0660
/-- RANOLINK_ABORT -/
def stRanolinkAbort : Nat := 0x0661
/-- PARTITION_IN_RESET -/
def stPartitionInReset : Nat := 0x0663
/-- DRIVE_ERROR -/
def stDriveError : Nat := 0x0701
/-- REPLICA_INCOMPLETE -/
def stReplicaIncomplete : Nat := 0x0702
/-- NO_VALID_SLOT -/
def stNoValidSlot : Nat := 0x0703
/-- CHUNK_HASH_MISMATCH -/
def stChunkHashMismatch : Nat := 0x0704
/-- RESTORE_BUSY -/
def stRestoreBusy : Nat := 0x0705
/-- SOURCE_LOST -/
def stSourceLost : Nat := 0x0706
/-- SLOT_TOO_SMALL -/
def stSlotTooSmall : Nat := 0x0707
/-- SNAP_STATE -/
def stSnapState : Nat := 0x0708
/-- REPLICA_MISMATCH -/
def stReplicaMismatch : Nat := 0x0709
/-- NOT_HASHED -/
def stNotHashed : Nat := 0x070A
/-- DRIVE_ABSENT -/
def stDriveAbsent : Nat := 0x070B
/-- LAYOUT_MISMATCH -/
def stLayoutMismatch : Nat := 0x070C
/-- IMAGE_FORMAT -/
def stImageFormat : Nat := 0x0801
/-- IMAGE_RSA -/
def stImageRsa : Nat := 0x0802
/-- IMAGE_SLHDSA -/
def stImageSlhdsa : Nat := 0x0803
/-- KEY_INVALID -/
def stKeyInvalid : Nat := 0x0804
/-- IMAGE_ROLLBACK -/
def stImageRollback : Nat := 0x0805
/-- LC_NOT_ALLOWED -/
def stLcNotAllowed : Nat := 0x0806
/-- TOKEN_INVALID -/
def stTokenInvalid : Nat := 0x0807
/-- NOT_PRIVILEGED -/
def stNotPrivileged : Nat := 0x0808
/-- NO_IDENTITY -/
def stNoIdentity : Nat := 0x0809
/-- SECURITY_BUSY -/
def stSecurityBusy : Nat := 0x080A
/-- NO_CHALLENGE -/
def stNoChallenge : Nat := 0x080B
/-- LEDGER_INTERRUPTED -/
def stLedgerInterrupted : Nat := 0x0901
/-- OFFLOAD_INTERRUPTED -/
def stOffloadInterrupted : Nat := 0x0902
/-- TALLY_INTERRUPTED -/
def stTallyInterrupted : Nat := 0x0903
/-- FABRIC_INTERRUPTED -/
def stFabricInterrupted : Nat := 0x0904
/-- COMMAND_FLUSHED -/
def stCommandFlushed : Nat := 0x0905
/-- COMMAND_INTERRUPTED -/
def stCommandInterrupted : Nat := 0x0906
/-- SUSPECT_NOT_REPLAYABLE -/
def stSuspectNotReplayable : Nat := 0x0907
/-- SNAPSHOT_INTERRUPTED -/
def stSnapshotInterrupted : Nat := 0x0908

/-- The class of a status: its high byte (R353). -/
def statusClass (st : Nat) : Nat := st / 256

end Sys2Proof.Machine
end

