-- ==== Sys2Proof/Machine/Ops.lean ====
section
/-!
DEFINITION. The named operations over registers, contexts, partitions, events and semaphores that
every family uses.
-/

namespace Sys2Proof.Machine

/-! ### The register file (R10, R11) -/

/-- The value a register holds. -/
def rget (d : Dev) (r : Reg) (inst : Nat := 0) (i : Nat := 0) : Word :=
  mget (toW r.info.reset) d.regs (r.key inst i)

/-- Sets the value a register holds. -/
def rset (d : Dev) (r : Reg) (inst i : Nat) (v : Word) : Dev :=
  { d with regs := mset (toW r.info.reset) d.regs (r.key inst i) v }

/-- Field `[hi:lo]` of a register. -/
def rfield (d : Dev) (r : Reg) (inst i hi lo : Nat) : Nat := wbits (rget d r inst i) hi lo

/-- Sets field `[hi:lo]` of a register. -/
def rsetf (d : Dev) (r : Reg) (inst i hi lo v : Nat) : Dev :=
  rset d r inst i (wsetBits (rget d r inst i) hi lo v)

/-- Adds to a counting field, which saturates at all ones. -/
def rcount (d : Dev) (r : Reg) (inst i hi lo n : Nat) : Dev :=
  rsetf d r inst i hi lo (min (2 ^ (hi + 1 - lo) - 1) (rfield d r inst i hi lo + n))

/-- Adds to a register that wraps at 64 bits. -/
def rwrap (d : Dev) (r : Reg) (inst i n : Nat) : Dev :=
  rset d r inst i (rget d r inst i + toW n)

/-! ### Free values (log 3) -/

/-- The next free value and the state that has used it. -/
def freeW (d : Dev) : Word × Dev := (Config.freeValue d.free, { d with free := d.free + 1 })

/-- A free choice between two outcomes. -/
def freeBit (d : Dev) : Bool × Dev := ((Config.freeValue d.free).getLsbD 0, { d with free := d.free + 1 })

/-! ### Quarters, partitions, ownership (R18, R19) -/

/-- The layout in force: 0 ONE, 1 TWO, 2 FOUR (CHIP_PART_STATUS.LAYOUT). -/
def layout (d : Dev) : Nat := rfield d .chipPartStatus 0 0 1 0

/-- The partition that holds a quarter (Table HIE-2). -/
def partOfQuarter (d : Dev) (q : Nat) : Nat :=
  match layout d with
  | 0 => 0
  | 1 => q / 2
  | _ => q

/-- Number of partitions of the layout. -/
def partCount (d : Dev) : Nat :=
  match layout d with
  | 0 => 1
  | 1 => 2
  | _ => 4

/-- The quarters of a partition, lowest first (Table HIE-2). -/
def quartersOf (d : Dev) (p : Nat) : List Nat :=
  (List.range 4).filter fun q => partOfQuarter d q == p

def quarterOfTile (t : Nat) : Nat := t / 16
def partOfTile (d : Dev) (t : Nat) : Nat := partOfQuarter d (t / 16)
def partOfCtx (d : Dev) (c : Nat) : Nat := partOfTile d (c / 8)
def partOfQueue (d : Dev) (q : Nat) : Nat := partOfQuarter d (q / 65536)
def partOfAsid (d : Dev) (a : Nat) : Nat := partOfQuarter d (a / 1024)
def partOfSem (d : Dev) (n : Nat) : Nat := partOfQuarter d (n / 32768)
def partOfGroup (d : Dev) (g : Nat) : Nat := partOfQuarter d (g / 1024)
def partOfFrame (d : Dev) (f : Nat) : Nat := partOfQuarter d (f / 131072)

/-- Bytes of DRAM in a quarter (R26). -/
def quarterBytes : Nat := 0x4800000000
def dramEnd : Nat := 4 * quarterBytes

/-- The kinds of physical address (Table HIE-4). -/
inductive Region
  | dram (quarter : Nat)
  | mmio
  | doorbell (queue : Nat)
  | window
  | unmapped
deriving DecidableEq, Repr

/-- The row of Table HIE-4 in which a physical address falls (R25). -/
def regionOf (pa : Nat) : Region :=
  if pa < dramEnd then .dram (pa / quarterBytes)
  else if 0x400000000000 ≤ pa ∧ pa < 0x400100000000 then .mmio
  else if 0x400100000000 ≤ pa ∧ pa < 0x400140000000 then .doorbell ((pa - 0x400100000000) / 0x1000)
  else if 0x800000000000 ≤ pa ∧ pa < 0xC00000000000 then .window
  else .unmapped

/-- Partition `p` is READY (R42). -/
def isReady (d : Dev) (p : Nat) : Bool := wbit (rget d .chipPartStatus) (20 + p)

/-- Partition `p` is in reset or wiping. -/
def inReset (d : Dev) (p : Nat) : Bool := wbit (rget d .chipPartStatus) (16 + p)

/-- Partition `p` runs THREADED (R40). -/
def threaded (d : Dev) (p : Nat) : Bool := wbit (rget d .chipPartStatus) (4 + p)

/-- The tiles' clocks run: no thermal trip and a power state ACTIVE or IDLE (R416, R420). -/
def tilesRun (d : Dev) : Bool := !d.tripped && (d.power == .active || d.power == .idle)

/-- Partition `p` is in the hold before a reset, or past it and waiting for the reset (R368). -/
def partHeld (d : Dev) (p : Nat) : Bool :=
  d.recov.resets.any fun r =>
    (r.stage == .holding || r.stage == .due || r.stage == .replying) && (r.dom == p || decide (4 ≤ r.dom))

/-- Command `k` of queue `q` is a suspect that is not settled (R370, R371). -/
def isSuspect (d : Dev) (q k : Nat) : Bool :=
  d.recov.engines.any fun r => r.suspects.contains (q, k)

/-! ### Contexts -/

def tileOf (c : Nat) : Nat := c / 8
def slotOf (c : Nat) : Nat := c % 8

def ctxAt (d : Dev) (c : Nat) : Ctx := mget Ctx.reset d.tiles.ctxs c

def setCtx (d : Dev) (c : Nat) (x : Ctx) : Dev :=
  { d with tiles.ctxs := mset Ctx.reset d.tiles.ctxs c x }

def updCtx (d : Dev) (c : Nat) (f : Ctx → Ctx) : Dev := setCtx d c (f (ctxAt d c))

/-- The contexts of a tile. -/
def tileCtxs (t : Nat) : List Nat := (List.range 8).map (8 * t + ·)

/-- A scalar register: S0 reads as 0 (R45). -/
def Ctx.sreg (x : Ctx) (i : Nat) : Word := if i = 0 then 0 else mget 0 x.sregs i

/-- Writes a scalar register; a write to S0 is ignored (R45). -/
def Ctx.setSreg (x : Ctx) (i : Nat) (v : Word) : Ctx :=
  if i = 0 then x else { x with sregs := mset 0 x.sregs i v }

/-- A predicate: P0 reads as 1 (R45). -/
def Ctx.pred (x : Ctx) (i : Nat) : Bool := if i = 0 then true else x.preds.testBit i

/-- Writes a predicate; a write to P0 is ignored (R45). -/
def Ctx.setPred (x : Ctx) (i : Nat) (b : Bool) : Ctx :=
  if i = 0 then x else { x with preds := setBits x.preds i i b.toNat }

def Ctx.vreg (x : Ctx) (i : Nat) : VReg := mget 0 x.vregs i
def Ctx.setVreg (x : Ctx) (i : Nat) (v : VReg) : Ctx := { x with vregs := mset 0 x.vregs i v }

/-- The rounding key registers (R96). -/
def Ctx.srKey (x : Ctx) : SrKey :=
  ⟨(x.sreg 28).toNat, wbits (x.sreg 29) 31 0, wbits (x.sreg 30) 31 0, (x.sreg 27).toNat⟩

def Ctx.addFlags (x : Ctx) (f : Flags) : Ctx := { x with flags := x.flags.or f }

/-- Engine numbers of TILE_CTX_FAULT.ENGINE. -/
inductive Eng
  | scalar | mem | matrix | vector | sfu | drain | stream | sync | fabric
deriving DecidableEq, Repr

def Eng.code : Eng → Nat
  | .scalar => 0
  | .mem => 1
  | .matrix => 2
  | .vector => 3
  | .sfu => 4
  | .drain => 5
  | .stream => 6
  | .sync => 7
  | .fabric => 8

/-- The sticky flags of a context go into TILE_NUM_FLAGS (R91). -/
def foldNumFlags (d : Dev) (c : Nat) : Dev :=
  let f := (ctxAt d c).flags
  let v := f.flush.toNat + 2 * f.ovf.toNat + 4 * f.nangen.toNat
  rset d .tileNumFlags (tileOf c) 0 (rget d .tileNumFlags (tileOf c) ||| toW v)

/-- The address of the next instruction after one at `pc` that ends at `next`: the innermost loop
whose body ends there starts its next pass or is left (R55, log 12). -/
def loopNext : Nat → List Loop → Nat × List Loop
  | next, [] => (next, [])
  | next, l :: ls =>
    if next = l.stop then
      if 1 < l.left then (l.start, { l with left := l.left - 1 } :: ls)
      else loopNext next ls
    else (next, l :: ls)

/-- Moves a context's PC to `next`. -/
def Ctx.goto (x : Ctx) (next : Nat) : Ctx :=
  let (pc, ls) := loopNext (next % 2 ^ 48) x.loops
  { x with pc := pc, loops := ls }

/-- Moves a context past the instruction at its PC. -/
def Ctx.advance (x : Ctx) : Ctx := x.goto (x.pc + 8)

/-! ### Events to the companion (R323) -/

/-- RNL_LINK_STATUS.STATE. -/
def linkState (d : Dev) : Nat := rfield d .rnlLinkStatus 0 0 3 0

/-- The link carries messages: ACTIVE, in L0 (Table RNL-2, R324). -/
def linkUp (d : Dev) : Bool := linkState d == 4

/-- The link keeps its state: ACTIVE, in RECOVERY or in L1 (R309, R324). -/
def linkKept (d : Dev) : Bool := linkState d == 4 || linkState d == 5 || linkState d == 6

/-- A message of class REQ, SNP or EVT, which counts as traffic (R324). -/
def isTraffic (m : Msg) : Bool := [0x01, 0x02, 0x03, 0x04, 0x05, 0x06, 0x10, 0x11, 0x18].contains m.type

/-- Appends a message to what leaves the device. -/
def emit (d : Dev) (o : Out) : Dev :=
  let d := match o with
    | .rnl m => if isTraffic m then { d with rnl.lastTraffic := d.clock } else d
    | _ => d
  { d with out := d.out ++ [o] }

/-- Message classes with credit (R312). -/
inductive MsgClass
  | req | rsp | snp | srsp | evt
deriving DecidableEq, Repr

def MsgClass.code : MsgClass → Nat
  | .req => 0
  | .rsp => 1
  | .snp => 2
  | .srsp => 3
  | .evt => 4

def rnlCredit (d : Dev) (k : MsgClass) : Nat := mget 0 d.rnl.credit k.code

/-- Credit units of a message with `len` lines of data: header and data in 64-byte units (R312,
log 13). -/
def msgUnits (len : Nat) : Nat := len + 1

def useCredit (d : Dev) (k : MsgClass) (n : Nat) : Dev :=
  { d with rnl.credit := mset 0 d.rnl.credit k.code (rnlCredit d k - n) }

/-- The EVENT message of Table RNL-7. -/
def eventMsg (ws : List Word) : Msg :=
  ⟨0x18, false, false, 0, 0, 0, wbits (ws.headD 0) 15 0, (ws.map fun w => leBytes 8 w.toNat).flatten⟩

/-- Sends waiting events while the link is up and EVT credit lasts (R312, R323). -/
def sendEvents : Nat → Dev → Dev
  | 0, d => d
  | n + 1, d =>
    match d.rnl.evtQ with
    | [] => d
    | e :: es =>
      if linkUp d && 2 ≤ rnlCredit d .evt then
        sendEvents n (emit (useCredit { d with rnl.evtQ := es } .evt 2) (.rnl (eventMsg e)))
      else d

/-- Events a QUEUE of 4,096 can hold (R323). -/
def evtMax : Nat := 4096

/-- Raises an event of partition `p` with words 2 to 7 (R323). -/
def postEvent (d : Dev) (p code : Nat) (words : List Word) : Dev :=
  let seq := mget 0 d.rnl.evtSeq p
  let d := { d with rnl.evtSeq := mset 0 d.rnl.evtSeq p ((seq + 1) % 2 ^ 32) }
  if evtMax ≤ d.rnl.evtQ.length then
    let d := { d with rnl.lostBefore := true, rnl.lostSince := d.rnl.lostSince + 1 }
    rcount d .rnlEvtStatus 0 0 31 16 1
  else
    let w0 := toW (code + p * 2 ^ 16 + d.rnl.lostBefore.toNat * 2 ^ 18 + seq * 2 ^ 32)
    let e := w0 :: toW d.ns :: (words ++ List.replicate (6 - words.length) 0)
    sendEvents evtMax
      { d with rnl.evtQ := d.rnl.evtQ ++ [e], rnl.lostBefore := false }

/-! ### Slots, rings -/

def slotAt (d : Dev) (t n : Nat) : Slot := mget Slot.reset d.tiles.slots (16 * t + n)

def setSlot (d : Dev) (t n : Nat) (s : Slot) : Dev :=
  { d with tiles.slots := mset Slot.reset d.tiles.slots (16 * t + n) s }

/-- The ring of a tile, if bound. -/
def ringAt (d : Dev) (t r : Nat) : Option Ring :=
  (d.tiles.rings.find? fun e => e.1 == 32 * t + r).map (·.2)

def setRing (d : Dev) (t r : Nat) (x : Ring) : Dev :=
  { d with tiles.rings := mput d.tiles.rings (32 * t + r) x }

def dropRing (d : Dev) (t r : Nat) : Dev :=
  { d with tiles.rings := merase d.tiles.rings (32 * t + r) }

/-! ### Generation-tagged tables (R125, R214, R294) -/

/-- The kinds of generation-tagged table. -/
inductive TableKind
  | sfu | signboard | dispatch
deriving DecidableEq, Repr

def TableKind.code : TableKind → Nat
  | .sfu => 0
  | .signboard => 1
  | .dispatch => 2

def genAt (d : Dev) (k : TableKind) (p : Nat) : Gen := mget Gen.reset d.hub.gens (4 * k.code + p)

def setGen (d : Dev) (k : TableKind) (p : Nat) (g : Gen) : Dev :=
  { d with hub.gens := mset Gen.reset d.hub.gens (4 * k.code + p) g }

/-- The user table in force for a tile, empty in generation 0 (R119, R126). -/
def sfuImage (d : Dev) (t : Nat) : List Byte := (genAt d .sfu (partOfTile d t)).image

/-! ### Queues and commands -/

def queueAt (d : Dev) (q : Nat) : Queue := mget Queue.reset d.hub.queues q

def setQueue (d : Dev) (q : Nat) (x : Queue) : Dev :=
  { d with hub.queues := mset Queue.reset d.hub.queues q x }

/-- Fields of the queue descriptor (Table CMD-1). -/
def Queue.ringPa (x : Queue) : Nat := leAt x.desc 0 6
def Queue.cringPa (x : Queue) : Nat := leAt x.desc 8 6
def Queue.size (x : Queue) : Nat := 2 ^ bits (leAt x.desc 16 8) 4 0
def Queue.csize (x : Queue) : Nat := 2 ^ bits (leAt x.desc 16 8) 9 5
def Queue.prio (x : Queue) : Nat := bits (leAt x.desc 16 8) 11 10
def Queue.stopOnError (x : Queue) : Bool := bit (leAt x.desc 16 8) 12
def Queue.notify (x : Queue) : Bool := bit (leAt x.desc 16 8) 13
def Queue.asid (x : Queue) : Nat := bits (leAt x.desc 16 8) 27 16
def Queue.quantum (x : Queue) : Nat := bits (leAt x.desc 16 8) 47 32
def Queue.inflightMax (x : Queue) : Nat := bits (leAt x.desc 16 8) 54 48
def Queue.shadowPa (x : Queue) : Nat := leAt x.desc 24 6
def Queue.notifyUs (x : Queue) : Nat := leAt x.desc 30 2
def Queue.tclass (x : Queue) (c : Nat) : Nat := leAt x.desc (32 + 2 * c) 2

/-- Fields of a command packet (Table CMD-4). -/
def Cmd.flag (x : Cmd) (i : Nat) : Bool := bit (leAt x.data 2 2) i
def Cmd.replayable (x : Cmd) : Bool := x.flag 0
def Cmd.fence (x : Cmd) : Bool := x.flag 1
def Cmd.wantsReply (x : Cmd) : Bool := x.flag 2
def Cmd.hinted (x : Cmd) : Bool := x.flag 3
def Cmd.tclass (x : Cmd) : Nat := leAt x.data 8 2 % 16
def Cmd.hint (x : Cmd) : Nat := leAt x.data 10 2
/-- Parameter `i` (0 to 5). -/
def Cmd.param (x : Cmd) (i : Nat) : Nat := leAt x.data (16 + 8 * i) 8

/-- Command `k` of queue `q`, if it is accepted and not retired. -/
def cmdAt (d : Dev) (q k : Nat) : Option Cmd := (queueAt d q).cmds.find? fun x => x.seq == k

/-- Replaces command `k` of queue `q`. -/
def updCmd (d : Dev) (q k : Nat) (f : Cmd → Cmd) : Dev :=
  let x := queueAt d q
  setQueue d q { x with cmds := x.cmds.map fun y => if y.seq = k then f y else y }

/-- The gates of R340. -/
def isGate (y : Cmd) : Bool := y.gateFail || y.opcode == 0x0302 || y.opcode == 0x0303

/-- Started commands that have not retired. -/
def Queue.inflight (x : Queue) : Nat := (x.cmds.filter (·.began)).length

/-- The oldest unstarted command, once accepted, and whether it meets R340. A BARRIER behaves as though FENCE
were set (R345). -/
def Queue.ready (x : Queue) : Option Cmd :=
  let before := x.cmds.takeWhile fun y => y.st != .accepted
  match x.cmds.find? fun y => y.st == .accepted with
  | none => none
  | some y =>
    if x.state = .run ∧ x.inflight < x.inflightMax ∧ (y.fence = false ∧ y.opcode ≠ 0x0303 ∨ before = []) ∧
        before.all (fun z => !isGate z || z.st == .finished) = true then some y
    else none

/-- Keeps since when the head has been ready; a queue whose head is not ready has no deficit (R346). -/
def Queue.noteHead (x : Queue) (now : Nat) : Queue :=
  match x.ready with
  | some h =>
    { x with cmds := x.cmds.map fun y =>
        if y.seq = h.seq then { y with readyAt := some (h.readyAt.getD now) } else y }
  | none =>
    { x with
      deficit := 0
      cmds := x.cmds.map fun y => if y.st = .accepted then { y with readyAt := none } else y }

/-- The engine of a command has done its work (R341). -/
def finishCmd (d : Dev) (q k status : Nat) (result : Word) : Dev :=
  let d := updCmd d q k fun x =>
    if x.st = .finished then x
    else { x with st := .finished, status := status, result := result, finish := d.ns }
  setQueue d q ((queueAt d q).noteHead d.clock)

/-! ### Semaphores (R342) -/

def semAt (d : Dev) (n : Nat) : Word := mget 0 d.hub.sems n

/-! ### Where an itinerary slot stands (R135, R136) -/

/-- The program counter after one that reaches `pc`. -/
def itNext : Nat → List ItLoop → Nat × List ItLoop
  | pc, [] => (pc, [])
  | pc, l :: ls =>
    if pc = l.stop then
      if l.k + 1 < l.count then (l.first, { l with k := l.k + 1 } :: ls) else itNext pc ls
    else (pc, l :: ls)

/-- Moves a slot past the instruction at its PC. -/
def Slot.advance (s : Slot) : Slot :=
  let (pc, ls) := itNext (s.pc + 1) s.loops
  { s with pc := pc, loops := ls }

/-- A WAITSEM whose semaphore has reached its threshold: its execution counts and issue resumes
(R136). -/
def Slot.passWait (s : Slot) : Slot :=
  { s.advance with
    state := .running
    waits := mset 0 s.waits s.pc (mget 0 s.waits s.pc + 1) }

/-- Releases a waiter with the value that satisfied it. -/
def release (d : Dev) (v : Word) : Who → Dev
  | .cmd q k => finishCmd d q k stOk v
  | .ctx c =>
    let x := ctxAt d c
    if x.wait = .sem then
      let x : Ctx := { x.advance with wait := .none }
      setCtx d c (if x.state = .waiting then { x with state := .ready } else x)
    else d
  | .slot t n =>
    let s := slotAt d t n
    if s.state = .waitSem then setSlot d t n s.passWait else d

/-- Takes the waiters that value `v` of semaphore `n` satisfies, in order (R342). -/
def wakeWaiters (d : Dev) (n : Nat) (v : Word) : Dev :=
  let hit (w : Waiter) : Bool := w.sem == n && decide (w.threshold ≤ v.toNat)
  let ws := d.hub.waiters.filter hit
  let d := { d with hub.waiters := d.hub.waiters.filter fun w => !hit w }
  ws.foldl (fun d w => release d v w.who) d

/-- Writes a semaphore and lets waiters go (R342). -/
def semSet (d : Dev) (n : Nat) (v : Word) : Dev :=
  wakeWaiters { d with hub.sems := mset 0 d.hub.sems n v } n v

/-- Adds to a semaphore modulo 2^64 (R342). -/
def semAdd (d : Dev) (n : Nat) (a : Word) : Dev := semSet d n (semAt d n + a)

/-- Makes `who` wait; answers whether the wait is satisfied at once (R342). -/
def semWait (d : Dev) (n : Nat) (thr : Word) (who : Who) : Bool × Dev :=
  if thr.toNat ≤ (semAt d n).toNat then (true, d)
  else (false, { d with hub.waiters := d.hub.waiters ++ [⟨n, thr.toNat, who⟩] })

/-! ### Partition barriers (R152 to R154) -/

def episodeAt (d : Dev) (p b : Nat) : Option Episode := mget none d.hub.barriers (64 * p + b)

def setEpisode (d : Dev) (p b : Nat) (e : Option Episode) : Dev :=
  { d with hub.barriers := mset none d.hub.barriers (64 * p + b) e }

/-- The number after a generation number, skipping 0 (R125). -/
def genNext (n : Nat) : Nat := if n = 65535 then 1 else n + 1

/-- A barrier's completion swaps a pending table, unless a load of its kind runs (R125). -/
def swapTable (d : Dev) (k : TableKind) (p : Nat) : Dev :=
  let g := genAt d k p
  if g.loading.isSome then setGen d k p { g with deferred := min 65535 (g.deferred + 1) }
  else if g.pending then
    setGen d k p { g with active := genNext g.active, image := g.shadow, pending := false }
  else d

/-- Releases a participant of a completed episode (R152); the result word of a BARRIER command is not
stated, a free value. -/
def releaseBarrier (d : Dev) : Who → Dev
  | .cmd q k =>
    let (v, d) := freeW d
    finishCmd d q k stOk v
  | .ctx c =>
    let x := ctxAt d c
    if x.wait = .barrier then
      let x : Ctx := { x.advance with wait := .none }
      setCtx d c (if x.state = .waiting then { x with state := .ready } else x)
    else d
  | .slot _ _ => d

/-- An arrival at barrier `b` of partition `p` with COUNT `count`; `none` when the count differs
from the open episode's (R153). -/
def arrive (d : Dev) (p b count : Nat) (who : Who) : Option Dev :=
  let e := (episodeAt d p b).getD ⟨count, []⟩
  if e.count ≠ count then none
  else
    let arrived := e.arrived ++ [who]
    if arrived.length = count then
      let d := setEpisode d p b none
      let d := arrived.foldl releaseBarrier d
      some (swapTable (swapTable (swapTable d .sfu p) .signboard p) .dispatch p)
    else some (setEpisode d p b (some ⟨count, arrived⟩))

/-- Withdraws an arrival; an episode with none left closes (R153). -/
def withdraw (d : Dev) (who : Who) : Dev :=
  { d with hub.barriers := d.hub.barriers.filterMap fun e =>
      match e.2 with
      | none => none
      | some ep =>
        let left := ep.arrived.filter (· ≠ who)
        if left.isEmpty then none else some (e.1, some ⟨ep.count, left⟩) }

/-- Removes every wait of a participant. -/
def dropWaits (d : Dev) (who : Who) : Dev :=
  { d with hub.waiters := d.hub.waiters.filter fun w => w.who ≠ who }

/-! ### When a slot stops (R139, R146) -/

/-- The number of a GATHER's index read on another chip, past every element. -/
def gatherNum : Nat := 2 ^ 40

/-- The number a refetch of element `e` of a ring has among the reads of its slot (R73). -/
def refetchNum (ring e : Nat) : Nat := 2 ^ 41 + 32 * e + ring

/-- Changes the element or side read of number `k`. -/
def Slot.updElem (s : Slot) (k : Nat) (f : Elem → Elem) : Slot :=
  let g (e : Elem) : Elem := if e.num = k then f e else e
  { s with flight := s.flight.map g, side := s.side.map g }

/-- No read and no write of the slot is on its way. -/
def Slot.still (s : Slot) : Bool := (s.flight ++ s.side).all fun e => e.xacts == []

/-- A slot that issues nothing more ends once its elements, its index reads and its signals are done (R139,
R142). -/
def settleSlot (d : Dev) (t n : Nat) : Dev :=
  let s := slotAt d t n
  if s.state = .stopping ∧ s.flight.isEmpty ∧ s.signals.isEmpty ∧
      s.side.all (fun e => e.num ≠ gatherNum ∨ e.xacts = []) then
    setSlot d t n { s with
      state := .ended
      stopReq := false
      side := s.side.filter fun e => e.num ≠ gatherNum }
  else d

/-- A slot issues nothing more. -/
def stopSlot (d : Dev) (t n : Nat) : Dev :=
  let d := dropWaits d (.slot t n)
  settleSlot (setSlot d t n { slotAt d t n with state := .stopping }) t n

end Sys2Proof.Machine
end

