-- ==== Sys2Proof/Machine/Memory.lean ====
section
/-!
DEFINITION. Memory as every agent reaches it: bands and check codes (R170 to R174), the read outcomes
of Table MEM-3, whole and partial writes (R178), the snoop filter's gate (R319, R320), address
translation (R30 to R37) and accesses by virtual address. Reads and writes pass the Quarter Cache (R74 to
R76).
-/

namespace Sys2Proof.Machine

/-- What an access waits for: a snoop's answer (R320), a line of the companion window (R313), or
something that needs no message (credit, RECOVERY). -/
inductive Need
  | snoop (line : Nat) (inv : Bool)
  | line (pa : Nat) (coh : Bool)
  | nothing
deriving DecidableEq, Repr

/-- How an access ends when it does not answer: with a status at an address, or by waiting. -/
inductive Stop
  | err (status addr : Nat)
  | wait (n : Need)
deriving DecidableEq, Repr

/-- An access: it changes the device and answers, or stops. -/
abbrev Act := ExceptT Stop (StateM Dev)

def Act.go {α : Type} (a : Act α) (d : Dev) : Except Stop α × Dev := (ExceptT.run a).run d

def Act.fail {α : Type} (status addr : Nat) : Act α := throw (.err status addr)

/-! ### Bands and lines (R170 to R174) -/

def bandBytes : Nat := 0x600000
def bandOf (pa : Nat) : Nat := pa / bandBytes
def bandsPerQuarter : Nat := 49152

/-- The band is CORRECT (R170). -/
def isCorrect (d : Dev) (n : Nat) : Bool := mget false d.mem.bandMap n

/-- Bytes of data in a band (Table MEM-2). -/
def dataLen (correct : Bool) : Nat := if correct then 0x540000 else 0x5D0000

/-- First check row of a band, and data lines per check line (Table MEM-2, R171). -/
def checkRow (correct : Bool) : Nat := if correct then 56 else 62
def linesPerCheck (correct : Bool) : Nat := if correct then 7 else 31

/-- The data line number `L` of an address within its band and channel (R171). -/
def lineNum (pa : Nat) : Nat :=
  let o := pa % bandBytes
  o / 98304 * 16 + o % 1024 / 64

/-- Physical address of the check line that covers a data line (R171). -/
def checkLineOf (correct : Bool) (pa : Nat) : Nat :=
  let j := lineNum pa / linesPerCheck correct
  bandOf pa * bandBytes + (checkRow correct + j / 16) * 98304 + pa % bandBytes % 98304 / 1024 * 1024
    + j % 16 * 64

/-- Channel of the chip and channel offset of a DRAM address (R26). -/
def channelOf (pa : Nat) : Nat × Nat :=
  let o := pa % quarterBytes
  let g := o / 1024
  let c := g % 96
  ((pa / quarterBytes * 6 + c / 16) * 16 + c % 16, g / 96 * 1024 + o % 1024)

/-- The band is busy under BAND_SET (R175). -/
def isBusy (d : Dev) (n : Nat) : Bool := d.mem.busy.any fun r => r.1 ≤ n && n < r.1 + r.2

/-- The band is a dump region or firmware area: the status a software write meets (R365, R426). -/
def closedStatus (n : Nat) : Option Nat :=
  let b := n % bandsPerQuarter
  if 49139 ≤ b then some stDumpRegionWrite
  else if 49135 ≤ b then some stFirmwareAreaWrite
  else none

/-- CRC-16 with generator 0x8BB7, initial value 0 (R174). -/
def crcStep : Nat → Nat → Nat
  | 0, c => c
  | n + 1, c => crcStep n ((if c.testBit 15 then (2 * c) ^^^ 0x8BB7 else 2 * c) % 2 ^ 16)

def crc16 (bs : List Nat) : Nat := bs.foldl (fun c b => crcStep 8 (c ^^^ (b * 256))) 0

/-! #### The Reed-Solomon code of CORRECT bands (R174)

Symbol 0 of a line is the coefficient of the highest power and check symbol 3 that of the lowest; the rule
leaves their order open (log 154). -/

/-- Twice an element of GF(2^16), with field polynomial x^16 + x^12 + x^3 + x + 1. -/
def gfDouble (a : Nat) : Nat := if a.testBit 15 then (2 * a) ^^^ 0x1100B else 2 * a

def gfMul (a b : Nat) : Nat :=
  (List.range 16).foldl (fun r i => if b.testBit (15 - i) then gfDouble r ^^^ a else gfDouble r) 0

/-- `α ^ k`. -/
def gfPow (k : Nat) : Nat := (List.range k).foldl (fun r _ => gfDouble r) 1

/-- The value at `x` of the polynomial with these coefficients, highest power first. -/
def gfEval (cs : List Nat) (x : Nat) : Nat := cs.foldl (fun r c => gfMul r x ^^^ c) 0

/-- The four check symbols of 32 data symbols: the remainder by the generator with roots α^0 to α^3. -/
def rsCheck (data : List Nat) : List Nat :=
  let gen := [1, 2, 3].foldl (fun g j =>
    ((g ++ [0]).zip (0 :: g)).map fun (a, b) => a ^^^ gfMul b (gfPow j)) [1, 1]
  data.foldl (fun r c =>
    let f := c ^^^ r.headD 0
    ((r.drop 1 ++ [0]).zip (gen.drop 1)).map fun (a, g) => a ^^^ gfMul f g) [0, 0, 0, 0]

/-- The 36 symbols of an error pattern, data first. -/
def LineErr.symbols (e : LineErr) : List Nat :=
  (List.range 32).map (elemAt e.data.toNat 16) ++ (List.range 4).map (elemAt e.chk.toNat 16)

/-- What the decoder does with a word. -/
inductive RsAnswer
  | valid
  /-- The symbol corrected and what is added to it. -/
  | fixed (symbol add : Nat)
  | beyond
deriving DecidableEq, Repr

/-- The decoder, on the syndromes of a word: one symbol in error is corrected, and any word that is within
one symbol of no codeword is beyond it. -/
def rsDecode (e : List Nat) : RsAnswer :=
  let s := (List.range 4).map fun j => gfEval e (gfPow j)
  let s0 := s.getD 0 0
  if s.all (· == 0) then .valid
  else
    match (List.range 36).find? fun i =>
      let x := gfPow (35 - i)
      s0 != 0 && gfMul s0 x == s.getD 1 0 && gfMul (s.getD 1 0) x == s.getD 2 0 &&
        gfMul (s.getD 2 0) x == s.getD 3 0 with
    | some i => .fixed i s0
    | none => .beyond

def noErr : LineErr := ⟨0, 0⟩

/-! #### The check lines (R171, R174) -/

/-- The address word of a line: band, channel of the chip, line number (R174). -/
def addressWord (band ch l : Nat) : List Byte := leBytes 6 (band + ch * 2 ^ 18 + l * 2 ^ 27)

/-- The check bytes of a data line: 8 under CORRECT, 2 under DETECT (R174). -/
def checkBytes (correct : Bool) (band ch l : Nat) (data : List Byte) : List Byte :=
  if correct then (rsCheck ((List.range 32).map fun i => leAt data (2 * i) 2)).flatMap (leBytes 2)
  else leBytes 2 (crc16 ((data ++ addressWord band ch l).map (·.toNat)))

/-- The 64 bytes that check line `j` of a band and channel of the quarter holds, as damaged: the check bytes
of the data lines it covers, reserved bytes 0, and its address tag in bytes 62 and 63 (R171). `at_` is
the first byte of the channel's granule in row 0 of the band. -/
def checkLineBytes (d : Dev) (at_ j : Nat) : List Byte :=
  let band := bandOf at_
  let cor := isCorrect d band
  let k := linesPerCheck cor
  let ch := (channelOf at_).1
  let line (l : Nat) : Nat := at_ + l / 16 * 98304 + l % 16 * 64
  let one (i : Nat) : List Byte :=
    let pa := line (k * j + i)
    let good := checkBytes cor band ch (k * j + i) (bytesAt d.mem.bytes pa 64)
    good.mapIdx fun n b => b ^^^ BitVec.ofNat 8 (elemAt (mget noErr d.mem.lineErr pa).chk.toNat 8 n)
  let body := (List.range k).flatMap one
  let tag := crc16 ((addressWord band ch j).map (·.toNat)) ^^^
    (mget 0 d.mem.tagErr (checkLineOf cor (line (k * j)))).toNat
  body ++ List.replicate (62 - body.length) 0 ++ leBytes 2 tag

/-- What the controller finds on a line (Table MEM-3). -/
inductive Finding
  | clean
  | corrected (symbol : Nat)
  | uncorrectable
  | crc
  | tag
deriving DecidableEq, Repr

/-- The check of a line (R174), and how what it delivers differs from the bytes written: not at all, but
for damage that no check can tell. -/
def findLine (d : Dev) (pa : Nat) : Finding × BitVec 512 :=
  let cor := isCorrect d (bandOf pa)
  let e := mget noErr d.mem.lineErr pa
  if mget 0 d.mem.tagErr (checkLineOf cor pa) ≠ 0 then (.tag, 0)
  else if e = noErr then (.clean, 0)
  else if cor then
    match rsDecode e.symbols with
    | .valid => (.clean, e.data)
    | .fixed i v =>
      (.corrected i, if i < 32 then e.data ^^^ BitVec.ofNat 512 (v * 2 ^ (16 * i)) else e.data)
    | .beyond => (.uncorrectable, 0)
  else if crc16 ((List.range 64).map (elemAt e.data.toNat 8) ++ List.replicate 6 0)
      = e.chk.toNat % 2 ^ 16 then (.clean, e.data)
  else (.crc, 0)

/-- Class and status of a finding (MC_ERR_LAST.CLASS, Table MEM-3). -/
def Finding.cls : Finding → Nat
  | .clean => 0
  | .corrected _ => 0
  | .uncorrectable => 1
  | .crc => 2
  | .tag => 3

def Finding.status : Finding → Nat
  | .clean => stOk
  | .corrected _ => stOk
  | .uncorrectable => stDramUncorrectable
  | .crc => stDramCrc
  | .tag => stDramTag

/-- Word 2 and word 3 of a DRAM event (Table RNL-7). -/
def dramWords (pa cls : Nat) (scrub : Bool) : List Word :=
  let (ch, off) := channelOf pa
  [toW (ch / 16 + ch % 16 * 32 + cls * 512 + scrub.toNat * 2048), toW (alignDown 64 off)]

/-- Counts, records and reports a finding (R181). -/
def reportLine (d : Dev) (pa : Nat) (f : Finding) (scrub : Bool) : Dev :=
  match f with
  | .clean => d
  | f =>
    let (ch, off) := channelOf pa
    let stack := ch / 16
    let p := partOfQuarter d (pa / quarterBytes)
    let (hi, lo) : Nat × Nat := match f with
      | .uncorrectable => (31, 16)
      | .crc => (47, 32)
      | .tag => (55, 48)
      | _ => (15, 0)
    let sym := match f with
      | .corrected i => i
      | _ => 0
    let d := rcount d .mcErrCnt stack (ch % 16) hi lo 1
    let d := rset d .mcErrLast stack 0 (toW (alignDown 64 off + ch % 16 * 2 ^ 32 + f.cls * 2 ^ 36
      + scrub.toNat * 2 ^ 38 + sym * 2 ^ 40))
    if f.cls ≠ 0 then postEvent d p 0x0002 (dramWords pa f.cls scrub)
    else
      let n := mget 0 d.mem.corrCnt pa + 1
      let d := { d with mem.corrCnt := mset 0 d.mem.corrCnt pa (if n = 5 then 0 else n) }
      if n = 5 then postEvent d p 0x0003 (dramWords pa 0 scrub) else d

/-- A line and its check line's tag made sound (R178). -/
def soundLine (d : Dev) (pa : Nat) : Dev :=
  { d with
    mem.lineErr := mset noErr d.mem.lineErr pa noErr
    mem.tagErr := mset 0 d.mem.tagErr (checkLineOf (isCorrect d (bandOf pa)) pa) 0 }

/-- A line written so that it fails its check on purpose: two check symbols, or the CRC, inverted. Its
check line's tag is written with it (R178, R180). -/
def failLine (d : Dev) (pa : Nat) : Dev :=
  let chk : BitVec 64 := if isCorrect d (bandOf pa) then 0xFFFFFFFF else 0xFFFF
  { (soundLine d pa) with mem.lineErr := mset noErr d.mem.lineErr pa ⟨0, chk⟩ }

/-- What a read that passed its check leaves: the bytes it delivered, sound (Table MEM-3). -/
def settleLine (d : Dev) (pa : Nat) (diff : BitVec 512) : Dev :=
  let bs := (bytesAt d.mem.bytes pa 64).mapIdx fun i b => b ^^^ BitVec.ofNat 8 (elemAt diff.toNat 8 i)
  { d with
    mem.bytes := if diff = 0 then d.mem.bytes else bytesPut d.mem.bytes pa bs
    mem.lineErr := mset noErr d.mem.lineErr pa noErr }

/-! ### The Quarter Cache (R74 to R76) -/

/-- How an access uses the Quarter Cache (R75). -/
inductive Alloc
  | normal | stream | noalloc
deriving DecidableEq, Repr

/-- The cache line of a DRAM address, if its quarter's cache has it. -/
def qcFind (d : Dev) (pa : Nat) : Option QLine := d.mem.qc.find? fun x => x.line == pa / 128

/-- Which half of its cache line a DRAM line is. -/
def halfOf (pa : Nat) : Nat := pa / 64 % 2

/-- The cache holds the DRAM line at `pa`. -/
def qcHolds (d : Dev) (pa : Nat) : Bool := (qcFind d pa).any fun x => x.held.testBit (halfOf pa)

/-- Replaces a line of the cache; one that holds nothing leaves it. -/
def qcPut (d : Dev) (x : QLine) : Dev :=
  { d with mem.qc := (d.mem.qc.map fun y => if y.line = x.line then x else y).filter (·.held != 0) }

/-- The line without one half. -/
def QLine.without (x : QLine) (h : Nat) : QLine :=
  { x with held := setBits x.held h h 0, dirty := setBits x.dirty h h 0, bad := x.bad.filter fun e => e.1 / 8 ≠ h }

/-- Counts in a field of QTR_QC_ERR of the quarter of a DRAM address. -/
def qcCount (d : Dev) (pa hi lo n : Nat) : Dev := rcount d .qtrQcErr (pa / quarterBytes) 0 hi lo n

/-- A dirty DRAM line leaves the cache for the controller. -/
def qcBack (d : Dev) (pa : Nat) : Dev := soundLine (rwrap d .mcPerfWr ((channelOf pa).1 / 16) 0 64) pa

/-- Reading half `h` of a cache line checks its words: an error of one bit is corrected; one of two bits
loses the half, which is refetched, or, dirty, is written back to fail its check (R76). Answers whether
the half is still there. -/
def qcScan (d : Dev) (x : QLine) (h : Nat) : Dev × Bool :=
  let pa := 128 * x.line + 64 * h
  let mine := x.bad.filter fun e => e.1 / 8 = h
  let y := { x with bad := x.bad.filter fun e => e.1 / 8 ≠ h }
  if mine = [] then (d, true)
  else if mine.all fun e => e.2 == 1 then (qcPut (qcCount d pa 15 0 mine.length) y, true)
  else if x.dirty.testBit h then (qcPut (failLine (qcCount d pa 47 32 1) pa) (x.without h), false)
  else (qcPut (qcCount d pa 31 16 1) (x.without h), false)

/-- A line leaves the cache: its dirty halves are written back (R75, R76). -/
def qcLeave (d : Dev) (x : QLine) : Dev :=
  let one (d : Dev) (h : Nat) : Dev :=
    if x.dirty.testBit h then
      let (d, there) := qcScan d x h
      if there then qcBack d (128 * x.line + 64 * h) else d
    else d
  let d := one (one d 0) 1
  { d with mem.qc := d.mem.qc.filter fun y => y.line != x.line }

/-- The line of a DRAM address is written back and leaves the cache. -/
def qcFlush (d : Dev) (pa : Nat) : Dev :=
  match qcFind d pa with
  | some x => qcLeave d x
  | none => d

/-- Every line is written back and the caches are empty (Table PWR-4). -/
def qcDrain (d : Dev) : Dev := d.mem.qc.foldl qcLeave d

/-- Makes room for a line: in a full set of 16 the line in the least recently used position leaves, or
another that is not the one used last, freely (R75, log 153). -/
def qcRoom (d : Dev) (line : Nat) : Dev :=
  let near := d.mem.qc.filter fun x => 128 * x.line / quarterBytes == 128 * line / quarterBytes
  if near.length < 16 then d
  else
    let set_ := near.filter fun x => Config.qcSet x.line % 32768 == Config.qcSet line % 32768
    if set_.length < 16 then d
    else
      match set_.find? (·.low) with
      | some x => qcLeave d x
      | none =>
        let (v, d) := freeW d
        match set_[v.toNat % (set_.length - 1)]? with
        | some x => qcLeave d x
        | none => d

/-- The DRAM line at `pa` has been read into the cache, written there, or used again; in DEEP the caches are
off. -/
def qcUse (d : Dev) (pa : Nat) (hint : Alloc) (write : Bool) : Dev :=
  let h := halfOf pa
  match qcFind d pa with
  | some x =>
    let y : QLine := { x with
      held := setBits x.held h h 1
      dirty := if write then setBits x.dirty h h 1 else x.dirty
      low := x.low && hint != .normal }
    if hint = .normal then { d with mem.qc := (d.mem.qc.filter fun z => z.line != y.line) ++ [y] } else qcPut d y
  | none =>
    if hint = .noalloc ∨ d.power = .deep then d
    else
      let d := qcRoom d (pa / 128)
      { d with mem.qc := d.mem.qc ++ [⟨pa / 128, 2 ^ h, if write then 2 ^ h else 0, hint == .stream, []⟩] }

/-- Drops one DRAM line from the cache, dirty or not. -/
def qcDrop (d : Dev) (pa : Nat) : Dev :=
  match qcFind d pa with
  | some x => qcPut d (x.without (halfOf pa))
  | none => d

/-- Drops the DRAM lines in `[a, a + n)` from the cache, dirty or not. -/
def qcClear (d : Dev) (a n : Nat) : Dev :=
  d.mem.qc.foldl (fun d x => [0, 1].foldl (fun d h =>
    let pa := 128 * x.line + 64 * h
    if a ≤ pa ∧ pa < a + n then qcDrop d pa else d) d) d

/-- Drops the cache's lines in `[a, a + n)`, dirty or not. -/
def qcDiscard (d : Dev) (a n : Nat) : Dev :=
  { d with mem.qc := d.mem.qc.filter fun x => !(decide (a ≤ 128 * x.line) && decide (128 * x.line < a + n)) }

/-! ### The snoop filter's gate (R319, R320) -/

/-- S and M bits of a line at the companion. -/
def heldLine (d : Dev) (pa : Nat) : Bool × Bool :=
  match d.rnl.filter.find? fun x => x.num == pa / 1024 with
  | none => (false, false)
  | some x => (x.s.testBit (pa % 1024 / 64), x.m.testBit (pa % 1024 / 64))

/-- The TAG of a request number is in use (R313). -/
def tagUsed (d : Dev) (n : Nat) : Bool := d.rnl.devReqs.any fun x => x.tag % 65536 == n % 65536

/-- The next request number whose TAG is free. -/
def nextNumber (d : Dev) : Nat :=
  (((List.range 8193).map (d.rnl.nextTag + ·)).find? fun n => !tagUsed d n).getD d.rnl.nextTag

/-- Sends a read of a window line, once, when there is credit and no earlier write waits to be sent (R312 to
R314). -/
def askLine (d : Dev) (pa : Nat) (coh : Bool) : Dev :=
  if d.rnl.devReqs.any (fun x => x.read && x.line == pa) then d
  else if linkUp d = false ∨ rnlCredit d .req < msgUnits 0 ∨ 8192 ≤ d.rnl.devReqs.length ∨
      d.rnl.reqQ.isEmpty = false then d
  else
    let n := nextNumber d
    let m : Msg := ⟨0x01, false, coh, n % 65536, 0, pa % 2 ^ 46, 1, []⟩
    emit { (useCredit d .req (msgUnits 0)) with
      rnl.nextTag := n + 1
      rnl.devReqs := d.rnl.devReqs ++ [⟨n, true, pa⟩] } (.rnl m)

/-- Sends window writes that wait, as far as credit, TAGs and the 8,192 outstanding requests allow (R312,
R313). -/
def pushWrites : Nat → Dev → Dev
  | 0, d => d
  | k + 1, d =>
    match d.rnl.reqQ with
    | [] => d
    | m :: ms =>
      if linkUp d = false ∨ rnlCredit d .req < msgUnits 1 ∨ 8192 ≤ d.rnl.devReqs.length ∨ tagUsed d m.tag then d
      else
        pushWrites k (emit { (useCredit d .req (msgUnits 1)) with
          rnl.reqQ := ms
          rnl.devReqs := d.rnl.devReqs ++ [⟨m.tag, false, m.addr⟩] }
          (.rnl { m with tag := m.tag % 65536, addr := m.addr % 2 ^ 46 }))

/-- Sends a snoop of a line, once, when there is credit (R312, R320); `evict` says that it evicts its
filter entry. -/
def sendSnoop (d : Dev) (line : Nat) (inv : Bool) (evict : Bool := false) : Dev :=
  if d.rnl.snoops.any fun x => x.line == line then d
  else if linkUp d = false ∨ rnlCredit d .snp = 0 then d
  else
    let m : Msg := ⟨if inv then 0x10 else 0x11, false, false, d.rnl.nextTag % 65536, 0, line, 0, []⟩
    emit { (useCredit d .snp 1) with
      rnl.snoops := d.rnl.snoops ++ [⟨line, inv, false, evict, d.clock⟩]
      rnl.nextTag := d.rnl.nextTag + 1 } (.rnl m)

/-- The state of an access that waits: nothing has happened but the request it waits for and the free
choices it used. -/
def waitDev (before after : Dev) (n : Need) : Dev :=
  let d := { before with free := after.free }
  match n with
  | .snoop line inv => sendSnoop d line inv
  | .line pa coh => askLine d pa coh
  | .nothing => d

/-- A device access waits while the companion holds the line in a state that Table RNL-6 makes it
give up first. -/
def gate (line : Nat) (write : Bool) : Act Unit := do
  let d ← get
  let (s, m) := heldLine d line
  if m || (write && s) then throw (.wait (.snoop line write)) else pure ()

/-! ### Lines by physical address -/

/-- Who makes an access: software, which a closed band refuses writes, or the device itself. -/
inductive By
  | software | device
deriving DecidableEq, Repr

/-- The checks before a DRAM access: busy band (R175), check store (R172), closed band (R365,
R426). -/
def checkDram (pa : Nat) (write : Bool) (by_ : By) : Act Unit := do
  let d ← get
  let n := bandOf pa
  if isBusy d n then Act.fail stBandBusy pa
  else if dataLen (isCorrect d n) ≤ pa % bandBytes then Act.fail stCheckStoreAccess pa
  else
    match write && by_ == .software, closedStatus n with
    | true, some st => Act.fail st pa
    | _, _ => pure ()

/-- Reads a DRAM line at its controller, which checks it (Table MEM-3). -/
def fillLine (pa : Nat) : Act Unit := do
  let d ← get
  let d := rwrap d .mcPerfRd ((channelOf pa).1 / 16) 0 64
  let (f, diff) := findLine d pa
  match f with
  | .clean => set (settleLine d pa diff)
  | .corrected _ => set (soundLine (settleLine (reportLine d pa f false) pa diff) pa)
  | f =>
    set (reportLine d pa f false)
    Act.fail f.status pa

/-- The DRAM line at `pa` is in the cache, sound, or is read from its controller (R75, R76). -/
def findInCache (pa : Nat) : Act Unit := do
  let d ← get
  match qcFind d pa with
  | some x =>
    if x.held.testBit (halfOf pa) then
      let (d, there) := qcScan d x (halfOf pa)
      set d
      if there then pure () else fillLine pa
    else fillLine pa
  | none => fillLine pa

/-- A DRAM line is reached, and the cache used as the access says. -/
def reachLine (pa : Nat) (hint : Alloc) : Act Unit := do
  findInCache pa
  modify fun d => qcUse d pa hint false

/-- Reads a DRAM line through the Quarter Cache. -/
def readDramLine (pa : Nat) (hint : Alloc := .normal) : Act (List Byte) := do
  reachLine pa hint
  let d ← get
  pure (bytesAt d.mem.bytes pa 64)

/-- A request to the companion window waits while the link recovers or is in L1 and fails while it is DOWN
(Table RNL-8). -/
def windowGate (pa : Nat) : Act Unit := do
  let d ← get
  if linkUp d then pure ()
  else if linkKept d then throw (.wait .nothing)
  else Act.fail stRanolinkDown pa

/-- A line that has arrived serves one read of it. -/
def dropFirst (pa : Nat) : List (Nat × Nat × List Byte) → List (Nat × Nat × List Byte)
  | [] => []
  | x :: xs => if x.1 = pa then xs else x :: dropFirst pa xs

/-- A line of the companion window: the one that has arrived, or a wait for it (R313). -/
def readWindow (pa : Nat) (coh : Bool) : Act (List Byte) := do
  windowGate pa
  let d ← get
  match d.rnl.arrived.find? fun x => x.1 == pa with
  | none => throw (.wait (.line pa coh))
  | some (_, st, bs) =>
    set { d with rnl.arrived := dropFirst pa d.rnl.arrived }
    if st = stOk then pure bs else Act.fail st pa

/-- Reads the line of 64 bytes at `pa`, a multiple of 64, from DRAM or the companion window. -/
def readLine (pa : Nat) (coh : Bool := false) (hint : Alloc := .normal) : Act (List Byte) := do
  match regionOf pa with
  | .dram _ =>
    checkDram pa false .software
    gate pa false
    readDramLine pa hint
  | .window => readWindow pa coh
  | .unmapped => Act.fail stAddressUnmapped pa
  | _ => Act.fail stMmioAccess pa

def readLines (coh : Bool) (hint : Alloc) (pa : Nat) : Nat → Act (List Byte)
  | 0 => pure []
  | n + 1 => do
    let b ← readLine pa coh hint
    let r ← readLines coh hint (pa + 64) n
    pure (b ++ r)

/-- Reads `len` bytes at a physical address. -/
def readPhys (pa len : Nat) (coh : Bool := false) (hint : Alloc := .normal) : Act (List Byte) := do
  if len = 0 then pure []
  else
    let a := alignDown 64 pa
    let bs ← readLines coh hint a ((pa + len - a + 63) / 64)
    pure ((bs.drop (pa - a)).take len)

/-- A read of a line that was sent before a write of it serves no later reader (R314). -/
def voidRead (line : Nat) (x : DevReq) : DevReq := if x.read ∧ x.line = line then { x with line := 1 } else x

/-- Queues the MWR of a whole line of the companion window, which asks for a WR_DONE, and sends what can be
sent (R313, R315). -/
def sentWrite (d : Dev) (line : Nat) (data : List Byte) (coh : Bool) : Dev :=
  let n := d.rnl.nextTag
  let d := { d with
    rnl.nextTag := n + 1
    rnl.arrived := d.rnl.arrived.filter fun x => x.1 ≠ line
    rnl.devReqs := d.rnl.devReqs.map (voidRead line)
    rnl.fresh := d.rnl.fresh ++ [n]
    rnl.reqQ := d.rnl.reqQ ++ [⟨0x04, true, coh, n, 0, line, 0, data⟩] }
  pushWrites d.rnl.reqQ.length d

/-- A write of bytes within one line of the companion window: the rest of the line is read first
(log 22). -/
def writeWindow (pa : Nat) (bs : List Byte) (coh : Bool) : Act Unit := do
  let line := alignDown 64 pa
  windowGate line
  let o := pa % 64
  let old ← if bs.length = 64 then pure [] else readWindow line coh
  modify fun d => sentWrite d line (old.take o ++ bs ++ old.drop (o + bs.length)) coh

/-- The elements in flight of one slot after a write of a line: each that covers it holds, freely,
the bytes before or the bytes after (R148). -/
def retakeElem (line : Nat) (now : List Byte) (p : Dev × List Elem) (e : Elem) : Dev × List Elem :=
  let (d, es) := p
  match e.phys.find? fun r => r.1 ≤ line && line < r.1 + 64 * r.2.2 with
  | none => (d, es ++ [e])
  | some r =>
    if e.done then (d, es ++ [e])
    else
      let (b, d) := freeBit d
      let o := r.2.1 + (line - r.1)
      (d, es ++ [if b then { e with bytes := e.bytes.take o ++ now ++ e.bytes.drop (o + 64) } else e])

/-- What a write of a DRAM line does to streams: elements in flight may take the new bytes (R148), and
watched granules are marked, those of the same 128-byte line freely (R149). -/
def touchLine (d : Dev) (line : Nat) : Dev :=
  let now := bytesAt d.mem.bytes line 64
  let d := d.tiles.slots.foldl (fun d e =>
    let (d, fl) := e.2.flight.foldl (retakeElem line now) (d, [])
    if fl = e.2.flight then d
    else { d with tiles.slots := mset Slot.reset d.tiles.slots e.1 { e.2 with flight := fl } }) d
  d.tiles.watch.foldl (fun d w =>
    if w.1 = line then { d with mem.overwritten := d.mem.overwritten ++ [w] }
    else if w.1 / 128 = line / 128 then
      let (b, d) := freeBit d
      if b then { d with mem.overwritten := d.mem.overwritten ++ [w] } else d
    else d) d

/-- Bytes of a DRAM line are written in the cache; a whole line that is not to be allocated goes to its
controller (R75, R168). -/
def putLine (d : Dev) (pa : Nat) (bs : List Byte) (hint : Alloc) : Dev :=
  let line := alignDown 64 pa
  let d : Dev := { d with mem.bytes := bytesPut d.mem.bytes pa bs }
  touchLine (if (hint = .noalloc ∨ d.power = .deep) ∧ (qcFind d line).isNone then qcBack d line else qcUse d line hint true) line

/-- Writes bytes that lie within one line at `pa`. A part of a line that the cache does not hold is read
first; where that fails nothing is written (R168, R178). -/
def writeLine (by_ : By) (pa : Nat) (bs : List Byte) (coh : Bool := false) (hint : Alloc := .normal) :
    Act Unit := do
  let line := alignDown 64 pa
  match regionOf pa with
  | .dram _ =>
    checkDram line true by_
    gate line true
    if bs.length = 64 then
      modify fun d =>
        let d := match qcFind d line with
          | some x => qcPut d { x with bad := x.bad.filter fun e => e.1 / 8 ≠ halfOf line }
          | none => d
        putLine d pa bs hint
    else
      reachLine line (if hint = .noalloc then .normal else hint)
      modify fun d => putLine d pa bs hint
  | .window => writeWindow pa bs coh
  | .unmapped => Act.fail stAddressUnmapped line
  | _ => Act.fail stMmioAccess line

/-- Writes pieces of lines; `n` bounds their number. -/
def writeLines (by_ : By) (coh : Bool) (hint : Alloc) : Nat → Nat → List Byte → Act Unit
  | 0, _, _ => pure ()
  | n + 1, pa, bs =>
    if bs.isEmpty then pure ()
    else do
      let k := 64 - pa % 64
      writeLine by_ pa (bs.take k) coh hint
      writeLines by_ coh hint n (pa + k) (bs.drop k)

/-- Writes bytes at a physical address. -/
def writePhys (by_ : By) (pa : Nat) (bs : List Byte) (coh : Bool := false) (hint : Alloc := .normal) : Act Unit :=
  writeLines by_ coh hint (bs.length / 64 + 2) pa bs

/-! ### Translation (R30 to R37) -/

/-- A translation entry and the level at which it is a leaf (Table HIE-7). -/
structure Leaf where
  entry : Nat
  level : Nat
deriving DecidableEq, Repr

def Leaf.pack (l : Leaf) : Nat := l.entry * 8 + l.level
def Leaf.unpack (n : Nat) : Leaf := ⟨n / 8, n % 8⟩

/-- An address space as one agent reaches it: its ASID, and the unit whose translation buffer serves the
agent, a tile or, as 64 + quarter, a quarter (R35). -/
structure Space where
  asid : Nat
  unit : Nat
deriving DecidableEq, Repr

/-- The space of a context, on its tile (R35). -/
def ctxSpace (d : Dev) (c : Nat) : Space := ⟨(ctxAt d c).asid, tileOf c⟩

/-- The space of a queue's commands, in its quarter (R35). -/
def spaceOf (d : Dev) (q : Nat) : Space := ⟨(queueAt d q).asid, 64 + q / 65536⟩

/-- The buffers that serve a unit, nearest first: a tile's own and its quarter's (R35). -/
def Space.buffers (sp : Space) : List Nat := if sp.unit < 64 then [sp.unit, 64 + sp.unit / 16] else [sp.unit]

/-- The key of a translation buffer entry: buffer, ASID and 64 KiB page (R35). -/
def tlbKey (buffer asid va : Nat) : Nat := buffer * 2 ^ 44 + asid * 2 ^ 32 + va / 2 ^ 16

/-- Makes room for an entry: a tile's buffer holds 64, fully associative; a quarter's 8,192, 8 ways. Which
entry leaves is free (R35, log 153). -/
def tlbRoom (d : Dev) (key : Nat) : Dev :=
  let buffer := key / 2 ^ 44
  let mine := d.mem.tlb.filter fun e => e.1 / 2 ^ 44 == buffer
  let ways := if buffer < 64 then 64 else 8
  if mine.length < ways then d
  else
    let set_ := if buffer < 64 then mine
      else mine.filter fun e => Config.tlbSet (e.1 % 2 ^ 44) % 1024 == Config.tlbSet (key % 2 ^ 44) % 1024
    if set_.length < ways then d
    else
      let (v, d) := freeW d
      { d with mem.tlb := mset 0 d.mem.tlb (set_.getD (v.toNat % set_.length) (0, 0)).1 0 }

/-- Buffers a leaf in every buffer that serves the space. -/
def tlbFill (d : Dev) (sp : Space) (va : Nat) (l : Leaf) : Dev :=
  sp.buffers.foldl (fun d b =>
    let key := tlbKey b sp.asid va
    let d := if mget 0 d.mem.tlb key = 0 then tlbRoom d key else d
    { d with mem.tlb := mset 0 d.mem.tlb key l.pack }) d

/-- The first buffered leaf, each of which may have been evicted, freely (R36). -/
def tlbLook (asid va : Nat) : List Nat → Dev → Option Leaf × Dev
  | [], d => (none, d)
  | b :: bs, d =>
    let old := mget 0 d.mem.tlb (tlbKey b asid va)
    if old = 0 then tlbLook asid va bs d
    else
      let (gone, d) := freeBit d
      if gone then tlbLook asid va bs d else (some (Leaf.unpack old), d)

/-- The range `[a, a + n)` lies in partition `p`'s DRAM. -/
def inPartDram (d : Dev) (p a n : Nat) : Bool :=
  decide (a + n ≤ dramEnd) && partOfQuarter d (a / quarterBytes) == p &&
    partOfQuarter d ((a + n - 1) / quarterBytes) == p

/-- The range lies where a leaf of partition `p` may map (R34). -/
def pageAllowed (d : Dev) (p a n : Nat) : Bool :=
  inPartDram d p a n ||
  match regionOf a, regionOf (a + n - 1) with
  | .doorbell q, .doorbell q' => partOfQueue d q == p && partOfQueue d q' == p
  | .window, .window => true
  | _, _ => false

/-- Checks a leaf entry (R33, R34). -/
def leafOk (d : Dev) (p : Nat) (l : Leaf) : Bool :=
  let e := l.entry
  let big := l.level == 3
  let base := bits e 47 16 * 2 ^ 16
  let size := if big then 2 ^ 21 else 2 ^ 16
  bits e 7 5 == 0 && bits e 15 8 == 0 && bits e 63 48 == 0 &&
    (!big || bits e 20 16 == 0) && pageAllowed d p base size &&
    (!bit e 4 || regionOf base == .window)

/-- Checks a pointer at level `lvl` (R33, R34). -/
def pointerOk (d : Dev) (p lvl e : Nat) : Bool :=
  let next := bits e 47 8 * 256
  bits e 7 5 == 0 && bits e 63 48 == 0 && (lvl == 3 || bits e 11 8 == 0) &&
    inPartDram d p next (if lvl == 3 then 256 else 4096)

/-- Walks from the table at `tbl` of level `lvl`, `n` levels left (R32). -/
def walkFrom (p va : Nat) : Nat → Nat → Nat → Act Leaf
  | 0, _, _ => Act.fail stTranslationFault va
  | n + 1, lvl, tbl => do
    let idx := match lvl with
      | 1 => bits va 47 39
      | 2 => bits va 38 30
      | 3 => bits va 29 21
      | _ => bits va 20 16
    let bs ← readPhys (tbl + 8 * idx) 8
    let e := leNat bs
    let d ← get
    let leaf := bit e 1
    if !bit e 0 then Act.fail stTranslationFault va
    else if leaf then
      if 3 ≤ lvl && leafOk d p ⟨e, lvl⟩ then pure ⟨e, lvl⟩ else Act.fail stTranslationFault va
    else if lvl < 4 && pointerOk d p lvl e then walkFrom p va n (lvl + 1) (bits e 47 8 * 256)
    else Act.fail stTranslationFault va

/-- A walk of an ASID's tables (R31, R32). A status met on the way is reported at the virtual
address. -/
def walk (asid va : Nat) : Act Leaf := do
  let d ← get
  let p := partOfAsid d asid
  let first := (quartersOf d p).headD 0 * 1024
  let at_ := wbits (rget d .chipAsidTbl 0 p) 47 12 * 4096 + 8 * (asid - first)
  if !inPartDram d p at_ 8 then Act.fail stTranslationFault va
  else
    tryCatch (do
      let bs ← readPhys at_ 8
      let e := leNat bs
      let d ← get
      if bit e 0 && bits e 11 1 == 0 && bits e 63 48 == 0 &&
          inPartDram d p (bits e 47 12 * 4096) 4096 then
        walkFrom p va 4 1 (bits e 47 12 * 4096)
      else Act.fail stTranslationFault va)
      fun stop => match stop with
        | .err st _ => Act.fail st va
        | .wait n => throw (.wait n)

/-- The leaf for an access: a buffered one, or that of a fresh walk, which fills the buffers (R35, R36).
Without an ASID table every translation faults (R31). -/
def leafFor (sp : Space) (va : Nat) : Act Leaf := do
  let d ← get
  if !wbit (rget d .chipAsidTbl 0 (partOfAsid d sp.asid)) 0 then Act.fail stTranslationFault va
  else
    let (l, d) := tlbLook sp.asid va sp.buffers d
    set d
    let l ← match l with
      | some l => pure l
      | none => walk sp.asid va
    modify fun d => tlbFill d sp va l
    pure l

/-- The physical address a leaf gives a virtual one (R33). -/
def Leaf.at_ (l : Leaf) (va : Nat) : Nat :=
  bits l.entry 47 16 * 2 ^ 16 + va % (if l.level = 3 then 2 ^ 21 else 2 ^ 16)

/-- Translates one address; answers the physical address and COH (R30 to R34). -/
def translate (sp : Space) (va : Nat) (write : Bool) : Act (Nat × Bool) := do
  if 2 ^ 48 ≤ va then Act.fail stTranslationFault va
  else
    let l ← leafFor sp va
    if !bit l.entry (if write then 3 else 2) then Act.fail stPermissionFault va
    else pure (l.at_ va, bit l.entry 4)

/-! ### Accesses by virtual address -/

/-- Splits a range at 64 KiB boundaries. -/
def pages : Nat → Nat → Nat → List (Nat × Nat)
  | 0, _, _ => []
  | n + 1, va, len =>
    if len = 0 then []
    else
      let k := min len (2 ^ 16 - va % 2 ^ 16)
      (va, k) :: pages n (va + k) (len - k)

def pagesOf (va len : Nat) : List (Nat × Nat) := pages (len / 2 ^ 16 + 2) va len

/-- Reports a stop at a virtual address. -/
def atVirtual {α : Type} (va : Nat) (a : Act α) : Act α :=
  tryCatch a fun stop => match stop with
    | .err st _ => Act.fail st va
    | .wait n => throw (.wait n)

/-- Reads bytes of an address space. -/
def vread (sp : Space) (va len : Nat) (hint : Alloc := .normal) : Act (List Byte) := do
  let parts ← (pagesOf va len).mapM fun (a, k) => do
    let (pa, coh) ← translate sp a false
    atVirtual a (readPhys pa k coh hint)
  pure parts.flatten

def vwriteParts (sp : Space) (hint : Alloc) : List (Nat × Nat) → List Byte → Act Unit
  | [], _ => pure ()
  | (a, k) :: ps, bs => do
    let (pa, coh) ← translate sp a true
    atVirtual a (writePhys .software pa (bs.take k) coh hint)
    vwriteParts sp hint ps (bs.drop k)

/-- Writes bytes of an address space. -/
def vwrite (sp : Space) (va : Nat) (bs : List Byte) (hint : Alloc := .normal) : Act Unit :=
  vwriteParts sp hint (pagesOf va bs.length) bs

/-- Removes translation buffer entries of an ASID over `[va, va + len)` from every buffer (R36). -/
def tlbDrop (d : Dev) (asid va len : Nat) : Dev :=
  { d with mem.tlb := mkeep (fun k =>
      k / 2 ^ 32 % 2 ^ 12 != asid || decide (k % 2 ^ 32 * 2 ^ 16 < va) ||
        decide (va + len ≤ k % 2 ^ 32 * 2 ^ 16)) d.mem.tlb }

/-! ### Data ranges (R173) -/

/-- `data_addr(base, o)`, over at most `fuel` bands. -/
def dataAddrFrom (d : Dev) : Nat → Nat → Nat → Nat
  | 0, n, o => n * bandBytes + o
  | fuel + 1, n, o =>
    let len := dataLen (isCorrect d n)
    if o < len then n * bandBytes + o else dataAddrFrom d fuel (n + 1) (o - len)

def dataAddr (d : Dev) (base o : Nat) : Nat :=
  dataAddrFrom d (o / 0x540000 + 2) (bandOf base) (base % bandBytes + o)

/-- Bands that a data range touches. -/
def dataBands (d : Dev) (base len : Nat) : List Nat :=
  let last := bandOf (dataAddr d base (len - 1))
  (List.range (last + 1 - bandOf base)).map (bandOf base + ·)

/-- Whether a data range is valid (R173); `want` is a required attribute. -/
def dataRangeOk (d : Dev) (p base len : Nat) (want : Option Bool) : Bool :=
  decide (base < dramEnd) && decide (0 < len) && decide (len ≤ dramEnd) &&
    (let attr := want.getD (isCorrect d (bandOf base))
     decide (base % bandBytes < dataLen (isCorrect d (bandOf base))) &&
      (dataBands d base len).all fun n =>
        isCorrect d n == attr && decide (n < 4 * bandsPerQuarter) &&
          partOfQuarter d (n / bandsPerQuarter) == p && (closedStatus n).isNone)

/-- Splits a data range into physical runs at the ends of band data. -/
def dataRuns (d : Dev) : Nat → Nat → Nat → List (Nat × Nat)
  | 0, _, _ => []
  | fuel + 1, pa, len =>
    if len = 0 then []
    else
      let room := dataLen (isCorrect d (bandOf pa)) - pa % bandBytes
      let k := min len room
      (pa, k) :: dataRuns d fuel ((bandOf pa + 1) * bandBytes) (len - k)

def dataRunsOf (d : Dev) (base len : Nat) : List (Nat × Nat) :=
  dataRuns d (len / 0x540000 + 2) base len

/-- Reads a data range from byte `o`. -/
def dread (base o len : Nat) (hint : Alloc := .normal) : Act (List Byte) := do
  let d ← get
  let parts ← (dataRunsOf d (dataAddr d base o) len).mapM fun (pa, k) => readPhys pa k false hint
  pure parts.flatten

def dwriteRuns (hint : Alloc) : List (Nat × Nat) → List Byte → Act Unit
  | [], _ => pure ()
  | (pa, k) :: rs, bs => do
    writePhys .device pa (bs.take k) false hint
    dwriteRuns hint rs (bs.drop k)

/-- Writes a data range from byte `o`. -/
def dwrite (base o : Nat) (bs : List Byte) (hint : Alloc := .normal) : Act Unit := do
  let d ← get
  dwriteRuns hint (dataRunsOf d (dataAddr d base o) bs.length) bs

/-- The lines of a data range are written back and leave the cache (R74). -/
def dflush (base o len : Nat) : Act Unit :=
  modify fun d => (dataRunsOf d (dataAddr d base o) len).foldl (fun d r =>
    (List.range (r.2 / 64)).foldl (fun d i => qcFlush d (r.1 + 64 * i)) d) d

end Sys2Proof.Machine
end

