-- ==== Sys2Proof/Machine/Operands.lean ====
section
/-!
DEFINITION. The instruction formats (Tables TIL-3 and TIL-8): the fields of bits [55:0] of a tile
instruction's word.
-/

namespace Sys2Proof.Machine

/-- A tile instruction's word without its opcode. -/
abbrev TWord := BitVec 56

def TWord.f (w : TWord) (hi lo : Nat) : Nat := bits w.toNat hi lo
def TWord.b (w : TWord) (i : Nat) : Bool := w.toNat.testBit i

/-- The instruction executes: P[PSEL] XOR PNEG = 1 (R53). -/
def Ctx.executes (x : Ctx) (w : TWord) : Bool := x.pred (w.f 54 52) != w.b 55

/-! ### Format A -/

def TWord.aD (w : TWord) : Nat := w.f 51 47
def TWord.aS1 (w : TWord) : Nat := w.f 46 42
def TWord.aS2 (w : TWord) : Nat := w.f 41 37
def TWord.aS3 (w : TWord) : Nat := w.f 36 32
def TWord.aFmt (w : TWord) : Nat := w.f 31 28
def TWord.aRnd (w : TWord) : Nat := w.f 27 25
/-- Bits [24:0] are reserved (Table TIL-3). -/
def TWord.aRes (w : TWord) : Bool := w.f 24 0 = 0

/-! ### Format B -/

def TWord.bD (w : TWord) : Nat := w.f 51 47
def TWord.bS1 (w : TWord) : Nat := w.f 46 42
def TWord.bMod (w : TWord) : Nat := w.f 41 32
/-- IMM, sign-extended to 64 bits (Table TIL-3). -/
def TWord.bImm (w : TWord) : Word := BitVec.ofInt 64 (sext 32 (w.f 31 0))
def TWord.bImmRaw (w : TWord) : Nat := w.f 31 0

/-! ### Format C -/

def TWord.cS1 (w : TWord) : Nat := w.f 51 47
def TWord.cMod (w : TWord) : Nat := w.f 46 32
/-- OFF, signed, counted in instructions. -/
def TWord.cOff (w : TWord) : Int := sext 32 (w.f 31 0)

/-! ### Format D (Table TIL-8) -/

def TWord.dAt (w : TWord) : Nat := w.f 51 49
def TWord.dSA (w : TWord) : Nat := w.f 48 44
def TWord.dSB (w : TWord) : Nat := w.f 43 39
def TWord.dM (w : TWord) : Nat := w.f 38 31 + 1
def TWord.dFmtA (w : TWord) : Nat := w.f 30 27
def TWord.dFmtB (w : TWord) : Nat := w.f 26 23
def TWord.dSparse (w : TWord) : Nat := w.f 22 21
def TWord.dSX (w : TWord) : Nat := w.f 20 16
def TWord.dZero (w : TWord) : Bool := w.b 15
def TWord.dBkeep (w : TWord) : Bool := w.b 14
def TWord.dRs (w : TWord) : Bool := w.b 13
def TWord.dVs (w : TWord) : Nat := w.f 12 8
def TWord.dRes (w : TWord) : Bool := w.f 7 0 = 0

/-- Fields of an operand descriptor (Table TIL-9). -/
def descAddr (x : Nat) : Nat := bits x 23 0
def descStride (x : Nat) : Nat := bits x 39 24 * 64
def descStrideRaw (x : Nat) : Nat := bits x 39 24
def descScale (x : Nat) : Nat := bits x 63 40

end Sys2Proof.Machine
end

