-- ==== Sys2Proof/Machine/Flags.lean ====
section
/-!
DEFINITION. Comparisons of the scalar sequencer: the conditions of CMP and CMPI (Table TIL-4).
-/

namespace Sys2Proof.Machine

/-- A comparison of two scalar values: 0 EQ, 1 NE, 2 LT, 3 GE, 4 LTU, 5 GEU; other codes are
reserved. -/
def condScalar (cond : Nat) (a b : Word) : Option Bool :=
  match cond with
  | 0 => some (a == b)
  | 1 => some (a != b)
  | 2 => some (BitVec.slt a b)
  | 3 => some (!BitVec.slt a b)
  | 4 => some (BitVec.ult a b)
  | 5 => some (!BitVec.ult a b)
  | _ => none

end Sys2Proof.Machine
end

