-- ==== Sys2Proof/Machine/Sram.lean ====
section
/-!
DEFINITION. Tile SRAM (R47, R70 to R73): ownership, parity, the old-or-new choice between engines
that no fence separates, and rings' places in it.
-/

namespace Sys2Proof.Machine

/-- Bytes of a tile's SRAM (Table TIL-1). -/
def sramBytes : Nat := 0xC00000

/-- Bytes of the running context's range in RESIDENT mode (R72). -/
def sramOwned : Nat := 0xBC0000

/-- A context owns the SRAM range and the accumulator tiles of its manifest: in THREADED mode from its
launch on, in RESIDENT mode once it has been selected (R40, R72, log 152). -/
def ownsTile (d : Dev) (c : Nat) : Bool := threaded d (partOfCtx d c) || decide ((ctxAt d c).sramSize ≠ 0)

def sramKey (t a : Nat) : Nat := t * sramBytes + a

/-- The range lies in the SRAM the context owns (R72). -/
def Ctx.ownsSram (x : Ctx) (a len : Nat) : Bool :=
  decide (x.sramBase ≤ a) && decide (a + len ≤ x.sramBase + x.sramSize)

def sramGet (d : Dev) (t a len : Nat) : List Byte := bytesAt d.tiles.sram (sramKey t a) len

/-- Writes SRAM with correct parity (R73). -/
def sramPut (d : Dev) (t a : Nat) (bs : List Byte) : Dev :=
  let lo := sramKey t a / 4
  let hi := (sramKey t a + bs.length + 3) / 4
  { d with
    tiles.sram := bytesPut d.tiles.sram (sramKey t a) bs
    tiles.sramBad := d.tiles.sramBad.filter fun k => k < lo || hi ≤ k }

/-- First word of bad parity in a range, as an SRAM address. -/
def sramBadIn (d : Dev) (t a len : Nat) : Option Nat :=
  (d.tiles.sramBad.find? fun k => sramKey t a < 4 * k + 4 && 4 * k < sramKey t a + len).map
    fun k => 4 * k - t * sramBytes

/-- The 64-byte granules of a range. -/
def granules (a len : Nat) : List Nat :=
  (List.range ((a + len + 63) / 64 - a / 64)).map fun i => (a / 64 + i) * 64

/-- The parts of a write at `a` that lie in one 64-byte granule: address and length. -/
def granuleParts (a len : Nat) : List (Nat × Nat) :=
  (granules a len).map fun g => (max a g, min (a + len) (g + 64) - max a g)

/-- A context's engine writes SRAM; the bytes before stay readable to other engines until a fence or a ring
handoff. What the Stream Engine writes is handed over as its element is published (R47, R133). -/
def sramWrite (d : Dev) (c : Nat) (e : Eng) (a : Nat) (bs : List Byte) : Dev :=
  let t := tileOf c
  let old := (granuleParts a bs.length).map fun p =>
    (⟨e.code, p.1, sramGet d t p.1 p.2, e == .stream⟩ : Unfenced)
  let d := updCtx d c fun x => { x with unfenced := old ++ x.unfenced }
  sramPut d t a bs

/-- Marks the bytes `[a, a + n)` of the granule at `g` as read. -/
def markRead (g a n : Nat) (seen : List Bool) : List Bool :=
  seen.mapIdx fun i b => b || decide (a ≤ g + i) && decide (g + i < a + n)

/-- The bytes of a granule before a write to part of it, where the reader has not yet seen a later one. -/
def undoWrite (g : Nat) (u : Unfenced) (seen : List Bool) (bs : List Byte) : List Byte :=
  bs.mapIdx fun i b =>
    if u.addr ≤ g + i ∧ g + i < u.addr + u.old.length ∧ seen.getD i true = false then
      u.old.getD (g + i - u.addr) 0
    else b

/-- What the granule at `g` reads as to engine `e`, going back over the writes that nothing orders: a write
of the reader's own is seen, one of another engine freely, byte for byte what no later write it sees has
covered (R47). -/
def granuleRead (e : Eng) (g : Nat) : List Unfenced → List Bool → Dev × List Byte → Dev × List Byte
  | [], _, p => p
  | u :: rest, seen, (d, bs) =>
    if u.addr / 64 * 64 ≠ g then granuleRead e g rest seen (d, bs)
    else if u.eng = e.code then granuleRead e g rest (markRead g u.addr u.old.length seen) (d, bs)
    else
      let (before, d) := freeBit d
      if before then granuleRead e g rest seen (d, undoWrite g u seen bs)
      else granuleRead e g rest (markRead g u.addr u.old.length seen) (d, bs)

/-- A context's engine reads SRAM (R47). -/
def sramRead (d : Dev) (c : Nat) (e : Eng) (a len : Nat) : Dev × List Byte :=
  let t := tileOf c
  let un := (ctxAt d c).unfenced
  let go (p : Dev × List Byte) (g : Nat) : Dev × List Byte :=
    let (d, bs) := granuleRead e g un (List.replicate 64 false) (p.1, sramGet p.1 t g 64)
    (d, p.2 ++ bs)
  let (d, bs) := (granules a len).foldl go (d, [])
  (d, (bs.drop (a % 64)).take len)

/-! ### Rings (R130) -/

/-- The tile ring number of manifest ring `i` of a context. -/
def Ctx.ringNum (x : Ctx) (i : Nat) : Option Nat := x.rings[i]?

/-- SRAM address of element `k`. -/
def Ring.elemAddr (r : Ring) (k : Nat) : Nat := r.base + k % r.depth * r.elem

/-- An SRAM address lies in one of `n` elements of the ring from element `k` on. -/
def Ring.holds (r : Ring) (k n a : Nat) : Bool :=
  decide (r.base ≤ a) && decide (a < r.base + r.depth * r.elem) &&
    decide (((a - r.base) / r.elem + r.depth - k % r.depth) % r.depth < n)

def Ring.full (r : Ring) : Nat := r.pub - r.rel
def Ring.empty (r : Ring) : Nat := r.depth - (r.pub - r.rel)

/-- Elements of a ring are released: REL rises, and what was kept for them goes (R130, R149). -/
def ringRelease (d : Dev) (t rn n : Nat) : Dev :=
  match ringAt d t rn with
  | none => d
  | some r =>
    let rel := r.rel + n
    let d := setRing d t rn
      { r with
        rel := rel
        held := r.held.filter fun h => rel ≤ h.1
        src := r.src.filter fun e => rel ≤ e.ringElem }
    match r.slot with
    | none => d
    | some sn =>
      let s := slotAt d t sn
      let d := setSlot d t sn { s with consumed := s.consumed + n }
      { d with tiles.watch := d.tiles.watch.filter fun e =>
          !(e.2.1 == t && e.2.2.1 == sn && decide (e.2.2.2 < rel)) }

/-- A context publishes elements of a ring (R130). -/
def ringPublish (d : Dev) (t rn n : Nat) : Dev :=
  match ringAt d t rn with
  | none => d
  | some r =>
    let d := setRing d t rn { r with pub := r.pub + n }
    match r.slot with
    | none => d
    | some sn =>
      let s := slotAt d t sn
      setSlot d t sn { s with delivered := s.delivered + n }

/-- The published, unreleased element of a LOAD or MCAST_RECV ring of the tile that holds an SRAM
address: ring number and element (R73). -/
def elemAtSram (d : Dev) (t a : Nat) : Option (Nat × Nat) :=
  (d.tiles.rings.filterMap fun e =>
    let r := e.2
    if e.1 / 32 = t ∧ (r.kind = .load ∨ r.kind = .mcastRecv) ∧ r.base ≤ a ∧
        a < r.base + r.depth * r.elem then
      let i := (a - r.base) / r.elem
      ((List.range r.full).find? fun j => (r.rel + j) % r.depth == i).map
        fun j => (e.1 % 32, r.rel + j)
    else none).head?

/-- Records a parity error (TILE_SRAM_ERR). -/
def noteParity (d : Dev) (t a : Nat) (faulted : Bool) : Dev :=
  let n := min 65535 (rfield d .tileSramErr t 0 15 0 + 1)
  rset d .tileSramErr t 0
    (toW (n + a / 64 % 32 * 2 ^ 16 + alignDown 64 a * 2 ^ 24 + faulted.toNat * 2 ^ 48))

/-- What a parity check of ranges answers to the instruction that reads them. -/
inductive Parity
  | ok
  /-- The instruction waits for a refetch of the element that holds the bad word. -/
  | refetch (ring elem addr : Nat)
  /-- The context faults at an SRAM address. -/
  | bad (addr : Nat)
deriving DecidableEq, Repr

/-- Checks the parity of ranges before they are read (R73). -/
def parityOf (d : Dev) (t : Nat) : List (Nat × Nat) → Parity
  | [] => .ok
  | (a, len) :: rest =>
    match sramBadIn d t a len with
    | none => parityOf d t rest
    | some b =>
      match elemAtSram d t b with
      | some (r, e) => .refetch r e b
      | none => .bad b

end Sys2Proof.Machine
end

