-- ==== Sys2Proof/Machine/Rom.lean ====
section
/-!
DEFINITION. The function ROM of the built-in functions (R105, R106, R108): the reduction of Table FUN-1 and
one quadratic segment of the reduced variable. The coefficients are not in the spec: each is free, kept to
what R106 and R108 say of every part (log 11).
-/

namespace Sys2Proof.Machine

/-- The built-in functions (R104), numbered as the FN step's ARG (Table FUN-5). -/
inductive SfuFn
  | exp | log | rcp | rsqrt
deriving DecidableEq, Repr

def SfuFn.code : SfuFn → Nat
  | .exp => 0
  | .log => 1
  | .rcp => 2
  | .rsqrt => 3

/-- Precision of the exact values below, in bits after the point. -/
def fxBits : Nat := 192
def fxOne : Nat := 2 ^ fxBits
/-- ln 2 and log2 e, truncated to `fxBits` bits. -/
def fxLn2 : Nat := 4350955369971217654477563090224794165364344896676135745069
def fxLog2e : Nat := 9055943544797870567083544809312461607371518589544137143473

/-- A finite value as a multiple of `2^-fxBits`, truncated toward −∞. -/
def toFixed (neg : Bool) (man : Nat) (exp : Int) : Int := floorX neg man (exp + fxBits)

/-- `1 + z + z²/2! + …`, `n` terms from the `k`-th, for a fixed-point `z`. -/
def expSeries : Nat → Nat → Nat → Nat → Nat
  | 0, _, _, _ => 0
  | n + 1, k, z, term => term + expSeries n (k + 1) z (term * z / fxOne / k)

/-- `z + z³/3 + z⁵/5 + …` for a fixed-point `z`, given `z²`. -/
def atanhSeries : Nat → Nat → Nat → Nat → Nat
  | 0, _, _, _ => 0
  | n + 1, k, zz, pow => pow / k + atanhSeries n (k + 2) zz (pow * zz / fxOne)

/-- e to a finite power. -/
def expExact (neg : Bool) (man : Nat) (exp : Int) : Fx :=
  let t := toFixed neg man exp * (fxLog2e : Int) / (fxOne : Int)
  let n := t / (fxOne : Int)
  let f := (t % (fxOne : Int)).toNat
  let z := f * fxLn2 / fxOne
  .fin false (expSeries 48 1 z fxOne) (n - fxBits)

/-- Natural logarithm of a positive value in units of 2^-192, reduced as Table FUN-1 says. -/
def logFixed (man : Nat) (exp : Int) : Int :=
  let e := ilog2 man exp
  let m := man * 2 ^ (fxBits - Nat.log2 man)
  let (m', e') := if 2 * m ≥ 3 * fxOne then (m / 2, e + 1) else (m, e)
  let below := decide (m' < fxOne)
  let d := if below then fxOne - m' else m' - fxOne
  let z := d * fxOne / (m' + fxOne)
  let a : Int := 2 * atanhSeries 48 1 (z * z / fxOne) z
  e' * fxLn2 + (if below then -a else a)

def logExact (man : Nat) (exp : Int) : Fx :=
  let v := logFixed man exp
  .fin (v < 0) v.natAbs (-(fxBits : Int))

def rcpExact (neg : Bool) (man : Nat) (exp : Int) : Fx :=
  let k := fxBits + Nat.log2 man
  .fin neg (2 ^ k / man) (-exp - k)

/-- Integer square root, bit by bit from bit `n - 1`. -/
def isqrtFrom : Nat → Nat → Nat → Nat
  | 0, _, acc => acc
  | n + 1, v, acc =>
    let t := acc + 2 ^ n
    isqrtFrom n v (if t * t ≤ v then t else acc)

def rsqrtExact (man : Nat) (exp : Int) : Fx :=
  let (m, e) := if exp % 2 = 0 then (man, exp) else (2 * man, exp - 1)
  let k := fxBits + Nat.log2 m
  .fin false (isqrtFrom (k + 1) (2 ^ (2 * k) / m) 0) (-(k : Int) - e / 2)

/-- A value kept within two bounds. -/
def clampMag (lo hi : Option Fx) (x : Fx) : Fx :=
  let x := match lo with
    | some l => if ltX x l then l else x
    | none => x
  match hi with
  | some h => if ltX h x then h else x
  | none => x

/-! ### The segments (Table FUN-1)

Reduced variables are counted in units of 2^-40, values in units of 2^-192. -/

def redOne : Nat := 2 ^ 40

/-- log2 e, rounded to 64 bits, in units of 2^-63 (log 11). -/
def fxL64 : Nat := (fxLog2e + 2 ^ 128) / 2 ^ 129

def SfuFn.segments : SfuFn → Nat
  | .exp => 128
  | .log => 96
  | .rcp => 128
  | .rsqrt => 256

/-- Where a segment begins: f = j/128; m' = 0.75 + j/128; m = 1 + j/128; then m = 2 + j/64. -/
def SfuFn.seam (fn : SfuFn) (j : Nat) : Nat :=
  match fn with
  | .exp => j * 2 ^ 33
  | .log => (96 + j) * 2 ^ 33
  | .rcp => (128 + j) * 2 ^ 33
  | .rsqrt => if j < 128 then (128 + j) * 2 ^ 33 else j * 2 ^ 34

/-- The segment of a reduced variable; a seam belongs to the segment above it. -/
def SfuFn.segment (fn : SfuFn) (r : Nat) : Nat :=
  match fn with
  | .exp => r / 2 ^ 33
  | .log => r / 2 ^ 33 - 96
  | .rcp => r / 2 ^ 33 - 128
  | .rsqrt => if r < 2 * redOne then r / 2 ^ 33 - 128 else r / 2 ^ 34

/-- ε of R106 in units of 2^-25 (Table FUN-3). -/
def SfuFn.eps : SfuFn → Nat
  | .exp => 3
  | .log => 3
  | .rcp => 1
  | .rsqrt => 1

/-- The function of the reduced variable: 2^f, log m', 1/m, m^-1/2. -/
def SfuFn.reduced (fn : SfuFn) (r : Nat) : Int :=
  match fn with
  | .exp => expSeries 48 1 (r * 2 ^ 152 * fxLn2 / fxOne) fxOne
  | .log => logFixed r (-40)
  | .rcp => fxOne * redOne / r
  | .rsqrt => isqrtFrom 213 (fxOne * fxOne * redOne / r) 0

/-- Coefficient `k` of segment `j`. -/
def romCoef (fn : SfuFn) (j k : Nat) : Int := sext 96 (Config.sfuRom fn.code j k).toNat

/-- A quadratic in `d`. -/
def romQuad (c0 c1 c2 d : Int) : Int := (c0 * 2 ^ 80 + c1 * d * 2 ^ 40 + c2 * d * d) * 2 ^ 40

/-- The segments of log on both sides of m' = 1: u × q(u), with u = m' - 1. The coefficients of q are kept
where u × q(u) rises. -/
def romNearOne (j r : Nat) : Int :=
  let u : Int := (r : Int) - redOne
  u * (romQuad (clampI (2 ^ 71) (2 ^ 73) (romCoef .log j 0)) (clampI (-(2 ^ 74)) (2 ^ 74) (romCoef .log j 1))
    (clampI (-(2 ^ 76)) (2 ^ 76) (romCoef .log j 2)) u / 2 ^ 40)

/-- Segments that meet m' = 1. -/
def SfuFn.nearOne (fn : SfuFn) (j : Nat) : Bool := fn == .log && (j == 31 || j == 32)

/-- Seams at which the function is exact: at 1 for all but log, whose seam at 1 is 0. -/
def SfuFn.exactSeam (fn : SfuFn) (j : Nat) : Bool :=
  if fn == .log then j == 32 else j == 0 || j == fn.segments

/-- What a segment gives at its beginning, near the exact value; the end of the last segment is the
beginning of the first, one reduction further. -/
def romSeam (fn : SfuFn) (j : Nat) : Int :=
  let v := fn.reduced (fn.seam j)
  if fn.exactSeam j then v
  else if fn == .log ∧ j = 96 then fxLn2 + start 0 (fn.reduced (fn.seam 0))
  else start j v
where
  start (j : Nat) (v : Int) : Int :=
    let e : Int := v.natAbs * (2 * fn.eps) / 2 ^ 25
    clampI (v - e) (v + e) (if fn.nearOne j then romNearOne j (fn.seam j) else romCoef fn j 0 * 2 ^ 120)

/-- One segment: a quadratic in the distance from its beginning that rises (exp, log) or falls (rcp, rsqrt)
all the way, as R108 needs, and does not pass the beginning of the next. -/
def romSegment (fn : SfuFn) (r : Nat) : Int :=
  let j := fn.segment r
  let a := romSeam fn j
  let b := romSeam fn (j + 1)
  let w : Int := fn.seam (j + 1) - fn.seam j
  let c1 : Int := (romCoef fn j 1).natAbs
  let c2 := romCoef fn j 2
  let d : Int := (r : Int) - fn.seam j
  let v :=
    if fn.nearOne j then romNearOne j r
    else if fn == .exp ∨ fn == .log then a + romQuad 0 c1 (max c2 (-(c1 * 2 ^ 39 / w))) d
    else a + romQuad 0 (-c1) (min c2 (c1 * 2 ^ 39 / w)) d
  clampI (min a b) (max a b) v

/-! ### The internal value of R106 -/

/-- A value in units of 2^-192. -/
def fxFix (v : Int) : Fx := .fin (v < 0) v.natAbs (-(fxBits : Int))

/-- Keeps an internal value within ε of the exact one (R106). -/
def nearExact (fn : SfuFn) (exact y : Fx) : Fx :=
  match exact with
  | .fin neg man e =>
    let m := clampMag (some (.fin false (man * (2 ^ 25 - fn.eps)) (e - 25)))
      (some (.fin false (man * (2 ^ 25 + fn.eps)) (e - 25))) y.abs
    if neg then m.neg else m
  | x => x

/-- exp: t = x × L truncated to a multiple of 2^-40; 2^n × 2^f. -/
def romExp (neg : Bool) (man : Nat) (e : Int) : Fx :=
  let t := toFixed neg man e * (fxL64 : Int) / (2 ^ 215 : Int)
  nearExact .exp (expExact neg man e)
    (scaleX (fxFix (romSegment .exp (t % (redOne : Int)).toNat)) (t / (redOne : Int)))

/-- log: x = 2^e × m, with m' in [0.75, 1.5); e' × ln 2 + log m'. -/
def romLog (man : Nat) (e : Int) : Fx :=
  let k := ilog2 man e
  let m := man * 2 ^ (40 - Nat.log2 man)
  let (m', k') := if 2 * m ≥ 3 * redOne then (m / 2, k + 1) else (m, k)
  nearExact .log (logExact man e) (fxFix (k' * fxLn2 + romSegment .log m'))

/-- rcp of a positive value: 2^-e × (1/m). -/
def romRcp (man : Nat) (e : Int) : Fx :=
  nearExact .rcp (rcpExact false man e)
    (scaleX (fxFix (romSegment .rcp (man * 2 ^ (40 - Nat.log2 man)))) (-ilog2 man e))

/-- rsqrt: x = 4^k × m, m in [1, 4); 2^-k × m^-1/2. -/
def romRsqrt (man : Nat) (e : Int) : Fx :=
  let k := ilog2 man e
  nearExact .rsqrt (rsqrtExact man e)
    (scaleX (fxFix (romSegment .rsqrt (man * 2 ^ (40 - Nat.log2 man) * 2 ^ (k % 2).toNat))) (-(k / 2)))

end Sys2Proof.Machine
end

