-- ==== Sys2Proof/Machine/Sfu.lean ====
section
/-!
DEFINITION. The built-in functions, the drain's activations and user micro-programs
(04_functions_and_softmax.md).
-/

namespace Sys2Proof.Machine

def signIf (neg : Bool) (x : Fx) : Fx := if neg then x.neg else x

/-- The internal value `y` of R106 and whether the function itself overflowed or made a NaN. -/
def sfuInternal (fn : SfuFn) (x : Fx) : Fx × Flags :=
  match fn, x with
  | _, .nan => (.nan, {})
  | .exp, .inf neg => (if neg then .fin false 0 0 else .inf false, {})
  | .exp, .fin neg man e =>
    if man = 0 then (.pow2 0, {})
    else if !neg && !ltX x (decodeF fp32 0x42B17218) then (.inf false, { ovf := true })
    else if neg && !ltX (.fin true 104 0) x then (.fin false 1 (-151), {})
    else
      (romExp neg man e, {})
  | .log, .inf neg => if neg then (.nan, { nangen := true }) else (.inf false, {})
  | .log, .fin neg man e =>
    if man = 0 then (.inf true, {})
    else if neg then (.nan, { nangen := true })
    else if cmpX x (.pow2 0) = some .eq then (.fin false 0 0, {})
    else (romLog man e, {})
  | .rcp, .inf neg => (.fin neg 0 0, {})
  | .rcp, .fin neg man e =>
    if man = 0 then (.inf neg, {})
    else
      let k := ilog2 man e
      if man = 2 ^ Nat.log2 man then (.fin neg 1 (-k), {})
      else (signIf neg (romRcp man e), {})
  | .rsqrt, .inf neg => if neg then (.nan, { nangen := true }) else (.fin false 0 0, {})
  | .rsqrt, .fin neg man e =>
    if man = 0 then (.inf neg, {})
    else if neg then (.nan, { nangen := true })
    else
      let k := ilog2 man e / 2
      if man = 2 ^ Nat.log2 man ∧ ilog2 man e % 2 = 0 then (.pow2 (-k), {})
      else (romRsqrt man e, {})

/-- A built-in function on an FP32 code (R106, R107). -/
def sfuFp32 (subn : Bool) (fn : SfuFn) (code : Nat) : Nat × Flags :=
  let (x, fl) := readF subn fp32 code
  let (y, g) := sfuInternal fn x
  let (c, g') := roundF subn fp32 .near 0 y
  (c, (Flags.or g g').or { flush := fl })

/-- A built-in function on a BF16 code: widened, evaluated as FP32, rounded once (R104). -/
def sfuBf16 (subn : Bool) (fn : SfuFn) (code : Nat) : Nat × Flags :=
  let (c, g) := sfuFp32 subn fn (code * 2 ^ 16)
  let (c', g') := roundF subn bf16 .near 0 (decodeF fp32 c)
  (c', g.or g')

/-! ### FP32 steps, each rounded once to nearest even (R111, R120) -/

def f32Op2 (subn : Bool) (op : Fx → Fx → Fx × Bool) (a b : Nat) : Nat × Flags :=
  let (x, fa) := readF subn fp32 a
  let (y, fb) := readF subn fp32 b
  let (v, g) := op x y
  let (c, fl) := roundF subn fp32 .near 0 v
  (c, fl.or { flush := fa || fb, nangen := g })

def f32Add (subn : Bool) (a b : Nat) : Nat × Flags := f32Op2 subn (addX .near) a b
def f32Mul (subn : Bool) (a b : Nat) : Nat × Flags := f32Op2 subn mulX a b

def f32Fma (subn : Bool) (a b z : Nat) : Nat × Flags :=
  let (x, fa) := readF subn fp32 a
  let (y, fb) := readF subn fp32 b
  let (w, fz) := readF subn fp32 z
  let (v, g) := fmaX .near x y w
  let (c, fl) := roundF subn fp32 .near 0 v
  (c, fl.or { flush := fa || fb || fz, nangen := g })

def f32Max (subn : Bool) (a b : Nat) : Nat × Flags :=
  f32Op2 subn (fun x y => (maxX x y, false)) a b

def f32Min (subn : Bool) (a b : Nat) : Nat × Flags :=
  f32Op2 subn (fun x y => (minX x y, false)) a b

/-- Sign change of an FP32 code; a NaN becomes canonical (R81). -/
def f32Sign (set : Bool → Bool) (a : Nat) : Nat :=
  if (decodeF fp32 a).isNan then fp32.nanCode
  else a % 2 ^ 31 + fp32.sign (set (bit a 31))

def f32One : Nat := 0x3F800000
def f32Two : Nat := 0x40000000

/-- Runs a step and joins its flags with those so far. -/
def thenF (p : Nat × Flags) (k : Nat → Nat × Flags) : Nat × Flags :=
  let (c, g) := k p.1
  (c, p.2.or g)

/-- SIGMOID of Table FUN-4. -/
def sigmoid (subn : Bool) (x : Nat) : Nat × Flags :=
  thenF (thenF (sfuFp32 subn .exp (f32Sign (!·) x)) (f32Add subn f32One)) (sfuFp32 subn .rcp)

/-! ### User micro-programs (R118 to R124) on a table image (Table FUN-6) -/

/-- The values of a lane (R120). -/
structure Lane where
  v : Nat
  a : Nat
  n : Int
  flags : Flags
deriving DecidableEq, Repr

def imgConst (img : List Byte) (k : Nat) : Nat := leAt img (0x40 + 4 * k) 4
def imgStep (img : List Byte) (p i : Nat) : Nat := leAt img (0x140 + 32 * p + 2 * i) 2
def imgSeg (t : Nat) : Nat := 0x540 + 2064 * t
def imgPresent (img : List Byte) (p : Nat) : Bool := bit (leAt img 4 4) p

/-- SEG (R121). -/
def segEval (subn : Bool) (img : List Byte) (t code : Nat) : Nat × Flags :=
  let base := imgSeg t
  let lo := leAt img base 4
  let w := sext 8 (leAt img (base + 4) 1)
  let (x, fx) := readF subn fp32 code
  let (l, fl) := readF subn fp32 lo
  let flush : Flags := { flush := fx || fl }
  match x with
  | .nan => (fp32.nanCode, flush)
  | _ =>
    let off := (addX .near x l.neg).1
    let j : Int := match off with
      | .fin neg man exp => clampI 0 127 (floorX neg man (exp - w))
      | .inf neg => if neg then 0 else 127
      | .nan => 0
    let seam := (addX .near l (scaleX (Fx.ofInt j) w)).1
    let (dv, g) := addX .near x seam.neg
    let (d, fd) := roundF subn fp32 .near 0 dv
    let c (k : Nat) : Nat := leAt img (base + 16 + 16 * j.toNat + 4 * k) 4
    let p := thenF (f32Fma subn d (c 2) (c 1)) (fun q => f32Fma subn d q (c 0))
    (p.1, (p.2.or fd).or (flush.or { nangen := g }))

def Lane.with (l : Lane) (p : Nat × Flags) : Lane := { l with v := p.1, flags := l.flags.or p.2 }

/-- One step of a micro-program (Table FUN-5); an undefined OP, which the load check keeps out of
present programs (R124), changes nothing. -/
def progStep (subn : Bool) (img : List Byte) (x : Nat) (op arg : Nat) (l : Lane) : Lane :=
  let c := imgConst img arg
  match op with
  | 0x01 => l.with (f32Mul subn l.v c)
  | 0x02 => l.with (f32Add subn l.v c)
  | 0x03 => l.with (f32Fma subn l.v c (imgConst img (arg + 1)))
  | 0x04 => l.with (f32Mul subn l.v x)
  | 0x05 => l.with (f32Add subn l.v x)
  | 0x06 => l.with (f32Mul subn l.v l.a)
  | 0x07 => l.with (f32Add subn l.v l.a)
  | 0x08 => { l with a := l.v }
  | 0x09 => { l with a := l.v, v := l.a }
  | 0x0A =>
    match arg with
    | 0 => l.with (sfuFp32 subn .exp l.v)
    | 1 => l.with (sfuFp32 subn .log l.v)
    | 2 => l.with (sfuFp32 subn .rcp l.v)
    | _ => l.with (sfuFp32 subn .rsqrt l.v)
  | 0x0B => l.with (segEval subn img arg l.v)
  | 0x0C =>
    let (x, fl) := readF subn fp32 l.v
    match x with
    | .fin neg man exp =>
      let n := clampI (-32768) 32767 (floorX neg man exp)
      let (c, g) := roundF subn fp32 .near 0 (addX .near x (Fx.ofInt n).neg).1
      { l with v := c, n := n, flags := (l.flags.or g).or { flush := fl } }
    | _ => { l with n := 0 }
  | 0x0D =>
    let (x, fl) := readF subn fp32 l.v
    let (c, g) := roundF subn fp32 .near 0 (scaleX x l.n)
    { l with v := c, flags := (l.flags.or g).or { flush := fl } }
  | 0x0E =>
    match arg with
    | 0 => { l with v := f32Sign (fun _ => false) l.v }
    | 1 => { l with v := f32Sign (!·) l.v }
    | _ => { l with v := f32Sign (fun _ => bit x 31) l.v }
  | 0x0F => l.with (f32Max subn l.v c)
  | 0x10 => l.with (f32Min subn l.v c)
  | 0x11 =>
    let (y, fy) := readF subn fp32 x
    let (k, fk) := readF subn fp32 c
    { l with v := if ltX y k then l.a else l.v, flags := l.flags.or { flush := fy || fk } }
  | _ => l

/-- Runs program `p` from step `i` for at most `fuel` steps, to the first END (R120). -/
def progRun (subn : Bool) (img : List Byte) (p x : Nat) : Nat → Nat → Lane → Lane
  | 0, _, l => l
  | fuel + 1, i, l =>
    let s := imgStep img p i
    if s / 256 = 0 then l
    else progRun subn img p x fuel (i + 1) (progStep subn img x (s / 256) (s % 256) l)

/-- An FP32 operand as it is read: a NaN is canonical, a flushed subnormal a zero (R81, R90). -/
def operandFp32 (subn : Bool) (x : Nat) : Nat × Flags :=
  let (v, fl) := readF subn fp32 x
  (if v.isNan then fp32.nanCode else if fl then fp32.sign (bit x 31) else x, { flush := fl })

/-- A micro-program on an FP32 operand (R120). -/
def progFp32 (subn : Bool) (img : List Byte) (p x : Nat) : Nat × Flags :=
  let (x, fl) := operandFp32 subn x
  let l := progRun subn img p x 16 0 ⟨x, 0, 0, fl⟩
  (l.v, l.flags)

/-- A micro-program on a BF16 operand, widened and rounded under R104. -/
def progBf16 (subn : Bool) (img : List Byte) (p x : Nat) : Nat × Flags :=
  let (c, g) := progFp32 subn img p (x * 2 ^ 16)
  let (c', g') := roundF subn bf16 .near 0 (decodeF fp32 c)
  (c', g.or g')

/-- Activations of Table FUN-4 on an FP32 code; code 0x8 runs micro-program `prog` of `img`. -/
def activation (subn : Bool) (img : List Byte) (code prog x : Nat) : Nat × Flags :=
  match code with
  | 0x1 => f32Max subn x 0
  | 0x2 => sfuFp32 subn .exp x
  | 0x3 => sigmoid subn x
  | 0x4 =>
    thenF (thenF (thenF (f32Mul subn f32Two x) (sigmoid subn)) (f32Mul subn f32Two))
      (fun v => f32Add subn v 0xBF800000)
  | 0x5 => thenF (sigmoid subn x) (f32Mul subn x)
  | 0x6 =>
    let cube := thenF (thenF (f32Mul subn 0x3D372713 x) (f32Mul subn · x)) (f32Mul subn · x)
    let z := thenF (thenF cube (f32Add subn x)) (f32Mul subn 0x3FCC4229)
    thenF (thenF z (sigmoid subn)) (f32Mul subn x)
  | 0x7 => sfuFp32 subn .rcp x
  | 0x8 => progFp32 subn img prog x
  | _ => (x, {})

/-! ### The load check of R124: the byte offset of the first failing field, if any -/

def firstBad (bs : List Byte) : List (Nat × Nat) → Option Nat
  | [] => none
  | f :: fs => if leAt bs f.1 f.2 ≠ 0 then some f.1 else firstBad bs fs

/-- Whether a step before END has a defined OP and an ARG in range (Table FUN-5). -/
def stepOk (op arg : Nat) : Bool :=
  match op with
  | 0x01 | 0x02 | 0x0F | 0x10 | 0x11 => arg ≤ 63
  | 0x03 => arg ≤ 62
  | 0x04 | 0x05 | 0x06 | 0x07 | 0x08 | 0x09 | 0x0C | 0x0D => arg = 0
  | 0x0A => arg ≤ 3
  | 0x0B => arg ≤ 7
  | 0x0E => arg ≤ 2
  | _ => false

/-- The first failing step of program `p`, by byte offset. DESIGN CHOICE (log 172): a program that never
reaches END is reported at its first byte. -/
def progBad (img : List Byte) (p : Nat) : Nat → Nat → Option Nat
  | 0, _ => some (0x140 + 32 * p)
  | fuel + 1, i =>
    let s := imgStep img p i
    let off := 0x140 + 32 * p + 2 * i
    if s / 256 = 0 then none
    else if !stepOk (s / 256) (s % 256) then some off
    else if s / 256 = 0x0B && !bit (leAt img 8 1) (s % 256) then some off
    else progBad img p fuel (i + 1)

/-- The reserved and range fields of segment table `t`. -/
def segBad (img : List Byte) (t : Nat) : Option Nat :=
  let base := imgSeg t
  let w := sext 8 (leAt img (base + 4) 1)
  if w < -24 ∨ 24 < w then some (base + 4) else none

/-- The reserved fields of the image, offset and length, but those of absent tables, which are not checked. -/
def sfuReserved (img : List Byte) : List (Nat × Nat) :=
  (0x9, 7) :: (0x30, 16) ::
    ((List.range 8).map fun t =>
      if !bit (leAt img 8 1) t then []
      else (imgSeg t + 5, 11) :: (List.range 128).map fun j => (imgSeg t + 16 + 16 * j + 12, 4)).flatten

/-- The check of R124 on a whole image. DESIGN CHOICE (log 172): the first failure is sought in VERSION, then in
the reserved bytes, then in the programs step by step, then in the tables. -/
def sfuImageBad (img : List Byte) : Option Nat :=
  if leAt img 0 4 ≠ 1 then some 0
  else
    match firstBad img (sfuReserved img) with
    | some o => some o
    | none =>
      let progs := (List.range 32).filterMap fun p =>
        if imgPresent img p then progBad img p 16 0 else none
      let segs := (List.range 8).filterMap fun t =>
        if bit (leAt img 8 1) t then segBad img t else none
      (progs ++ segs).head?

end Sys2Proof.Machine
end

