-- ==== Sys2Proof/Machine/Vec.lean ====
section
/-!
DEFINITION. The Vector Engine and the conversions on register contents (R68, R88, R89, R98 to R101,
R463, Table TIL-12): plain functions from registers and numeric mode to a register and flags.
-/

namespace Sys2Proof.Machine

/-- FMT codes of Table TIL-5. -/
def fmtOf : Nat → Option FloatFmt
  | 0x0 => some fp32
  | 0x1 => some bf16
  | 0x2 => some fp16
  | 0x3 => some fp8e4m3
  | 0x4 => some fp8e5m2
  | 0x5 => some fp8e4m3
  | 0x6 => some fp8e5m2
  | 0x7 => some mxE3m2
  | 0x8 => some mxE2m3
  | 0x9 => some mxE2m1
  | 0xC => some mw48
  | _ => none

/-- What a result depends on beside its operands (R97): subnormal mode and rounding key. -/
structure NumMode where
  subn : Bool
  key : SrKey
deriving DecidableEq, Repr

/-- The lane formats of the Vector Engine. -/
inductive LaneFmt
  | f (fmt : FloatFmt)
  | int32
deriving DecidableEq, Repr

/-- FMT of a lane-wise instruction: FP32, BF16 or INT32 (Table TIL-4). -/
def laneFmt : Nat → Option LaneFmt
  | 0x0 => some (.f fp32)
  | 0x1 => some (.f bf16)
  | 0xB => some .int32
  | _ => none

def LaneFmt.width : LaneFmt → Nat
  | .f fmt => fmt.width
  | .int32 => 32

def LaneFmt.count (l : LaneFmt) : Nat := 8192 / l.width

def joinFlags (xs : List (Nat × Flags)) : Flags := (xs.map (·.2)).foldl Flags.or {}

/-- Assembles lanes and their flags into a register. -/
def packLanes (b : Nat) (xs : List (Nat × Flags)) : VReg × Flags :=
  (ofLanes b (xs.map (·.1)), joinFlags xs)

/-- Lanes numbered from 0. -/
def numbered {α : Type} (xs : List α) : List (Nat × α) := (List.range xs.length).zip xs

/-- A float lane: operands read under R90, an exact operation, one rounding. -/
def laneF (nm : NumMode) (f : FloatFmt) (mode : Rnd) (i : Nat)
    (op : Fx → Fx → Fx → Fx × Bool) (a b c : Nat) : Nat × Flags :=
  let (x, fx) := readF nm.subn f a
  let (y, fy) := readF nm.subn f b
  let (z, fz) := readF nm.subn f c
  let (v, g) := op x y z
  let (r, fl) := roundF nm.subn f mode (srFor mode nm.key i) v
  (r, fl.or { flush := fx || fy || fz, nangen := g })

/-- The lane-wise arithmetic instructions. -/
inductive VecOp
  | add | sub | mul | fma | max | min
deriving DecidableEq, Repr

def VecOp.exact (op : VecOp) (mode : Rnd) (x y z : Fx) : Fx × Bool :=
  match op with
  | .add => addX mode x y
  | .sub => addX mode x y.neg
  | .mul => mulX x y
  | .fma => fmaX mode x y z
  | .max => (maxX x y, false)
  | .min => (minX x y, false)

def VecOp.int (op : VecOp) (a b c : Nat) : Nat :=
  match op with
  | .add => (a + b) % 2 ^ 32
  | .sub => (a + 2 ^ 32 - b) % 2 ^ 32
  | .mul => a * b % 2 ^ 32
  | .fma => (a * b + c) % 2 ^ 32
  | .max => if sext 32 a < sext 32 b then b else a
  | .min => if sext 32 b < sext 32 a then b else a

/-- VADD, VSUB, VMUL, VFMA, VMAX, VMIN (Table TIL-12). The third operand takes part in VFMA only. -/
def vecArith (nm : NumMode) (lf : LaneFmt) (mode : Rnd) (op : VecOp) (a b c : VReg) :
    VReg × Flags :=
  let w := lf.width
  let one (i : Nat) : Nat × Flags :=
    let x := elemAt a.toNat w i
    let y := elemAt b.toNat w i
    let z := if op = .fma then elemAt c.toNat w i else 0
    match lf with
    | .f fmt => laneF nm fmt mode i (op.exact mode) x y z
    | .int32 => (op.int x y z, {})
  packLanes w ((List.range lf.count).map one)

/-- Whether a comparison holds (Table NUM-3); `none` is unordered. -/
def condHolds (cond : Nat) : Option Ordering → Bool
  | none => cond == 1 || cond == 6
  | some o =>
    match cond with
    | 0 => o == .eq
    | 1 => o != .eq
    | 2 => o == .lt
    | 3 => o != .lt
    | 4 => o != .gt
    | 5 => o == .gt
    | _ => false

/-- VCMP (R88). -/
def vecCmp (nm : NumMode) (lf : LaneFmt) (cond : Nat) (a b : VReg) : VReg × Flags :=
  let w := lf.width
  let one (i : Nat) : Nat × Flags :=
    let x := elemAt a.toNat w i
    let y := elemAt b.toNat w i
    let (o, fl) : Option Ordering × Flags := match lf with
      | .f fmt =>
        let (u, fu) := readF nm.subn fmt x
        let (v, fv) := readF nm.subn fmt y
        (cmpX u v, { flush := fu || fv })
      | .int32 => (some (compare (sext 32 x) (sext 32 y)), {})
    (if condHolds cond o then 2 ^ w - 1 else 0, fl)
  packLanes w ((List.range lf.count).map one)

/-- VSEL: bit for bit, lane non-zero selects (Table TIL-12). -/
def vecSel (lf : LaneFmt) (a b c : VReg) : VReg :=
  let w := lf.width
  ofLanes w ((List.range lf.count).map fun i =>
    if elemAt a.toNat w i ≠ 0 then elemAt b.toNat w i else elemAt c.toNat w i)

/-- One level of the reduction tree: node j with node j + half (R463). -/
def treeLevel (comb : Nat → Nat → Nat → Nat × Flags) (xs : List Nat) : List (Nat × Flags) :=
  let h := xs.length / 2
  (numbered ((xs.take h).zip (xs.drop h))).map fun (j, (a, b)) => comb j a b

/-- The whole tree, level `l` on; `comb l j a b`. -/
def treeFold (comb : Nat → Nat → Nat → Nat → Nat × Flags) :
    Nat → Nat → List Nat → Flags → Nat × Flags
  | 0, _, xs, fl => (xs.headD 0, fl)
  | fuel + 1, l, xs, fl =>
    if xs.length ≤ 1 then (xs.headD 0, fl)
    else
      let ys := treeLevel (comb l) xs
      treeFold comb fuel (l + 1) (ys.map (·.1)) (fl.or (joinFlags ys))

/-- The across-lane reductions. -/
inductive RedOp
  | sum | max | amax
deriving DecidableEq, Repr

/-- One addition of VRSUM in FP32 at level `l`, node `j` (R68, Table NUM-5). -/
def sumNode (nm : NumMode) (mode : Rnd) (l j a b : Nat) : Nat × Flags :=
  let (x, fx) := readF nm.subn fp32 a
  let (y, fy) := readF nm.subn fp32 b
  let (v, g) := addX mode x y
  let (r, fl) := roundF nm.subn fp32 mode (srFor mode nm.key (512 * l + j)) v
  (r, fl.or { flush := fx || fy, nangen := g })

/-- A maximum node on codes of a format, exact. -/
def maxNode (nm : NumMode) (f : FloatFmt) (a b : Nat) : Nat × Flags :=
  let (x, fx) := readF nm.subn f a
  let (y, fy) := readF nm.subn f b
  let (r, fl) := roundF nm.subn f .near 0 (maxX x y)
  (r, fl.or { flush := fx || fy })

/-- VRSUM, VRMAX, VAMAX (R68, R463): one scalar in lane 0, other lanes 0. -/
def vecReduce (nm : NumMode) (lf : LaneFmt) (mode : Rnd) (op : RedOp) (a : VReg) : VReg × Flags :=
  let xs := lanes lf.width lf.count a
  let (c, fl) : Nat × Flags := match lf, op with
    | .int32, .sum => treeFold (fun _ _ x y => ((x + y) % 2 ^ 32, {})) 9 1 xs {}
    | .int32, .max =>
      treeFold (fun _ _ x y => (if sext 32 x < sext 32 y then y else x, {})) 9 1 xs {}
    | .int32, .amax =>
      treeFold (fun _ _ x y => (max x y, {})) 9 1 (xs.map fun x => (sext 32 x).natAbs) {}
    | .f fmt, .sum =>
      if fmt.width = 32 then treeFold (sumNode nm mode) 9 1 xs {}
      else
        let reads := xs.map fun x => readF nm.subn bf16 x
        let wide := reads.map fun (x, _) => (roundF true fp32 .near 0 x).1
        let fl0 : Flags := { flush := reads.any (·.2) }
        let (s, fs) := treeFold (sumNode nm mode) 9 1 wide fl0
        let (r, fr) := roundF nm.subn bf16 mode (srFor mode nm.key (512 * 9 + 1)) (decodeF fp32 s)
        (r, fs.or fr)
    | .f fmt, .max => treeFold (fun _ _ x y => maxNode nm fmt x y) 9 1 xs {}
    | .f fmt, .amax =>
      treeFold (fun _ _ x y => maxNode nm fmt x y) 9 1
        (xs.map fun x => if (decodeF fmt x).isNan then fmt.nanCode
          else x % 2 ^ (fmt.width - 1)) {}
  (ofLanes lf.width [c], fl)

/-- VBCAST (Table TIL-12). -/
def vecBcast (half : Bool) (w : Word) : VReg :=
  if half then ofLanes 16 (List.replicate 512 (w.toNat % 2 ^ 16))
  else ofLanes 32 (List.replicate 256 (w.toNat % 2 ^ 32))

/-- VPERM (Table TIL-12). -/
def vecPerm (half : Bool) (src idx : VReg) : VReg :=
  let w := if half then 16 else 32
  let n := if half then 512 else 256
  ofLanes w ((List.range n).map fun i => elemAt src.toNat w (elemAt idx.toNat w i % n))

/-- A function applied to every lane (SEXP to SRSQ, SPROG; R104, R118). -/
def vecMap (half : Bool) (f : Nat → Nat × Flags) (a : VReg) : VReg × Flags :=
  let w := if half then 16 else 32
  packLanes w ((lanes w (8192 / w) a).map f)

/-! ### CVT (R98, R99) -/

/-- Whether Table NUM-6 lists the pair. -/
def cvtPair (src dst : Nat) : Bool :=
  let wide (x : Nat) : Bool := x == 0x0 || x == 0x1 || x == 0x2 || x == 0xB
  let narrow (x : Nat) : Bool := x == 0x3 || x == 0x4 || x == 0xA
  let float (x : Nat) : Bool := x == 0x0 || x == 0x1 || x == 0x2
  (wide src && (wide dst && src != dst || dst == 0xC)) ||
    (src == 0xC && (wide dst || dst == 0xC)) ||
    (float src && narrow dst) || (narrow src && float dst)

/-- Width in bits of an element of FMT `x` in one register. -/
def cvtWidth (x : Nat) : Nat :=
  match x with
  | 0x1 | 0x2 => 16
  | 0x3 | 0x4 | 0xA => 8
  | _ => 32

/-- Reads element `i` of a source register (pair for MW48). -/
def cvtRead (nm : NumMode) (fmt : Nat) (hi lo : VReg) (i : Nat) : Fx × Bool :=
  match fmt with
  | 0xA => (Fx.ofInt (sext 8 (elemAt hi.toNat 8 i)), false)
  | 0xB => (Fx.ofInt (sext 32 (elemAt hi.toNat 32 i)), false)
  | 0xC =>
    readF nm.subn mw48 (elemAt hi.toNat 32 i * 2 ^ 16 + elemAt lo.toNat 32 i % 2 ^ 16)
  | x =>
    match fmtOf x with
    | some f => readF nm.subn f (elemAt hi.toNat f.width i)
    | none => (.nan, false)

/-- Number of elements a CVT converts (R98). -/
def cvtCount (src dst : Nat) : Nat :=
  let big (x : Nat) : Bool := x == 0x0 || x == 0xB || x == 0xC
  if big src || big dst then 256 else 512

/-- CVT to a destination other than MW48. -/
def vecCvt (nm : NumMode) (src dst : Nat) (mode : Rnd) (hi lo : VReg) : VReg × Flags :=
  let one (i : Nat) : Nat × Flags :=
    let (x, fl) := cvtRead nm src hi lo i
    let r := srFor mode nm.key i
    let (c, g) := match dst with
      | 0xA => roundInt 8 mode r x
      | 0xB => roundInt 32 mode r x
      | d =>
        match fmtOf d with
        | some f => roundF nm.subn f mode r x
        | none => (0, {})
    (c, g.or { flush := fl })
  packLanes (cvtWidth dst) ((List.range (cvtCount src dst)).map one)

/-- CVT to MW48: the exact sum with the FP32 addend, rounded once (R99). High words, extensions. -/
def vecCvtMw (nm : NumMode) (src : Nat) (mode : Rnd) (hi lo add : VReg) :
    VReg × VReg × Flags :=
  let one (i : Nat) : Nat × Flags :=
    let (x, fx) := cvtRead nm src hi lo i
    let (y, fy) := readF nm.subn fp32 (elemAt add.toNat 32 i)
    let (v, g) := addX mode x y
    let (c, fl) := roundF nm.subn mw48 mode (srFor mode nm.key i) v
    (c, fl.or { flush := fx || fy, nangen := g })
  let rs := (List.range 256).map one
  (ofLanes 32 (rs.map (·.1 / 2 ^ 16)), ofLanes 32 (rs.map (·.1 % 2 ^ 16)), joinFlags rs)

/-! ### CVTMX (R100, R101) -/

/-- Element width of an MX format code. -/
def mxWidth : Nat → Nat
  | 0x7 | 0x8 => 6
  | 0x9 => 4
  | _ => 8

/-- Whether the element format has a NaN code. -/
def mxHasNan (f : FloatFmt) : Bool := f.special != .none

/-- One element of a pack, under a scale that is not NaN. `computed` leaves the saturation of R101
out of OVF. -/
def mxElem (nm : NumMode) (f : FloatFmt) (mode : Rnd) (computed : Bool) (scale i : Nat) (v : Fx) :
    Nat × Flags :=
  match v with
  | .nan => if mxHasNan f then (f.nanCode, {}) else (0, { nangen := true })
  | v =>
    let x := scaleX v (127 - (scale : Int))
    let (c, fl) := roundF true f mode (srFor mode nm.key i) x
    (c, if computed then { fl with ovf := false } else fl)

/-- The scale R101 computes for a block. -/
def mxScale (f : FloatFmt) (vs : List Fx) : Nat :=
  match vs.foldl (fun a v => maxX a v.abs) (.fin false 0 0) with
  | .nan => 255
  | .inf _ => 255
  | .fin _ man exp =>
    if man = 0 then 0 else (127 + max (ilog2 man exp - mxEmax f) (-127)).toNat

/-- A block of a pack: scale and elements. `given` is the scale of OP 0b01. -/
def mxBlock (nm : NumMode) (f : FloatFmt) (mode : Rnd) (given : Option Nat) (base : Nat)
    (vs : List Fx) : Nat × List (Nat × Flags) :=
  let scale := given.getD (mxScale f vs)
  let zeros (fl : Flags) := vs.map fun _ => (0, fl)
  if scale = 255 then
    (255, zeros { nangen := given.isNone })
  else
    (scale, (numbered vs).map fun (i, v) => mxElem nm f mode given.isNone scale (base + i) v)

/-- Splits a list into blocks of 32. -/
def blocks32 {α : Type} : Nat → List α → List (List α)
  | 0, _ => []
  | n + 1, xs => xs.take 32 :: blocks32 n (xs.drop 32)

/-- CVTMX pack: elements, scales register (R100). `given` is V[S2] for OP 0b01. DESIGN CHOICE
(log 169): bytes of D past the last element are 0. -/
def vecMxPack (nm : NumMode) (code : Nat) (f : FloatFmt) (half : Bool) (mode : Rnd)
    (given : Option VReg) (a : VReg) : VReg × VReg × Flags :=
  let wide := if half then bf16 else fp32
  let n := 8192 / wide.width
  let reads := (lanes wide.width n a).map (readF nm.subn wide)
  let bs := numbered (blocks32 (n / 32) (reads.map (·.1)))
  let flushed := numbered (blocks32 (n / 32) (reads.map (·.2)))
  let outs := bs.map fun (b, vs) =>
    mxBlock nm f mode (given.map fun (g : VReg) => elemAt g.toNat 8 b) (32 * b) vs
  let elems := (outs.map (·.2)).flatten
  let void (b : Nat) : Bool := (given.map fun (g : VReg) => elemAt g.toNat 8 b) == some 0xFF
  let fl : Flags := { flush := flushed.any fun (b, fs) => !void b && fs.any id }
  (ofLanes (mxWidth code) (elems.map (·.1)), ofLanes 8 (outs.map (·.1)), fl.or (joinFlags elems))

/-- CVTMX unpack (R100). DEDUCED (log 170): Table NUM-5 lists no CVTMX unpack; its element index is S27 + lane, as
for CVT. -/
def vecMxUnpack (nm : NumMode) (code : Nat) (f : FloatFmt) (half : Bool) (mode : Rnd)
    (a scales : VReg) : VReg × Flags :=
  let wide := if half then bf16 else fp32
  let n := 8192 / wide.width
  packLanes wide.width ((List.range n).map fun i =>
    let v := mxValue f (elemAt scales.toNat 8 (i / 32)) (elemAt a.toNat (mxWidth code) i)
    roundF nm.subn wide mode (srFor mode nm.key i) v)

end Sys2Proof.Machine
end

