-- ==== Sys2Proof/Machine/Matrix.lean ====
section
/-!
DEFINITION. The Matrix Engine's arithmetic (R58 to R66): rate classes, passes, sums of products, and
the streaming of a queued MMA into its accumulator tiles.
-/

namespace Sys2Proof.Machine

/-- Rate classes (Table TIL-7). -/
inductive MmaClass
  | f8 | int8 | mxf4 | f16 | fp32
deriving DecidableEq, Repr

def mmaClass (a b : Nat) : Option MmaClass :=
  if 3 ≤ a ∧ a ≤ 8 ∧ 3 ≤ b ∧ b ≤ 8 then some .f8
  else if a = 0xA ∧ b = 0xA then some .int8
  else if a = 9 ∧ b = 9 then some .mxf4
  else if (a = 1 ∧ b = 1) ∨ (a = 2 ∧ b = 2) then some .f16
  else if a = 0 ∧ b = 0 then some .fp32
  else none

/-- K_b per pass, dense (Table TIL-7). -/
def MmaClass.kb : MmaClass → Nat
  | .f8 | .int8 => 256
  | .mxf4 => 512
  | .f16 | .fp32 => 128

/-- Block and slab capacity of a masked pass (Table TIL-7). -/
def MmaClass.caps : MmaClass → Nat × Nat
  | .f8 | .int8 => (32, 16)
  | .mxf4 => (64, 32)
  | _ => (16, 8)

def MmaClass.accTy : MmaClass → AccTy
  | .int8 => .int32
  | _ => .fp32

/-- Bits of an element of an FMT code as a matrix operand (R84). -/
def fmtBits : Nat → Nat
  | 0x0 | 0xB => 32
  | 0x1 | 0x2 => 16
  | 0x7 | 0x8 => 6
  | 0x9 => 4
  | _ => 8

/-- The FMT code is an MX format, with block scales. -/
def fmtMx (f : Nat) : Bool := 5 ≤ f && f ≤ 9

/-- One operand element as an exact value, under its scale. -/
def operand (fmt bitsOf scale : Nat) : Fx :=
  match fmt with
  | 0xA => Fx.ofInt (sext 8 bitsOf)
  | f =>
    match fmtOf f with
    | some g => if fmtMx f then mxValue g scale bitsOf else decodeF g bitsOf
    | none => .nan

/-- The bf16 high part of an FP32 value and the bf16 low part of what it leaves (R66). -/
def splitHi (x : Fx) : Fx := decodeF bf16 (roundF true bf16 .near 0 x).1
def splitLo (x : Fx) : Fx :=
  decodeF bf16 (roundF true bf16 .near 0 (addX .near x (splitHi x).neg).1).1

/-- Sum of products, exact; a NaN operand gives NaN without NANGEN (R62, R91). -/
def dotX : List (Fx × Fx) → Fx × Bool
  | xs =>
    if xs.any fun p => p.1.isNan || p.2.isNan then (.nan, false)
    else
      xs.foldl (fun acc p =>
        let (m, g) := mulX p.1 p.2
        let (s, g') := addX .near acc.1 m
        (s, acc.2 || g || g')) (.fin true 0 0, false)

/-- One pass of an MMA: which A elements meet which B rows in each column, which part of an FP32
operand takes part (0 hi·hi, 1 hi·lo, 2 lo·hi), and how much the K count rises after it. -/
structure Pass where
  terms : Nat → List (Nat × Nat)
  part : Nat
  kRise : Nat

/-- The packing of present blocks into passes (R65): slabs of each pass, ascending. -/
def packPasses (capB capS : Nat) : List (Nat × Nat) → List (List Nat) → Nat → List (List Nat)
  | [], ps, _ => ps.reverse.map List.reverse
  | (s, mask) :: rest, ps, blocks =>
    let u := popcount 4 mask
    if u = 0 then packPasses capB capS rest ps blocks
    else
      match ps with
      | p :: ps' =>
        if blocks + u > capB ∨ p.length = capS then packPasses capB capS rest ([s] :: ps) u
        else packPasses capB capS rest ((s :: p) :: ps') (blocks + u)
      | [] => packPasses capB capS rest [[s]] u

/-- K-count rises of masked passes: from the slab after the last pass to the pass's last (R62). -/
def maskedRises : Nat → List (List Nat) → List Nat
  | _, [] => []
  | from_, p :: ps =>
    let last := p.getLastD 0
    32 * (last + 1 - from_) :: maskedRises (last + 1) ps

/-- Columns of a metadata row: first and second kept position of a group (R64). -/
def metaAt (row n : Nat) : Nat × Nat := (elemAt row 4 n % 4, elemAt row 4 n / 4)

/-- The terms of a 2:4 pass: a group with equal indices uses its first value only (R64). -/
def sparseTerms (kb : Nat) (rows : List Nat) (n : Nat) : List (Nat × Nat) :=
  ((List.range (kb / 2)).map fun j =>
    let (i0, i1) := metaAt (rows.getD j 0) n
    if i0 = i1 then [(4 * j + i0, 2 * j)] else [(4 * j + i0, 2 * j), (4 * j + i1, 2 * j + 1)]).flatten

/-- The terms of a masked pass: the rows of present blocks of column `n`'s group (R65). -/
def maskedTerms (mask : List Nat) (slabs : List Nat) (n : Nat) : List (Nat × Nat) :=
  (slabs.map fun s =>
    if bit (mask.getD s 0) (n / 32) then
      (List.range 32).map fun k => (32 * s + k, 32 * s + k)
    else []).flatten

/-- The passes of an MMA, and the K count its empty last slabs add (R62, R65). -/
def mmaPasses (cls : MmaClass) (sparse : Nat) (sel : List Nat) : List Pass × Nat :=
  match sparse with
  | 1 => ([⟨sparseTerms cls.kb sel, 0, 2 * cls.kb⟩], 0)
  | 2 =>
    let (capB, capS) := cls.caps
    let ps := packPasses capB capS ((List.range sel.length).zip sel) [] 0
    let rises := maskedRises 0 ps
    ((ps.zip rises).map fun (slabs, r) => ⟨maskedTerms sel slabs, 0, r⟩,
      32 * sel.length - rises.sum)
  | _ =>
    let all (_ : Nat) : List (Nat × Nat) := (List.range cls.kb).map fun k => (k, k)
    match cls with
    | .fp32 => ([⟨all, 0, 0⟩, ⟨all, 1, 0⟩, ⟨all, 2, 128⟩], 0)
    | _ => ([⟨all, 0, cls.kb⟩], 0)

/-- An operand's part in a pass of the FP32 class. -/
def partA (cls : MmaClass) (part : Nat) (x : Fx) : Fx :=
  match cls, part with
  | .fp32, 2 => splitLo x
  | .fp32, _ => splitHi x
  | _, _ => x

def partB (cls : MmaClass) (part : Nat) (x : Fx) : Fx :=
  match cls, part with
  | .fp32, 1 => splitLo x
  | .fp32, _ => splitHi x
  | _, _ => x

/-- The operands of row `i` and column `n` in a pass, as they stand. -/
def passOperands (r : MmaReq) (b : BBlock) (p : Pass) (i n : Nat) : List (Fx × Fx) :=
  let aRow := r.aRows.getD i 0
  (p.terms n).map fun (ka, kb) =>
    let sa := elemAt (r.aScales.getD (ka / 32) 0) 8 i
    -- a 2:4 pass stores rows 2j and 2j + 1 for logical group j, whose slab is that of A
    let sb := elemAt (b.scales.getD (ka / 32) 0) 8 n
    (operand r.fmtA (elemAt aRow (fmtBits r.fmtA) ka) sa,
      operand b.fmt (elemAt (b.rows.getD kb 0) (fmtBits b.fmt) n) sb)

/-- What the pass multiplies: the operands, of which the FP32 class takes a part each (R66). -/
def passProducts (cls : MmaClass) (p : Pass) (xs : List (Fx × Fx)) : List (Fx × Fx) :=
  xs.map fun x => (partA cls p.part x.1, partB cls p.part x.2)

/-- The exact integer an operand stands for. -/
def Fx.toInt : Fx → Int
  | .fin s m _ => if s then -(m : Int) else m
  | _ => 0

def Fx.isInf : Fx → Bool
  | .inf _ => true
  | _ => false

/-- One accumulation of the products `ps` of the operands `xs`: FP32 with one rounding (R62, R63), or INT32
modulo 2^32. A NaN that the split of an infinity makes is generated (R66, R91). Answers the new lane,
flags and whether an INT32 accumulator wrapped. A column with no present block is left alone (R65);
an accumulator that becomes infinite sets OVF (R91). -/
def accumulate (cls : MmaClass) (mode : Rnd) (word : Nat) (scale : Option Nat)
    (xs ps : List (Fx × Fx)) (acc : Nat) : Nat × Flags × Bool :=
  match cls with
  | .int8 =>
    let s : Int := sext 32 acc + (ps.map fun p => p.1.toInt * p.2.toInt).sum
    (wrapN 32 s, {}, decide (s < -2147483648 ∨ 2147483647 < s))
  | _ =>
    if ps.isEmpty ∧ scale.isNone then (acc, {}, false)
    else
      let a := decodeF fp32 acc
      let s := (scale.map (decodeF fp32)).getD (.fin false 1 0)
      let (p, _) := dotX ps
      let (v, _) := fmaX .near s a p
      let (c, fl) := roundF true fp32 mode word v
      let given := a.isNan || s.isNan || xs.any fun q => q.1.isNan || q.2.isNan
      (c, fl.or { nangen := v.isNan && !given, ovf := v.isInf && !a.isInf }, false)

/-- Row `row` of accumulator tile `at_` of a tile. -/
def accRow (d : Dev) (t at_ row : Nat) : BitVec 4096 := mget 0 d.tiles.accRows ((8 * t + at_) * 128 + row)

def setAccRow (d : Dev) (t at_ row : Nat) (v : BitVec 4096) : Dev :=
  { d with tiles.accRows := mset 0 d.tiles.accRows ((8 * t + at_) * 128 + row) v }

def accInfo (d : Dev) (t at_ : Nat) : AccInfo := mget AccInfo.reset d.tiles.acc (8 * t + at_)

def setAccInfo (d : Dev) (t at_ : Nat) (x : AccInfo) : Dev :=
  { d with tiles.acc := mset AccInfo.reset d.tiles.acc (8 * t + at_) x }

/-- Clears an accumulator tile, its type and its K count (R60). -/
def accClear (d : Dev) (t at_ : Nat) : Dev :=
  let lo := (8 * t + at_) * 128
  let d := setAccInfo d t at_ AccInfo.reset
  { d with tiles.accRows := mkeep (fun k => k < lo || lo + 128 ≤ k) d.tiles.accRows }

/-- The accumulator tiles an MMA of `m` rows writes. -/
def accTiles (at_ m : Nat) : List Nat := if 128 < m then [at_, at_ + 1] else [at_]

/-- One row of one pass. -/
def passRow (r : MmaReq) (b : BBlock) (cls : MmaClass) (p : Pass) (first : Bool) (d : Dev) (i : Nat) :
    Dev :=
  let t := tileOf r.ctx
  let at_ := r.acc + i / 128
  let info := accInfo d t at_
  let mode : Rnd := if 65536 < info.k then .stoch else .near
  let old := accRow d t at_ (i % 128)
  let scale := if first then r.rowScales.map fun s => s.getD i 0 else none
  let outs := (List.range 128).map fun n =>
    let xs := passOperands r b p i n
    accumulate cls mode (srFor mode r.key (2 ^ 15 * info.n + 128 * i + n)) scale
      xs (passProducts cls p xs) (elemAt old.toNat 32 n)
  let d := setAccRow d t at_ (i % 128) (BitVec.ofNat 4096 (packElems 32 (outs.map (·.1))))
  let fl := outs.foldl (fun f o => f.or o.2.1) ({} : Flags)
  let d := updCtx d r.ctx fun x => x.addFlags fl
  if outs.any (·.2.2) then rsetf d .tileMeStatus t 0 1 1 1 else d

/-- Raises the K count and the pass count of a tile. -/
def bumpAcc (d : Dev) (t at_ k n : Nat) : Dev :=
  let x := accInfo d t at_
  setAccInfo d t at_ { x with k := x.k + k, n := (x.n + n) % 2 ^ 32 }

/-- One pass: every row, then the counts (R62). -/
def runPass (r : MmaReq) (b : BBlock) (cls : MmaClass) (d : Dev) (p : Pass × Bool) : Dev :=
  let t := tileOf r.ctx
  let d := (List.range r.m).foldl (passRow r b cls p.1 p.2) d
  let d := (accTiles r.acc r.m).foldl (fun d a => bumpAcc d t a p.1.kRise 1) d
  rwrap d .tilePerfMe t 0 r.m

/-- Some group of the metadata has equal indices (R64). -/
def metaBad (rows : List Nat) : Bool :=
  rows.any fun row => (List.range 128).any fun n => (metaAt row n).1 == (metaAt row n).2

/-- An MMA streams: ZERO clears, the type is set, every pass runs, and its block becomes the array's
active block (R58 to R66). -/
def streamMma (d : Dev) (r : MmaReq) : Dev :=
  let t := tileOf r.ctx
  let tiles := accTiles r.acc r.m
  let d := if r.zero then tiles.foldl (fun d a => accClear d t a) d else d
  match mmaClass r.fmtA r.fmtB with
  | none => d
  | some cls =>
    let d := tiles.foldl (fun d a => setAccInfo d t a { accInfo d t a with ty := cls.accTy }) d
    let active := (mget none d.tiles.array t).getD ⟨r.ctx, r.fmtB, true, [], []⟩
    let b := if r.bkeep then active else r.b
    let (passes, tail) := mmaPasses cls r.sparse r.sel
    let flagged := passes.zip (true :: List.replicate passes.length false)
    let d := flagged.foldl (runPass r b cls) d
    let d := tiles.foldl (fun d a => bumpAcc d t a tail 0) d
    let d := if r.sparse = 1 ∧ metaBad r.sel then rsetf d .tileMeStatus t 0 0 0 1 else d
    if passes.isEmpty then d else { d with tiles.array := mset none d.tiles.array t (some b) }

/-- One MMA of a context has streamed: the ring releases that waited only for it take effect (R133). -/
def relStreamed (d : Dev) (c : Nat) : Dev :=
  let due := (ctxAt d c).relDue.map fun e => (e.1, e.2.1 - 1, e.2.2)
  let d := updCtx d c fun x => { x with relDue := due.filter fun e => e.2.1 ≠ 0 }
  (due.filter fun e => e.2.1 = 0).foldl (fun d e => ringRelease d (tileOf c) e.1 e.2.2) d

/-- A condition that contexts of tile `t` test anew may have cleared: WAITING ones become READY
(Table TIL-2). -/
def clearRetry (d : Dev) (t : Nat) : Dev :=
  (tileCtxs t).foldl (fun d c =>
    let x := ctxAt d c
    if x.state = .waiting ∧ (x.wait.tries true ∨ x.wait.tries false) then
      setCtx d c { x with state := .ready, wait := .none }
    else d) d

/-- The oldest queued MMA of a tile streams (R61). -/
def streamNext (d : Dev) (t : Nat) : Dev :=
  match mget [] d.tiles.mmaQ t with
  | [] => d
  | r :: rest =>
    clearRetry (relStreamed (streamMma { d with tiles.mmaQ := mset [] d.tiles.mmaQ t rest } r) r.ctx) t

/-- Queued MMAs of a tile. -/
def mmaQueue (d : Dev) (t : Nat) : List MmaReq := mget [] d.tiles.mmaQ t

/-- Streams the queue until no MMA of context `c` is left in it. -/
def drainMma : Nat → Nat → Dev → Dev
  | 0, _, d => d
  | n + 1, c, d =>
    if (mmaQueue d (tileOf c)).any fun r => r.ctx == c then drainMma n c (streamNext d (tileOf c))
    else d

def drainCtxMma (d : Dev) (c : Nat) : Dev := drainMma (mmaQueue d (tileOf c)).length c d

/-- Context `c` has MMAs queued. -/
def mmaBusy (d : Dev) (c : Nat) : Bool := (mmaQueue d (tileOf c)).any fun r => r.ctx == c

/-- A queued MMA of the context names accumulator tile `at_` (R46, R113). -/
def accBusy (d : Dev) (c at_ : Nat) : Bool :=
  (mmaQueue d (tileOf c)).any fun r => r.ctx == c && (accTiles r.acc r.m).contains at_

/-- The type accumulator tile `at_` will have when the queue has streamed. -/
def accTypeAfter (d : Dev) (t at_ : Nat) : AccTy :=
  (mmaQueue d t).foldl (fun ty r =>
    if (accTiles r.acc r.m).contains at_ then
      match mmaClass r.fmtA r.fmtB with
      | some c => c.accTy
      | none => ty
    else ty) (accInfo d t at_).ty

end Sys2Proof.Machine
end

