-- ==== Sys2Proof/Machine/Issue.lean ====
section
/-!
DEFINITION. How a context's instruction issues, is held back, completes or faults (R44, R46, R51,
R53, R54).
-/

namespace Sys2Proof.Machine

/-- A context can issue its next instruction: it runs and waits for nothing but a condition that the
instruction tests anew (R44, log 1); its partition is not in a hold (R368) and its LAUNCH is no
unsettled suspect (R371). -/
def canIssue (d : Dev) (c : Nat) : Bool :=
  let x := ctxAt d c
  decide (c < 512) && x.state == .running && (x.wait == .none || x.wait.tries false || x.wait.tries true) &&
    tilesRun d && !partHeld d (partOfCtx d c) && !isSuspect d x.queue x.seq

/-- An engine of a tile in recovery takes instructions only from the LAUNCHes replayed on it (R370,
R371). -/
def engineTakes (d : Dev) (c : Nat) (e : Eng) : Bool :=
  let x := ctxAt d c
  d.recov.engines.all fun r =>
    r.engine != 0x200 + tileOf c || r.tileEng != e.code || r.cleared.contains (x.queue, x.seq) ||
      r.probing == some (x.queue, x.seq)

/-- The place of a fault in program order: that of the operation, or after all of them. -/
def Ctx.placeOf (x : Ctx) (f : Pend) : Nat :=
  match f.op with
  | some n => x.ops.findIdx fun o => o.id == n
  | none => x.ops.length

/-- A fault arises: the context issues nothing more, and the oldest fault in program order stands (R51). -/
def Ctx.raise (x : Ctx) (f : Pend) : Ctx :=
  let g := match x.pend with
    | some g => if x.placeOf f < x.placeOf g then f else g
    | none => f
  { x with wait := .fault, pend := some g }

/-- The context enters FAULTED (R51). -/
def enterFaulted (d : Dev) (c : Nat) (f : Pend) : Dev :=
  updCtx (foldNumFlags d c) c fun x =>
    { x with
      state := .faulted
      wait := .none
      pc := f.pc
      fStatus := f.status
      fEngine := f.eng
      fAddr := f.addr
      ops := []
      pend := none
      faultAt := d.clock }

/-- Once everything issued before a pending fault has completed the context is FAULTED (R51). -/
def settleFault (d : Dev) (c : Nat) : Dev :=
  let x := ctxAt d c
  match x.pend with
  | none => d
  | some f => if x.writesOut = [] ∧ x.remoteOut = [] then enterFaulted d c f else d

/-- The instruction at the PC faults on the engine with a code, precise in program order: what was issued
before it completes first (R51). -/
def faultOn (d : Dev) (c status eng addr : Nat) : Dev :=
  let d := drainCtxMma d c
  settleFault (updCtx d c fun x => x.raise ⟨none, status, x.pc, addr % 2 ^ 64, eng⟩) c

def faultCtx (d : Dev) (c status : Nat) (e : Eng) (addr : Nat) : Dev := faultOn d c status e.code addr

/-- An operation of a context has its end: one that failed raises its fault (R51, log 21). -/
def opEnds (d : Dev) (c n status : Nat) : Dev :=
  let d := updCtx d c fun x =>
    match x.ops.find? fun o => o.id == n with
    | none => x
    | some o =>
      if status = stOk then { x with ops := x.ops.filter fun o => o.id ≠ n }
      else x.raise ⟨some n, status, o.pc, o.addr, o.eng⟩
  settleFault (if status = stOk then d else drainCtxMma d c) c

/-- ILLEGAL_INSTRUCTION (R54). -/
def illegal (d : Dev) (c : Nat) (e : Eng) : Dev := faultCtx d c stIllegalInstruction e 0

/-- OPERAND_FAULT at an SRAM address, 0 where none is involved (TILE_CTX_FADDR). -/
def operandFault (d : Dev) (c : Nat) (e : Eng) (addr : Nat) : Dev :=
  faultCtx d c stOperandFault e addr

/-- The instruction is held back: its context tests the condition again when it is issued anew. -/
def hold (d : Dev) (c : Nat) (e : Eng) : Dev := updCtx d c fun x => { x with wait := .retry false e.code }

/-- As `hold`, on a condition that a THREADED tile switches on (R40). -/
def holdLong (d : Dev) (c : Nat) (e : Eng) : Dev := updCtx d c fun x => { x with wait := .retry true e.code }

/-- The instruction completes with the context changed by `f`, and the PC moves on. -/
def complete (d : Dev) (c : Nat) (f : Ctx → Ctx) : Dev :=
  updCtx d c fun x => { (f x).advance with wait := .none }

/-- Issues a tile instruction to engine `e`: turned away while the context cannot issue (log 1), skipped
when its predicate is false (R53), otherwise `body` runs, if the engine takes it. -/
def issue (d : Dev) (c : Nat) (w : TWord) (e : Eng) (body : Ctx → Dev) : Dev :=
  if canIssue d c then
    let x := ctxAt d c
    if !x.executes w then complete d c id else if engineTakes d c e then body x else d
  else d

/-- Runs `k` after the parity of the ranges is checked: a ring element is refetched while the
instruction waits, any other word faults the context (R73). -/
def withParity (d : Dev) (c : Nat) (e : Eng) (ranges : List (Nat × Nat)) (k : Unit → Dev) : Dev :=
  match parityOf d (tileOf c) ranges with
  | .ok => k ()
  | .refetch r el a =>
    if (ctxAt d c).wait.onElem r el then d
    else
      updCtx (noteParity d (tileOf c) a false) c fun x => { x with wait := .refetch r el e.code }
  | .bad a => faultCtx (noteParity d (tileOf c) a true) c stSramParity e a

/-! ### Elements that have their end (R131, R140, R145) -/

/-- A write fault or a parity error of element `k` stops a STORE slot and waits for the context, which
faults at once if it has executed EXIT. The first fault stands, and signals after the element never fire
(R73, R136, R145, R146). -/
def storeFails (d : Dev) (t n k st addr : Nat) : Dev :=
  let s := slotAt d t n
  let s := { s with signals := s.signals.filter fun x => x.1 ≤ k }
  let d := stopSlot (setSlot d t n (if s.fault = stOk then { s with fault := st, faultAddr := addr } else s)) t n
  let s := slotAt d t n
  if (ctxAt d s.owner).state = .draining then faultCtx d s.owner s.fault .stream s.faultAddr else d

/-- A LOAD slot that has met a fault issues no later element (R145). -/
def holdSlot (d : Dev) (t n k st : Nat) : Dev :=
  let s := slotAt d t n
  if s.state = .running ∨ s.state = .waitSem then
    setSlot (dropWaits d (.slot t n)) t n { s with state := .held, heldStatus := st, heldElem := k }
  else d

/-- A transaction or window write `x` of element `k` of a slot has its end (R140, R145, R315). -/
def elemTold (d : Dev) (t n k x status addr : Nat) : Dev :=
  let d := setSlot d t n ((slotAt d t n).updElem k fun e =>
    { e with
      xacts := e.xacts.filter (· ≠ x)
      status := max e.status status
      faultAddr := if e.status < status then addr else e.faultAddr })
  let d :=
    if status = stOk ∨ gatherNum ≤ k then d
    else if (slotAt d t n).store then storeFails d t n k status addr
    else holdSlot d t n k status
  settleSlot d t n

/-- Ends a memory instruction on what its access answered: a status faults the context, a wait holds
it back. -/
def ended {α : Type} (d0 : Dev) (c : Nat) (e : Eng) (r : Except Stop α × Dev) (k : α → Dev → Dev) :
    Dev :=
  match r with
  | (.ok a, d) => k a d
  | (.error (.err st addr), d) => faultCtx d c st e addr
  | (.error (.wait n), d) => hold (waitDev d0 d n) c e

end Sys2Proof.Machine
end

