-- ==== Sys2Proof/Machine/Scalar.lean ====
section
/-!
DEFINITION. The scalar ALU and the control flow of a context (R45, R50, R53 to R55).
-/

namespace Sys2Proof.Machine

/-- A meaning that changes the device and always answers a next state. -/
def onDev (s : State) (f : Dev → Dev) : Host.Outcome State Fault Refusal :=
  .next { s with dev := if s.dev.live then f s.dev else s.dev }

/-- A command of the Night Porter, of a pin or of the test port, which needs no hub clock. -/
def onNp (s : State) (f : Dev → Dev) : Host.Outcome State Fault Refusal :=
  .next { s with dev := f s.dev }

/-- Reserved bits and codes of a Format A word that uses FMT and RND for nothing (R54). -/
def aPlain (w : TWord) : Bool := w.aRes && w.aFmt ≤ 0xC && w.aRnd ≤ 4

/-- A scalar instruction of Format A that writes D from S1 and S2. -/
def aluA (c : Nat) (w : TWord) (op : Word → Word → Word) (d : Dev) : Dev :=
  issue d c w .scalar fun _ =>
    if aPlain w then complete d c fun x => x.setSreg w.aD (op (x.sreg w.aS1) (x.sreg w.aS2))
    else illegal d c .scalar

/-- A shift; the spec states no result for an amount of 64 or more, which is then a free value
(log 14). -/
def shiftA (c : Nat) (w : TWord) (op : Word → Nat → Word) (d : Dev) : Dev :=
  issue d c w .scalar fun x =>
    if aPlain w then
      let n := (x.sreg w.aS2).toNat
      if n < 64 then complete d c fun x => x.setSreg w.aD (op (x.sreg w.aS1) n)
      else
        let (v, d) := freeW d
        complete d c fun x => x.setSreg w.aD v
    else illegal d c .scalar

/-- NOP, with its whole word: one whose opcode is reserved is illegal (R54). -/
def execNop (c : Nat) (w : BitVec 64) (s : State) : Host.Outcome State Fault Refusal :=
  let v : TWord := w.setWidth 56
  onDev s fun d => issue d c v .scalar fun _ =>
    if reservedOpcode (bits w.toNat 63 56) || !aPlain v then illegal d c .scalar else complete d c id

def execAdd (c : Nat) (w : TWord) (s : State) : Host.Outcome State Fault Refusal :=
  onDev s (aluA c w (· + ·))

def execSub (c : Nat) (w : TWord) (s : State) : Host.Outcome State Fault Refusal :=
  onDev s (aluA c w (· - ·))

/-- MUL keeps the low 64 bits (R55). -/
def execMul (c : Nat) (w : TWord) (s : State) : Host.Outcome State Fault Refusal :=
  onDev s (aluA c w (· * ·))

def execAnd (c : Nat) (w : TWord) (s : State) : Host.Outcome State Fault Refusal :=
  onDev s (aluA c w (· &&& ·))

def execOr (c : Nat) (w : TWord) (s : State) : Host.Outcome State Fault Refusal :=
  onDev s (aluA c w (· ||| ·))

def execXor (c : Nat) (w : TWord) (s : State) : Host.Outcome State Fault Refusal :=
  onDev s (aluA c w (· ^^^ ·))

def execShl (c : Nat) (w : TWord) (s : State) : Host.Outcome State Fault Refusal :=
  onDev s (shiftA c w fun a n => a <<< n)

def execShr (c : Nat) (w : TWord) (s : State) : Host.Outcome State Fault Refusal :=
  onDev s (shiftA c w fun a n => a >>> n)

def execSra (c : Nat) (w : TWord) (s : State) : Host.Outcome State Fault Refusal :=
  onDev s (shiftA c w fun a n => BitVec.sshiftRight a n)

/-- CMP: P[D[2:0]] = (S1 cond S2), the condition in FMT; other codes are reserved (R54, R55). -/
def execCmp (c : Nat) (w : TWord) (s : State) : Host.Outcome State Fault Refusal :=
  onDev s fun d => issue d c w .scalar fun x =>
    match w.aRes && w.aRnd ≤ 4, condScalar w.aFmt (x.sreg w.aS1) (x.sreg w.aS2) with
    | true, some b => complete d c fun x => x.setPred (w.aD % 8) b
    | _, _ => illegal d c .scalar

/-- ADDI: D = S1 + IMM (R55). DEDUCED (log 165): fields of Formats B and C that an instruction does not use
(here MOD) are not reserved bits and are ignored. -/
def execAddi (c : Nat) (w : TWord) (s : State) : Host.Outcome State Fault Refusal :=
  onDev s fun d => issue d c w .scalar fun _ =>
    complete d c fun x => x.setSreg w.bD (x.sreg w.bS1 + w.bImm)

/-- MOVI: D = IMM, or with MOD[0] = 1 only D[63:32] = IMM[31:0] (R55). -/
def execMovi (c : Nat) (w : TWord) (s : State) : Host.Outcome State Fault Refusal :=
  onDev s fun d => issue d c w .scalar fun _ =>
    complete d c fun x => x.setSreg w.bD
      (if w.bMod % 2 = 0 then w.bImm else wsetBits (x.sreg w.bD) 63 32 w.bImmRaw)

/-- CMPI: as CMP with IMM for S2 and the condition in MOD[3:0] (R55). -/
def execCmpi (c : Nat) (w : TWord) (s : State) : Host.Outcome State Fault Refusal :=
  onDev s fun d => issue d c w .scalar fun x =>
    match condScalar (w.bMod % 16) (x.sreg w.bS1) w.bImm with
    | some b => complete d c fun x => x.setPred (w.bD % 8) b
    | none => illegal d c .scalar

/-- The target PC + 8 × OFF, in 48 bits. -/
def branchTo (pc : Nat) (off : Int) : Nat := wrapN 48 ((pc : Int) + 8 * off)

/-- BR: PC = PC + 8 × OFF (R55). -/
def execBr (c : Nat) (w : TWord) (s : State) : Host.Outcome State Fault Refusal :=
  onDev s fun d => issue d c w .scalar fun _ =>
    updCtx d c fun x => { (x.goto (branchTo x.pc w.cOff)) with wait := .none }

/-- CALL: S31 = PC + 8; PC = PC + 8 × OFF (R45, R55). -/
def execCall (c : Nat) (w : TWord) (s : State) : Host.Outcome State Fault Refusal :=
  onDev s fun d => issue d c w .scalar fun _ =>
    updCtx d c fun x =>
      { ((x.setSreg 31 (toW (x.pc + 8))).goto (branchTo x.pc w.cOff)) with wait := .none }

/-- RET: PC = S31 (R55). -/
def execRet (c : Nat) (w : TWord) (s : State) : Host.Outcome State Fault Refusal :=
  onDev s fun d => issue d c w .scalar fun _ =>
    updCtx d c fun x => { (x.goto (alignDown 8 (x.sreg 31).toNat)) with wait := .none }

/-- LOOP: the next OFF instructions S1 times; a count of 0 skips them, a third level and an OFF
below 1 are illegal (R55, log 12). -/
def execLoop (c : Nat) (w : TWord) (s : State) : Host.Outcome State Fault Refusal :=
  onDev s fun d => issue d c w .scalar fun x =>
    if w.cOff < 1 ∨ 2 ≤ x.loops.length then illegal d c .scalar
    else
      let n := (x.sreg w.cS1).toNat
      let stop := branchTo (x.pc + 8) w.cOff
      if n = 0 then updCtx d c fun x => { (x.goto stop) with wait := .none }
      else complete d c fun x => { x with loops := ⟨x.pc + 8, stop, n⟩ :: x.loops }

end Sys2Proof.Machine
end

