-- ==== Sys2Proof/Machine/Queue.lean ====
section
/-!
DEFINITION. Doorbells, retirement and queue actions (R327 to R345, Tables CMD-2, CMD-3, CMD-6).
-/

namespace Sys2Proof.Machine

/-- Difference of two counts modulo 2^32 (R329). -/
def cdiff (a b : Nat) : Nat := (a + 2 ^ 32 - b % 2 ^ 32) % 2 ^ 32

def cnext (a : Nat) : Nat := (a + 1) % 2 ^ 32

/-- A queue in RUN has a command that is not started. -/
def unstarted (x : Queue) : Bool :=
  x.state == .run && (x.cmds.any (fun y => y.st == .accepted) || cdiff x.tail x.retire != x.cmds.length)

/-- No context is out of IDLE and no queue in RUN has an unstarted command (Table PWR-4). -/
def workless (d : Dev) : Bool :=
  d.tiles.ctxs.all (fun e => e.2.state == .idle) && d.hub.queues.all fun e => !unstarted e.2

/-- The reference clock reaches `now` ns, the time of an event, never going back (log 2): campus time counts
with it, corrected by the frequency correction and what is still to be slewed, together at most 100 ppm
(R297, Table FAB-8). Work that was there is there until then (Table PWR-4). -/
def advanceTo (d : Dev) (now : Nat) : Dev :=
  let dt := now - d.clock
  let most : Int := (dt * 65536 / 10000 : Nat)
  let drift : Int := dt * 65536 * d.fab.freq / 1000000000
  let corr := clampI (-most) most (drift + d.fab.slew)
  let t := ((65536 * (d.ns + dt) + d.frac : Nat) + corr).toNat
  { d with
    clock := max d.clock now
    ns := t / 65536
    frac := t % 65536
    fab.slew := d.fab.slew - (corr - drift)
    pwr.busyAt := if workless d then d.pwr.busyAt else max d.clock now }

/-- The quarter that holds a queue's registers. -/
def quarterOfQueue (q : Nat) : Nat := q / 65536

/-! ### The doorbell page (R330, R331) -/

/-- A request for TAIL = `v` (R331): the device and whether it was accepted. -/
def requestTail (d : Dev) (q v : Nat) : Dev × Nat :=
  let x := queueAt d q
  let qt := quarterOfQueue q
  let stat (d : Dev) (st : Nat) : Dev := setQueue d q { queueAt d q with dbStatus := st }
  if x.state = .off then (rcount (stat d stQueueOff) .qtrDbStat qt 0 47 32 1, stQueueOff)
  else if 2 ^ 31 ≤ cdiff v x.tail then
    (rcount (stat d stDoorbellInvalid) .qtrDbStat qt 0 47 32 1, stDoorbellInvalid)
  else if x.size < cdiff v x.retire then
    (rcount (stat d stRingFull) .qtrDbStat qt 0 31 16 1, stRingFull)
  else (setQueue { d with pwr.busyAt := d.clock } q { x with tail := v, dbStatus := stOk }, stOk)

/-- A write to DB_TAIL (R42, R331). -/
def writeTail (d : Dev) (q : Nat) (v : Word) : Dev :=
  if !isReady d (partOfQueue d q) then rcount d .qtrDbStat (quarterOfQueue q) 0 15 0 1
  else (requestTail d q (wbits v 31 0)).1

/-- A write to DB_CQHEAD (R331). -/
def writeCqhead (d : Dev) (q : Nat) (v : Word) : Dev :=
  let x := queueAt d q
  let n := wbits v 31 0
  if x.state = .off ∨ 2 ^ 31 ≤ cdiff n x.cqhead ∨ x.csize < cdiff x.reply n then
    rcount d .qtrDbStat (quarterOfQueue q) 0 47 32 1
  else setQueue d q { x with cqhead := n }

/-- What a 64-bit read of the doorbell page returns (Table CMD-2). -/
def readDoorbell (d : Dev) (pa : Nat) : Word :=
  let x := queueAt d ((pa - 0x400100000000) / 0x1000)
  match pa % 0x1000 with
  | 0x008 => toW x.dbStatus
  | 0x010 => toW (x.retire + x.tail * 2 ^ 32)
  | 0x018 => toW x.cqhead
  | _ => 0

/-- A 64-bit write of the doorbell page (Table CMD-2). -/
def writeDoorbell (d : Dev) (pa : Nat) (v : Word) : Dev :=
  let q := (pa - 0x400100000000) / 0x1000
  match pa % 0x1000 with
  | 0x000 => writeTail d q v
  | 0x018 => writeCqhead d q v
  | _ => d

/-- A tile context of `asid` may not touch the page of a queue of another ASID (R29). -/
def doorbellDenied (d : Dev) (asid pa : Nat) : Bool :=
  let x := queueAt d ((pa - 0x400100000000) / 0x1000)
  x.state != .off && x.asid != asid

/-- What an Innkeeper access did, with its completion while the partition is not READY (Table
RNL-8). -/
def inReadyPart (d : Dev) (q : Nat) (after : Dev) : Dev :=
  if isReady d (partOfQueue d q) then after else emit after (.mmio stPartitionInReset none)

/-! ### Replies and notification (R338, R339) -/

/-- The reply of Table CMD-6 for reply number `r`. -/
def replyBytes (x : Queue) (y : Cmd) : List Byte :=
  let phase := 1 - x.reply / x.csize % 2
  leBytes 4 y.seq ++ leBytes 2 y.opcode ++ leBytes 2 y.status ++ leBytes 8 y.start ++
    leBytes 5 (min (2 ^ 40 - 1) (y.finish - y.start)) ++ leBytes 2 y.engine ++
    leBytes 1 (phase + 2 * y.replayed.toNat) ++ leBytes 8 y.result.toNat

/-- Sends the notification event of a queue (R339). -/
def sendNotify (d : Dev) (q st : Nat) : Dev :=
  let x := queueAt d q
  let d := postEvent d (partOfQueue d q) 0x0006 [toW q, toW x.reply, toW x.retire, toW st]
  setQueue d q { queueAt d q with notified := some d.clock, notifyDue := none }

/-- The interval since the last event has passed. -/
def notifyOpen (d : Dev) (x : Queue) : Bool :=
  match x.notified with
  | none => true
  | some t => decide (t + 1000 * x.notifyUs ≤ d.clock)

/-- A reply with status `st` has been written (R339). -/
def notifyReply (d : Dev) (q st : Nat) : Dev :=
  let x := queueAt d q
  if !x.notify then d
  else if 1 ≤ statusClass st || notifyOpen d x then sendNotify d q st
  else setQueue d q { x with notifyDue := some st }

/-- A write of the hub's own to memory; one to the window while the link is DOWN is discarded and
counted (Table RNL-8). Answers `none` when a snoop must be answered first. -/
def hubWrite (d : Dev) (pa : Nat) (bs : List Byte) : Option Dev :=
  if regionOf pa = .window ∧ linkKept d = false then some (rcount d .rnlEvtStatus 0 0 47 32 1)
  else
    match (writePhys .device pa bs).go d with
    | (.ok _, d) => some d
    | (.error (.err _ _), d) => some d
    | (.error (.wait _), _) => none

/-- Sends the snoops that a write waits for and changes nothing else. -/
def hubWriteWait (d : Dev) (pa : Nat) (bs : List Byte) : Dev :=
  match (writePhys .device pa bs).go d with
  | (.error (.wait n), d') => waitDev d d' n
  | _ => d

/-- A command's effect at its retirement, and its result word: SEM_SIGNAL with a local target and
SEM_SET take effect here and never earlier (R343); the current step of a tally context goes on as the
TALLY_FINISH that has run retires (R257); a FILL that retires well leaves the fill state HASHED (R401); a
debug scope granted in PROVISIONED comes into force (R442). -/
def retireEffect (d : Dev) (q : Nat) (y : Cmd) : Dev × Cmd :=
  let n := y.param 0 % 131072
  match y.opcode with
  | 0x0301 =>
    if y.status = stOk ∧ y.param 2 % 2 ^ 20 = 0 then
      let v := semAt d n + toW (y.param 1)
      (semAdd d n (toW (y.param 1)), { y with result := v })
    else (d, y)
  | 0x0304 =>
    if y.status = stOk then (semSet d n (toW (y.param 1)), { y with result := semAt d n }) else (d, y)
  | 0x0903 =>
    if y.status = stOk ∧ y.aux2 = [1] then
      (rsetf d .secLcStatus 0 0 26 24 (y.result.toNat % 8), y)
    else (d, y)
  | 0x0604 =>
    if y.param 0 % 4 = 0 ∧ statusClass y.status = 0 then
      (rsetf d .snpFill 0 (partOfQueue d q) 1 0 2, y)
    else (d, y)
  | 0x0502 =>
    if y.aux2 = [1] then
      ({ d with tally.ctxs := d.tally.ctxs.map fun e =>
          if e.1 = y.param 0 % 4096 then (e.1, { e.2 with
            c := (e.2.c + 1) % 2 ^ 32
            sets := y.buf
            fired := e.2.fired.filter fun f => decide ((f.1 + 2 ^ 32 - e.2.c) % 2 ^ 32 < 3) }) else e }, y)
    else (d, y)
  | _ => (d, y)

/-- A context's resources return to its tile when its LAUNCH retires (R50, R165): rings are unbound,
slots end with their counters kept, and DISCARDED is DELIVERED less CONSUMED. -/
def freeStreams (d : Dev) (c : Nat) : Dev :=
  let t := tileOf c
  let x := ctxAt d c
  let d := x.itins.foldl (fun d n =>
    let s := slotAt d t n
    setSlot d t n { s with
      state := .free
      flight := []
      side := []
      signals := []
      stopReq := false
      discarded := s.delivered - s.consumed }) d
  let d := x.rings.foldl (fun d r => dropRing d t r) d
  { d with tiles.watch := d.tiles.watch.filter fun e => !(e.2.1 == t && x.itins.contains e.2.2.1) }

/-- A receiver that retires or is reset unbinds; the bindings of other tiles' rings to a leader that
goes fall too (R151). -/
def unbindRings (d : Dev) (c : Nat) : Dev :=
  { d with tiles.rings := d.tiles.rings.map fun e =>
      if e.2.kind = .mcastRecv ∧ e.2.leaderCtx = c then (e.1, { e.2 with bound := false }) else e }

/-- The context of a retired LAUNCH becomes IDLE (R50). -/
def idleCtx (d : Dev) (c : Nat) : Dev :=
  let d := foldNumFlags (unbindRings (freeStreams d c) c) c
  updCtx d c fun x =>
    { x with
      state := .idle
      wait := .none
      rings := []
      itins := []
      semRanges := []
      nShapes := 0
      nWins := 0
      acc := 0
      sramBase := 0
      sramSize := 0
      chain := none
      unfenced := [] }

/-- The stopping events of R340. -/
def stopsQueue (x : Queue) (y : Cmd) : Bool :=
  1 ≤ statusClass y.status && (isGate y || x.stopOnError)

/-- The head of a queue can retire: it has finished, and a reply it needs has a place (R339, R341). -/
def canRetire (x : Queue) : Option Cmd :=
  match x.cmds with
  | [] => none
  | y :: _ =>
    let needs := y.status ≠ stOk ∨ y.wantsReply
    if y.st = .finished ∧ ¬ (needs ∧ cdiff x.reply x.cqhead = x.csize) then some y else none

/-- The table load of a command is over (R125). -/
def endLoads (d : Dev) (q k : Nat) : Dev :=
  { d with hub.gens := d.hub.gens.map fun e =>
      if e.2.loading = some (q, k) then (e.1, { e.2 with loading := none }) else e }

/-- The retirement of a head whose reply is visible and whose shadow is written: RETIRE, event, stop (R339 to
R341). A table load is in progress until then (R125), and the command waits for no entry of the Ledger. -/
def finishRetire (d : Dev) (q : Nat) (y : Cmd) : Dev :=
  let x := queueAt d q
  let needs : Bool := decide (y.status ≠ stOk) || y.wantsReply
  let x' : Queue :=
    { x with
      cmds := x.cmds.tail
      retire := cnext x.retire
      reply := if needs then cnext x.reply else x.reply
      lastStatus := if 1 ≤ statusClass y.status then y.status else x.lastStatus
      state := if x.state = .run ∧ stopsQueue x y then .stopped else x.state }
  let d := endLoads (setQueue d q (x'.noteHead d.clock)) q y.seq
  let d := { d with ledger.waits := d.ledger.waits.filter fun w => w.2 ≠ (q, y.seq) }
  let d := if needs then notifyReply d q y.status else d
  if y.opcode = 0x0201 then y.aux.foldl (fun d c => idleCtx d c) d else d

/-- The value of `step` of a head whose reply is written and not yet visible in the window (R316). -/
def postedStep : Nat := 2 ^ 32 + 1

/-- The value of `step` of a head whose reply is visible and whose shadow, in the window, is not yet. -/
def shadowStep : Nat := 2 ^ 32 + 2

/-- The reply of a head is on its way or written: nothing changes its status any more. -/
def Cmd.posted (y : Cmd) : Bool := y.step == postedStep || y.step == shadowStep

/-- The value of `step` of a command that waits only for its window writes to be visible. -/
def visibleStep : Nat := 2 ^ 32

/-- The shadow of a head whose reply is visible, and then the rest of its retirement (R339). -/
def writeShadow (d : Dev) (q : Nat) (y : Cmd) : Dev :=
  let x := queueAt d q
  let shadow := leBytes 4 (cnext x.retire)
  if x.shadowPa = 0 then finishRetire d q y
  else
    match hubWrite { d with rnl.fresh := [] } x.shadowPa shadow with
    | none => hubWriteWait d x.shadowPa shadow
    | some d1 =>
      let tags := d1.rnl.fresh
      let d1 := { d1 with rnl.fresh := [] }
      if tags.isEmpty then finishRetire d1 q y
      else updCmd d1 q y.seq fun z => { z with step := shadowStep, aux2 := tags }

/-- PAGE_SHARE and ENTRIES write many entries: `aux2` keeps the tags of those in the companion window
that are not yet visible. -/
def Cmd.keepsTags (y : Cmd) : Bool :=
  y.opcode == 0x0402 || (y.opcode == 0x0403 && y.param 1 % 4 == 0)

/-- Tags of window writes that a command still waits for (R315). -/
def Cmd.tagsOut (y : Cmd) : List Nat := if y.step = visibleStep ∨ y.posted ∨ y.keepsTags then y.aux2 else []

/-- Retires the head of a queue: its effect and its reply; once that is visible the shadow; then the rest
(R316, R339 to R343). -/
def retireHead (d : Dev) (q : Nat) : Dev :=
  match canRetire (queueAt d q) with
  | none => d
  | some y0 =>
    if y0.step = shadowStep then if y0.aux2.isEmpty then finishRetire d q y0 else d
    else if y0.step = postedStep then if y0.aux2.isEmpty then writeShadow d q y0 else d
    else
      let (d1, y) := retireEffect { d with rnl.fresh := [] } q y0
      let x := queueAt d1 q
      let needs : Bool := decide (y.status ≠ stOk) || y.wantsReply
      let ra := x.cringPa + x.reply % x.csize * 32
      match if needs then hubWrite d1 ra (replyBytes x y) else some d1 with
      | none => hubWriteWait d ra (replyBytes x y)
      | some d2 =>
        let tags := d2.rnl.fresh
        let d2 := updCmd { d2 with rnl.fresh := [] } q y.seq fun z =>
          { z with step := postedStep, aux2 := tags, result := y.result }
        if tags.isEmpty then writeShadow d2 q y else d2

/-- COMMAND_RETIRE: the head of queue `q` retires in its turn (R341). A LAUNCH retires with its
context, through CONTEXT_RETIRE or here when its context is gone (R50). -/
def execCommandRetire (q : Nat) (s : State) : Host.Outcome State Fault Refusal :=
  onDev s fun d => retireHead d q

/-- NOTIFY_US_EXPIRY: one event covers the replies written meanwhile (R339). -/
def execNotifyUsExpiry (q now : Nat) (s : State) : Host.Outcome State Fault Refusal :=
  onDev s fun d =>
    let d := advanceTo d now
    let x := queueAt d q
    match x.notifyDue with
    | some st => if x.notify && notifyOpen d x then sendNotify d q st else d
    | none => d

/-! ### Queue actions (R328, R334) -/

/-- A ring lies within one band's data of partition `p` or within the window (R328). -/
def ringPlaced (d : Dev) (p pa len : Nat) : Bool :=
  (regionOf pa == .window && regionOf (pa + len - 1) == .window) ||
  (inPartDram d p pa len && bandOf pa == bandOf (pa + len - 1) &&
    decide (pa % bandBytes + len ≤ dataLen (isCorrect d (bandOf pa))))

/-- The checks of R327 and R328 on a descriptor. -/
def descOk (d : Dev) (q : Nat) (desc : List Byte) : Bool :=
  let p := partOfQueue d q
  let x : Queue := { Queue.reset with desc := desc }
  let w0 := leAt desc 0 8
  let w1 := leAt desc 8 8
  let w2 := leAt desc 16 8
  let l := bits w2 4 0
  let lc := bits w2 9 5
  bits w0 63 48 == 0 && bits w1 63 48 == 0 && bits w2 15 14 == 0 && bits w2 31 28 == 0 &&
    bits w2 63 55 == 0 && x.ringPa % 4096 == 0 && x.cringPa % 4096 == 0 &&
    decide (6 ≤ l ∧ l ≤ 16 ∧ 6 ≤ lc ∧ lc ≤ 16) && decide (1 ≤ x.quantum) &&
    decide (1 ≤ x.inflightMax ∧ x.inflightMax ≤ 64) &&
    partOfAsid d x.asid == p && ringPlaced d p x.ringPa (64 * x.size) &&
    ringPlaced d p x.cringPa (32 * x.csize) &&
    (x.shadowPa == 0 || (x.shadowPa % 64 == 0 && ringPlaced d p x.shadowPa 4)) &&
    (List.range 16).all fun c =>
      let t := x.tclass c
      t == 0 || (decide (1 ≤ bits t 13 0) && bits t 15 14 != 3)

/-- What an action answers: the device and its status, or a wait for a snoop. -/
inductive Acted
  | done (d : Dev) (status : Nat)
  | wait (d : Dev)

/-- ENABLE: the descriptor is read once and checked (R327, R328, R334). -/
def queueEnable (d : Dev) (q : Nat) : Acted :=
  let x := queueAt d q
  let tbl := rget d .qtrQtbl (quarterOfQueue q)
  let base := wbits tbl 47 16 * 2 ^ 16
  let p := partOfQueue d q
  if x.state ≠ .off ∨ isReady d p = false then .done d stQueueState
  else if !wbit tbl 0 || !ringPlaced d p base 0x400000 || regionOf base == .window then
    .done d stQueueDescriptor
  else
    match (readPhys (base + q % 65536 * 64) 64).go d with
    | (.error (.wait n), d') => .wait (waitDev d d' n)
    | (.error (.err st _), d') => .done d' st
    | (.ok desc, d') =>
      if descOk d' q desc then
        .done (setQueue d' q { Queue.reset with state := .run, desc := desc, dbStatus := x.dbStatus }) stOk
      else .done d' stQueueDescriptor

def queueStop (d : Dev) (q : Nat) : Acted :=
  let x := queueAt d q
  if x.state = .run then .done (setQueue d q ({ x with state := .stopped }.noteHead d.clock)) stOk
  else .done d stQueueState

def queueResume (d : Dev) (q : Nat) : Acted :=
  let x := queueAt d q
  if x.state = .stopped then .done (setQueue { d with pwr.busyAt := d.clock } q ({ x with state := .run }.noteHead d.clock)) stOk
  else .done d stQueueState

/-- A started command of an opcode, for its engine to work on, unless it is an unsettled suspect. One whose writes to the companion
window are all that is left finishes once they are visible (R315). -/
def onStarted (d : Dev) (q k opcode : Nat) (f : Cmd → Dev) : Dev :=
  match cmdAt d q k with
  | some y =>
    if y.st = .started ∧ y.opcode = opcode ∧ isSuspect d q k = false then
      if y.step = visibleStep then
        if y.aux2.isEmpty then finishCmd d q k y.status y.result else d
      else f y
    else d
  | none => d

/-- A command ends with a result that the spec does not state: a free value. -/
def finishFree (d : Dev) (q k status : Nat) : Dev :=
  let (v, d) := freeW d
  finishCmd d q k status v

/-- A command ends once the window writes of its work are visible. -/
def finishVisible (d : Dev) (q k status : Nat) (result : Word) : Dev :=
  let tags := d.rnl.fresh
  let d := { d with rnl.fresh := [] }
  if tags.isEmpty then finishCmd d q k status result
  else updCmd d q k fun y =>
    { y with step := visibleStep, aux2 := tags, status := status, result := result }

/-- Runs an engine's access for a command in `d`: a status goes on through `bad`; a wait leaves the
command as it stood in `before`. -/
def cmdActFrom {α : Type} (before d : Dev) (act : Act α) (bad : Nat → Nat → Dev → Dev)
    (ok : α → Dev → Dev) : Dev :=
  match act.go { d with rnl.fresh := [] } with
  | (.ok a, d') => ok a d'
  | (.error (.err st a), d') => bad st a d'
  | (.error (.wait n), d') => waitDev before d' n

/-- The same for the first access of a command's turn. -/
def cmdAct {α : Type} (d : Dev) (act : Act α) (bad : Nat → Nat → Dev → Dev)
    (ok : α → Dev → Dev) : Dev :=
  cmdActFrom d d act bad ok

/-- A command not yet read, as FLUSH completes it; a packet that does not read carries 0xFFFF. -/
def flushedCmd (d : Dev) (x : Queue) (k : Nat) (v : Word) : Cmd :=
  let data := match (readPhys (x.ringPa + k % x.size * 64) 64).go d with
    | (.ok bs, _) => bs
    | _ => leBytes 2 0xFFFF
  { seq := k, acc := 0, data := data, st := .finished, gateFail := false, status := stCommandFlushed,
    result := v, engine := 0, start := d.ns, finish := d.ns, startClock := d.clock, readyAt := none, began := false,
    replayed := false,
    opcode := leAt data 0 2, step := 0, aux := [], aux2 := [], buf := [] }

/-! ### Activation sets (R223, R225) -/

def setAt_ (d : Dev) (n : Nat) : ActSet := mget ActSet.reset d.sets n

/-- The quarter whose registers hold a partition's shared counters. -/
def homeQuarter (d : Dev) (p : Nat) : Nat := (quartersOf d p).headD 0

/-- The sets of a partition and stage. -/
def setsOf (d : Dev) (p v : Nat) : List ActSet :=
  (d.sets.filter fun e => partOfQuarter d (e.1 / 1024) == p && e.2.stage == v).map (·.2)

def ActSet.isHot (x : ActSet) : Bool := x.state == .hot || x.state == .storing
def ActSet.isOff (x : ActSet) : Bool := x.state == .offloaded || x.state == .restoring

/-- HOT bytes of a stage. -/
def hotBytes (d : Dev) (p v : Nat) : Nat := (((setsOf d p v).filter ActSet.isHot).map (·.declared)).sum

/-- Changes a set, and PEAK with it. -/
def putSet (d : Dev) (n : Nat) (x : ActSet) : Dev :=
  let p := partOfQuarter d (n / 1024)
  let d := { d with sets := mset ActSet.reset d.sets n x }
  let h := homeQuarter d p
  rset d .qtrStagePeak h x.stage (toW (max (rget d .qtrStagePeak h x.stage).toNat (hotBytes d p x.stage)))

/-- The set of a Satchel command under TRACK. -/
def Cmd.tracked (y : Cmd) : Option Nat := if bit (y.param 4) 12 then some (y.param 4 % 4096) else none

/-- A Satchel command that fails moves its set: a STORE's back to HOT, a RESTORE's to LOST (Table TRN-2,
R235). -/
def failSet (d : Dev) (y : Cmd) : Dev :=
  match y.tracked with
  | none => d
  | some n =>
    let x := setAt_ d n
    if y.opcode = 0x0110 ∧ x.state = .storing then putSet d n { x with state := .hot }
    else if y.opcode = 0x0111 ∧ x.state = .restoring then putSet d n { x with state := .lost }
    else d

/-- A life-cycle transition that will not run is no longer in progress (R437). -/
def unmove (d : Dev) (y : Cmd) : Dev := if y.opcode = 0x0905 then { d with boot.moving := false } else d

/-- FLUSH: every unstarted command below TAIL completes in order (R334). -/
def queueFlush (d : Dev) (q : Nat) : Acted :=
  let x := queueAt d q
  if x.state = .stopped then
    let known (p : Dev × List Cmd) (y : Cmd) : Dev × List Cmd :=
      if y.st = .accepted then
        let (v, d) := freeW (failSet (unmove p.1 y) y)
        (d, p.2 ++ [{ y with
          st := .finished, status := stCommandFlushed, result := v, start := d.ns, finish := d.ns }])
      else (p.1, p.2 ++ [y])
    let next := (x.retire + x.cmds.length) % 2 ^ 32
    let more (p : Dev × List Cmd) (i : Nat) : Dev × List Cmd :=
      let (v, d) := freeW p.1
      (d, p.2 ++ [flushedCmd d x ((next + i) % 2 ^ 32) v])
    let (d, cmds) := (List.range (cdiff x.tail next)).foldl more (x.cmds.foldl known (d, []))
    .done (setQueue d q { x with cmds := cmds }) stOk
  else .done d stQueueState

def queueDisable (d : Dev) (q : Nat) : Acted :=
  let x := queueAt d q
  if x.state = .stopped ∧ x.inflight = 0 then
    .done (setQueue d q { x with state := .off, cmds := [] }) stOk
  else .done d stQueueState

/-- Records an action of QTR_QCMD (QTR_QCMD_RESULT). -/
def viaQcmd (q : Nat) (r : Acted) : Dev :=
  match r with
  | .wait d => d
  | .done d st =>
    rset d .qtrQcmdResult (quarterOfQueue q) 0 (toW (st + q % 65536 * 2 ^ 16))

def execQueueEnable (q : Nat) (s : State) : Host.Outcome State Fault Refusal :=
  onDev s fun d => if q < 262144 then viaQcmd q (queueEnable d q) else d

def execQueueStop (q : Nat) (s : State) : Host.Outcome State Fault Refusal :=
  onDev s fun d => if q < 262144 then viaQcmd q (queueStop d q) else d

def execQueueResume (q : Nat) (s : State) : Host.Outcome State Fault Refusal :=
  onDev s fun d => if q < 262144 then viaQcmd q (queueResume d q) else d

def execQueueFlush (q : Nat) (s : State) : Host.Outcome State Fault Refusal :=
  onDev s fun d => if q < 262144 then viaQcmd q (queueFlush d q) else d

def execQueueDisable (q : Nat) (s : State) : Host.Outcome State Fault Refusal :=
  onDev s fun d => if q < 262144 then viaQcmd q (queueDisable d q) else d

def QState.code : QState → Nat
  | .off => 0
  | .run => 1
  | .stopped => 2

/-- QTR_QSEL: selects a queue and takes one snapshot of its state and counts. -/
def selectQueue (d : Dev) (quarter : Nat) (v : Word) : Dev :=
  let x := queueAt d (quarter * 65536 + wbits v 15 0)
  let d := rset d .qtrQsel quarter 0 (toW (wbits v 15 0))
  let d := rset d .qtrQstate quarter 0
    (toW (x.state.code + x.lastStatus * 2 ^ 8 + x.inflight * 2 ^ 24 + x.retire * 2 ^ 32))
  rset d .qtrQcount quarter 0 (toW (x.tail + x.reply * 2 ^ 32))

def execQtrQselWrite (quarter : Nat) (v : Word) (s : State) : Host.Outcome State Fault Refusal :=
  onDev s fun d => if quarter < 4 then selectQueue d quarter v else d

end Sys2Proof.Machine
end

