-- ==== Sys2Proof/Machine/ScalarMem.lean ====
section
/-!
DEFINITION. Scalar memory: LD, LDU, ST, AADD through translation, L1 and the doorbell pages, and the
scalar accesses to Tile SRAM (R29, R30, R52, R72, R73, R315, R318, R464).
-/

namespace Sys2Proof.Machine

/-! ### L1 (R52) -/

def l1Find (d : Dev) (t asid line : Nat) : Option (List Byte) :=
  (d.tiles.l1.find? fun e => e.1 == t && e.2.1 == asid && e.2.2.1 == line).map (·.2.2.2)

def l1Drop (d : Dev) (t asid line : Nat) : Dev :=
  { d with tiles.l1 := d.tiles.l1.filter fun e => !(e.1 == t && e.2.1 == asid && e.2.2.1 == line) }

/-- Makes room for a line: in a full set of 4 another line leaves, freely (R43, log 153). -/
def l1Room (d : Dev) (t line : Nat) : Dev :=
  let mine := d.tiles.l1.filter fun e => e.1 == t
  if mine.length < 4 then d
  else
    let set_ := mine.filter fun e => Config.l1Set e.2.2.1 % 256 == Config.l1Set line % 256
    if set_.length < 4 then d
    else
      let (v, d) := freeW d
      match set_[v.toNat % set_.length]? with
      | some e => l1Drop d t e.2.1 e.2.2.1
      | none => d

/-- Keeps a line that has been read. -/
def l1Fill (d : Dev) (t asid line : Nat) (bs : List Byte) : Dev :=
  let d := l1Room (l1Drop d t asid line) t line
  { d with tiles.l1 := (t, asid, line, bs) :: d.tiles.l1 }

/-- Invalidates every L1 line of an ASID on a tile. -/
def l1Inval (d : Dev) (t asid : Nat) : Dev :=
  { d with tiles.l1 := d.tiles.l1.filter fun e => !(e.1 == t && e.2.1 == asid) }

/-- A write through L1 updates a matching line; for AADD, which the rule does not name, so the model
chooses (log 15). -/
def l1Update (d : Dev) (t asid va : Nat) (bs : List Byte) : Dev :=
  let line := alignDown 64 va
  match l1Find d t asid line with
  | none => d
  | some old =>
    let o := va % 64
    let d := l1Drop d t asid line
    { d with tiles.l1 := (t, asid, line, old.take o ++ bs ++ old.drop (o + bs.length)) :: d.tiles.l1 }

/-- The line of a load through L1: a line present may have been evicted, freely (R52). -/
def l1Read (t asid va pa : Nat) : Act (List Byte) := do
  let d ← get
  let line := alignDown 64 va
  match l1Find d t asid line with
  | some bs =>
    let (hit, d) := freeBit d
    set d
    if hit then pure bs else fill line
  | none => fill line
where
  /-- Reads the line from memory and keeps it. -/
  fill (line : Nat) : Act (List Byte) := do
    let bs ← atVirtual va (readLine (alignDown 64 pa))
    modify fun d => l1Fill d t asid line bs
    pure bs

/-! ### Loads -/

/-- LD and LDU after the alignment check. -/
def loadAt (d0 : Dev) (c va dst : Nat) (useL1 : Bool) : Dev :=
  let x := ctxAt d0 c
  ended d0 c .mem ((translate (ctxSpace d0 c) va false).go d0) fun (pa, coh) d =>
    match regionOf pa with
    | .dram _ | .window =>
      let t := tileOf c
      let line := if useL1 ∧ regionOf pa ≠ .window then l1Read t x.asid va pa
        else atVirtual va (readLine (alignDown 64 pa) coh)
      ended d0 c .mem (line.go d) fun bs d =>
        complete d c fun x => x.setSreg dst (toW (leAt bs (va % 64) 8))
    | .doorbell _ =>
      if doorbellDenied d x.asid pa then faultCtx d c stPermissionFault .mem va
      else complete d c fun x => x.setSreg dst (readDoorbell d pa)
    | .mmio => faultCtx d c stTranslationFault .mem va
    | .unmapped => faultCtx d c stAddressUnmapped .mem va

/-- The virtual or SRAM address S1 + IMM of a scalar memory instruction; `k` runs if it is a multiple
of 8 (R464). -/
def scalarAddr (d : Dev) (c : Nat) (w : TWord) (k : Nat → Dev) : Dev :=
  let a := ((ctxAt d c).sreg w.bS1 + w.bImm).toNat
  if a % 8 ≠ 0 then faultCtx d c stMisaligned .mem a else k a

def execLd (c : Nat) (w : TWord) (s : State) : Host.Outcome State Fault Refusal :=
  onDev s fun d => issue d c w .mem fun _ => scalarAddr d c w fun a => loadAt d c a w.bD true

def execLdu (c : Nat) (w : TWord) (s : State) : Host.Outcome State Fault Refusal :=
  onDev s fun d => issue d c w .mem fun _ => scalarAddr d c w fun a => loadAt d c a w.bD false

/-! ### Stores -/

/-- Window writes of an access at `va` become the context's to wait for (R48, R315). -/
def ownWrites (d : Dev) (c va : Nat) : Dev :=
  let ts := d.rnl.fresh
  updCtx { d with rnl.fresh := [] } c fun x =>
    { x with
      writesOut := x.writesOut ++ ts
      ops := x.ops ++ ts.map fun n => ⟨2 ^ 20 + n, x.pc, va, Eng.mem.code⟩ }

/-- ST after the alignment check. -/
def storeAt (d0 : Dev) (c va : Nat) (v : Word) : Dev :=
  let x := ctxAt d0 c
  ended d0 c .mem ((translate (ctxSpace d0 c) va true).go d0) fun (pa, coh) d =>
    match regionOf pa with
    | .dram _ | .window =>
      let bs := leBytes 8 v.toNat
      ended d0 c .mem ((atVirtual va (writePhys .software pa bs coh)).go d) fun _ d =>
        complete (l1Update (ownWrites d c va) (tileOf c) x.asid va bs) c id
    | .doorbell _ =>
      if doorbellDenied d x.asid pa then faultCtx d c stPermissionFault .mem va
      else complete (writeDoorbell d pa v) c id
    | .mmio => faultCtx d c stTranslationFault .mem va
    | .unmapped => faultCtx d c stAddressUnmapped .mem va

def execSt (c : Nat) (w : TWord) (s : State) : Host.Outcome State Fault Refusal :=
  onDev s fun d => issue d c w .mem fun x =>
    scalarAddr d c w fun a => storeAt d c a (x.sreg w.bD)

/-- L1INV: every L1 line of the context's ASID (R52). -/
def execL1inv (c : Nat) (w : TWord) (s : State) : Host.Outcome State Fault Refusal :=
  onDev s fun d => issue d c w .mem fun x => complete (l1Inval d (tileOf c) x.asid) c id

/-! ### AADD -/

/-- AADD after the alignment check: an atomic 64-bit add in DRAM; D, which is S2's field, receives
the old value (Table TIL-4). Outside DRAM there is nothing to add to (log 15).
DEDUCED (log 15): it updates a matching L1 line, as R52 says of ST. -/
def addAt (d0 : Dev) (c va dst : Nat) (v : Word) : Dev :=
  let x := ctxAt d0 c
  ended d0 c .mem ((translate (ctxSpace d0 c) va true).go d0) fun (pa, _) d =>
    match regionOf pa with
    | .dram _ =>
      let act : Act Nat := atVirtual va do
        let bs ← readPhys pa 8
        writePhys .software pa (leBytes 8 (leNat bs + v.toNat))
        pure (leNat bs)
      ended d0 c .mem (act.go d) fun old d =>
        let d := l1Update d (tileOf c) x.asid va (leBytes 8 (old + v.toNat))
        complete d c fun x => x.setSreg dst (toW old)
    | _ => faultCtx d c stAddressUnmapped .mem va

def execAadd (c : Nat) (w : TWord) (s : State) : Host.Outcome State Fault Refusal :=
  onDev s fun d => issue d c w .mem fun x =>
    scalarAddr d c w fun a => addAt d c a w.bD (x.sreg w.bD)

/-! ### LDS and STS -/

def execLds (c : Nat) (w : TWord) (s : State) : Host.Outcome State Fault Refusal :=
  onDev s fun d => issue d c w .mem fun x =>
    scalarAddr d c w fun a =>
      if x.ownsSram a 8 then
        withParity d c .mem [(a, 8)] fun _ =>
          let (d, bs) := sramRead d c .mem a 8
          complete d c fun x => x.setSreg w.bD (toW (leNat bs))
      else operandFault d c .mem a

def execSts (c : Nat) (w : TWord) (s : State) : Host.Outcome State Fault Refusal :=
  onDev s fun d => issue d c w .mem fun x =>
    scalarAddr d c w fun a =>
      if x.ownsSram a 8 then
        complete (sramWrite d c .mem a (leBytes 8 (x.sreg w.bD).toNat)) c id
      else operandFault d c .mem a

end Sys2Proof.Machine
end

