-- ==== Sys2Proof/Machine/Itin.lean ====
section
/-!
DEFINITION. Itinerary programs as data (R135 to R138, R143): the fields of their words, loops and
addresses, the spans a program can touch, and when a slot stops.
-/

namespace Sys2Proof.Machine

/-! ### Words (Table ITN-3) -/

def itOp (w : Nat) : Nat := bits w 63 60

def loopLevel (w : Nat) : Nat := bits w 59 57
def loopOrder (w : Nat) : Nat := bits w 56 55
def loopBody (w : Nat) : Nat := bits w 54 48
def loopRot (w : Nat) : Nat := bits w 47 32
def loopCount (w : Nat) : Nat := bits w 31 0 + 1

def strideReg (w : Nat) : Nat := bits w 59 57
def strideLevel (w : Nat) : Nat := bits w 56 54
def strideVal (w : Nat) : Int := sext 40 (bits w 39 0)

def setaD (w : Nat) : Nat := bits w 59 57
def setaS (w : Nat) : Nat := bits w 56 54
def setaImm (w : Nat) : Int := sext 40 (bits w 39 0)

def fetchReg (w : Nat) : Nat := bits w 59 57
def fetchShape (w : Nat) : Nat := bits w 56 52
def fetchHint (w : Nat) : Nat := bits w 51 50
def fetchMcast (w : Nat) : Nat := bits w 47 32

def gatherD (w : Nat) : Nat := bits w 59 57
def gatherB (w : Nat) : Nat := bits w 56 54
def gatherC (w : Nat) : Nat := bits w 53 51
def gatherSize (w : Nat) : Nat := if bit w 50 then 8 else 4
def gatherShift (w : Nat) : Nat := bits w 49 44

def waitSem (w : Nat) : Nat := bits w 59 43
def waitInc (w : Nat) : Nat := bits w 42 32
def waitBase (w : Nat) : Nat := bits w 31 0

def sigSem (w : Nat) : Nat := bits w 59 43
def sigAmount (w : Nat) : Nat := bits w 31 0

/-- No reserved OP, code or bit (R136). -/
def itWordOk (w : Nat) : Bool :=
  match itOp w with
  | 0 => bits w 59 0 == 0
  | 1 => decide (1 ≤ loopBody w ∧ loopBody w ≤ 63) && (loopOrder w == 3 || loopRot w == 0)
  | 2 => bits w 53 40 == 0 && decide (strideLevel w ≤ 5)
  | 3 => bits w 53 40 == 0
  | 4 => fetchHint w != 3 && bits w 49 48 == 0 && bits w 31 0 == 0
  | 5 => bits w 43 0 == 0
  | 6 => true
  | 7 => bits w 42 32 == 0 && sigAmount w != 0
  | _ => false

/-! ### Loops and addresses (R135, R137) -/

/-- The index at iteration `k` of a loop (Table ITN-4); `r` is the tile's number in its quarter. -/
def loopIdx (order rot count level r : Nat) (odd : Bool) (k : Nat) : Nat :=
  match order with
  | 0 => k
  | 1 => count - 1 - k
  | 2 => if level = 0 ∨ odd = false then k else count - 1 - k
  | _ => (k + rot * r) % count

/-- Indices of the active loops of tile `t`, outermost first; `loops` has the innermost first. -/
def activeIdx (t : Nat) (loops : List ItLoop) : List Nat :=
  let ls := loops.reverse
  ((List.range ls.length).zip ls).map fun (l, x) => loopIdx x.order x.rot x.count l (t % 16) x.odd x.k

/-- Offset that the strides of register `a` give at the indices. -/
def strideOff (strides : List (Nat × Int)) (a : Nat) (idx : List Nat) : Int :=
  (((List.range idx.length).zip idx).map fun (l, i) => mget 0 strides (8 * a + l) * (i : Int)).sum

/-- The address of register `a` in a slot now, modulo 2^64. -/
def Slot.addrOf (s : Slot) (t a : Nat) : Nat :=
  wrapN 64 ((s.addrs.getD a 0 : Int) + strideOff s.strides a (activeIdx t s.loops))

/-- The instruction at a slot's PC; past the program, END. -/
def Slot.word (s : Slot) : Nat := ((s.instrs.getD s.pc 0) : Word).toNat

/-! ### Spans (R138, R143) -/

/-- What an address is based on. -/
inductive ABase
  | a0 | a1 | zero | gathered
deriving DecidableEq, Repr

/-- A register of the checker: base, offset, and the first word of its chain that is not a multiple of
64. -/
structure AReg where
  base : ABase
  off : Int
  bad : Option Nat
deriving DecidableEq, Repr

/-- The addresses a FETCH or GATHER uses, relative to a base: least and greatest. -/
structure Span where
  word : Nat
  base : ABase
  lo : Int
  hi : Int
deriving DecidableEq, Repr

/-- The checker's state as it follows a program. -/
structure ASt where
  regs : List AReg
  strides : List (Nat × Int)
  strideBad : List (Nat × Option Nat)
  entries : List (Nat × Nat)
  spans : List Span
  /-- Misaligned words found in the chain of a FETCH, in the order found. -/
  bads : List Nat
deriving DecidableEq, Repr

def ASt.start : ASt where
  regs := ⟨.a0, 0, none⟩ :: ⟨.a1, 0, none⟩ :: List.replicate 6 ⟨.zero, 0, none⟩
  strides := []
  strideBad := []
  entries := []
  spans := []
  bads := []

def badWord (v : Int) (w : Nat) : Option Nat := if v % 64 = 0 then none else some w

def addSpan (ss : List Span) (word : Nat) (base : ABase) (v : Int) : List Span :=
  if ss.any fun x => x.word == word && x.base == base then
    ss.map fun x =>
      if x.word = word ∧ x.base = base then { x with lo := min x.lo v, hi := max x.hi v } else x
  else ss ++ [⟨word, base, v, v⟩]

/-- One instruction other than a LOOP. -/
def aStep (w pc : Nat) (idx : List Nat) (s : ASt) : ASt :=
  let reg (i : Nat) : AReg := s.regs.getD i ⟨.zero, 0, none⟩
  match itOp w with
  | 2 =>
    let key := 8 * strideReg w + strideLevel w
    { s with
      strides := mset 0 s.strides key (strideVal w)
      strideBad := mset none s.strideBad key (badWord (strideVal w) pc) }
  | 3 =>
    let r := reg (setaS w)
    let b := r.bad.orElse fun _ => badWord (setaImm w) pc
    { s with regs := setAt s.regs (setaD w) ⟨r.base, r.off + setaImm w, b⟩ }
  | 4 =>
    let a := fetchReg w
    let r := reg a
    let levels := (List.range idx.length).filterMap fun l => mget none s.strideBad (8 * a + l)
    let bads := (r.bad.toList ++ levels).take 1
    { s with
      spans := addSpan s.spans pc r.base (r.off + strideOff s.strides a idx)
      bads := s.bads ++ bads }
  | 5 =>
    let r := reg (gatherB w)
    { s with
      spans := addSpan s.spans pc r.base (r.off + strideOff s.strides (gatherB w) idx)
      regs := setAt s.regs (gatherD w) ⟨.gathered, 0, none⟩ }
  | _ => s

/-- Runs `f` on `k`, `k + 1`, …, `n` times. -/
def iter {α : Type} (f : Nat → α → α) : Nat → Nat → α → α
  | 0, _, a => a
  | n + 1, k, a => iter f n (k + 1) (f k a)

/-- The words `[pc, pc + n)` of a program write no register or stride. -/
def pureBody (prog : List Nat) (pc n : Nat) : Bool :=
  (List.range n).all fun i =>
    let op := itOp (prog.getD (pc + i) 0)
    op != 2 && op != 3 && op != 5

/-- The iterations that can give a least or greatest address: all, or in a body that writes no
register the first and the last index. -/
def loopVisits (pure_ : Bool) (count : Nat) (f : Nat → ASt → ASt) (idxOf : Nat → Nat) (s : ASt) : ASt :=
  if pure_ then f (count - 1) (f 0 s) else iter (fun k a => f (idxOf k) a) count 0 s

/-- Follows the words from `pc` up to `stop` or an END; `run` follows a loop's body. -/
def aBlock (prog : List Nat) (t : Nat)
    (run : Nat → Nat → List Nat → ASt → ASt) : Nat → Nat → Nat → List Nat → ASt → ASt
  | 0, _, _, _, s => s
  | fuel + 1, pc, stop, idx, s =>
    if stop ≤ pc then s
    else
      let w := prog.getD pc 0
      match itOp w with
      | 0 => s
      | 1 =>
        let b := pc + 1
        let e := b + loopBody w
        let n := mget 0 s.entries pc
        let s := { s with entries := mset 0 s.entries pc (n + 1) }
        let idxOf := loopIdx (loopOrder w) (loopRot w) (loopCount w) idx.length (t % 16) (n % 2 == 1)
        let s := loopVisits (pureBody prog b (loopBody w)) (loopCount w)
          (fun i s => run b e (idx ++ [i]) s) idxOf s
        aBlock prog t run fuel e stop idx s
      | _ => aBlock prog t run fuel (pc + 1) stop idx (aStep w pc idx s)

/-- Follows a block in which loops may nest `depth` deep. -/
def aRun (prog : List Nat) (t : Nat) : Nat → Nat → Nat → List Nat → ASt → ASt
  | 0, pc, stop, idx, s => aBlock prog t (fun _ _ _ s => s) 64 pc stop idx s
  | n + 1, pc, stop, idx, s => aBlock prog t (aRun prog t n) 64 pc stop idx s

/-- The spans and misaligned words of a program on tile `t`. -/
def spansOf (prog : List Nat) (t : Nat) : ASt := aRun prog t 6 0 prog.length [] ASt.start

/-- Bytes an element of a shape touches relative to its address; none when no row is read or written
(R144). -/
def Shape.extent (x : Shape) : Option (Int × Int) :=
  if x.vrows = 0 then none
  else
    let far := (x.vrows - 1 : Nat) * x.stride
    some (min 0 far, max 0 far + (x.units * 64 : Nat))

/-- The range a span covers relative to its base, and whether it writes. -/
def spanRange (prog : List Nat) (shapes : List Shape) (store : Bool) (sp : Span) :
    Option (Int × Int × Bool) :=
  let w := prog.getD sp.word 0
  if itOp w = 4 then
    match shapes[fetchShape w]? with
    | some x => x.extent.map fun e => (sp.lo + e.1, sp.hi + e.2, store)
    | none => none
  else some (sp.lo, sp.hi + (gatherSize w : Nat), false)

/-- A window grants a range with a permission. -/
def Window.grants (x : Window) (lo hi : Int) (write : Bool) : Bool :=
  decide ((x.base : Int) ≤ lo) && decide (hi ≤ (x.base + x.len : Nat)) && if write then x.wr else x.rd

/-! ### When a slot stops (R139, R146) -/

/-- Elements published and not yet issued for writing. -/
def storeLeft (d : Dev) (t n : Nat) : Bool :=
  let s := slotAt d t n
  match ringAt d t s.ring with
  | some r => decide (s.base + s.issued < r.pub)
  | none => false

/-- A STORE slot whose context has executed EXIT stops where it would need an element that was not
published or a wait (R146, log 23). -/
def exitPoint (d : Dev) (t n : Nat) : Dev :=
  let s := slotAt d t n
  let op := itOp s.word
  if s.stopReq ∧ (s.state = .running ∨ s.state = .waitSem) ∧ storeLeft d t n = false ∧
      (op = 0 ∨ op = 4 ∨ op = 5 ∨ op = 6) then stopSlot d t n
  else d

/-- EXIT stops a slot: a LOAD slot as under ITSTOP, a STORE slot once every published element is
written (R139, R146). -/
def exitSlot (d : Dev) (t n : Nat) : Dev :=
  let s := slotAt d t n
  match s.state with
  | .running | .waitSem | .held =>
    if s.store then exitPoint (setSlot d t n { s with stopReq := true }) t n else stopSlot d t n
  | .loaded => setSlot d t n { s with state := .ended }
  | _ => d

end Sys2Proof.Machine
end

