-- ==== Sys2Proof/Machine/Sync.lean ====
section
/-!
DEFINITION. The synchronisation unit and the life of a context: FENCE, rings, semaphores, barriers,
EXIT, selection, switching, retirement and halt (R40, R48 to R50, R78, R132, R133, R145, R146, R152,
R344, R374).
-/

namespace Sys2Proof.Machine

/-- MMAs of a context still to stream. -/
def mmaLeft (d : Dev) (c : Nat) : Nat := ((mmaQueue d (tileOf c)).filter fun r => r.ctx == c).length

/-- Earlier stores are visible and remote operations acknowledged (R48). -/
def Ctx.quiet (x : Ctx) : Bool := x.writesOut.isEmpty && x.remoteOut.isEmpty

/-- Every published element of the context's STORE rings is written (R344). -/
def storesWritten (d : Dev) (c : Nat) : Bool :=
  (ctxAt d c).rings.all fun rn =>
    match ringAt d (tileOf c) rn with
    | some r => r.kind != .store || r.pub == r.rel
    | none => true

/-- FENCE: waits for the engines named in MOD[6:0]; MOD[9:7] name none and are reserved (R48,
log 16). -/
def execFence (c : Nat) (w : TWord) (s : State) : Host.Outcome State Fault Refusal :=
  onDev s fun d => issue d c w .sync fun x =>
    let m := w.bMod
    if m / 128 ≠ 0 then illegal d c .sync
    else if bit m 0 && mmaBusy d c then hold d c .sync
    else if bit m 5 && !x.writesOut.isEmpty then hold d c .sync
    else if bit m 6 && !x.remoteOut.isEmpty then holdLong d c .sync
    else
      let named (e : Nat) : Bool :=
        match e with
        | 1 => bit m 5
        | 2 => bit m 0
        | 3 => bit m 1
        | 4 => bit m 2
        | 5 => bit m 3
        | 6 => bit m 4
        | 8 => bit m 6
        | _ => false
      complete d c fun x => { x with unfenced := x.unfenced.filter fun u => !named u.eng }

/-! ### Rings (R132, R133, R145) -/

/-- The fault a STORE slot holds for the context at a ring (R73, R145). -/
def storeFault (d : Dev) (t rn : Nat) : Option (Nat × Nat) :=
  match ringAt d t rn with
  | some r =>
    match r.kind, r.slot with
    | .store, some sn =>
      let s := slotAt d t sn
      if s.fault = stOk then none else some (s.fault, s.faultAddr)
    | _, _ => none
  | none => none

/-- The views Table ITN-2 gives the context. -/
def viewOk (k : RingKind) (view : Bool) : Bool :=
  match k, view with
  | .load, false | .mcastRecv, false | .store, true | .local, _ => true
  | _, _ => false

/-- The checks common to RINGWAIT and RINGREL; `k` runs on tile ring number, ring and count. DEDUCED (log 168): a
fault of a STORE slot or of a held element names the Stream Engine. -/
def ringOp (d : Dev) (c : Nat) (w : TWord) (k : Ctx → Nat → Ring → Nat → Dev) : Dev :=
  issue d c w .sync fun x =>
    let t := tileOf c
    if w.bMod / 2 ≠ 0 ∨ w.bImmRaw ≠ 0 then illegal d c .sync
    else
      let n := (x.sreg w.bD).toNat
      if n = 0 then complete d c id
      else
        match x.ringNum (x.sreg w.bS1).toNat with
        | none => faultCtx d c stRingFault .sync 0
        | some rn =>
          match ringAt d t rn with
          | none => faultCtx d c stRingFault .sync 0
          | some r =>
            match storeFault d t rn with
            | some (st, a) => faultCtx d c st .stream a
            | none =>
              if r.depth < n ∨ viewOk r.kind (bit w.bMod 0) = false then
                faultCtx d c stRingFault .sync 0
              else k x rn r n

/-- A held element within the consumer's next `n` (R145). -/
def heldIn (r : Ring) (n : Nat) : Option (Nat × Nat) :=
  (r.held.find? fun h => r.rel ≤ h.1 && h.1 < min r.pub (r.rel + n)).map (·.2)

/-- RINGWAIT (R132, R133, R145). DEDUCED (log 53): it settles the old-or-new choice of R47 for the elements it
waits for, those handed over by their RINGREL, and for no other byte of the ring area. -/
def execRingwait (c : Nat) (w : TWord) (s : State) : Host.Outcome State Fault Refusal :=
  onDev s fun d => ringOp d c w fun _ _ r n =>
    if bit w.bMod 0 then
      if r.pub + n ≤ r.rel + r.depth then complete d c id else holdLong d c .sync
    else
      match heldIn r n with
      | some (st, a) => faultCtx d c st .stream a
      | none =>
        if r.rel + n ≤ r.pub then
          complete d c fun x => { x with unfenced := x.unfenced.filter fun u =>
            !(u.handed && r.holds r.rel n u.addr) }
        else holdLong d c .sync

/-- A write into one of the `n` elements that a RINGREL publishes is handed over (R47, R133). -/
def Unfenced.handOver (r : Ring) (n : Nat) (u : Unfenced) : Unfenced :=
  { u with handed := u.handed || r.holds r.pub n u.addr }

/-- Releases of a ring that wait for MMAs. -/
def Ctx.dueOn (x : Ctx) (rn : Nat) : Nat := ((x.relDue.filter fun e => e.1 == rn).map (·.2.2)).sum

/-- RINGREL: the count changes once the earlier instructions it covers have completed (R132,
R133). -/
def execRingrel (c : Nat) (w : TWord) (s : State) : Host.Outcome State Fault Refusal :=
  onDev s fun d => ringOp d c w fun x rn r n =>
    let t := tileOf c
    if bit w.bMod 0 then
      if r.rel + r.depth < r.pub + n then faultCtx d c stRingFault .sync 0
      else
        complete (ringPublish d t rn n) c fun x =>
          { x with unfenced := x.unfenced.map (Unfenced.handOver r n) }
    else if r.pub < r.rel + x.dueOn rn + n then faultCtx d c stRingFault .sync 0
    else if mmaBusy d c then
      complete d c fun x => { x with relDue := x.relDue ++ [(rn, mmaLeft d c, n)] }
    else complete (ringRelease d t rn n) c id

/-! ### Semaphores (R344, R374) -/

/-- The semaphore lies in the manifest's ranges (R344). -/
def Ctx.declares (x : Ctx) (n : Nat) : Bool :=
  x.semRanges.any fun r => decide (r.1 ≤ n) && decide (n < r.1 + r.2)

/-- A signal of a context or its itineraries under the signal ledger (R374). -/
def ledgerSignal (d : Dev) (c n amount : Nat) : Dev :=
  let x := ctxAt d c
  let total := mget 0 x.replayed n + amount
  let led := mget 0 x.ledger n
  let d := setCtx d c
    { x with replayed := mset 0 x.replayed n total, ledger := mset 0 x.ledger n (max led total) }
  if led < total then semAdd d n (toW (total - led)) else d

/-- Reserved fields of SEMWAIT and SEMSIG (R344). -/
def semPlain (w : TWord) : Bool := w.bMod == 0 && w.bImmRaw == 0

/-- SEMWAIT (R344, with the rules of SEM_WAIT). -/
def execSemwait (c : Nat) (w : TWord) (s : State) : Host.Outcome State Fault Refusal :=
  onDev s fun d => issue d c w .sync fun x =>
    let n := (x.sreg w.bS1).toNat
    if !semPlain w then illegal d c .sync
    else if !x.declares n then faultCtx d c stSemaphoreUndeclared .sync 0
    else
      match semWait d n (x.sreg w.bD) (.ctx c) with
      | (true, d) => complete d c id
      | (false, d) => updCtx d c fun x => { x with wait := .sem }

/-- SEMSIG: adds once earlier stores, published elements and remote operations are visible (R344). -/
def execSemsig (c : Nat) (w : TWord) (s : State) : Host.Outcome State Fault Refusal :=
  onDev s fun d => issue d c w .sync fun x =>
    let n := (x.sreg w.bS1).toNat
    if !semPlain w then illegal d c .sync
    else if !x.declares n then faultCtx d c stSemaphoreUndeclared .sync 0
    else if x.quiet && storesWritten d c then
      complete (ledgerSignal d c n (x.sreg w.bD).toNat) c id
    else holdLong d c .sync

/-! ### Barriers (R152, R153) -/

/-- BARRIER: reserved fields must be 0; the context arrives once its earlier work has completed. -/
def execBarrier (c : Nat) (w : TWord) (s : State) : Host.Outcome State Fault Refusal :=
  onDev s fun d => issue d c w .sync fun x =>
    let imm := w.bImmRaw
    if w.f 51 32 ≠ 0 ∨ bits imm 7 6 ≠ 0 ∨ bits imm 31 20 ≠ 0 then illegal d c .sync
    else if mmaBusy d c || !x.quiet then hold d c .sync
    else
      let d' := updCtx d c fun x => { x with wait := .barrier }
      match arrive d' (partOfCtx d c) (bits imm 5 0) (bits imm 19 8 + 1) (.ctx c) with
      | some d' => d'
      | none => faultCtx d c stBarrierMismatch .sync 0

/-! ### The end of a program (R50, R145, R146) -/

/-- The first fault that a STORE slot of the context holds. -/
def exitFault (d : Dev) (c : Nat) : Option (Nat × Nat) :=
  ((ctxAt d c).rings.filterMap fun rn => storeFault d (tileOf c) rn).head?

/-- EXIT (R50, R145, R146). -/
def execExit (c : Nat) (w : TWord) (s : State) : Host.Outcome State Fault Refusal :=
  onDev s fun d => issue d c w .scalar fun x =>
    match exitFault d c with
    | some (st, a) => faultCtx d c st .stream a
    | none =>
      let d := x.itins.foldl (fun d n => exitSlot d (tileOf c) n) d
      updCtx d c fun x => { x with state := .draining, wait := .none }

/-- Everything a DRAINING context waits for has happened (R50). -/
def drained (d : Dev) (c : Nat) : Bool :=
  let x := ctxAt d c
  x.state == .draining && !mmaBusy d c && x.quiet && x.pend.isNone && x.relDue.isEmpty &&
    x.itins.all fun n => (slotAt d (tileOf c) n).state == .ended

/-- CONTEXT_RETIRE: the LAUNCH of a drained context finishes and retires in its turn (R50, R341). The
spec states no result word for it, which is a free value (log 17). -/
def execContextRetire (c : Nat) (s : State) : Host.Outcome State Fault Refusal :=
  onDev s fun d =>
    if drained d c then
      let x := ctxAt d c
      let (v, d) := freeW d
      let d := finishCmd d x.queue x.seq stOk v
      match (queueAt d x.queue).cmds with
      | y :: _ => if y.seq = x.seq then retireHead d x.queue else d
      | [] => d
    else d

/-! ### Selection, switching, halt (R40, R49, R78) -/

/-- HALT bit of a context (TILE_CTL). -/
def haltBit (d : Dev) (c : Nat) : Bool := wbit (rget d .tileCtl (tileOf c)) (slotOf c)

/-- States in which a context occupies its tile in RESIDENT mode. -/
def CtxState.occupies : CtxState → Bool
  | .idle | .checking | .ready => false
  | _ => true

/-- The tile can take a READY context: in RESIDENT mode none occupies it, in THREADED mode none
runs (R40). -/
def tileOpen (d : Dev) (t : Nat) : Bool :=
  (tileCtxs t).all fun c =>
    let s := (ctxAt d c).state
    if threaded d (partOfTile d t) then s != .running else !s.occupies

/-- A tile in RESIDENT mode takes no new work while one of its engines is in recovery: only a LAUNCH that
is replayed there is selected (R370, R371, log 152). -/
def admitsCtx (d : Dev) (c : Nat) : Bool :=
  let x := ctxAt d c
  threaded d (partOfCtx d c) || d.recov.engines.all fun r =>
    r.engine != 0x200 + tileOf c || r.cleared.contains (x.queue, x.seq) || r.probing == some (x.queue, x.seq)

/-- Context `c` is READY and first in launch order among those its tile admits (R49). -/
def nextReady (d : Dev) (c : Nat) : Bool :=
  (ctxAt d c).state == .ready && admitsCtx d c &&
    (tileCtxs (tileOf c)).all fun o =>
      (ctxAt d o).state != .ready || admitsCtx d o == false ||
        decide ((ctxAt d c).order ≤ (ctxAt d o).order)

/-- Puts a context into RUNNING, or HALTED while its HALT bit is set (R49, R78). In RESIDENT mode the
tile's SRAM becomes its own (R72). -/
def startCtx (d : Dev) (c : Nat) : Dev :=
  updCtx d c fun x =>
    { x with
      state := if haltBit d c then .halted else .running
      wait := .none
      sramSize := if threaded d (partOfCtx d c) then x.sramSize else sramOwned }

/-- CONTEXT_SELECT (R49). -/
def execContextSelect (c : Nat) (s : State) : Host.Outcome State Fault Refusal :=
  onDev s fun d =>
    if c < 512 ∧ tilesRun d ∧ tileOpen d (tileOf c) ∧ nextReady d c then startCtx d c else d

/-- The next READY context after `c` in round-robin order over the slots of its tile. -/
def roundRobin (d : Dev) (c : Nat) : Option Nat :=
  ((List.range 7).map fun i => 8 * tileOf c + (slotOf c + 1 + i) % 8).find? fun o =>
    (ctxAt d o).state == .ready

/-- CONTEXT_SWITCH: in THREADED mode a context stalled for 32 cycles on a semaphore, a ring element
or a fabric completion goes WAITING, and the next ready one runs (R40, R49). -/
def execContextSwitch (c : Nat) (s : State) : Host.Outcome State Fault Refusal :=
  onDev s fun d =>
    let x := ctxAt d c
    if c < 512 ∧ tilesRun d ∧ threaded d (partOfCtx d c) ∧ x.state = .running ∧
        (x.wait = .sem ∨ x.wait.tries true) then
      let d := setCtx d c { x with state := .waiting }
      match roundRobin d c with
      | some o => startCtx d o
      | none => d
    else d

/-! ### Fuses (R431, R432) -/

/-- A flag of 32 fuse bits is set when at least 24 of them are. -/
def flagSet (w : BitVec 32) : Bool := decide (24 ≤ popcount 32 w.toNat)

/-- The fused life-cycle state: 0 BLANK, 1 PROVISIONED, 2 DEPLOYED, 3 RETURNED. -/
def Fuses.state (f : Fuses) : Nat :=
  if flagSet f.ret then 3 else if flagSet f.depl then 2 else if flagSet f.prov then 1 else 0

/-- The revoked slots as a mask. -/
def Fuses.revokedMask (f : Fuses) : Nat :=
  ((List.range 4).map fun k => if flagSet (f.revoked.getD k 0) then 2 ^ k else 0).sum

def Fuses.svnValue (f : Fuses) : Nat := popcount 64 f.svn.toNat

/-- The debug scope in force: every scope in BLANK and RETURNED, else what was granted (Table BOT-5,
R442). -/
def debugScope (d : Dev) : Nat :=
  let st := rfield d .secLcStatus 0 0 1 0
  if st = 0 ∨ st = 3 then 7 else rfield d .secLcStatus 0 0 26 24

/-- Scope TILE is in force, so contexts can be halted (R78, R439). -/
def debugOpen (d : Dev) : Bool := (debugScope d).testBit 0

/-- A write of TILE_CTL.HALT: contexts halt at their next instruction boundary or are released; while
debug is locked the write is ignored (R78). -/
def writeTileCtl (d : Dev) (tile : Nat) (v : Word) : Dev :=
  if debugOpen d && decide (tile < 64) then
    let d := rset d .tileCtl tile 0 (toW (wbits v 7 0))
    (tileCtxs tile).foldl (fun d c =>
      let x := ctxAt d c
      match x.state, haltBit d c with
      | .running, true => setCtx d c { x with state := .halted }
      | .halted, false => setCtx d c { x with state := .running }
      | _, _ => d) d
  else d

/-- Debug is locked: HALT reads 0 and has no effect, and what it held is released (R78). -/
def closeDebug (d : Dev) : Dev :=
  if debugOpen d then d
  else
    let d := (List.range 64).foldl (fun d t => rset d .tileCtl t 0 0) d
    { d with tiles.ctxs := d.tiles.ctxs.map fun (e : Nat × Ctx) =>
      (e.1, if e.2.state = .halted then { e.2 with state := .running } else e.2) }

/-- TILE_CTL_WRITE. -/
def execTileCtlWrite (tile : Nat) (v : Word) (s : State) : Host.Outcome State Fault Refusal :=
  onDev s fun d => writeTileCtl d tile v

end Sys2Proof.Machine
end

