-- ==== Sys2Proof/Machine/MatrixInstr.lean ====
section
/-!
DEFINITION. The instructions of the Matrix Engine (R58 to R67): MMA with its checks and operand
reads, the streaming of queued MMAs, MZERO, MREAD and MWRITE.
-/

namespace Sys2Proof.Machine

/-! ### Operand reads -/

/-- A piece of a row: its place in the row in bits, its SRAM address and its length. -/
abbrev Piece := Nat × Nat × Nat

/-- The pieces of row `i` of A: the whole row, or the slabs a masked MMA uses (R59, R65). -/
def aPieces (desc fmt k : Nat) (slabs : Option (List Nat)) (i : Nat) : List Piece :=
  let a := descAddr desc + i * descStride desc
  let b := fmtBits fmt
  match slabs with
  | none => [(0, a, k * b / 8)]
  | some ss => ss.map fun s => (32 * s * b, a + 4 * s * b, 4 * b)

/-- The pieces of row `k` of B: the whole row, or its present blocks (R65). -/
def bPieces (desc fmt : Nat) (mask : Option (List Nat)) (k : Nat) : List Piece :=
  let a := descAddr desc + k * descStride desc
  let b := fmtBits fmt
  match mask with
  | none => [(0, a, 16 * b)]
  | some ms =>
    ((List.range 4).filter fun g => bit (ms.getD (k / 32) 0) g).map fun g =>
      (32 * g * b, a + 4 * g * b, 4 * b)

/-- The scale bytes of slab `s`, `n` of them, `step` apart from slab to slab (R59). -/
def scalePieces (desc fmt step n : Nat) (slabs : List Nat) (s : Nat) : List Piece :=
  if fmtMx fmt && slabs.contains s then [(0, descScale desc + step * s, n)] else []

/-- Reads pieces into one number. -/
def readPieces (c : Nat) : List Piece → Dev → Nat × Dev
  | [], d => (0, d)
  | (off, a, len) :: ps, d =>
    let (d, bs) := sramRead d c .matrix a len
    let (n, d) := readPieces c ps d
    (leNat bs * 2 ^ off + n, d)

/-- Reads a list of rows. -/
def readRows (c : Nat) : List (List Piece) → Dev → List Nat × Dev
  | [], d => ([], d)
  | r :: rs, d =>
    let (n, d) := readPieces c r d
    let (ns, d) := readRows c rs d
    (n :: ns, d)

def pieceRanges (rows : List (List Piece)) : List (Nat × Nat) := rows.flatten.map (·.2)

/-- The first range outside the SRAM a context owns. -/
def outside (x : Ctx) (rs : List (Nat × Nat)) : Option Nat :=
  (rs.find? fun r => !x.ownsSram r.1 r.2).map (·.1)

/-! ### The checks of an MMA -/

/-- The MMA that will have streamed last when this one issues: context, FMT_B, dense (R61). DEDUCED (log 166):
the same context is the same context number, and the block stays in the array when a context retires. -/
def lastBlock (d : Dev) (t : Nat) : Option (Nat × Nat × Bool) :=
  let streamed := (mmaQueue d t).filter fun r => r.sparse ≠ 2 || r.sel.any (· ≠ 0)
  match streamed.getLast? with
  | some r => some (r.ctx, r.fmtB, r.sparse == 0)
  | none => (mget none d.tiles.array t).map fun b => (b.owner, b.fmt, b.dense)

/-- The accumulator tiles are owned and of the class's type, AT is even for two (R60, R63). -/
def accOk (d : Dev) (c : Nat) (w : TWord) (cls : MmaClass) : Bool :=
  let x := ctxAt d c
  let ts := accTiles w.dAt w.dM
  (w.dM ≤ 128 || w.dAt % 2 == 0) && ts.all (bit x.acc) && !(w.dRs && cls == .int8) &&
    (w.dZero || ts.all fun a =>
      let ty := accTypeAfter d (tileOf c) a
      ty == .none || ty == cls.accTy)

/-- An A or B descriptor is aligned (R59, R60). -/
def descAligned (desc fmt : Nat) : Bool :=
  descAddr desc % 64 == 0 && (!fmtMx fmt || descScale desc % 4 == 0)

/-- A mask or metadata descriptor obeys R59. -/
def selOk (sparse desc : Nat) : Bool :=
  let st := descStrideRaw desc
  descAddr desc % 64 == 0 && descScale desc == 0 &&
    (if sparse = 1 then st == 0 else decide (1 ≤ st) && decide (st ≤ 256))

/-- Where the mask or the metadata rows lie. -/
def selRows (cls : MmaClass) (sparse desc : Nat) : List (List Piece) :=
  match sparse with
  | 1 => (List.range (cls.kb / 2)).map fun j => [(0, descAddr desc + 64 * j, 64)]
  | 2 => [[(0, descAddr desc, (descStrideRaw desc + 1) / 2)]]
  | _ => []

/-- What the rows read mean: metadata rows, or one mask nibble per slab. -/
def selOf (sparse desc : Nat) (rows : List Nat) : List Nat :=
  match sparse with
  | 2 => (List.range (descStrideRaw desc)).map fun s => elemAt (rows.headD 0) 4 s
  | _ => rows

/-- The pieces of an MMA's operands, once its mask is known: A rows, A scales, B rows, B scales. -/
structure Operands where
  a : List (List Piece)
  aScales : List (List Piece)
  b : List (List Piece)
  bScales : List (List Piece)
deriving DecidableEq, Repr

/-- The operands of an MMA by Tables TIL-8 and TIL-9 (R58 to R60, R64). DEDUCED (log 167): the MX scales of B are
numbered by logical slab in a 2:4 pass too. -/
def mmaOperands (x : Ctx) (w : TWord) (cls : MmaClass) (sel : List Nat) : Operands :=
  let da := (x.sreg w.dSA).toNat
  let db := (x.sreg w.dSB).toNat
  let masked := w.dSparse = 2
  let k := match w.dSparse with
    | 1 => 2 * cls.kb
    | 2 => 32 * sel.length
    | _ => cls.kb
  let all := List.range (k / 32)
  let used := if masked then all.filter fun s => sel.getD s 0 ≠ 0 else all
  let stored := if masked then k else cls.kb
  let mask := if masked then some sel else none
  { a := (List.range w.dM).map (aPieces da w.dFmtA k (if masked then some used else none))
    aScales := all.map (scalePieces da w.dFmtA 256 w.dM used)
    b := if w.dBkeep then [] else (List.range stored).map (bPieces db w.dFmtB mask)
    bScales := if w.dBkeep then [] else all.map (scalePieces db w.dFmtB 128 128 used) }

def Operands.ranges (o : Operands) : List (Nat × Nat) :=
  pieceRanges o.a ++ pieceRanges o.aScales ++ pieceRanges o.b ++ pieceRanges o.bScales

/-- Lanes of VS as row scales (R63). -/
def rowScales (x : Ctx) (w : TWord) : Option (List Nat) :=
  if w.dRs then some (lanes 32 256 (x.vreg w.dVs)) else none

/-- The MMA reads its operands and joins the queue of the array; its lines issue in order (R46). -/
def enqueueMma (d : Dev) (c : Nat) (w : TWord) (sel : List Nat) (o : Operands) : Dev :=
  let x := ctxAt d c
  let (a, d) := readRows c o.a d
  let (sa, d) := readRows c o.aScales d
  let (b, d) := readRows c o.b d
  let (sb, d) := readRows c o.bScales d
  let r : MmaReq :=
    { ctx := c
      acc := w.dAt
      m := w.dM
      fmtA := w.dFmtA
      fmtB := w.dFmtB
      sparse := w.dSparse
      zero := w.dZero
      bkeep := w.dBkeep
      rowScales := rowScales x w
      aRows := a
      aScales := sa
      b := ⟨c, w.dFmtB, w.dSparse = 0, b, sb⟩
      sel := sel
      key := x.srKey }
  let t := tileOf c
  complete { d with tiles.mmaQ := mset [] d.tiles.mmaQ t (mmaQueue d t ++ [r]) } c id

/-- The operand ranges are owned and sound, and the MMA issues. -/
def issueMma (d : Dev) (c : Nat) (w : TWord) (cls : MmaClass) (sel : List Nat) : Dev :=
  let x := ctxAt d c
  let o := mmaOperands x w cls sel
  match outside x o.ranges with
  | some a => operandFault d c .matrix a
  | none => withParity d c .matrix o.ranges fun _ => enqueueMma d c w sel o

/-- MMA (R58 to R66). -/
def mma (d : Dev) (c : Nat) (w : TWord) : Dev :=
  let x := ctxAt d c
  match mmaClass w.dFmtA w.dFmtB with
  | none => illegal d c .matrix
  | some cls =>
    let da := (x.sreg w.dSA).toNat
    let db := (x.sreg w.dSB).toNat
    let dx := (x.sreg w.dSX).toNat
    if w.dRes = false ∨ w.dSparse = 3 ∨ (cls = .fp32 ∧ w.dSparse ≠ 0) then illegal d c .matrix
    else if accOk d c w cls = false then operandFault d c .matrix 0
    else if descAligned da w.dFmtA = false then operandFault d c .matrix (descAddr da)
    else if w.dBkeep then
      if w.dSparse = 0 ∧ lastBlock d (tileOf c) = some (c, w.dFmtB, true) then issueMma d c w cls []
      else operandFault d c .matrix 0
    else if descAligned db w.dFmtB = false then operandFault d c .matrix (descAddr db)
    else if w.dSparse = 0 then issueMma d c w cls []
    else if selOk w.dSparse dx = false then operandFault d c .matrix (descAddr dx)
    else
      let rows := selRows cls w.dSparse dx
      match outside x (pieceRanges rows) with
      | some a => operandFault d c .matrix a
      | none =>
        withParity d c .matrix (pieceRanges rows) fun _ =>
          let (ns, d) := readRows c rows d
          issueMma d c w cls (selOf w.dSparse dx ns)

def execMma (c : Nat) (w : TWord) (s : State) : Host.Outcome State Fault Refusal :=
  onDev s fun d => issue d c w .matrix fun _ => mma d c w

/-- MMA_STREAM_START: the oldest queued MMA of a tile swaps the B buffers and streams its rows
(R61). -/
def execMmaStreamStart (tile : Nat) (s : State) : Host.Outcome State Fault Refusal :=
  onDev s fun d => if tilesRun d then streamNext d tile else d

/-! ### Accumulator tiles and registers (R46, R60, R67) -/

/-- An accumulator tile named by MOD[2:0]: owned (log 18), and no queued MMA of the context writes
it (R46). -/
def withAcc (d : Dev) (c : Nat) (w : TWord) (k : Nat → Dev) : Dev :=
  let a := w.bMod % 8
  if bit (ctxAt d c).acc a = false then operandFault d c .matrix 0
  else if accBusy d c a then hold d c .matrix
  else k a

/-- Row pair IMM of a tile; there are 64 (log 18). -/
def accPair (d : Dev) (c : Nat) (w : TWord) (k : Nat → Dev) : Dev :=
  if w.bImmRaw < 64 then k w.bImmRaw else operandFault d c .matrix 0

/-- MZERO (R60). -/
def execMzero (c : Nat) (w : TWord) (s : State) : Host.Outcome State Fault Refusal :=
  onDev s fun d => issue d c w .matrix fun _ => withAcc d c w fun a => complete (accClear d (tileOf c) a) c id

/-- MREAD: rows 2·IMM and 2·IMM + 1 into lanes 0 to 127 and 128 to 255 (R67). -/
def execMread (c : Nat) (w : TWord) (s : State) : Host.Outcome State Fault Refusal :=
  onDev s fun d => issue d c w .matrix fun _ => withAcc d c w fun a => accPair d c w fun p =>
    let lo := accRow d (tileOf c) a (2 * p)
    let hi := accRow d (tileOf c) a (2 * p + 1)
    complete d c fun x => x.setVreg w.bD (hi ++ lo)

/-- MWRITE: the reverse of MREAD; the tile's type stays (R60, R67). -/
def execMwrite (c : Nat) (w : TWord) (s : State) : Host.Outcome State Fault Refusal :=
  onDev s fun d => issue d c w .matrix fun x => withAcc d c w fun a => accPair d c w fun p =>
    let v := x.vreg w.bD
    let d := setAccRow d (tileOf c) a (2 * p) (v.extractLsb' 0 4096)
    complete (setAccRow d (tileOf c) a (2 * p + 1) (v.extractLsb' 4096 4096)) c id

end Sys2Proof.Machine
end

