-- ==== Sys2Proof/Machine/VecInstr.lean ====
section
/-!
DEFINITION. The instructions of the Vector Engine and the SFU (R68, R69, R88, R89, R98 to R101, R104,
R118, R119, R463): their checks and the registers they write; the arithmetic is that of Vec.lean and
Sfu.lean.
-/

namespace Sys2Proof.Machine

def Ctx.numMode (x : Ctx) : NumMode := ⟨x.subn, x.srKey⟩

/-- Writes a result and its flags (R91). -/
def putVec (d : Dev) (c dst : Nat) (r : VReg × Flags) : Dev :=
  complete d c fun x => (x.setVreg dst r.1).addFlags r.2

/-- Lane format and rounding mode of a Format A vector instruction: with INT32, RND is reserved
(R56, R463). -/
def vecForm (w : TWord) : Option (LaneFmt × Rnd) :=
  match laneFmt w.aFmt, Rnd.ofCode w.aRnd with
  | some .int32, some m => if w.aRnd = 0 then some (.int32, m) else none
  | some f, some m => some (f, m)
  | _, _ => none

/-- A lane-wise arithmetic instruction of two operands, or of three (VFMA). -/
def laneInstr (op : VecOp) (c : Nat) (w : TWord) (d : Dev) : Dev :=
  issue d c w .vector fun x =>
    match vecForm w with
    | some (f, m) =>
      if w.aRes ∧ (op = .fma ∨ w.aS3 = 0) then
        putVec d c w.aD
          (vecArith x.numMode f m op (x.vreg w.aS1) (x.vreg w.aS2) (x.vreg w.aS3))
      else illegal d c .vector
    | none => illegal d c .vector

def execVadd (c : Nat) (w : TWord) (s : State) : Host.Outcome State Fault Refusal :=
  onDev s (laneInstr .add c w)

def execVsub (c : Nat) (w : TWord) (s : State) : Host.Outcome State Fault Refusal :=
  onDev s (laneInstr .sub c w)

def execVmul (c : Nat) (w : TWord) (s : State) : Host.Outcome State Fault Refusal :=
  onDev s (laneInstr .mul c w)

def execVfma (c : Nat) (w : TWord) (s : State) : Host.Outcome State Fault Refusal :=
  onDev s (laneInstr .fma c w)

def execVmax (c : Nat) (w : TWord) (s : State) : Host.Outcome State Fault Refusal :=
  onDev s (laneInstr .max c w)

def execVmin (c : Nat) (w : TWord) (s : State) : Host.Outcome State Fault Refusal :=
  onDev s (laneInstr .min c w)

/-- VCMP: RND carries the condition (R88). -/
def execVcmp (c : Nat) (w : TWord) (s : State) : Host.Outcome State Fault Refusal :=
  onDev s fun d => issue d c w .vector fun x =>
    match laneFmt w.aFmt with
    | some f =>
      if w.aRes ∧ w.aS3 = 0 ∧ w.aRnd ≠ 7 then
        putVec d c w.aD (vecCmp x.numMode f w.aRnd (x.vreg w.aS1) (x.vreg w.aS2))
      else illegal d c .vector
    | none => illegal d c .vector

/-- VSEL (R463). -/
def execVsel (c : Nat) (w : TWord) (s : State) : Host.Outcome State Fault Refusal :=
  onDev s fun d => issue d c w .vector fun x =>
    match vecForm w with
    | some (f, _) =>
      if w.aRes then
        putVec d c w.aD (vecSel f (x.vreg w.aS1) (x.vreg w.aS2) (x.vreg w.aS3), {})
      else illegal d c .vector
    | none => illegal d c .vector

/-- An across-lane reduction; S2 and S3 are reserved (R463). -/
def redInstr (op : RedOp) (c : Nat) (w : TWord) (d : Dev) : Dev :=
  issue d c w .vector fun x =>
    match vecForm w with
    | some (f, m) =>
      if w.aRes ∧ w.aS2 = 0 ∧ w.aS3 = 0 then
        putVec d c w.aD (vecReduce x.numMode f m op (x.vreg w.aS1))
      else illegal d c .vector
    | none => illegal d c .vector

def execVrsum (c : Nat) (w : TWord) (s : State) : Host.Outcome State Fault Refusal :=
  onDev s (redInstr .sum c w)

def execVrmax (c : Nat) (w : TWord) (s : State) : Host.Outcome State Fault Refusal :=
  onDev s (redInstr .max c w)

def execVamax (c : Nat) (w : TWord) (s : State) : Host.Outcome State Fault Refusal :=
  onDev s (redInstr .amax c w)

/-- The SRAM address S1 + IMM of VLD and VST: a multiple of 64, with 1 KiB owned; MOD is reserved
(R463). -/
def vecSpan (d : Dev) (c : Nat) (w : TWord) (k : Nat → Dev) : Dev :=
  let x := ctxAt d c
  let a := (x.sreg w.bS1 + w.bImm).toNat
  if w.bMod ≠ 0 then illegal d c .vector
  else if a % 64 ≠ 0 ∨ x.ownsSram a 1024 = false then operandFault d c .vector a
  else k a

def execVld (c : Nat) (w : TWord) (s : State) : Host.Outcome State Fault Refusal :=
  onDev s fun d => issue d c w .vector fun _ => vecSpan d c w fun a =>
    withParity d c .vector [(a, 1024)] fun _ =>
      let (d, bs) := sramRead d c .vector a 1024
      complete d c fun x => x.setVreg w.bD (BitVec.ofNat 8192 (leNat bs))

def execVst (c : Nat) (w : TWord) (s : State) : Host.Outcome State Fault Refusal :=
  onDev s fun d => issue d c w .vector fun x => vecSpan d c w fun a =>
    complete (sramWrite d c .vector a (leBytes 1024 (x.vreg w.bD).toNat)) c id

/-- VBCAST (R463). -/
def execVbcast (c : Nat) (w : TWord) (s : State) : Host.Outcome State Fault Refusal :=
  onDev s fun d => issue d c w .vector fun x =>
    if w.bMod / 2 ≠ 0 ∨ w.bImmRaw ≠ 0 then illegal d c .vector
    else complete d c fun y => y.setVreg w.bD (vecBcast (bit w.bMod 0) (x.sreg w.bS1))

/-- VPERM (R463). -/
def execVperm (c : Nat) (w : TWord) (s : State) : Host.Outcome State Fault Refusal :=
  onDev s fun d => issue d c w .vector fun x =>
    if w.bMod / 64 ≠ 0 ∨ w.bImmRaw ≠ 0 then illegal d c .vector
    else
      complete d c fun y =>
        y.setVreg w.bD (vecPerm (bit w.bMod 5) (x.vreg w.bS1) (x.vreg (w.bMod % 32)))

/-! ### The SFU (R92, R104, R118, R119) -/

/-- Checks of an SFU instruction: FMT FP32 or BF16, RND to nearest (R92, R104). -/
def sfuForm (w : TWord) : Bool := w.aRes && w.aFmt ≤ 1 && w.aRnd == 0

/-- A function applied to every lane of S1: `wide` on FP32, `half` on BF16. -/
def sfuInstr (wide half : Bool → Nat → Nat × Flags) (c : Nat) (w : TWord) (d : Dev) : Dev :=
  issue d c w .sfu fun x =>
    if sfuForm w then
      putVec d c w.aD
        (if w.aFmt = 0 then vecMap false (wide x.subn) (x.vreg w.aS1)
          else vecMap true (half x.subn) (x.vreg w.aS1))
    else illegal d c .sfu

def execSexp (c : Nat) (w : TWord) (s : State) : Host.Outcome State Fault Refusal :=
  onDev s (sfuInstr (sfuFp32 · .exp) (sfuBf16 · .exp) c w)

def execSlog (c : Nat) (w : TWord) (s : State) : Host.Outcome State Fault Refusal :=
  onDev s (sfuInstr (sfuFp32 · .log) (sfuBf16 · .log) c w)

def execSrcp (c : Nat) (w : TWord) (s : State) : Host.Outcome State Fault Refusal :=
  onDev s (sfuInstr (sfuFp32 · .rcp) (sfuBf16 · .rcp) c w)

def execSrsq (c : Nat) (w : TWord) (s : State) : Host.Outcome State Fault Refusal :=
  onDev s (sfuInstr (sfuFp32 · .rsqrt) (sfuBf16 · .rsqrt) c w)

/-- SPROG: the micro-program of the generation in force whose number is in bits [41:37] (R118 to
R120, R126). -/
def execSprog (c : Nat) (w : TWord) (s : State) : Host.Outcome State Fault Refusal :=
  onDev s fun d => issue d c w .sfu fun x =>
    let img := sfuImage d (tileOf c)
    if sfuForm w = false then illegal d c .sfu
    else if imgPresent img w.aS2 = false then faultCtx d c stSfuProgramEmpty .sfu 0
    else
      putVec d c w.aD
        (if w.aFmt = 0 then vecMap false (progFp32 x.subn img w.aS2) (x.vreg w.aS1)
          else vecMap true (progBf16 x.subn img w.aS2) (x.vreg w.aS1))

/-! ### Conversions (R86, R98 to R101) -/

/-- The source FMT code of CVT, in bits [35:32]. -/
def cvtSrc (w : TWord) : Nat := w.aS3 % 16

/-- The checks of CVT: a listed pair, reserved fields 0, even registers for MW48 (R86, R98). -/
def cvtForm (w : TWord) : Bool :=
  w.aRes && w.aS3 / 16 == 0 && cvtPair (cvtSrc w) w.aFmt &&
    (w.aFmt == 0xC || w.aS2 == 0) && (cvtSrc w != 0xC || w.aS1 % 2 == 0) &&
    (w.aFmt != 0xC || w.aD % 2 == 0)

def execCvt (c : Nat) (w : TWord) (s : State) : Host.Outcome State Fault Refusal :=
  onDev s fun d => issue d c w .vector fun x =>
    match cvtForm w, Rnd.ofCode w.aRnd with
    | true, some m =>
      let hi := x.vreg w.aS1
      let lo := x.vreg ((w.aS1 + 1) % 32)
      if w.aFmt = 0xC then
        let (h, l, f) := vecCvtMw x.numMode (cvtSrc w) m hi lo (x.vreg w.aS2)
        complete d c fun x => ((x.setVreg w.aD h).setVreg (w.aD + 1) l).addFlags f
      else putVec d c w.aD (vecCvt x.numMode (cvtSrc w) w.aFmt m hi lo)
    | _, _ => illegal d c .vector

/-- OP and wide format of CVTMX, bits [33:32] and [34]; bits [36:35] are reserved (R100). -/
def cvtmxOp (w : TWord) : Nat := w.aS3 % 4
def cvtmxHalf (w : TWord) : Bool := bit w.aS3 2

def execCvtmx (c : Nat) (w : TWord) (s : State) : Host.Outcome State Fault Refusal :=
  onDev s fun d => issue d c w .vector fun x =>
    match w.aRes && w.aS3 / 8 == 0 && fmtMx w.aFmt, fmtOf w.aFmt, Rnd.ofCode w.aRnd with
    | true, some f, some m =>
      let a := x.vreg w.aS1
      let g := x.vreg w.aS2
      let half := cvtmxHalf w
      match cvtmxOp w with
      | 0 =>
        if w.aD = w.aS2 then illegal d c .vector
        else
          let (e, sc, fl) := vecMxPack x.numMode w.aFmt f half m none a
          complete d c fun x => ((x.setVreg w.aD e).setVreg w.aS2 sc).addFlags fl
      | 1 =>
        let (e, _, fl) := vecMxPack x.numMode w.aFmt f half m (some g) a
        putVec d c w.aD (e, fl)
      | 2 => putVec d c w.aD (vecMxUnpack x.numMode w.aFmt f half m a g)
      | _ => illegal d c .vector
    | _, _, _ => illegal d c .vector

end Sys2Proof.Machine
end

