-- ==== Sys2Proof/Machine/Drain.lean ====
section
/-!
DEFINITION. The drain (R67, R110 to R113, R155 to R158): DCHAIN with its checks, and MDRAIN, which
passes the rows of an accumulator tile through the chain in force.
-/

namespace Sys2Proof.Machine

/-! ### The descriptor (Table ITN-5) -/

/-- A step of a drain chain. -/
structure DStep where
  kind : Nat
  sub : Nat
  rnd : Nat
  addr : Nat
  prog : Nat
  /-- Bits [15:11] and [63:45] are 0. -/
  plain : Bool
deriving DecidableEq, Repr

def chainSteps (ch : List Byte) : Nat := bits (leAt ch 0 8) 3 0
def chainRing (ch : List Byte) : Bool := bit (leAt ch 0 8) 8
def chainPublish (ch : List Byte) : Bool := bit (leAt ch 0 8) 9
def chainOutRing (ch : List Byte) : Nat := bits (leAt ch 0 8) 20 16
def chainOut (ch : List Byte) : Nat := bits (leAt ch 0 8) 47 24
def chainStride (ch : List Byte) : Nat := bits (leAt ch 0 8) 63 48 * 64
def chainScale (ch : List Byte) : Nat := bits (leAt ch 8 8) 23 0

def chainStep (ch : List Byte) (i : Nat) : DStep :=
  let w := leAt ch (0x10 + 8 * i) 8
  ⟨bits w 3 0, bits w 7 4, bits w 10 8, bits w 39 16, bits w 44 40,
    bits w 15 11 == 0 && bits w 63 45 == 0⟩

def chainList (ch : List Byte) : List DStep := (List.range (chainSteps ch)).map (chainStep ch)

/-- CVT or SRCVT. -/
def DStep.converts (s : DStep) : Bool := s.kind == 7 || s.kind == 8

/-- The output format of a chain, if its last step converts. -/
def chainFmt (ch : List Byte) : Option Nat :=
  match (chainList ch).getLast? with
  | some s => if s.converts then some s.sub else none
  | none => none

/-- Bytes of an output row (R157). -/
def chainRowLen (ch : List Byte) : Nat :=
  match chainFmt ch with
  | none => 512
  | some f => 16 * fmtBits f

/-- Bytes of the scales of a drain to an MX format: four for each of 128 rows (R157). -/
def chainScaleLen (ch : List Byte) : Nat :=
  match chainFmt ch with
  | some f => if fmtMx f then 512 else 0
  | none => 0

/-- SRAM a step reads or writes, and its alignment, which is its element's size (log 19). -/
def DStep.span (s : DStep) : Option (Nat × Nat) :=
  match s.kind, s.sub with
  | 1, 0 => some (4, 4)
  | 1, _ => some (512, 4)
  | 2, 0 => some (512, 4)
  | 2, _ => some (256, 2)
  | 4, 1 | 5, 1 => some (65536, 4)
  | 4, 2 | 5, 2 => some (32768, 2)
  | 6, _ => some (4, 4)
  | _, _ => none

/-- KIND, SUB and RND of a step are defined (R156, R157). -/
def DStep.codeOk (s : DStep) : Bool :=
  match s.kind with
  | 1 | 2 => s.sub ≤ 1
  | 3 => s.sub ≤ 8
  | 4 => s.sub ≤ 2
  | 5 => s.sub == 1 || s.sub == 2
  | 6 => s.sub == 0
  | 7 | 8 => 1 ≤ s.sub && s.sub ≤ 0xA && s.rnd ≤ 3
  | _ => false

def DStep.addrOk (x : Ctx) (s : DStep) : Bool :=
  match s.span with
  | some (len, m) => s.addr % m == 0 && x.ownsSram s.addr len
  | none => true

/-- At most one step satisfies `p`. -/
def atMostOne (p : DStep → Bool) (ss : List DStep) : Bool := (ss.filter p).length ≤ 1

/-- The output area of a chain into SRAM lies in the context's range. -/
def chainOutOk (x : Ctx) (ch : List Byte) : Bool :=
  chainOut ch % 64 == 0 && x.ownsSram (chainOut ch) (127 * chainStride ch + chainRowLen ch) &&
    (chainScaleLen ch == 0 || x.ownsSram (chainScale ch) 512)

/-- OUT_RING is declared as LOCAL or STORE. -/
def chainRingOk (d : Dev) (c : Nat) (ch : List Byte) : Bool :=
  match (ctxAt d c).ringNum (chainOutRing ch) with
  | some rn =>
    match ringAt d (tileOf c) rn with
    | some r => r.kind == .local || r.kind == .store
    | none => false
  | none => false

/-- The checks of DCHAIN (R157). -/
def chainOk (d : Dev) (c : Nat) (ch : List Byte) : Bool :=
  let x := ctxAt d c
  let w0 := leAt ch 0 8
  let ss := chainList ch
  decide (chainSteps ch ≤ 8) && bits w0 7 4 == 0 && bits w0 15 10 == 0 && bits w0 23 21 == 0 &&
    bits (leAt ch 8 8) 63 24 == 0 && leAt ch 0x50 48 == 0 &&
    ss.all (fun s => s.plain && s.codeOk && s.addrOk x) &&
    atMostOne (·.kind == 3) ss && atMostOne (·.kind == 4) ss && atMostOne (·.kind == 6) ss &&
    atMostOne DStep.converts ss && ss.dropLast.all (fun s => !s.converts) &&
    (chainScaleLen ch == 0 || chainScale ch % 4 == 0) &&
    decide (chainRowLen ch ≤ chainStride ch) &&
    (if chainRing ch then chainRingOk d c ch else chainOutOk x ch)

/-- DCHAIN: the descriptor at S1 is read, checked and kept (R155, R157). -/
def execDchain (c : Nat) (w : TWord) (s : State) : Host.Outcome State Fault Refusal :=
  onDev s fun d => issue d c w .drain fun x =>
    let a := (x.sreg w.bS1).toNat
    if a % 64 ≠ 0 ∨ x.ownsSram a 128 = false then faultCtx d c stDrainChainInvalid .drain 0
    else
      withParity d c .drain [(a, 128)] fun _ =>
        let (d, ch) := sramRead d c .drain a 128
        if chainOk d c ch then complete d c fun x => { x with chain := some ch }
        else faultCtx d c stDrainChainInvalid .drain 0

/-! ### One row (R156) -/

/-- What a drain works with besides the state: context, accumulator tile, chain and key. -/
structure DrainJob where
  c : Nat
  acc : Nat
  ch : List Byte
  subn : Bool
  key : SrKey
  img : List Byte
deriving DecidableEq, Repr

/-- 128 elements of an SRAM row as FP32 codes; BF16 is widened exactly. -/
def rowCodes (half : Bool) (bs : List Byte) : List Nat :=
  let v := leNat bs
  (List.range 128).map fun j =>
    if half then elemAt v 16 j * 65536 else elemAt v 32 j

/-- The 128 operands of a step for row `i`; steps without one answer nothing. -/
def stepOperand (j : DrainJob) (d : Dev) (s : DStep) (i : Nat) : Dev × List Nat :=
  let read (a len : Nat) (half : Bool) : Dev × List Nat :=
    let (d, bs) := sramRead d j.c .drain a len
    (d, rowCodes half bs)
  match s.kind, s.sub with
  | 1, 0 =>
    let (d, bs) := sramRead d j.c .drain s.addr 4
    (d, List.replicate 128 (leNat bs))
  | 1, _ => read s.addr 512 false
  | 2, 0 => read s.addr 512 false
  | 2, _ => read s.addr 256 true
  | 4, 0 => (d, lanes 32 128 (BitVec.setWidth 8192 (accRow d (tileOf j.c) (j.acc ^^^ 1) i)))
  | 4, 1 | 5, 1 => read (s.addr + 512 * i) 512 false
  | 4, _ | 5, _ => read (s.addr + 256 * i) 256 true
  | _, _ => (d, [])

/-- A step on one element with its operand. -/
def stepElem (j : DrainJob) (s : DStep) (v r : Nat) : Nat × Flags :=
  match s.kind with
  | 1 | 4 => f32Mul j.subn v r
  | 2 | 5 => f32Add j.subn v r
  | 3 => activation j.subn j.img s.sub s.prog v
  | _ => (v, {})

/-- Magnitude maximum of a row for AMAX. -/
def rowAmax (subn : Bool) (old : Nat) (vs : List Nat) : Nat × Flags :=
  vs.foldl (fun acc v =>
    let (m, f) := f32Max subn acc.1 (f32Sign (fun _ => false) v)
    (m, acc.2.or f)) (old, {})

/-- A row in progress: elements, flags, largest magnitude at the AMAX step. -/
structure DRow where
  vs : List Nat
  flags : Flags
  amax : Nat
deriving DecidableEq, Repr

/-- One arithmetic step of a row. -/
def stepRow (j : DrainJob) (i : Nat) (p : Dev × DRow) (s : DStep) : Dev × DRow :=
  let (d, r) := p
  if s.converts then (d, r)
  else if s.kind = 6 then
    let (m, f) := rowAmax j.subn r.amax r.vs
    (d, { r with amax := m, flags := r.flags.or f })
  else
    let (d, os) := stepOperand j d s i
    let outs := (List.range 128).map fun n => stepElem j s (r.vs.getD n 0) (os.getD n 0)
    (d, { r with vs := outs.map (·.1), flags := r.flags.or (joinFlags outs) })

/-- The row's elements before step 0: an INT32 tile is converted to FP32, unless the chain is empty
and writes raw values. -/
def rowStart (j : DrainJob) (d : Dev) (i : Nat) : List Nat :=
  let t := tileOf j.c
  let raw := lanes 32 128 (BitVec.setWidth 8192 (accRow d t j.acc i))
  if (accInfo d t j.acc).ty = .int32 ∧ chainSteps j.ch ≠ 0 then
    raw.map fun x => (roundF true fp32 .near 0 (Fx.ofInt (sext 32 x))).1
  else raw

/-- Converts a row to `fmt` under `mode`: packed row, scale bytes of its four blocks, flags. -/
def convertRow (j : DrainJob) (i fmt : Nat) (mode : Rnd) (vs : List Nat) :
    Nat × List Nat × Flags :=
  let reads := vs.map fun v => readF j.subn fp32 v
  let fl : Flags := { flush := reads.any (·.2) }
  match fmt, fmtOf fmt with
  | 0xA, _ =>
    let outs := (numbered reads).map fun (n, x) =>
      roundInt 8 mode (srFor mode j.key (128 * i + n)) x.1
    (packElems 8 (outs.map (·.1)), [], fl.or (joinFlags outs))
  | _, some f =>
    if fmtMx fmt then
      let bs := (numbered (blocks32 4 (reads.map (·.1)))).map fun (b, xs) =>
        mxBlock ⟨j.subn, j.key⟩ f mode none (128 * i + 32 * b) xs
      let elems := (bs.map (·.2)).flatten
      (packElems (mxWidth fmt) (elems.map (·.1)), bs.map (·.1), fl.or (joinFlags elems))
    else
      let outs := (numbered reads).map fun (n, x) =>
        roundF j.subn f mode (srFor mode j.key (128 * i + n)) x.1
      (packElems f.width (outs.map (·.1)), [], fl.or (joinFlags outs))
  | _, none => (0, [], fl)

/-- The mode of a conversion step. -/
def DStep.mode (s : DStep) : Rnd := if s.kind = 8 then .stoch else (Rnd.ofCode s.rnd).getD .near

/-- One row of a drain: steps, conversion, writes. `out` and `sc` are the places of row 0 and of its
scales, `amax` what AMAX has so far. -/
def drainRow (j : DrainJob) (out sc : Nat) (p : Dev × Nat) (i : Nat) : Dev × Nat :=
  let (d, r) := (chainList j.ch).foldl (stepRow j i) (p.1, ⟨rowStart j p.1 i, {}, p.2⟩)
  let (v, scales, fl) := match (chainList j.ch).getLast? with
    | some s => if s.converts then convertRow j i s.sub s.mode r.vs else (packElems 32 r.vs, [], {})
    | none => (packElems 32 r.vs, [], {})
  let d := sramWrite d j.c .drain (out + i * chainStride j.ch) (leBytes (chainRowLen j.ch) v)
  let d := if scales.isEmpty then d
    else sramWrite d j.c .drain (sc + 4 * i) (scales.map fun x => BitVec.ofNat 8 x)
  (updCtx d j.c fun x => x.addFlags (r.flags.or fl), r.amax)

/-- The whole drain: every row, then the AMAX word. -/
def drainAll (j : DrainJob) (d : Dev) (out sc : Nat) : Dev :=
  let (d, m) := (List.range 128).foldl (drainRow j out sc) (d, 0)
  match (chainList j.ch).find? (·.kind == 6) with
  | none => d
  | some s =>
    let (d, bs) := sramRead d j.c .drain s.addr 4
    let (v, f) := f32Max j.subn (leNat bs) m
    updCtx (sramWrite d j.c .drain s.addr (leBytes 4 v)) j.c fun x => x.addFlags f

/-- SRAM that the steps of a chain read. -/
def chainReads (ch : List Byte) : List (Nat × Nat) :=
  (chainList ch).filterMap fun s => s.span.map fun p => (s.addr, p.1)

/-- The gate comes from the paired tile. -/
def chainPairs (ch : List Byte) : Bool := (chainList ch).any fun s => s.kind == 4 && s.sub == 0

/-- The USER program of a chain. -/
def chainUser (ch : List Byte) : Option Nat :=
  ((chainList ch).find? fun s => s.kind == 3 && s.sub == 8).map (·.prog)

/-- Runs the drain to `out`, then publishes when the chain says so (R158). -/
def runDrain (d : Dev) (j : DrainJob) (out sc : Nat) (rn : Option Nat) : Dev :=
  withParity d j.c .drain (chainReads j.ch) fun _ =>
    let d := drainAll j d out sc
    let d := match rn with
      | some rn => if chainPublish j.ch then ringPublish d (tileOf j.c) rn 1 else d
      | none => d
    complete d j.c id

/-- Where the output goes, checked when it is a ring element (R158). -/
def drainTo (d : Dev) (j : DrainJob) : Dev :=
  if chainRing j.ch then
    match (ctxAt d j.c).ringNum (chainOutRing j.ch) with
    | none => faultCtx d j.c stRingFault .drain 0
    | some rn =>
      match ringAt d (tileOf j.c) rn with
      | none => faultCtx d j.c stRingFault .drain 0
      | some r =>
        if r.empty = 0 ∨ r.elem < 127 * chainStride j.ch + chainRowLen j.ch ∨
            (chainScaleLen j.ch ≠ 0 ∧ r.elem < chainScale j.ch + chainScaleLen j.ch) then
          faultCtx d j.c stRingFault .drain 0
        else
          let base := r.elemAddr r.pub
          runDrain d j base (base + chainScale j.ch) (some rn)
  else runDrain d j (chainOut j.ch) (chainScale j.ch) none

/-- MDRAIN of accumulator tile MOD[2:0] (R67, R112, R113, R119, R155 to R158). -/
def execMdrain (c : Nat) (w : TWord) (s : State) : Host.Outcome State Fault Refusal :=
  onDev s fun d => issue d c w .drain fun x =>
    let a := w.bMod % 8
    let t := tileOf c
    match x.chain with
    | none => faultCtx d c stDrainChainInvalid .drain 0
    | some ch =>
      let img := sfuImage d t
      let pair := a ^^^ 1
      if bit x.acc a = false then operandFault d c .drain 0
      else if chainPairs ch ∧ bit x.acc pair = false then operandFault d c .drain 0
      else if accBusy d c a ∨ (chainPairs ch ∧ accBusy d c pair) then hold d c .drain
      else if chainPairs ch ∧ (accInfo d t pair).ty ≠ .fp32 then operandFault d c .drain 0
      else if (match chainUser ch with
          | some p => !imgPresent img p
          | none => false) then
        faultCtx d c stSfuProgramEmpty .drain 0
      else drainTo d ⟨c, a, ch, x.subn, x.srKey, img⟩

end Sys2Proof.Machine
end

