-- ==== Sys2Proof/Machine/Fabric.lean ====
section
/-!
DEFINITION. The sending side of the fabric (R275 to R288): ports, credits and buckets, flows, packets,
transactions and how they settle.
-/

namespace Sys2Proof.Machine

/-! ### Sources (R282) -/

/-- Reads a packet's payload at its source, as long as `old` is. -/
def PktSrc.read (old : List Byte) : PktSrc → Act (List Byte)
  | .fixed => pure old
  | .sram t a => do
    let d ← get
    match sramBadIn d t a old.length with
    | some b => Act.fail stSramParity b
    | none => pure (sramGet d t a old.length)
  | .dram pa => readPhys pa old.length
  | .range base o => dread base o old.length
  | .virt asid unit va => vread ⟨asid, unit⟩ va old.length

/-- The source of the packet that begins `n` bytes further on. -/
def PktSrc.plus (n : Nat) : PktSrc → PktSrc
  | .fixed => .fixed
  | .sram t a => .sram t (a + n)
  | .dram pa => .dram (pa + n)
  | .range base o => .range base (o + n)
  | .virt asid unit va => .virt asid unit (va + n)

/-- Packet `i` of a transaction whose data lie at one source. -/
def PktSrc.each (src : PktSrc) (i : Nat) : PktSrc := src.plus (4096 * i)

/-! ### Frames as bytes (R275, R276) -/

/-- The frame check sequence of IEEE 802.3: generator 0x04C11DB7, bits taken lowest first, registers and
result inverted (R228, R275). -/
def crc32Step : Nat → Nat → Nat
  | 0, c => c
  | n + 1, c => crc32Step n (if c % 2 = 1 then c / 2 ^^^ 0xEDB88320 else c / 2)

def crc32 (bs : List Byte) : Nat := bs.foldl (fun c b => crc32Step 8 (c ^^^ b.toNat)) 0xFFFFFFFF ^^^ 0xFFFFFFFF

/-- The header, 32 bytes (Table FAB-3). -/
def frameHeader (f : Frame) : List Byte :=
  leBytes 4 (f.type + f.vc * 2 ^ 3 + f.fence.toNat * 2 ^ 5 + f.resp.toNat * 2 ^ 6 + f.last.toNat * 2 ^ 7 +
    f.payload.length / 64 * 2 ^ 8 + f.tly.toNat * 2 ^ 15 + f.tag * 2 ^ 16) ++
  leBytes 8 (f.dst + f.src * 2 ^ 20 + f.fseq * 2 ^ 40) ++ leBytes 20 f.area

/-- The link trailer of a frame that leaves with an LSEQ: LSEQ in [15:0], the CRC in [63:32] (R275). -/
def frameTrailer (f : Frame) (lseq : Nat) : Word :=
  toW (lseq + crc32 (frameHeader f ++ f.payload ++ leBytes 4 lseq) * 2 ^ 32)

/-- Every field fits its place, and the payload is whole units of 64 bytes, at most 4,096 (R275). -/
def frameFits (f : Frame) : Bool :=
  decide (f.type < 8 ∧ f.vc < 4 ∧ f.tag < 2 ^ 16 ∧ f.dst < 2 ^ 20 ∧ f.src < 2 ^ 20 ∧ f.fseq < 2 ^ 24 ∧
    f.area < 2 ^ 160) && f.payload.length % 64 == 0 && decide (f.payload.length ≤ 4096)

/-- What arrived is a frame, and its CRC is right; the trailer's reserved bits are ignored but for the
CRC, which covers them. -/
def frameSound (f : Frame) (trailer : Word) : Bool :=
  frameFits f && crc32 (frameHeader f ++ f.payload ++ leBytes 4 (wbits trailer 31 0)) == wbits trailer 63 32

/-! ### Ports and identities -/

def portAt (d : Dev) (i : Nat) : Port := mget Port.reset d.fab.ports i

def setPort (d : Dev) (i : Nat) (x : Port) : Dev :=
  { d with fab.ports := mset Port.reset d.fab.ports i x }

/-- The partition of a port (R267). -/
def partOfPort (d : Dev) (i : Nat) : Nat := partOfQuarter d (i / 8)

/-- The ports of a partition. -/
def portsOf (d : Dev) (p : Nat) : List Nat := (List.range 32).filter fun i => partOfPort d i == p

def portState (d : Dev) (i : Nat) : Nat := rfield d .fabPortStatus 0 i 2 0
def portUp (d : Dev) (i : Nat) : Bool := portState d i == 2

def chipId (d : Dev) (p : Nat) : Nat := rfield d .fabId 0 p 19 0
def chipIdValid (d : Dev) (p : Nat) : Bool := wbit (rget d .fabId 0 p) 20
def jobTag (d : Dev) (p : Nat) : Nat := rfield d .fabId 0 p 47 32

def fabPart (d : Dev) (p : Nat) : FabPart := mget FabPart.reset d.fab.parts p

def setFabPart (d : Dev) (p : Nat) (x : FabPart) : Dev :=
  { d with fab.parts := mset FabPart.reset d.fab.parts p x }

/-- A chip ID that is fenced at the partition (R292). -/
def fenced (d : Dev) (p chip : Nat) : Bool :=
  (fabPart d p).fence.contains chip || (fabPart d p).beyond.contains chip

/-- Records the last fabric-class status (FAB_ERR_LAST). -/
def noteFab (d : Dev) (status peer port : Nat) : Dev :=
  let d := rsetf d .fabErrLast 0 0 15 0 status
  let d := rsetf d .fabErrLast 0 0 35 16 peer
  rsetf d .fabErrLast 0 0 40 36 port

/-- Records a refusal at the target (FAB_ERR_LAST, FAB_FENCE.REFUSED). -/
def noteRefused (d : Dev) (p status peer port : Nat) : Dev :=
  let d := noteFab d status peer port
  if status = stSourceFenced ∨ status = stNotAdmitted then rcount d .fabFence 0 p 47 32 1 else d

/-! ### Routes, buckets, credits (R277, R287, R288) -/

/-- Ports of a packet's route set, in ascending order. -/
def routePorts (d : Dev) (p dst : Nat) : List Nat :=
  match (fabPart d p).routes.find? fun r => r.1 ≤ dst && dst ≤ r.2.1 with
  | some r => (portsOf d p).filter fun i => r.2.2.testBit i
  | none => portsOf d p

/-- A bucket's tokens now, in 1/256 byte; its depth is 256 KiB. -/
def Bucket.now (b : Bucket) (rate t : Nat) : Nat := min (2 ^ 26) (b.level + rate * (t - b.since))

def Bucket.take (b : Bucket) (rate t n : Nat) : Bucket := ⟨b.now rate t - n, t⟩

/-- Refill of a port in 1/256 byte per ns: 1.6 Tb/s is 200 bytes per ns. -/
def Port.rate (x : Port) : Nat := 200 * x.ceiling

/-- Refill of a wrap rule: 1 Gb/s is 32 of 1/256 byte per ns. -/
def Wrap.rate (w : Wrap) : Nat := 32 * w.ceiling

/-- Header, payload and trailer (R275). -/
def frameBytes (f : Frame) : Nat := 40 + f.payload.length

/-- Credit units of a frame (log 13). -/
def frameUnits (f : Frame) : Nat := f.payload.length / 64 + 1

/-- The port can send the frame: UP, credit on its VC, room in the replay list. -/
def canLink (d : Dev) (i : Nat) (f : Frame) : Bool :=
  let x := portAt d i
  portUp d i && decide (frameUnits f ≤ mget 0 x.credit f.vc) && decide (x.unacked.length < 8192)

/-- The wrap rules that cover a frame. -/
def Wrap.covers (w : Wrap) (f : Frame) : Bool := w.lo ≤ f.dst && f.dst ≤ w.hi

/-- Every bucket that covers the frame holds its size. -/
def bucketsOpen (d : Dev) (p i : Nat) (f : Frame) : Bool :=
  let n := 256 * frameBytes f
  let x := portAt d i
  decide (n ≤ x.bucket.now x.rate d.clock) &&
    (fabPart d p).wraps.all fun w => !w.covers f || decide (n ≤ w.bucket.now w.rate d.clock)

def takeBuckets (d : Dev) (p i : Nat) (f : Frame) : Dev :=
  let n := 256 * frameBytes f
  let x := portAt d i
  let d := setPort d i { x with bucket := x.bucket.take x.rate d.clock n }
  let q := fabPart d p
  let one (w : Wrap) : Wrap :=
    if w.covers f then { w with bucket := w.bucket.take w.rate d.clock n } else w
  setFabPart d p { q with wraps := q.wraps.map one }

/-- A frame leaves on a port with the next LSEQ; `credit` is false for link-scope messages (log
20). -/
def linkSend (d : Dev) (i : Nat) (f : Frame) (credit : Bool) (src : PktSrc := .fixed) : Dev :=
  let x := portAt d i
  let c := if credit then mset 0 x.credit f.vc (mget 0 x.credit f.vc - frameUnits f) else x.credit
  emit (setPort d i { x with
    lseq := (x.lseq + 1) % 65536
    unacked := x.unacked ++ [(x.lseq, f, src)]
    credit := c }) (.frame i (frameTrailer f x.lseq) f)

/-- Sends the frames that wait for room in a port's replay list (R277). -/
def flushPort : Nat → Nat → Dev → Dev
  | 0, _, d => d
  | n + 1, i, d =>
    let x := portAt d i
    match x.linkQ with
    | [] => d
    | (f, credit) :: rest =>
      if portUp d i && decide (x.unacked.length < 8192) &&
          (!credit || decide (frameUnits f ≤ mget 0 x.credit f.vc)) then
        flushPort n i (linkSend (setPort d i { x with linkQ := rest }) i f credit)
      else d

/-- Hands a port a frame of its own, which waits while the replay list is full. -/
def portSend (d : Dev) (i : Nat) (f : Frame) (credit : Bool) : Dev :=
  let x := portAt d i
  flushPort (x.linkQ.length + 1) i (setPort d i { x with linkQ := x.linkQ ++ [(f, credit)] })

/-! ### Control frames -/

/-- A CONTROL frame of a partition (Table FAB-5). -/
def ctlFrame (d : Dev) (p dst subtype area : Nat) (payload : List Byte) : Frame where
  type := 6
  vc := 0
  fence := false
  resp := false
  last := false
  tly := false
  tag := jobTag d p
  dst := dst
  src := chipId d p
  fseq := 0
  area := subtype + area * 256
  payload := payload

/-- Sends what waits of the control frames; the first that no port of its route set can take holds
back the later ones of its partition. -/
def pumpCtl : List (Nat × Frame) → List Nat → Dev → Dev
  | [], _, d => d
  | (p, f) :: rest, stuck, d =>
    if stuck.contains p then
      pumpCtl rest stuck { d with fab.ctlQ := d.fab.ctlQ ++ [(p, f)] }
    else
      match (routePorts d p f.dst).find? fun i => canLink d i f with
      | some i => pumpCtl rest stuck (linkSend d i f true)
      | none => pumpCtl rest (p :: stuck) { d with fab.ctlQ := d.fab.ctlQ ++ [(p, f)] }

/-- The Delay_Req that waits leaves on the port of FAB_TIME_CTL, and its time is taken then (R298). -/
def flushDelay (d : Dev) : Dev :=
  let i := rfield d .fabTimeCtl 0 0 20 16
  match d.fab.delayOut with
  | some (seq, f) =>
    if canLink d i f then
      linkSend { d with fab.delayOut := none, fab.delayReq := some (seq, d.ns) } i f true
    else d
  | none => d

def flushCtl (d : Dev) : Dev :=
  let d := (List.range 32).foldl (fun d i => flushPort (portAt d i).linkQ.length i d) (flushDelay d)
  pumpCtl d.fab.ctlQ [] { d with fab.ctlQ := [] }

def sendCtl (d : Dev) (p dst subtype area : Nat) (payload : List Byte) : Dev :=
  flushCtl { d with fab.ctlQ := d.fab.ctlQ ++ [(p, ctlFrame d p dst subtype area payload)] }

/-! ### Flows -/

def findTx (d : Dev) (p dst : Nat) : Option TxFlow :=
  d.fab.tx.find? fun x => x.part == p && x.dst == dst

def updTx (d : Dev) (p dst : Nat) (f : TxFlow → TxFlow) : Dev :=
  { d with fab.tx := d.fab.tx.map fun x => if x.part = p ∧ x.dst = dst then f x else x }

/-- Flows a partition may hold in each direction (R279). -/
def flowLimit (d : Dev) (p : Nat) : Nat := 16384 * (quartersOf d p).length

def txHeld (d : Dev) (p : Nat) : Nat :=
  (d.fab.tx.filter fun x => x.part == p && x.state != .held).length

/-- The first FSEQ a flow has not had acknowledged. -/
def TxFlow.firstSeq (x : TxFlow) : Nat := (x.pkts.head?.map fun y => y.frame.fseq).getD x.next

/-- Opens waiting flows of a partition while there is room (R278, R279). -/
def openFlows : List TxFlow → Dev → Dev
  | [], d => d
  | x :: rest, d =>
    if x.state = .held ∧ txHeld d x.part < flowLimit d x.part ∧ chipIdValid d x.part then
      let q := fabPart d x.part
      let d := setFabPart d x.part { q with incs := (q.incs + 1) % 2 ^ 32 }
      let d := updTx d x.part x.dst fun y =>
        { y with state := .opening, inc := q.incs, openedAt := d.clock, opens := 0 }
      openFlows rest (sendCtl d x.part x.dst 0x10 (q.incs + x.firstSeq * 2 ^ 32) [])
    else openFlows rest d

/-- Sends the next unsent packet of a flow, if its port, chosen round robin over the UP ports of the
route set, can take it (R287, R288). -/
def sendOne (d : Dev) (x : TxFlow) : Option Dev :=
  match x.pkts.find? fun y => !y.sent with
  | none => none
  | some y =>
    let ups := (routePorts d x.part x.dst).filter (portUp d)
    match ups[x.rr % max 1 ups.length]? with
    | none => none
    | some i =>
      if x.state = .ready ∧ canLink d i y.frame ∧ bucketsOpen d x.part i y.frame ∧
          (x.pkts.filter fun z => z.sent).length < 2 ^ 23 then
        let d := linkSend (takeBuckets d x.part i y.frame) i y.frame true y.src
        some (updTx d x.part x.dst fun z =>
          { z with
            rr := z.rr + 1
            usedAt := d.clock
            pkts := z.pkts.map fun w =>
              if w.frame.fseq = y.frame.fseq then { w with sent := true, port := i, sentAt := d.clock }
              else w })
      else none

/-- The first flow that can send a packet does so and goes behind the others (R288). -/
def sendNext (d : Dev) : List TxFlow → Option Dev
  | [] => none
  | x :: xs =>
    match sendOne d x with
    | some d =>
      let mine (y : TxFlow) : Bool := y.part == x.part && y.dst == x.dst
      some { d with fab.tx := d.fab.tx.filter (fun y => !mine y) ++ d.fab.tx.filter mine }
    | none => sendNext d xs

def pumpFlows : Nat → Dev → Dev
  | 0, d => d
  | n + 1, d =>
    match sendNext d d.fab.tx with
    | some d => pumpFlows n d
    | none => d

/-- Everything that can leave leaves; flows that wait for one port are served round robin (R288). -/
def pump (d : Dev) : Dev :=
  let d := flushCtl (openFlows d.fab.tx d)
  pumpFlows (d.fab.tx.map fun x => x.pkts.length).sum d

/-- Adds packets to a flow, which it opens first when there is none (R278); `src` tells where the payload of
packet `i` lies. -/
def submit (d : Dev) (p dst : Nat) (xact : Option Nat) (fs : List Frame)
    (src : Nat → PktSrc := fun _ => .fixed) : Dev :=
  let d := match findTx d p dst with
    | some _ => d
    | none =>
      let x : TxFlow :=
        { part := p, dst := dst, state := .held, inc := 0, next := 0, pkts := [], rtt := none,
          usedAt := d.clock, openedAt := d.clock, opens := 0, rr := 0 }
      { d with fab.tx := d.fab.tx ++ [x] }
  let id := chipId d p
  let tag := jobTag d p
  pump (updTx d p dst fun x =>
    let numbered := (List.range fs.length).zip fs
    { x with
      next := (x.next + fs.length) % 2 ^ 24
      pkts := x.pkts ++ numbered.map fun (i, f) =>
        { frame := { f with src := id, dst := dst, tag := tag, fseq := (x.next + i) % 2 ^ 24 }
          src := src i
          xact := xact
          sent := false
          port := 0
          sentAt := 0
          tries := 0 } })

/-! ### Transactions (R284, R286) -/

def findXact (d : Dev) (t : Nat) : Option Xact :=
  (d.fab.xacts.find? fun e => e.1 == t).map (·.2)

def putXact (d : Dev) (t : Nat) (x : Xact) : Dev := { d with fab.xacts := mput d.fab.xacts t x }

/-- A free transaction of a partition's quarters. -/
def freeTid (d : Dev) (p : Nat) : Option Nat :=
  ((quartersOf d p).map fun q => (List.range 4096).map (4096 * q + ·)).flatten.find? fun t =>
    (findXact d t).isNone

/-! ### Ledger entries (R203) -/

def frameAt (d : Dev) (f : Nat) : KvFrame := mget KvFrame.reset d.ledger.frames f

def setFrame (d : Dev) (f : Nat) (x : KvFrame) : Dev :=
  { d with ledger.frames := mset KvFrame.reset d.ledger.frames f x }

/-- A command learns that its transaction `t` ended with a status, which marks `bad` in `aux2`. -/
def Cmd.told (t status : Nat) (bad : List Nat) (y : Cmd) : Cmd :=
  if y.st = .finished then y
  else { y with
    aux := y.aux.filter (· ≠ t)
    status := max y.status status
    aux2 := y.aux2 ++ bad.filter fun b => !y.aux2.contains b }

/-- A buddy that is lost, fenced or not configured ends the replica of the snapshot (R394). -/
def endBuddy (d : Dev) (p chip : Nat) : Dev :=
  { d with snp.snaps := d.snp.snaps.map fun (e : Nat × Snap) =>
      if e.1 = p then
        (p, { e.2 with buddies := e.2.buddies.map fun (b : Buddy) =>
          if b.chip = chip then { b with live := false } else b })
      else e }

/-- A transaction has an end: who waits for it is told (R48, R140, R284). A context whose remote
operation failed faults with its status at that instruction (log 21). -/
def tellXact (d : Dev) (t : Nat) (x : Xact) : Dev :=
  match x.who with
  | .none => d
  | .ctx c =>
    let d := updCtx d c fun y => { y with remoteOut := y.remoteOut.filter (· ≠ t) }
    let d := opEnds d c t x.status
    if x.status = stOk then clearRetry d (tileOf c) else d
  | .elem tile n k =>
    elemTold d tile n k t x.status x.addr
  | .cmd q k => updCmd d q k (Cmd.told t x.status [])
  | .kv q k f =>
    let y := frameAt d f
    updCmd (setFrame d f { y with pins := y.pins - 1 }) q k (Cmd.told t x.status [])
  | .snap p chip => if x.status = stOk then d else endBuddy d p chip
  | .tally q k n => updCmd d q k (Cmd.told t x.status (if x.status = stOk then [] else [2 * n]))

/-- Ends a transaction that waits for nothing more. -/
def settleXact (d : Dev) (t : Nat) : Dev :=
  match findXact d t with
  | none => d
  | some x =>
    if x.left = 0 ∧ x.resp = 0 then
      tellXact { d with fab.xacts := merase d.fab.xacts t } t x
    else d

/-- A packet has its reply: it leaves the flow and counts in its transaction (R284). -/
def replyPkt (d : Dev) (p dst fseq status : Nat) : Dev :=
  match findTx d p dst with
  | none => d
  | some x =>
    match x.pkts.find? fun y => y.frame.fseq == fseq && y.sent with
    | none => d
    | some y =>
      let d := updTx d p dst fun z =>
        { z with usedAt := d.clock, pkts := z.pkts.filter fun w => w.frame.fseq ≠ fseq }
      let d := if status = stOk then d else noteFab d status dst y.port
      match y.xact with
      | none => d
      | some t =>
        match findXact d t with
        | none => d
        | some r =>
          let r : Xact :=
            { r with
              left := r.left - 1
              status := max r.status status
              resp := if status = stOk then r.resp else r.resp - 1 }
          settleXact (putXact d t r) t

/-- A flow without a transaction: its packets that have been sent stay until they are acknowledged, for
nobody; the others leave, and those behind them close up, so that FSEQs stay consecutive (R278). -/
def TxFlow.without (x : TxFlow) (t : Nat) : TxFlow :=
  let sent := (x.pkts.filter (·.sent)).map fun w => if w.xact = some t then { w with xact := none } else w
  let waits := x.pkts.filter fun w => !w.sent
  let first := (waits.head?.map fun w => w.frame.fseq).getD x.next
  let left := waits.filter fun w => w.xact ≠ some t
  { x with
    next := (first + left.length) % 2 ^ 24
    pkts := sent ++ ((List.range left.length).zip left).map fun (i, w) =>
      { w with frame := { w.frame with fseq := (first + i) % 2 ^ 24 } } }

/-- Completes a transaction at once with a status. -/
def failXact (d : Dev) (t status : Nat) : Dev :=
  match findXact d t with
  | none => d
  | some r =>
    let d := updTx d r.part r.dst fun z => z.without t
    settleXact (putXact (noteFab d status r.dst 0) t
      { r with left := 0, resp := 0, status := max r.status status }) t

/-- Completes every transaction of partition `p` to `dst` with a status. -/
def failTo (d : Dev) (p dst status : Nat) : Dev :=
  (d.fab.xacts.filter fun e => e.2.part == p && e.2.dst == dst).foldl
    (fun d e => failXact d e.1 status) d

/-- A chip ID no transaction can have as its target (R284). -/
def chipBad (chip : Nat) : Bool := chip == 0 || 0xFFF00 ≤ chip

/-- What starting a transaction answers. -/
inductive Started
  /-- No transaction is free: the engine waits (R286). -/
  | wait
  | ok (d : Dev) (tid : Nat)

/-- Starts a transaction of packets to `dst` for `who`; `resp` READ responses are expected. An
unassignable target or a fenced one ends it at once (R284, R292). The caller records the number
before anything can settle it. -/
def startXact (d : Dev) (p dst : Nat) (who : XWho) (addr base resp : Nat)
    (note : Dev → Nat → Dev) (mk : Nat → List Frame) (src : Nat → PktSrc := fun _ => .fixed) : Started :=
  match freeTid d p with
  | none => .wait
  | some t =>
    let fs := mk t
    let x : Xact := ⟨p, dst, who, fs.length, resp, stOk, addr, base⟩
    let d := note (putXact d t x) t
    if chipBad dst then .ok (failXact d t stChipIdInvalid) t
    else if fenced d p dst then .ok (failXact d t stMemberLost) t
    else .ok (submit d p dst (some t) fs src) t

/-! ### Packets (Table FAB-4) -/

def emptyFrame : Frame where
  type := 0
  vc := 1
  fence := false
  resp := false
  last := false
  tly := false
  tag := 0
  dst := 0
  src := 0
  fseq := 0
  area := 0
  payload := []

/-- Splits bytes into packets of 4 KiB. -/
def packets : Nat → List Byte → List (List Byte)
  | 0, _ => []
  | n + 1, bs => if bs.isEmpty then [] else bs.take 4096 :: packets n (bs.drop 4096)

def packetsOf (bs : List Byte) : List (List Byte) := packets (bs.length / 4096 + 1) bs

/-- Area of WRITE, READ and ACCUMULATE: TID, PKT, OP, ADDR, RLEN. -/
def dataArea (t pkt op addr rlen : Nat) : Nat :=
  t + pkt * 2 ^ 14 + op * 2 ^ 22 + addr % 2 ^ 44 * 2 ^ 32 + rlen * 2 ^ 76

/-- Packets of a WRITE (type 0) or ACCUMULATE (type 2): packet `i` carries the address of its own
first byte. -/
def writeFrames (type op addr : Nat) (bs : List Byte) (t : Nat) : List Frame :=
  let ps := packetsOf bs
  ((List.range ps.length).zip ps).map fun (i, pl) =>
    { emptyFrame with
      type := type
      last := i + 1 = ps.length
      area := dataArea t i op (addr + 4096 * i) 0
      payload := pl }

/-- Packets of a READ of `len` bytes: each asks for up to 4 KiB. -/
def readFrames (addr len t : Nat) : List Frame :=
  let n := (len + 4095) / 4096
  (List.range n).map fun i =>
    { emptyFrame with
      type := 1
      last := i + 1 = n
      area := dataArea t i 0 (addr + 4096 * i) ((min 4096 (len - 4096 * i) + 63) / 64) }

/-- A SEM_SIGNAL packet (R281). -/
def semFrame (sem amount : Nat) : Frame :=
  { emptyFrame with
    type := 3
    last := true
    area := sem % 2 ^ 17 + amount % 2 ^ 32 * 2 ^ 32 }

/-! ### Groups (R290 to R293) -/

/-- A group of a partition, if set; groups are numbered chip-wide (Table HIE-3). -/
def groupAt (d : Dev) (g : Nat) : Option Group := (d.fab.groups.find? fun e => e.1 == g).map (·.2)

/-- Physical address of byte `o` of a group's image. -/
def runAddr : List (Nat × Nat) → Nat → Nat
  | [], o => o
  | (a, n) :: rest, o => if o < n then a + o else runAddr rest (o - n)

def memberAddr (g : Group) (j : Nat) : Nat := runAddr g.runs (0x40 + 8 * j)

/-- Member `j`'s entry as it stands in place, or as it is about to be written there. -/
def memberWord (d : Dev) (g : Group) (j : Nat) : Nat :=
  let a := memberAddr g j
  match d.fab.edits.find? fun e => e.1 == a with
  | some e => e.2
  | none => leNat (bytesAt d.mem.bytes a 8)

/-- Reads a group's image in place, as memory is read, for those who use its entries (R177, R290). -/
def readGroup (g : Group) : Act Unit := g.runs.forM fun r => do
  let _ ← readPhys r.1 r.2
  pure ()

/-- Member entries of a group are still to be written. -/
def editsOf (d : Dev) (g : Group) : Bool :=
  d.fab.edits.any fun e => g.runs.any fun r => r.1 ≤ e.1 && e.1 < r.1 + r.2

/-- Writes the member entries that wait, as far as their lines can be written now (R292, R320); an entry
whose line cannot be read stays as it is. -/
def settleEdits (d : Dev) : Dev :=
  d.fab.edits.foldl (fun d e =>
    match (writePhys .device e.1 (leBytes 8 e.2)).go d with
    | (.error (.wait n), d') => waitDev d d' n
    | (_, d') => { d' with fab.edits := d'.fab.edits.filter fun x => x.1 ≠ e.1 }) d

/-- Gives member `j` another entry. -/
def setMember (d : Dev) (g : Group) (j w : Nat) : Dev :=
  let a := memberAddr g j
  settleEdits { d with fab.edits := d.fab.edits.filter (fun x => x.1 ≠ a) ++ [(a, w)] }

def memberChip (w : Nat) : Nat := bits w 19 0
def memberTray (w : Nat) : Nat := bits w 39 20

/-- A member's STATE: a fenced ID is LOST at once (R292). -/
def memberState (d : Dev) (p w : Nat) : Nat :=
  if bits w 41 40 = 0 ∧ fenced d p (memberChip w) then 1 else bits w 41 40

/-- Index of a chip ID in a group, if it is an ACTIVE member. -/
def activeIndex (d : Dev) (p : Nat) (g : Group) (chip : Nat) : Option Nat :=
  (List.range g.members).find? fun j =>
    let w := memberWord d g j
    memberChip w == chip && memberState d p w == 0

/-- The next ACTIVE member after member `j`, in list order, wrapping round (R290). -/
def successor (d : Dev) (p : Nat) (g : Group) (j : Nat) : Option Nat :=
  ((List.range (g.members - 1)).map fun i => (j + 1 + i) % g.members).find? fun k =>
    memberState d p (memberWord d g k) == 0

/-- The ACTIVE member before member `j`. -/
def predecessor (d : Dev) (p : Nat) (g : Group) (j : Nat) : Option Nat :=
  ((List.range (g.members - 1)).map fun i => (j + g.members - 1 - i) % g.members).find? fun k =>
    memberState d p (memberWord d g k) == 0

/-- This chip's own entry is FILLING: it sends no group traffic (R291). -/
def selfFilling (d : Dev) (g : Group) : Bool := bits (memberWord d g g.self) 41 40 == 2

/-- The source is an ACTIVE member of the target's copy of a group (R280). -/
def admitted (d : Dev) (p gnum src : Nat) : Bool :=
  match groupAt d gnum with
  | some g => (activeIndex d p g src).isSome
  | none => false

/-- The source is an ACTIVE member of one of the partition's groups. -/
def inAnyGroup (d : Dev) (p src : Nat) : Bool :=
  d.fab.groups.any fun e => partOfGroup d e.1 == p && (activeIndex d p e.2 src).isSome

end Sys2Proof.Machine
end

