-- ==== Sys2Proof/Machine/Stream.lean ====
section
/-!
DEFINITION. The Stream Engine (R128 to R151, R73): ITSTART, ITSTOP, ITSTAT, the steps of an itinerary,
delivery and writing of elements, multicast binding, overwrite events and parity refetches.
-/

namespace Sys2Proof.Machine

def SlotState.code : SlotState → Nat
  | .free => 0
  | .loaded => 1
  | .running => 2
  | .waitSem => 3
  | .held => 4
  | .stopping => 5
  | .ended => 6

/-- TILE_STR_STATE of a slot. -/
def Slot.stateWord (s : Slot) : Nat :=
  s.state.code + s.owner % 8 * 2 ^ 3 + s.store.toNat * 2 ^ 6 + s.ring % 32 * 2 ^ 7 +
    s.itin * 2 ^ 12 + s.heldStatus * 2 ^ 16 + s.heldElem % 2 ^ 32 * 2 ^ 32

/-! ### ITSTART, ITSTOP, ITSTAT (R138, R139, R143) -/

/-- The slot that MOD[3:0] names; MOD[9:4] and IMM are reserved, and an undeclared itinerary has no
slot in a state the instruction accepts (log 24). -/
def namedSlot (d : Dev) (c : Nat) (w : TWord) (k : Nat → Dev) : Dev :=
  if w.bMod / 16 ≠ 0 ∨ w.bImmRaw ≠ 0 then illegal d c .stream
  else
    match (ctxAt d c).itins[w.bMod]? with
    | some n => k n
    | none => faultCtx d c stItineraryState .stream 0

/-- The start value of a base register. -/
def baseOf (a0 a1 : Nat) : ABase → Option Nat
  | .a0 => some a0
  | .a1 => some a1
  | _ => none

/-- The checks of ITSTART on the spans based on A0 and A1 (R138, R143). -/
def startOk (s : Slot) (t a0 a1 : Nat) : Bool :=
  let prog := s.instrs.map (·.toNat)
  (spansOf prog t).spans.all fun sp =>
    match baseOf a0 a1 sp.base with
    | none => true
    | some a =>
      (itOp (prog.getD sp.word 0) != 4 || a % 64 == 0) &&
        match spanRange prog s.shapes s.store sp with
        | none => true
        | some (lo, hi, wr) => s.windows.any fun x => x.grants ((a : Int) + lo) ((a : Int) + hi) wr

/-- A slot at the start of a run. -/
def Slot.begin (s : Slot) (a0 a1 base : Nat) : Slot :=
  { s with
    state := .running
    pc := 0
    addrs := a0 :: a1 :: List.replicate 6 0
    strides := []
    loops := []
    entries := []
    waits := []
    gathered := 0xFC
    issued := 0
    base := base
    stopReq := false }

def execItstart (c : Nat) (w : TWord) (s : State) : Host.Outcome State Fault Refusal :=
  onDev s fun d => issue d c w .stream fun x => namedSlot d c w fun n =>
    let t := tileOf c
    let sl := slotAt d t n
    let a0 := (x.sreg w.bS1).toNat
    let a1 := (x.sreg w.bD).toNat
    if sl.state ≠ .loaded ∧ sl.state ≠ .ended then faultCtx d c stItineraryState .stream 0
    else if startOk sl t a0 a1 = false then faultCtx d c stItineraryBound .stream 0
    else
      let base := match ringAt d t sl.ring with
        | some r => if sl.store then r.rel else r.pub
        | none => 0
      complete (setSlot d t n (sl.begin a0 a1 base)) c id

def execItstop (c : Nat) (w : TWord) (s : State) : Host.Outcome State Fault Refusal :=
  onDev s fun d => issue d c w .stream fun _ => namedSlot d c w fun n =>
    let t := tileOf c
    match (slotAt d t n).state with
    | .running | .waitSem | .held => complete (stopSlot d t n) c id
    | .stopping | .ended => complete d c id
    | _ => faultCtx d c stItineraryState .stream 0

def execItstat (c : Nat) (w : TWord) (s : State) : Host.Outcome State Fault Refusal :=
  onDev s fun d => issue d c w .stream fun _ => namedSlot d c w fun n =>
    let sl := slotAt d (tileOf c) n
    complete d c fun x =>
      x.setSreg w.bD (toW (sl.stateWord % 2 ^ 32 + sl.delivered % 2 ^ 32 * 2 ^ 32))

/-! ### Steps of an itinerary -/

/-- A slot executes an instruction of OP `op` when it runs and stands at one; otherwise the command
is turned away (log 1). -/
def itStep (d : Dev) (t n op : Nat) (k : Slot → Nat → Dev) : Dev :=
  let s := slotAt d t n
  if tilesRun d ∧ t < 64 ∧ n < 16 ∧ s.state = .running ∧ itOp s.word = op then
    exitPoint (k s s.word) t n
  else d

/-- LOOP opens a level over its body (R135, R137). -/
def execItineraryLoop (tile n : Nat) (s : State) : Host.Outcome State Fault Refusal :=
  onDev s fun d => itStep d tile n 1 fun sl w =>
    let e := mget 0 sl.entries sl.pc
    let l : ItLoop :=
      ⟨sl.pc + 1, sl.pc + 1 + loopBody w, loopCount w, loopOrder w, loopRot w, 0, e % 2 == 1⟩
    setSlot d tile n { sl with
      pc := sl.pc + 1
      loops := l :: sl.loops
      entries := mset 0 sl.entries sl.pc (e + 1) }

def execStride (tile n : Nat) (s : State) : Host.Outcome State Fault Refusal :=
  onDev s fun d => itStep d tile n 2 fun sl w =>
    let key := 8 * strideReg w + strideLevel w
    setSlot d tile n { sl.advance with strides := mset 0 sl.strides key (strideVal w) }

/-- SETA: A[D] = A[S] + IMM; what was gathered stays gathered (R136). -/
def execSeta (tile n : Nat) (s : State) : Host.Outcome State Fault Refusal :=
  onDev s fun d => itStep d tile n 3 fun sl w =>
    let v := wrapN 64 ((sl.addrs.getD (setaS w) 0 : Int) + setaImm w)
    setSlot d tile n { sl.advance with
      addrs := setAt sl.addrs (setaD w) v
      gathered := setBits sl.gathered (setaD w) (setaD w) (bit sl.gathered (setaS w)).toNat }

/-- WAITSEM: issue goes on once the semaphore reaches BASE + INC × j (R136). -/
def execWaitsem (tile n : Nat) (s : State) : Host.Outcome State Fault Refusal :=
  onDev s fun d => itStep d tile n 6 fun sl w =>
    let thr := waitBase w + waitInc w * mget 0 sl.waits sl.pc
    match semWait d (waitSem w) (toW thr) (.slot tile n) with
    | (true, d) => setSlot d tile n sl.passWait
    | (false, d) => setSlot d tile n { sl with state := .waitSem }

/-- Signals whose earlier elements are all delivered or written (R136). -/
def fireSignals (d : Dev) (t n : Nat) : Dev :=
  let s := slotAt d t n
  let openAt := match s.flight with
    | [] => s.issued
    | e :: _ => e.num
  let due := s.signals.filter fun x => x.1 ≤ openAt
  let d := setSlot d t n { s with signals := s.signals.filter fun x => openAt < x.1 }
  due.foldl (fun d x => ledgerSignal d s.owner x.2.1 x.2.2) d

/-- SIGSEM (R136, R374). -/
def execSigsem (tile n : Nat) (s : State) : Host.Outcome State Fault Refusal :=
  onDev s fun d => itStep d tile n 7 fun sl w =>
    let sl := { sl.advance with signals := sl.signals ++ [(sl.issued, sigSem w, sigAmount w)] }
    fireSignals (setSlot d tile n sl) tile n

/-- END: the slot stops (R136). -/
def execItineraryEnd (tile n : Nat) (s : State) : Host.Outcome State Fault Refusal :=
  onDev s fun d => itStep d tile n 0 fun _ _ => stopSlot d tile n

/-! ### Elements -/

/-- The rows of an element that are read or written: place in the element, address (R138). -/
def elemRows (x : Shape) (addr : Nat) : List (Nat × Nat) :=
  (List.range x.vrows).map fun i =>
    (i * x.units * 64, wrapN 64 ((addr : Int) + (i : Int) * x.stride))

/-- The hint of a FETCH (Table ITN-3). -/
def allocOf : Nat → Alloc
  | 1 => .stream
  | 2 => .noalloc
  | _ => .normal

/-- Reads a row of local memory: its bytes, and the DRAM runs they came from. -/
def readRow (sp : Space) (hint : Alloc) (row : Nat × Nat) (len : Nat) :
    Act (List Byte × List (Nat × Nat × Nat)) := do
  let parts ← (pagesOf row.2 len).mapM fun (a, k) => do
    let (pa, coh) ← translate sp a false
    let bs ← atVirtual a (readPhys pa k coh hint)
    let run := match regionOf pa with
      | .dram _ => [(pa, row.1 + (a - row.2), k / 64)]
      | _ => []
    pure (bs, run)
  pure ((parts.map (·.1)).flatten, (parts.map (·.2)).flatten)

/-- Reads the rows of an element; rows at VROWS and above are zero (R138, R144). -/
def readElem (sp : Space) (hint : Alloc) (x : Shape) (addr : Nat) : Act (List Byte × List (Nat × Nat × Nat)) := do
  let rows ← (elemRows x addr).mapM fun r => readRow sp hint r (x.units * 64)
  let pad := List.replicate ((x.rows - x.vrows) * x.units * 64) 0
  pure ((rows.map (·.1)).flatten ++ pad, (rows.map (·.2)).flatten)

/-- The address may be used: one that depends on a gathered value must be aligned and inside one
window (R138, R143). -/
def elemAllowed (s : Slot) (a : Nat) (x : Shape) (addr : Nat) : Bool :=
  !bit s.gathered a ||
    (addr % 64 == 0 &&
      match x.extent with
      | none => true
      | some (lo, hi) =>
        s.windows.any fun w => w.grants ((addr : Int) + lo) ((addr : Int) + hi) s.store)

/-- The receiving rings that a multicast mask names, tile and ring, none where no ring is bound (R150). -/
def receivers (d : Dev) (t ring mask : Nat) : List (Option (Nat × Nat)) :=
  let tiles := (List.range 16).filter fun i => bit mask i && i != t % 16
  let find (i : Nat) : Option (Nat × Nat) :=
    let u := t / 16 * 16 + i
    (d.tiles.rings.find? fun e =>
      e.1 / 32 == u && e.2.kind == .mcastRecv && e.2.bound && e.2.leaderCtx / 8 == t &&
        ((ctxAt d e.2.leaderCtx).ringNum e.2.leaderRing) == some ring).map fun e => (u, e.1 % 32)
  tiles.map find

/-- Elements of a slot on their way to tile `u`. -/
def flyingTo (s : Slot) (u : Nat) : Nat := (s.flight.filter fun e => bit e.mcast (u % 16)).length

/-- A named receiver is bound and has room for one more element. -/
def receiverOpen (d : Dev) (s : Slot) : Option (Nat × Nat) → Bool
  | some (u, rn) =>
    match ringAt d u rn with
    | some r => decide (r.pub + flyingTo s u + 1 ≤ r.rel + r.depth)
    | none => false
  | none => false

/-- A running LOAD slot may issue its next element to its ring and the receivers of `mask` (R141, R150). -/
def canIssueElem (d : Dev) (t : Nat) (s : Slot) (mask : Nat) : Bool :=
  decide (s.issued < s.elements) &&
    (match ringAt d t s.ring with
    | some r => decide (s.base + s.issued < r.rel + r.depth)
    | none => false) &&
    (receivers d t s.ring mask).all (receiverOpen d s)

/-- The FETCH that a slot comes to next, over at most that many instructions. -/
def Slot.nextFetch : Nat → Slot → Option Nat
  | 0, _ => none
  | fuel + 1, s =>
    match itOp s.word with
    | 0 => none
    | 1 =>
      let l : ItLoop := ⟨s.pc + 1, s.pc + 1 + loopBody s.word, loopCount s.word, 0, 0, 0, false⟩
      Slot.nextFetch fuel { s with pc := s.pc + 1, loops := l :: s.loops }
    | 4 => some s.word
    | _ => Slot.nextFetch fuel s.advance

/-- Lines tracked for watching in a quarter (R149). -/
def watchFull (d : Dev) (q : Nat) : Bool :=
  decide (16384 ≤ ((d.tiles.watch.filter fun w => w.1 / quarterBytes == q).map (·.1 / 128)).dedup.length)

/-- Watches the granules of an element from its read on; a line that finds the table full counts once in
LOST (R149). -/
def watchElem (d : Dev) (t n : Nat) (s : Slot) (e : Elem) : Dev :=
  if s.watch = 0 then d
  else
    let granules := (e.phys.map fun r => (List.range r.2.2).map fun i => r.1 + 64 * i).flatten
    (granules.map (· / 128)).dedup.foldl (fun d line =>
      if watchFull d (128 * line / quarterBytes) ∧ d.tiles.watch.all (fun w => w.1 / 128 ≠ line) then
        rcount d .tileStrOvw t 0 47 32 1
      else
        { d with tiles.watch := d.tiles.watch ++
            (granules.filter fun a => a / 128 == line).map fun a => (a, t, n, e.ringElem) }) d

/-- The element a slot issues next. -/
def nextElem (s : Slot) (x : Shape) (w addr : Nat) : Elem where
  num := s.issued
  ringElem := s.base + s.issued
  addr := addr
  shape := x
  hint := fetchHint w
  bytes := []
  phys := []
  status := stOk
  faultAddr := 0
  xacts := []
  done := false
  mcast := fetchMcast w

/-- Adds an element to those in flight. -/
def Slot.launch (s : Slot) (e : Elem) : Slot :=
  { s.advance with issued := s.issued + 1, flight := s.flight ++ [e] }

/-- A LOAD slot issues an element held with a status and issues no later one (R145). -/
def holdElem (d : Dev) (t n : Nat) (s : Slot) (e : Elem) (st addr : Nat) : Dev :=
  setSlot d t n { s.launch { e with status := st, faultAddr := addr } with
    state := .held
    heldStatus := st
    heldElem := e.num }

/-- Chip and local address of a fabric global address (R38). -/
def globalChip (a : Nat) : Nat := bits a 63 44
def globalLocal (a : Nat) : Nat := bits a 43 0

/-- The row's address names the sender's own chip (R39). -/
def ownChip (d : Dev) (p a : Nat) : Bool := chipIdValid d p && globalChip a == chipId d p

/-- A range of the partition's own DRAM that a fabric access may reach (R39). -/
def localOk (d : Dev) (p a len : Nat) : Bool := inPartDram d p a len

/-- Reads a row of an element at a fabric global address of this chip. -/
def ownRead (d : Dev) (p a len : Nat) : Act (List Byte) :=
  if localOk d p (globalLocal a) len then readPhys (globalLocal a) len
  else Act.fail stTargetRefused a

/-- Starts the transactions of a remote element, one for each row that lies on another chip (R140);
`none` when too few are free. The element is already in flight; that of a STORE slot lies at `sa`. -/
def startRows (d : Dev) (t n p : Nat) (e : Elem) (store : Bool) (sa : Nat) : List (Nat × Nat) → Option Dev
  | [] => some d
  | (off, a) :: rest =>
    let len := e.shape.units * 64
    let note (d : Dev) (tid : Nat) : Dev :=
      setSlot d t n ((slotAt d t n).updElem e.num fun y => { y with xacts := y.xacts ++ [tid] })
    let mk (tid : Nat) : List Frame :=
      if store then writeFrames 0 0 (globalLocal a) ((e.bytes.drop off).take len) tid
      else readFrames (globalLocal a) len tid
    match startXact d p (globalChip a) (.elem t n e.num) a off
        (if store then 0 else (len + 4095) / 4096) note mk
        (if store then (PktSrc.sram t (sa + off)).each else fun _ => .fixed) with
    | .wait => none
    | .ok d _ => startRows d t n p e store sa rest

/-- A LOAD slot issues an element (R141, R144, R145, R148 to R150). -/
def fetchLoad (d : Dev) (t n : Nat) (s : Slot) (w : Nat) (x : Shape) : Dev :=
  let addr := s.addrOf t (fetchReg w)
  let e := nextElem s x w addr
  let sp := ctxSpace d s.owner
  let p := partOfTile d t
  if canIssueElem d t s e.mcast = false then d
  else
    if elemAllowed s (fetchReg w) x addr = false then holdElem d t n s e stWindowFault addr
    else if s.remote then
      let rows := elemRows x addr
      let away := rows.filter fun q => !ownChip d p q.2
      let zeros := List.replicate (x.rows * x.units * 64) 0
      let near := rows.filter fun q => ownChip d p q.2
      let act : Act (List Byte) := near.foldlM (fun bs q => do
        let b ← ownRead d p q.2 (x.units * 64)
        pure (bs.take q.1 ++ b ++ bs.drop (q.1 + x.units * 64))) zeros
      match act.go d with
      | (.error (.wait k), d') => waitDev d d' k
      | (.error (.err st a), d') => holdElem d' t n s e st a
      | (.ok bs, d') =>
        let e := { e with bytes := bs }
        match startRows (setSlot d' t n (s.launch e)) t n p e false 0 away with
        | some d => d
        | none => d
    else
      match (readElem sp (allocOf e.hint) x addr).go d with
      | (.error (.wait k), d') => waitDev d d' k
      | (.error (.err st a), d') => holdElem d' t n s e st a
      | (.ok (bs, runs), d') =>
        let e := { e with bytes := bs, phys := runs }
        watchElem (setSlot d' t n (s.launch e)) t n s e

/-- Writes the rows of an element to local memory. -/
def writeElem (sp : Space) (hint : Alloc) (x : Shape) (addr : Nat) (bs : List Byte) : Act Unit :=
  (elemRows x addr).forM fun r => vwrite sp r.2 ((bs.drop r.1).take (x.units * 64)) hint

/-- Writes the rows of a remote element that lie on this chip. -/
def ownWrite (d : Dev) (p : Nat) (x : Shape) (bs : List Byte) (rows : List (Nat × Nat)) : Act Unit :=
  rows.forM fun r =>
    if localOk d p (globalLocal r.2) (x.units * 64) then
      writePhys .software (globalLocal r.2) ((bs.drop r.1).take (x.units * 64))
    else Act.fail stTargetRefused r.2

/-- A STORE slot writes the next published element (R131, R138, R140, R145). -/
def fetchStore (d : Dev) (t n : Nat) (s : Slot) (w : Nat) (r : Ring) (x : Shape) : Dev :=
  let addr := s.addrOf t (fetchReg w)
  let e := nextElem s x w addr
  let sp := ctxSpace d s.owner
  let p := partOfTile d t
  let sa := r.elemAddr e.ringElem
  let len := x.vrows * x.units * 64
  if r.pub ≤ e.ringElem ∨ s.elements ≤ s.issued then d
  else if elemAllowed s (fetchReg w) x addr = false then storeFails d t n e.num stWindowFault addr
  else
    match sramBadIn d t sa len with
    | some b => storeFails (noteParity d t b true) t n e.num stSramParity b
    | none =>
      let e := { e with bytes := sramGet d t sa len }
      if s.remote then
        let rows := elemRows x addr
        match (ownWrite d p x e.bytes (rows.filter fun q => ownChip d p q.2)).go d with
        | (.error (.wait k), d') => waitDev d d' k
        | (.error (.err st a), d') => storeFails d' t n e.num st a
        | (.ok _, d') =>
          match startRows (setSlot d' t n (s.launch e)) t n p e true sa
              (rows.filter fun q => !ownChip d p q.2) with
          | some d => d
          | none => d
      else
        match (writeElem sp (allocOf e.hint) x addr e.bytes).go { d with rnl.fresh := [] } with
        | (.error (.wait k), d') => waitDev d d' k
        | (.error (.err st a), d') => storeFails { d' with rnl.fresh := [] } t n e.num st a
        | (.ok _, d') =>
          let tags := d'.rnl.fresh.map (· + 2 ^ 20)
          setSlot { d' with rnl.fresh := [] } t n (s.launch { e with xacts := tags })

/-- ITINERARY_FETCH: a LOAD slot issues an element, or a STORE slot writes a published one, when R141
allows. -/
def execItineraryFetch (tile n : Nat) (s : State) : Host.Outcome State Fault Refusal :=
  onDev s fun d => itStep d tile n 4 fun sl w =>
    match ringAt d tile sl.ring, sl.shapes[fetchShape w]? with
    | some r, some x => if sl.store then fetchStore d tile n sl w r x else fetchLoad d tile n sl w x
    | _, _ => d

/-- GATHER: reads an index and forms an address (R136, R142). On a remote itinerary the index lies at
a fabric global address; one on another chip is read in a transaction before the step is tried
again. -/
def execGather (tile n : Nat) (s : State) : Host.Outcome State Fault Refusal :=
  onDev s fun d => itStep d tile n 5 fun sl w =>
    let a := sl.addrOf tile (gatherB w)
    let size := gatherSize w
    let sp := ctxSpace d sl.owner
    let p := partOfTile d tile
    let mask := fetchMcast ((sl.nextFetch 1024).getD 0)
    let e := { nextElem sl ⟨1, 1, 1, 0⟩ 0 a with mcast := mask }
    let failed (d : Dev) (st addr : Nat) : Dev :=
      if sl.store then storeFails d tile n e.num st addr
      else
        setSlot d tile n { slotAt d tile n with
          state := .held
          heldStatus := st
          heldElem := e.num
          flight := (slotAt d tile n).flight ++ [{ e with status := st, faultAddr := addr }] }
    let allowed : Bool := !bit sl.gathered (gatherB w) ||
      sl.windows.any fun x => x.grants (a : Int) ((a + size : Nat) : Int) false
    let put (d : Dev) (bs : List Byte) : Dev :=
      let v := (sl.addrs.getD (gatherC w) 0 + leNat bs * 2 ^ gatherShift w) % 2 ^ 64
      setSlot d tile n { (slotAt d tile n).advance with
        addrs := setAt sl.addrs (gatherD w) v
        gathered := setBits sl.gathered (gatherD w) (gatherD w) 1 }
    let local_ (act : Act (List Byte)) : Dev :=
      match act.go d with
      | (.error (.wait k), d') => waitDev d d' k
      | (.error (.err st x), d') => failed d' st x
      | (.ok bs, d') => put d' bs
    if sl.store = false ∧ canIssueElem d tile sl mask = false then d
    else if allowed = false then failed d stWindowFault a
    else if sl.remote then
      if ownChip d p a then local_ (ownRead d p a size)
      else gatherAway d tile n p a size e failed put
    else local_ (vread sp a size)
where
  /-- The index on another chip: a READ of its granule, numbered past every element. -/
  gatherAway (d : Dev) (t n p a size : Nat) (e : Elem) (failed : Dev → Nat → Nat → Dev)
      (put : Dev → List Byte → Dev) : Dev :=
    let s := slotAt d t n
    match s.side.find? fun y => y.num == gatherNum with
    | some y =>
      if y.xacts.isEmpty then
        let d := setSlot d t n { s with side := s.side.filter fun z => z.num ≠ gatherNum }
        if y.status = stOk then put d ((y.bytes.drop (a % 64)).take size)
        else failed d y.status a
      else d
    | none =>
      let y := { e with num := gatherNum, addr := alignDown 64 a, bytes := List.replicate 64 0 }
      match startRows (setSlot d t n { s with side := s.side ++ [y] }) t n p y false 0
          [(0, alignDown 64 a)] with
      | some d => d
      | none => d

/-! ### Delivery and writing (R130, R131, R145, R150, R151) -/

/-- Publishes an element in one ring: its bytes in SRAM, PUB, its held status, its source. -/
def publishIn (d : Dev) (t rn : Nat) (e : Elem) : Dev :=
  match ringAt d t rn with
  | none => d
  | some r =>
    let d := if e.status = stOk then sramWrite d r.owner .stream (r.elemAddr r.pub) e.bytes else d
    let r' : Ring :=
      { r with
        pub := r.pub + 1
        held := if e.status = stOk then r.held else r.held ++ [(r.pub, e.status, e.faultAddr)]
        src := r.src ++ [{ e with ringElem := r.pub, bytes := [], phys := [] }] }
    clearRetry (setRing d t rn r') t

/-- Publishes an element of a LOAD slot in every ring that receives it and is still bound (R151). -/
def publishElem (d : Dev) (t n : Nat) (e : Elem) : Dev :=
  let s := slotAt d t n
  let d := setSlot d t n { s with delivered := s.delivered + 1 }
  let rs := (receivers d t s.ring e.mcast).filterMap id
  rs.foldl (fun d x => publishIn d x.1 x.2 e) (publishIn d t s.ring e)

/-- Publishes or retires the elements at the head of a slot's flight that are done, in order; a STORE slot
releases none from a failed one on (R131, R145). -/
def inOrder (t n : Nat) : Nat → Dev → Dev
  | 0, d => d
  | k + 1, d =>
    let s := slotAt d t n
    match s.flight with
    | [] => d
    | e :: rest =>
      if e.done then
        let d := setSlot d t n { s with flight := rest }
        let d := if s.store then
            if e.status = stOk then clearRetry (ringRelease d t s.ring 1) t
            else
              let later := rest.map fun y => { y with status := max y.status e.status }
              storeFails (setSlot d t n { s with flight := later }) t n e.num e.status e.faultAddr
          else publishElem d t n e
        inOrder t n k (fireSignals d t n)
      else d

/-- Element `e` of a slot has arrived, or its writes are done: it counts in element order. -/
def elemDone (d : Dev) (t n e : Nat) (store : Bool) : Dev :=
  let s := slotAt d t n
  if s.store = store ∧ tilesRun d ∧ s.flight.any (fun y => y.num == e && y.xacts.isEmpty && !y.done) then
    let d := setSlot d t n { s with flight := s.flight.map fun y =>
      if y.num = e then { y with done := true } else y }
    settleSlot (inOrder t n (s.flight.length) d) t n
  else d

def execElementDelivery (tile n e : Nat) (s : State) : Host.Outcome State Fault Refusal :=
  onDev s fun d => elemDone d tile n e false

def execElementWritten (tile n e : Nat) (s : State) : Host.Outcome State Fault Refusal :=
  onDev s fun d => elemDone d tile n e true

/-! ### Multicast binding (R150) -/

/-- A context that has been launched: its manifest is bound. -/
def CtxState.launched : CtxState → Bool
  | .idle | .checking => false
  | _ => true

/-- MCAST_BIND: a receiving ring binds to its leader once both contexts are launched. -/
def execMcastBind (tile ring : Nat) (s : State) : Host.Outcome State Fault Refusal :=
  onDev s fun d =>
    match ringAt d tile ring with
    | none => d
    | some r =>
      let x := ctxAt d r.leaderCtx
      if r.kind = .mcastRecv ∧ r.bound = false ∧ x.state.launched ∧ (ctxAt d r.owner).state.launched then
        match x.ringNum r.leaderRing with
        | none => d
        | some ln =>
          match ringAt d (tileOf r.leaderCtx) ln with
          | none => d
          | some l =>
            if l.elem = r.elem then setRing d tile ring { r with bound := true }
            else if (ctxAt d r.owner).state = .faulted then d
            else faultCtx d r.owner stMcastMismatch .stream 0
      else d

/-! ### Overwrites (R149) -/

/-- OVERWRITE_EVENT: a write to a watched granule counts, and with WATCH = 2 raises an event. -/
def execOverwriteEvent (pa : Nat) (s : State) : Host.Outcome State Fault Refusal :=
  onDev s fun d =>
    match d.mem.overwritten.find? fun w => w.1 == alignDown 64 pa with
    | none => d
    | some w =>
      let (line, t, n, e) := w
      let d := { d with mem.overwritten := d.mem.overwritten.erase w }
      let d := rsetf (rcount d .tileStrOvw t 0 31 0 1) .tileStrOvw t 0 51 48 n
      if (slotAt d t n).watch = 2 then
        postEvent d (partOfTile d t) 0x0001 [toW (t + n * 64), toW (e % 2 ^ 32), toW line]
      else d

/-! ### Parity refetch (R73) -/

/-- The contexts of a tile that wait for a refetch of an element go on: they read again, or fault on
its held status. -/
def refetchDone (d : Dev) (t ring elem : Nat) (held : Option (Nat × Nat)) : Dev :=
  (tileCtxs t).foldl (fun d c =>
    if (ctxAt d c).wait.onElem ring elem then
      match held with
      | some (st, a) => faultCtx d c st .stream a
      | none => updCtx d c fun x => { x with wait := .none }
    else d) d

/-- Counts a refetch in the slot that feeds the ring (TILE_STR_DISC.REFETCH). -/
def countRefetch (d : Dev) (t : Nat) (r : Ring) : Dev :=
  match r.slot with
  | none => d
  | some n => setSlot d t n { slotAt d t n with refetched := min 65535 ((slotAt d t n).refetched + 1) }

/-- The refetched bytes go into SRAM, or the element becomes held. -/
def refetchInto (d : Dev) (t ring elem : Nat) (r : Ring) (res : Except (Nat × Nat) (List Byte)) : Dev :=
  let d := countRefetch d t r
  match res with
  | .ok bs => refetchDone (sramPut d t (r.elemAddr elem) bs) t ring elem none
  | .error (st, a) =>
    refetchDone (setRing d t ring { r with held := r.held ++ [(elem, st, a)] }) t ring elem (some (st, a))

/-- PARITY_REFETCH: a published, unreleased element that a context waits for is read again from its
source; a remote one is read in transactions, which a second command finishes. -/
def execParityRefetch (tile ring elem : Nat) (s : State) : Host.Outcome State Fault Refusal :=
  onDev s fun d =>
    match ringAt d tile ring with
    | none => d
    | some r =>
      let from_ := if r.kind = .mcastRecv then r.leaderCtx else r.owner
      match r.src.find? fun e => e.ringElem == elem with
      | none => d
      | some e =>
        if (tileCtxs tile).all fun c => !(ctxAt d c).wait.onElem ring elem then d
        else
          let remoteSlot := (r.slot.map fun n => (slotAt d tile n).remote).getD false
          if remoteSlot then refetchAway d tile ring elem r e
          else
            match (readElem (ctxSpace d from_) (allocOf e.hint) e.shape e.addr).go d with
            | (.error (.wait k), d') => waitDev d d' k
            | (.error (.err st a), d') => refetchInto d' tile ring elem r (.error (st, a))
            | (.ok (bs, _), d') => refetchInto d' tile ring elem r (.ok bs)
where
  /-- A remote source. -/
  refetchAway (d : Dev) (t ring elem : Nat) (r : Ring) (e : Elem) : Dev :=
    match r.slot with
    | none => d
    | some n =>
      let sl := slotAt d t n
      let num := refetchNum ring elem
      match sl.side.find? fun y => y.num == num with
      | some y =>
        if y.xacts.isEmpty then
          let d := setSlot d t n { sl with side := sl.side.filter fun z => z.num ≠ num }
          refetchInto d t ring elem r
            (if y.status = stOk then .ok y.bytes else .error (y.status, y.faultAddr))
        else d
      | none =>
        let y := { e with
          num := num
          bytes := List.replicate (e.shape.rows * e.shape.units * 64) 0
          xacts := []
          done := false }
        match startRows (setSlot d t n { sl with side := sl.side ++ [y] }) t n (partOfTile d t) y false 0
            (elemRows e.shape e.addr) with
        | some d => d
        | none => d

end Sys2Proof.Machine
end

