-- ==== Sys2Proof/Machine/Launch.lean ====
section
/-!
DEFINITION. LAUNCH and the launch checker (R45, R49, R52, R91, R160 to R163, R352, Tables ITN-7 to
ITN-9).
-/

namespace Sys2Proof.Machine

/-! ### The manifest as data (Tables ITN-7 and ITN-8) -/

/-- An entry of an array of the manifest: its offset and its bytes as a number. -/
abbrev Entry := Nat × Nat

/-- An itinerary of the manifest: its offset, its header as a number, its words. -/
structure ItEntry where
  off : Nat
  head : Nat
  words : List Nat
deriving DecidableEq, Repr

def ItEntry.ring (x : ItEntry) : Nat := bits x.head 12 8
def ItEntry.store (x : ItEntry) : Bool := bit x.head 16
def ItEntry.remote (x : ItEntry) : Bool := bit x.head 17
def ItEntry.watch (x : ItEntry) : Nat := bits x.head 19 18
def ItEntry.elements (x : ItEntry) : Nat := bits x.head 63 32
def ItEntry.winMask (x : ItEntry) : Nat := bits x.head 79 64
/-- Offset of word `i`. -/
def ItEntry.wordOff (x : ItEntry) (i : Nat) : Nat := x.off + 16 + 8 * i

/-- A manifest taken apart: header fields, arrays, and the offset after the last entry. -/
structure Manifest where
  entry : Nat
  base : Nat
  size : Nat
  acc : Nat
  numctl : Nat
  rings : List Entry
  shapes : List Entry
  wins : List Entry
  sems : List Entry
  itins : List ItEntry
  stop : Nat
deriving DecidableEq, Repr

/-- `n` entries of `size` bytes from offset `off`. -/
def entriesAt (bs : List Byte) (size off n : Nat) : List Entry :=
  (List.range n).map fun i => (off + size * i, leAt bs (off + size * i) size)

/-- `n` itineraries from offset `off`, and the offset after them. -/
def itinsAt (bs : List Byte) : Nat → Nat → List ItEntry × Nat
  | 0, off => ([], off)
  | n + 1, off =>
    let h := leAt bs off 16
    let k := bits h 6 0
    let x : ItEntry := ⟨off, h, (List.range k).map fun i => leAt bs (off + 16 + 8 * i) 8⟩
    let (xs, stop) := itinsAt bs n (off + 16 + 8 * k)
    (x :: xs, stop)

def manifestOf (bs : List Byte) : Manifest :=
  let nr := leAt bs 0x1B 1
  let ns := leAt bs 0x1C 1
  let nw := leAt bs 0x1D 1
  let nm := leAt bs 0x1E 1
  let shapeOff := 0x40 + 16 * nr
  let winOff := shapeOff + 16 * ns
  let semOff := winOff + 16 * nw
  let (its, stop) := itinsAt bs (leAt bs 0x1A 1) (semOff + 8 * nm)
  { entry := leAt bs 8 8
    base := leAt bs 0x10 4
    size := leAt bs 0x14 4
    acc := leAt bs 0x18 1
    numctl := leAt bs 0x19 1
    rings := entriesAt bs 16 0x40 nr
    shapes := entriesAt bs 16 shapeOff ns
    wins := entriesAt bs 16 winOff nw
    sems := entriesAt bs 8 semOff nm
    itins := its
    stop := stop }

def ringBase (x : Nat) : Nat := bits x 23 0
def ringUnits (x : Nat) : Nat := bits x 45 32
def ringDepth (x : Nat) : Nat := bits x 56 48
def ringKind (x : Nat) : Nat := bits x 59 57
def ringLeaderCtx (x : Nat) : Nat := bits x 72 64
def ringLeaderRing (x : Nat) : Nat := bits x 84 80

def shapeOf (x : Nat) : Shape :=
  ⟨bits x 11 0 + 1, bits x 28 16, bits x 45 32, sext 40 (bits x 103 64)⟩

def windowOf (x : Nat) : Window := ⟨bits x 63 0, bits x 103 64, bit x 104, bit x 105⟩

def semFirst (x : Nat) : Nat := bits x 16 0
def semCount (x : Nat) : Nat := bits x 40 32

/-! ### The checks (Table ITN-9) -/

/-- The first failure among checks: status and offset. -/
abbrev Verdict := Option (Nat × Nat)

def firstOf (xs : List Verdict) : Verdict := xs.findSome? id

def failIf (b : Bool) (status off : Nat) : Verdict := if b then some (status, off) else none

/-- MANIFEST_FORMAT on the header alone. -/
def checkHeader (h : List Byte) : Verdict :=
  let len := leAt h 4 4
  firstOf [
    failIf (leAt h 0 4 != 1) stManifestFormat 0,
    failIf (len % 64 != 0 || decide (len < 64) || decide (16384 < len)) stManifestFormat 4]

/-- The offset in an entry of its first reserved field that is not zero: fields by high and low bit, the offset
that of the byte in which the field begins. -/
def firstReserved (fields : List (Nat × Nat)) (x : Nat) : Option Nat :=
  (fields.find? fun f => bits x f.1 f.2 != 0).map (·.2 / 8)

/-- Reserved fields of the entries (Table ITN-8). -/
def ringReserved (x : Nat) : Option Nat :=
  firstReserved ([(31, 24), (47, 46), (63, 60)] ++
    if ringKind x = 3 then [(79, 73), (127, 85)] else [(72, 64), (79, 73), (84, 80), (127, 85)]) x
def shapeReserved : Nat → Option Nat := firstReserved [(15, 12), (31, 29), (63, 46), (127, 104)]
def winReserved : Nat → Option Nat := firstReserved [(127, 106)]
def semReserved : Nat → Option Nat := firstReserved [(31, 17), (63, 41)]
def itinReserved : Nat → Option Nat := firstReserved [(7, 7), (15, 13), (31, 20), (127, 80)]

/-- MANIFEST_FORMAT on the whole manifest: ENTRY, counts, length, reserved bits, padding. -/
def checkFormat (bs : List Byte) (m : Manifest) : Verdict :=
  let res (bad : Nat → Option Nat) (x : Entry) : Verdict := (bad x.2).map fun o => (stManifestFormat, x.1 + o)
  let zeros (off n : Nat) : Verdict := failIf (leAt bs off n != 0) stManifestFormat off
  firstOf (
    [failIf (m.entry % 8 != 0 || decide (2 ^ 48 ≤ m.entry)) stManifestFormat 0x08,
     failIf (2 ≤ m.numctl) stManifestFormat 0x19,
     failIf (16 < leAt bs 0x1A 1) stManifestFormat 0x1A,
     failIf (32 < leAt bs 0x1B 1) stManifestFormat 0x1B,
     failIf (32 < leAt bs 0x1C 1) stManifestFormat 0x1C,
     failIf (16 < leAt bs 0x1D 1) stManifestFormat 0x1D,
     failIf (8 < leAt bs 0x1E 1) stManifestFormat 0x1E,
     zeros 0x1F 33] ++
    m.rings.map (res ringReserved) ++ m.shapes.map (res shapeReserved) ++
    m.wins.map (res winReserved) ++ m.sems.map (res semReserved) ++
    (m.itins.map fun x => firstOf [
      failIf (x.words.isEmpty || decide (64 < x.words.length)) stManifestFormat x.off,
      res itinReserved (x.off, x.head)]) ++
    [failIf (leAt bs 4 4 != alignUp 64 m.stop) stManifestFormat 4, zeros m.stop (leAt bs 4 4 - m.stop)])

/-- Two ranges overlap. -/
def overlaps (a n b k : Nat) : Bool := decide (a < b + k) && decide (b < a + n)

def ringBytes (x : Nat) : Nat := ringDepth x * (ringUnits x * 64)

/-- Contexts other than `c` of its tile that are launched. -/
def launchedOthers (d : Dev) (c : Nat) : List Ctx :=
  ((tileCtxs (tileOf c)).filter fun o => o != c && (ctxAt d o).state.launched).map (ctxAt d)

/-- SRAM_RANGE (R40, R72). -/
def checkSram (d : Dev) (c : Nat) (m : Manifest) : Verdict :=
  let bad : Bool := decide (sramOwned < m.base + m.size) ||
    (threaded d (partOfCtx d c) && (launchedOthers d c).any fun o =>
      overlaps m.base m.size o.sramBase o.sramSize)
  let out (x : Entry) : Bool :=
    decide (ringBase x.2 < m.base) || decide (m.base + m.size < ringBase x.2 + ringBytes x.2)
  let earlier (i : Nat) (x : Entry) : Bool := (m.rings.take i).any fun y =>
    overlaps (ringBase x.2) (ringBytes x.2) (ringBase y.2) (ringBytes y.2)
  firstOf (failIf bad stSramRange 0x10 ::
    ((List.range m.rings.length).zip m.rings).map fun (i, x) =>
      failIf (out x || earlier i x) stSramRange x.1)

/-- ALIGNMENT (R138, R161); `mva` is the manifest's own address (R160). -/
def checkAlign (t mva : Nat) (m : Manifest) : Verdict :=
  firstOf (
    [failIf (mva % 64 != 0) stAlignment 0,
     failIf (m.base % 64 != 0) stAlignment 0x10,
     failIf (m.size % 64 != 0) stAlignment 0x14] ++
    (m.rings.map fun x => failIf (ringBase x.2 % 64 != 0) stAlignment x.1) ++
    (m.shapes.map fun x => failIf (bits x.2 103 64 % 64 != 0) stAlignment (x.1 + 8)) ++
    (m.wins.map fun x => firstOf [
      failIf (bits x.2 63 0 % 64 != 0) stAlignment x.1,
      failIf (bits x.2 103 64 % 64 != 0 || bits x.2 103 64 == 0) stAlignment (x.1 + 8)]) ++
    (m.itins.map fun x =>
      ((spansOf x.words t).bads.head?).map fun i => (stAlignment, x.wordOff i)))

/-- RING_INVALID (R150). -/
def checkRings (t : Nat) (m : Manifest) : Verdict :=
  firstOf (((List.range m.rings.length).zip m.rings).map fun (i, x) =>
    let used := (m.itins.filter fun y => y.ring == i).length
    firstOf [
      failIf (decide (ringDepth x.2 < 2) || decide (256 < ringDepth x.2)) stRingInvalid (x.1 + 6),
      failIf (decide (ringUnits x.2 < 1) || decide (8192 < ringUnits x.2)) stRingInvalid (x.1 + 4),
      failIf (4 ≤ ringKind x.2) stRingInvalid (x.1 + 7),
      failIf (ringKind x.2 == 3 && ringLeaderCtx x.2 / 128 != t / 16) stRingInvalid (x.1 + 8),
      failIf (decide (ringKind x.2 ≤ 1) && used != 1) stRingInvalid x.1])

/-- Bounds of a shape (R138): the offset in its entry of a field out of range, for a product of ROWS and
ROW_UNITS that is too large that of ROW_UNITS (log 158). -/
def shapeBad (x : Shape) : Option Nat :=
  if x.rows < x.vrows then some 2
  else if x.units < 1 ∨ 8192 < x.units ∨ 8192 < x.rows * x.units then some 4
  else none

/-- The checks on a program's words from word `i` on: `open_` holds the ends of the open loops,
innermost first (R135 to R138, R149). The word that fails; past the program, its number of words. Words after
an END are checked for what is reserved or out of range. -/
def checkWords (wordBad : Nat → Bool) : List Nat → Nat → List Nat → Option Nat
  | [], i, _ => some i
  | w :: ws, i, open_ =>
    let open_ := open_.dropWhile fun e => e ≤ i
    let bad (w : Nat) : Bool := wordBad w || !itWordOk w
    if bad w then some i
    else
      match itOp w with
      | 0 =>
        if open_.isEmpty then (ws.findIdx? bad).map (i + 1 + ·) else some i
      | 1 =>
        let e := i + 1 + loopBody w
        if loopLevel w ≠ open_.length ∨ 6 ≤ open_.length ∨ (open_.headD e) < e then some i
        else checkWords wordBad ws (i + 1) (e :: open_)
      | _ => checkWords wordBad ws (i + 1) open_

/-- ITINERARY_INVALID on one itinerary. -/
def checkItin (m : Manifest) (x : ItEntry) : Verdict :=
  match m.rings[x.ring]? with
  | none => some (stItineraryInvalid, x.off + 1)
  | some r =>
    let wordBad (w : Nat) : Bool :=
      itOp w == 4 &&
        match m.shapes[fetchShape w]? with
        | none => true
        | some s =>
          let s := shapeOf s.2
          decide (ringUnits r.2 < s.rows * s.units) || (x.store && fetchMcast w != 0)
    firstOf [
      failIf (ringKind r.2 != x.store.toNat) stItineraryInvalid (x.off + 2),
      failIf (x.watch == 3 || (x.watch != 0 && (x.store || x.remote))) stItineraryInvalid (x.off + 2),
      failIf (x.winMask / 2 ^ m.wins.length != 0) stItineraryInvalid (x.off + 8),
      (checkWords wordBad x.words 0 []).map fun i =>
        (stItineraryInvalid, if i < x.words.length then x.wordOff i else x.off)]

def checkItins (m : Manifest) : Verdict :=
  firstOf ((m.shapes.map fun x => (shapeBad (shapeOf x.2)).map fun o => (stItineraryInvalid, x.1 + o)) ++
    m.itins.map (checkItin m))

/-- Elements the loops of a program produce (R143): `open_` holds end and COUNT of the open loops. -/
def elementsOf : List Nat → Nat → List (Nat × Nat) → Nat
  | [], _, _ => 0
  | w :: ws, i, open_ =>
    let open_ := open_.dropWhile fun e => e.1 ≤ i
    match itOp w with
    | 0 => 0
    | 1 => elementsOf ws (i + 1) ((i + 1 + loopBody w, loopCount w) :: open_)
    | 4 => (open_.map (·.2)).prod + elementsOf ws (i + 1) open_
    | _ => elementsOf ws (i + 1) open_

/-- ITINERARY_COUNT. -/
def checkCount (m : Manifest) : Verdict :=
  firstOf (m.itins.map fun x =>
    failIf (x.elements == 0 || elementsOf x.words 0 [] != x.elements) stItineraryCount (x.off + 4))

/-- The windows of a mask. -/
def windowsIn (m : Manifest) (mask : Nat) : List Window :=
  (((List.range m.wins.length).zip m.wins).filter fun e => bit mask e.1).map fun e => windowOf e.2.2

/-- ITINERARY_SPAN (R143). -/
def checkSpans (t : Nat) (m : Manifest) : Verdict :=
  let shapes := m.shapes.map fun x => shapeOf x.2
  firstOf (m.itins.map fun x =>
    let ws := windowsIn m x.winMask
    firstOf ((spansOf x.words t).spans.map fun sp =>
      match spanRange x.words shapes x.store sp with
      | none => none
      | some (lo, hi, wr) =>
        failIf (!ws.any fun y => decide (hi - lo ≤ (y.len : Int)) && if wr then y.wr else y.rd)
          stItinerarySpan (x.wordOff sp.word)))

/-- SLOT_LIMIT: what the tile has free (Table ITN-1). -/
def checkLimits (d : Dev) (c : Nat) (m : Manifest) : Verdict :=
  let t := tileOf c
  let slots := ((List.range 16).filter fun n => (slotAt d t n).state == .free).length
  let rings := 32 - ((List.range 32).filter fun r => (ringAt d t r).isSome).length
  let os := launchedOthers d c
  firstOf [
    failIf (slots < m.itins.length) stSlotLimit 0x1A,
    failIf (rings < m.rings.length) stSlotLimit 0x1B,
    failIf (64 < (os.map (·.nShapes)).sum + m.shapes.length) stSlotLimit 0x1C,
    failIf (64 < (os.map (·.nWins)).sum + m.wins.length) stSlotLimit 0x1D]

/-- SEMAPHORE_RANGE, with R21 on the ranges (R162). -/
def checkSems (d : Dev) (c : Nat) (m : Manifest) : Verdict :=
  let p := partOfCtx d c
  let lst := (List.range m.sems.length).zip m.sems
  let one (e : Nat × Entry) : Verdict :=
    let (i, o, x) := e
    let before := m.sems.take i
    firstOf [
      failIf (decide (semCount x < 1) || decide (256 < semCount x)) stSemaphoreRange (o + 4),
      failIf (partOfSem d (semFirst x) != p || decide (131072 < semFirst x + semCount x) ||
        partOfSem d (semFirst x + semCount x - 1) != p) stPartitionViolation o,
      failIf (before.any fun y => overlaps (semFirst x) (semCount x) (semFirst y.2) (semCount y.2))
        stSemaphoreRange o,
      failIf (256 < ((m.sems.take (i + 1)).map fun y => semCount y.2).sum) stSemaphoreRange (o + 4)]
  let declared (n : Nat) : Bool :=
    m.sems.any fun y => decide (semFirst y.2 ≤ n) && decide (n < semFirst y.2 + semCount y.2)
  let used (x : ItEntry) : Verdict :=
    firstOf (((List.range x.words.length).zip x.words).map fun (i, w) =>
      failIf ((itOp w == 6 || itOp w == 7) && !declared (waitSem w)) stSemaphoreRange (x.wordOff i))
  firstOf (lst.map one ++ m.itins.map used)

/-- ACC_BUSY (R40). -/
def checkAcc (d : Dev) (c : Nat) (m : Manifest) : Verdict :=
  failIf (threaded d (partOfCtx d c) && (launchedOthers d c).any fun o => o.acc &&& m.acc != 0)
    stAccBusy 0x18

/-- The checks of Table ITN-9 after the header's, in order. -/
def checkManifest (d : Dev) (c mva : Nat) (bs : List Byte) (m : Manifest) : Verdict :=
  let t := tileOf c
  firstOf [checkFormat bs m, checkSram d c m, checkAlign t mva m, checkRings t m, checkItins m,
    checkCount m, checkSpans t m, checkLimits d c m, checkSems d c m, checkAcc d c m]

/-! ### Reading and binding -/

/-- What the checker answers. -/
inductive Checked
  | wait (d : Dev)
  | fail (d : Dev) (status result : Nat)
  | pass (d : Dev) (m : Manifest)

/-- Reads the manifest, its header first, and checks it (R160, R162). -/
def runChecker (d : Dev) (c asid mva : Nat) : Checked :=
  let sp : Space := ⟨asid, tileOf c⟩
  let got (r : Except Stop (List Byte) × Dev) (k : List Byte → Dev → Checked) : Checked :=
    match r with
    | (.error (.wait n), d') => .wait (waitDev d d' n)
    | (.error (.err st _), d') => .fail d' stManifestFetch st
    | (.ok bs, d') => k bs d'
  got ((vread sp mva 64).go d) fun h d1 =>
    match checkHeader h with
    | some (st, off) => .fail d1 st off
    | none =>
      got ((vread sp (mva + 64) (leAt h 4 4 - 64)).go d1) fun rest d2 =>
        let bs := h ++ rest
        let m := manifestOf bs
        match checkManifest d2 c mva bs m with
        | some (st, off) => .fail d2 st off
        | none => .pass d2 m

def kindOf (n : Nat) : RingKind :=
  match n with
  | 0 => .load
  | 1 => .store
  | 2 => .local
  | _ => .mcastRecv

/-- The first free rings and slots of a tile, lowest first. -/
def freeRings (d : Dev) (t n : Nat) : List Nat :=
  ((List.range 32).filter fun r => (ringAt d t r).isNone).take n

def freeSlots (d : Dev) (t n : Nat) : List Nat :=
  ((List.range 16).filter fun k => (slotAt d t k).state == .free).take n

/-- A passed manifest is bound: rings, slots in LOADED with cleared counters, the context READY
(R45, R49, R72, R163, R165). -/
def bindManifest (d : Dev) (c : Nat) (m : Manifest) : Dev :=
  let t := tileOf c
  let rs := freeRings d t m.rings.length
  let ss := freeSlots d t m.itins.length
  let slotFor (i : Nat) : Option Nat :=
    ((ss.zip m.itins).find? fun e => e.2.ring == i).map (·.1)
  let d := ((List.range rs.length).zip (rs.zip m.rings)).foldl (fun d (i, r, x) =>
    let ring : Ring :=
      { owner := c
        kind := kindOf (ringKind x.2)
        base := ringBase x.2
        elem := ringUnits x.2 * 64
        depth := ringDepth x.2
        pub := 0
        rel := 0
        slot := slotFor i
        leaderCtx := ringLeaderCtx x.2
        leaderRing := ringLeaderRing x.2
        bound := false
        held := []
        src := [] }
    setRing d t r ring) d
  let shapes := m.shapes.map fun x => shapeOf x.2
  let d := ((List.range ss.length).zip (ss.zip m.itins)).foldl (fun d (i, n, x) =>
    setSlot d t n { Slot.reset with
      state := .loaded
      owner := c
      itin := i
      ring := rs.getD x.ring 0
      store := x.store
      remote := x.remote
      watch := x.watch
      elements := x.elements
      instrs := x.words.map toW
      shapes := shapes
      windows := windowsIn m x.winMask }) d
  let own := threaded d (partOfCtx d c)
  updCtx d c fun x =>
    let sregs := ((List.range 4).map fun i => (i + 1, x.params.getD (i + 1) 0)).filter fun e =>
      e.2 ≠ 0
    { x with
      state := .ready
      pc := m.entry
      sregs := sregs
      subn := m.numctl == 1
      sramBase := if own then m.base else 0
      sramSize := if own then m.size else 0
      acc := m.acc
      rings := rs
      itins := ss
      semRanges := m.sems.map fun y => (semFirst y.2, semCount y.2)
      nShapes := m.shapes.length
      nWins := m.wins.length }

/-! ### LAUNCH (R160, R352) -/

def launchTile (y : Cmd) : Nat := bits (y.param 5) 5 0
def launchSlot (y : Cmd) : Nat := bits (y.param 5) 8 6
def launchAny (y : Cmd) : Bool := bit (y.param 5) 9

/-- The lowest IDLE slot of a tile. -/
def idleSlot (d : Dev) (t : Nat) : Option Nat :=
  (tileCtxs t).find? fun c => (ctxAt d c).state == .idle

/-- The context a LAUNCH takes. -/
def launchCtx (d : Dev) (y : Cmd) : Option Nat :=
  if launchAny y then idleSlot d (launchTile y) else some (8 * launchTile y + launchSlot y)

/-- Pairs kept flat in a command. -/
def pairsOf : List Nat → List (Nat × Nat)
  | a :: b :: rest => (a, b) :: pairsOf rest
  | _ => []

/-- A context enters CHECKING: L1 lines of the ASID go, the sticky flags clear, and the partition's
ASID table locks (R13, R52, R91). A replay brings its signal ledger with it (R374). -/
def enterChecking (d : Dev) (q : Nat) (y : Cmd) (c : Nat) : Dev :=
  let asid := (queueAt d q).asid
  let p := partOfCtx d c
  let x : Ctx :=
    { Ctx.reset with
      state := .checking
      asid := asid
      queue := q
      seq := y.seq
      order := d.tiles.launches
      ledger := pairsOf y.aux2
      params := (List.range 6).map fun i => toW (y.param i) }
  let d := l1Inval { d with tiles.launches := d.tiles.launches + 1 } (tileOf c) asid
  let d := if d.hub.asidLocked.contains p then d
    else { d with hub.asidLocked := d.hub.asidLocked ++ [p] }
  updCmd (setCtx d c x) q y.seq fun z => { z with aux := [c] }

/-- LAUNCH: the context named enters CHECKING. A slot that is not IDLE fails with SLOT_BUSY, after
every other check (R162, R352). -/
def execLaunch (q k : Nat) (s : State) : Host.Outcome State Fault Refusal :=
  onDev s fun d => onStarted d q k 0x0201 fun y =>
    if !y.aux.isEmpty then d
    else
      match launchCtx d y with
      | none => d
      | some c =>
        if (ctxAt d c).state = .idle then enterChecking d q y c
        else
          match runChecker d c (queueAt d q).asid (y.param 0) with
          | .wait d => d
          | .fail d st r => finishCmd d q k st (toW r)
          | .pass d _ => finishCmd d q k stSlotBusy 0

/-- LAUNCH_CHECK_DONE: the checker's outcome for a context in CHECKING (R162, R163). -/
def execLaunchCheckDone (c : Nat) (s : State) : Host.Outcome State Fault Refusal :=
  onDev s fun d =>
    let x := ctxAt d c
    if c < 512 ∧ x.state = .checking then
      match runChecker d c x.asid (x.params.headD 0).toNat with
      | .wait d => d
      | .fail d st r =>
        let d := updCtx d c fun x => { x with state := .idle }
        let d := updCmd d x.queue x.seq fun z => { z with aux := [] }
        finishCmd d x.queue x.seq st (toW r)
      | .pass d m => bindManifest d c m
    else d

end Sys2Proof.Machine
end

