-- ==== Sys2Proof/Machine/FabricUnit.lean ====
section
/-!
DEFINITION. The tile's fabric unit: RPUT, RACC, RSIG and ENQ (R29, R39, R48, R281 to R286, R333). The
spec gives RPUT, RACC and RSIG no field layout, so these commands carry their operands resolved (log
25).
-/

namespace Sys2Proof.Machine

/-! ### Accumulation (Table FAB-4) -/

/-- Bits of the elements an accumulate adds; none for a reserved OP. -/
def accumBits (op : Nat) : Option Nat :=
  match op with
  | 0 => some 32
  | 1 => some 64
  | 2 => some 32
  | _ => none

/-- One element: integers wrap, FP32 is rounded to nearest even. -/
def accumElem (op w a b : Nat) : Nat :=
  if op = 2 then
    (roundF true fp32 .near 0 (addX .near (decodeF fp32 a) (decodeF fp32 b)).1).1
  else (a + b) % 2 ^ w

/-- Adds two byte strings element by element. -/
def accumBytes (op : Nat) (old new : List Byte) : List Byte :=
  match accumBits op with
  | none => old
  | some w =>
    ((List.range (old.length / (w / 8))).map fun i =>
      leBytes (w / 8) (accumElem op w (leAt old (w / 8 * i) (w / 8)) (leAt new (w / 8 * i) (w / 8)))).flatten

/-- An accumulate into DRAM of this chip. -/
def accumAt (by_ : By) (pa op : Nat) (bs : List Byte) : Act Unit := do
  let old ← readPhys pa bs.length
  writePhys by_ pa (accumBytes op old bs)

/-! ### RPUT and RACC -/

/-- Pieces of 1 MiB with their offsets (R286). -/
def chunks1M : Nat → Nat → List Byte → List (Nat × List Byte)
  | 0, _, _ => []
  | n + 1, off, bs =>
    if bs.isEmpty then [] else (off, bs.take (2 ^ 20)) :: chunks1M n (off + 2 ^ 20) (bs.drop (2 ^ 20))

/-- A transaction of the context's instruction at `pc` is under way; `addr` is the address it reports. -/
def noteRemote (c pc addr : Nat) (d : Dev) (t : Nat) : Dev :=
  updCtx d c fun x =>
    { x with remoteOut := x.remoteOut ++ [t], ops := x.ops ++ [⟨t, pc, addr, Eng.fabric.code⟩] }

/-- Starts the transactions of a context's remote operation, whose data lie at `src`; none when too few are
free. -/
def startPieces (d : Dev) (c pc dst type op addr : Nat) (src : PktSrc) : List (Nat × List Byte) → Option Dev
  | [] => some d
  | (off, bs) :: rest =>
    match startXact d (partOfCtx d c) dst (.ctx c) (addr + off) 0 0 (noteRemote c pc (addr + off))
        (writeFrames type op (addr + off) bs) (src.plus off).each with
    | .wait => none
    | .ok d _ => startPieces d c pc dst type op addr src rest

/-- A remote write (type 0) or accumulate (type 2) from Tile SRAM. Its end reaches the context
through FENCE, BARRIER and EXIT (R48); the instruction itself completes once the transactions are
under way. -/
def remoteMove (d : Dev) (c : Nat) (w : TWord) (sram units : Nat) (target : Word) (type op : Nat) : Dev :=
  issue d c w .fabric fun x =>
    let len := 64 * units
    let p := partOfCtx d c
    let chip := globalChip target.toNat
    let addr := globalLocal target.toNat
    if accumBits op = none then illegal d c .fabric
    else if len = 0 then complete d c id
    else if sram % 64 ≠ 0 ∨ addr % 64 ≠ 0 ∨ x.ownsSram sram len = false then operandFault d c .fabric sram
    else withParity d c .fabric [(sram, len)] fun _ =>
      let (d', bs) := sramRead d c .fabric sram len
      if ownChip d p target.toNat then
        if localOk d p addr len then
          let act := if type = 2 then accumAt .software addr op bs else writePhys .software addr bs
          ended d c .fabric (act.go d') fun _ d => complete d c id
        else faultCtx d c stTargetRefused .fabric target.toNat
      else
        match startPieces (complete d' c id) c x.pc chip type op addr (.sram (tileOf c) sram)
            (chunks1M (units / 16384 + 1) 0 bs) with
        | some d => d
        | none => holdLong d c .fabric

def execRput (c : Nat) (w : TWord) (sram units : Nat) (target : Word) (s : State) :
    Host.Outcome State Fault Refusal :=
  onDev s fun d => remoteMove d c w sram units target 0 0

def execRacc (c : Nat) (w : TWord) (sram units : Nat) (target : Word) (op : Nat) (s : State) :
    Host.Outcome State Fault Refusal :=
  onDev s fun d => remoteMove d c w sram units target 2 op

/-! ### RSIG (R281) -/

/-- A signal to semaphore `sem` of chip `chip`; AMOUNT has 32 bits (Table FAB-4). -/
def execRsig (c : Nat) (w : TWord) (chip sem : Nat) (amount : Word) (s : State) :
    Host.Outcome State Fault Refusal :=
  onDev s fun d => issue d c w .fabric fun x =>
    let p := partOfCtx d c
    if chipIdValid d p ∧ chip = chipId d p then
      if sem < 131072 ∧ partOfSem d sem = p then
        complete (semAdd d sem (toW (wbits amount 31 0))) c id
      else faultCtx d c stTargetRefused .fabric 0
    else
      match startXact (complete d c id) p chip (.ctx c) 0 0 0 (noteRemote c x.pc 0)
          (fun _ => [semFrame sem (wbits amount 31 0)]) with
      | .ok d _ => d
      | .wait => holdLong d c .fabric

/-! ### ENQ (R29, R331, R333) -/

/-- The hub's part of ENQ on queue `q`: the status, the slot's SEQ when one was assigned, and the
device; or a wait. -/
inductive Enqueued
  | wait (d : Dev)
  | done (d : Dev) (status : Nat) (seq : Option Nat)

def enqueue (d : Dev) (q asid : Nat) (pkt : List Byte) : Enqueued :=
  let x := queueAt d q
  let stat (d : Dev) (st : Nat) : Dev := setQueue d q { queueAt d q with dbStatus := st }
  if x.state ≠ .off ∧ x.asid ≠ asid then .done d stQueueAsid none
  else
    match requestTail d q (cnext x.tail) with
    | (d1, st) =>
      if st ≠ stOk then .done d1 st none
      else
        let bs := pkt.take 4 ++ leBytes 4 x.tail ++ pkt.drop 8
        match (writePhys .device (x.ringPa + x.tail % x.size * 64) bs).go d with
        | (.error (.wait n), d') => .wait (waitDev d d' n)
        | (.error (.err st _), d') => .done (stat d' st) st none
        | (.ok _, d') => .done (requestTail d' q (cnext x.tail)).1 stOk (some x.tail)

/-- ENQ: one hub operation, once earlier stores are visible and remote operations acknowledged. No SEQ
is assigned to a rejected packet; that part of the result is then free. -/
def execEnq (c : Nat) (w : TWord) (s : State) : Host.Outcome State Fault Refusal :=
  onDev s fun d => issue d c w .fabric fun x =>
    let va := (x.sreg w.bS1).toNat
    let a := (x.sreg w.bD).toNat
    if w.bMod ≠ 0 ∨ w.bImmRaw ≠ 0 then illegal d c .fabric
    else if a % 64 ≠ 0 ∨ x.ownsSram a 64 = false then operandFault d c .fabric a
    else if !x.writesOut.isEmpty then hold d c .fabric
    else if !x.remoteOut.isEmpty then holdLong d c .fabric
    else withParity d c .fabric [(a, 64)] fun _ =>
      ended d c .fabric ((translate (ctxSpace d c) va true).go d) fun (pa, _) d1 =>
        match regionOf pa with
        | .doorbell q =>
          let (d2, pkt) := sramRead d1 c .fabric a 64
          match enqueue d2 q x.asid pkt with
          | .wait d3 => hold d3 c .fabric
          | .done d3 st seq =>
            let (v, d3) := match seq with
              | some n => (n, d3)
              | none => let r := freeW d3; (wbits r.1 31 0, r.2)
            complete (ownWrites d3 c va) c fun y => y.setSreg w.bD (toW (st + v * 2 ^ 32))
        | .mmio => faultCtx d1 c stTranslationFault .fabric va
        | .unmapped => faultCtx d1 c stAddressUnmapped .fabric va
        | _ => operandFault d1 c .fabric va

end Sys2Proof.Machine
end

