-- ==== Sys2Proof/Machine/Signboard.lean ====
section
/-!
DEFINITION. SIGNBOARD_SCAN (R211, R212, Table ATT-10).
-/

namespace Sys2Proof.Machine

/-- Fields of a scan descriptor (Table ATT-10). -/
structure Scan where
  qaddr : Nat
  rows : Nat
  sbaddr : Nat
  boards : Nat
  k : Nat
  pset : Nat
  out : Nat
  base : Nat
deriving DecidableEq, Repr

def scanOf (bs : List Byte) : Scan :=
  let w0 := leAt bs 0 8
  let w1 := leAt bs 8 8
  ⟨bits w0 23 0, bits w0 30 24 + 1, bits w0 55 32, bits w1 14 0 + 1, bits w1 26 16 + 1, bits w1 37 32,
    leAt bs 16 8 % 2 ^ 24, leAt bs 24 8 % 2 ^ 32⟩

/-- Reserved fields are 0 and the counts are in range. -/
def scanOk (bs : List Byte) : Bool :=
  let w0 := leAt bs 0 8
  let w1 := leAt bs 8 8
  bits w0 31 31 == 0 && bits w0 63 56 == 0 && bits w1 15 15 == 0 && bits w1 31 27 == 0 &&
    bits w1 63 38 == 0 && bits (leAt bs 16 8) 63 24 == 0 && bits (leAt bs 24 8) 63 32 == 0 &&
    leAt bs 32 32 == 0 && decide (bits w1 14 0 < 16384)

/-- Element `c` of a row of BF16. -/
def bf16At (row : List Byte) (c : Nat) : Fx := decodeF bf16 (leAt row (2 * c) 2)

/-- Rounds once to FP32, ties to even. -/
def toFp32 (x : Fx) : Fx := decodeF fp32 (roundF true fp32 .near 0 x).1

/-- The score of one row against one signboard. -/
def rowScore (alpha beta : Fx) (q mu bound : List Byte) : Fx :=
  let pairs (b : List Byte) (f : Fx → Fx) : List (Fx × Fx) :=
    (List.range 128).map fun c => (f (bf16At q c), bf16At b c)
  let s1 := toFp32 (dotX (pairs mu id)).1
  let s2 := toFp32 (dotX (pairs bound Fx.abs)).1
  toFp32 (addX .near (toFp32 (mulX alpha s1).1) (toFp32 (mulX beta s2).1)).1

/-- σ of a signboard of 512 bytes. -/
def boardScore (alpha beta : Fx) (qs : List (List Byte)) (sb : List Byte) : Fx :=
  match qs.map fun q => rowScore alpha beta q (sb.take 256) (sb.drop 256) with
  | [] => .nan
  | x :: xs => xs.foldl maxX x

/-- σ `a` comes before σ `b` in the order of the list: NaN first, then descending. -/
def scoreBefore (a b : Fx) : Bool := if a.isNan then !b.isNan else !b.isNan && ltX b a

/-- Signboard numbers in descending σ, ties in ascending number. -/
def rankBoards (xs : List (Nat × Fx)) : List Nat :=
  (xs.mergeSort fun a b => !scoreBefore b.2 a.2).map (·.1)

/-- Rows of `n` bytes. -/
def rowsOf (n k : Nat) (bs : List Byte) : List (List Byte) :=
  (List.range k).map fun i => (bs.drop (n * i)).take n

/-- Set `n` of the parameter image in force: α and β. -/
def scanParams (img : List Byte) (n : Nat) : Option (Fx × Fx) :=
  if bit (leAt img 8 8) n then
    some (decodeF fp32 (leAt img (0x40 + 16 * n) 4), decodeF fp32 (leAt img (0x44 + 16 * n) 4))
  else none

/-- SIGNBOARD_SCAN: D receives the number of indices written; a descriptor with a reserved bit set is
an operand fault (log 26). -/
def execSignboardScan (c : Nat) (w : TWord) (s : State) : Host.Outcome State Fault Refusal :=
  onDev s fun d => issue d c w .matrix fun x =>
    let a := (x.sreg w.bS1).toNat
    if w.bMod ≠ 0 ∨ w.bImmRaw ≠ 0 then illegal d c .matrix
    else if a % 64 ≠ 0 ∨ x.ownsSram a 64 = false then operandFault d c .matrix a
    else withParity d c .matrix [(a, 64)] fun _ =>
      let (d1, desc) := sramRead d c .matrix a 64
      let sc := scanOf desc
      let n := min sc.k sc.boards
      let span := 256 * sc.rows
      if scanOk desc = false then operandFault d1 c .matrix a
      else if x.ownsSram sc.qaddr span = false then operandFault d1 c .matrix sc.qaddr
      else if x.ownsSram sc.sbaddr (512 * sc.boards) = false then operandFault d1 c .matrix sc.sbaddr
      else if x.ownsSram sc.out (4 * n) = false then operandFault d1 c .matrix sc.out
      else
        match scanParams (genAt d1 .signboard (partOfCtx d1 c)).image sc.pset with
        | none => faultCtx d1 c stSignboardParamEmpty .matrix 0
        | some (alpha, beta) =>
          withParity d1 c .matrix [(sc.qaddr, span), (sc.sbaddr, 512 * sc.boards)] fun _ =>
            let (d2, qbs) := sramRead d1 c .matrix sc.qaddr span
            let (d3, sbs) := sramRead d2 c .matrix sc.sbaddr (512 * sc.boards)
            let qs := rowsOf 256 sc.rows qbs
            let scores := (rowsOf 512 sc.boards sbs).map (boardScore alpha beta qs)
            let order := (rankBoards (numbered scores)).take n
            let out := (order.map fun p => leBytes 4 (sc.base + p)).flatten
            complete (sramWrite d3 c .matrix sc.out out) c fun y => y.setSreg w.bD (toW n)

end Sys2Proof.Machine
end

