-- ==== Sys2Proof/Machine/HubCmds.lean ====
section
/-!
DEFINITION. Commands of the hub and the copy engines: NOP, QUEUE_CTL, COPY, FILL, BAND_SET,
TABLE_LOAD, ADDR_INVALIDATE and the synchronisation commands (R36, R123 to R127, R175, R214, R343,
R345, R350, R351).
-/

namespace Sys2Proof.Machine

/-- NOP: its result word is parameter 0 (R350). -/
def execNopCommand (q k : Nat) (s : State) : Host.Outcome State Fault Refusal :=
  onDev s fun d => onStarted d q k 0x0001 fun y => finishCmd d q k stOk (toW (y.param 0))

/-- An action of Table CMD-3 by its code. -/
def queueAction (d : Dev) (q code : Nat) : Acted :=
  match code with
  | 1 => queueEnable d q
  | 2 => queueStop d q
  | 3 => queueResume d q
  | 4 => queueFlush d q
  | _ => queueDisable d q

/-- QUEUE_CTL: its result word is the target's state after the action (R350). -/
def execQueueCtl (q k : Nat) (s : State) : Host.Outcome State Fault Refusal :=
  onDev s fun d => onStarted d q k 0x0002 fun y =>
    let n := y.param 0 % 262144
    match queueAction d n (y.param 1 % 8) with
    | .wait d => d
    | .done d st => finishCmd d q k st (toW (queueAt d n).state.code)

/-! ### COPY and FILL (R351) -/

/-- 64 bytes of free values. -/
def freeLine (d : Dev) : List Byte × Dev :=
  (List.range 8).foldl (fun p _ => let r := freeW p.2; (p.1 ++ leBytes 8 r.1.toNat, r.2)) ([], d)

/-- Leaves a range of granules undefined: each that can be written holds free values. -/
def junkRange (sp : Space) (va : Nat) : Nat → Act Unit
  | 0 => pure ()
  | n + 1 => do
    tryCatch (do
      let d ← get
      let (bs, d) := freeLine d
      set d
      vwrite sp va bs)
      fun stop => match stop with
        | .err _ _ => pure ()
        | .wait w => throw (.wait w)
    junkRange sp (va + 64) n

/-- A copy that fails ends with its status, its length as result and its destination undefined; `before` is the device in
which its turn began. -/
def copyFails (before : Dev) (q k : Nat) (sp : Space) (dst len st : Nat) (d : Dev) : Dev :=
  cmdActFrom before d (junkRange sp dst (len / 64)) (fun _ _ d => finishCmd d q k st (toW len))
    (fun _ d => finishCmd { d with rnl.fresh := [] } q k st (toW len))

/-- The physical runs of a virtual range. -/
def physRuns (sp : Space) (va len : Nat) (write : Bool) : Act (List (Nat × Nat)) :=
  (pagesOf va len).mapM fun (a, n) => do
    let (pa, _) ← translate sp a write
    pure (pa, n)

/-- COPY. Ranges that share physical bytes leave the destination undefined. -/
def execCopy (q k : Nat) (s : State) : Host.Outcome State Fault Refusal :=
  onDev s fun d => onStarted d q k 0x0101 fun y =>
    let sp := spaceOf d q
    let src := y.param 0
    let dst := y.param 1
    let len := y.param 2
    let act : Act Bool := do
      let a ← physRuns sp src len false
      let b ← physRuns sp dst len true
      let bs ← vread sp src len
      vwrite sp dst bs
      pure (a.any fun x => b.any fun z => decide (x.1 < z.1 + z.2) && decide (z.1 < x.1 + x.2))
    cmdAct d act (fun st _ d1 => copyFails d q k sp dst len st d1) fun shared d1 =>
      if shared then
        cmdActFrom d d1 (junkRange sp dst (len / 64)) (fun _ _ d => d)
          fun _ d => finishVisible d q k stOk (toW len)
      else finishVisible d1 q k stOk (toW len)

/-- FILL. -/
def execFill (q k : Nat) (s : State) : Host.Outcome State Fault Refusal :=
  onDev s fun d => onStarted d q k 0x0102 fun y =>
    let sp := spaceOf d q
    let dst := y.param 0
    let len := y.param 1
    let bs := (List.replicate (len / 8) (leBytes 8 (y.param 2))).flatten
    cmdAct d (vwrite sp dst bs) (fun st _ d1 => copyFails d q k sp dst len st d1)
      fun _ d => finishVisible d q k stOk (toW len)

/-! ### BAND_SET (R175) -/

/-- Lines of a range of DRAM that a stream watches or has in flight. -/
def streamLines (d : Dev) (lo hi : Nat) : List Nat :=
  let inside (a : Nat) : Bool := decide (lo ≤ a) && decide (a < hi)
  let runs := (d.tiles.slots.map fun e => (e.2.flight.map fun x => x.phys).flatten).flatten
  let lines := (runs.map fun r => (List.range r.2.2).map fun i => r.1 + 64 * i).flatten
  ((d.tiles.watch.map (·.1) ++ lines).filter inside).dedup

/-- Zeroes whole bands under an attribute; every line is sound (R175, R176, R178). -/
def fillBands (d : Dev) (first n : Nat) (attr : Bool) : Dev :=
  let lo := first * bandBytes
  let hi := (first + n) * bandBytes
  let out (a : Nat) : Bool := decide (a < lo) || decide (hi ≤ a)
  let d := qcDiscard d lo (hi - lo)
  let d := { d with
    mem.bytes := mkeep out d.mem.bytes
    mem.lineErr := mkeep out d.mem.lineErr
    mem.tagErr := mkeep out d.mem.tagErr }
  let d := (List.range n).foldl (fun d i =>
    { d with mem.bandMap := mset false d.mem.bandMap (first + i) attr }) d
  (streamLines d lo hi).foldl touchLine d

/-- A line of the bands that the companion holds. -/
def heldIn_ (d : Dev) (lo hi : Nat) : Option Nat :=
  d.rnl.filter.findSome? fun x =>
    ((List.range 16).find? fun i => (x.s.testBit i || x.m.testBit i) &&
      decide (lo ≤ x.num * 1024 + 64 * i) && decide (x.num * 1024 + 64 * i < hi)).map
      fun i => x.num * 1024 + 64 * i

/-- BAND_SET: the bands are busy from its first step to its last; a band closed to software is not
changed (R175, R365, R426). -/
def execBandSet (q k : Nat) (s : State) : Host.Outcome State Fault Refusal :=
  onDev s fun d => onStarted d q k 0x0108 fun y =>
    let first := y.param 0 / bandBytes
    let n := y.param 1
    let lo := first * bandBytes
    let hi := (first + n) * bandBytes
    if y.step = 0 then
      if (List.range n).any fun i => (closedStatus (first + i)).isSome then
        finishFree d q k stBandRange
      else if (List.range n).any fun i => isBusy d (first + i) then finishFree d q k stBandBusy
      else
        updCmd { d with mem.busy := d.mem.busy ++ [(first, n)] } q k fun y => { y with step := 1 }
    else
      match heldIn_ d lo hi with
      | some line => sendSnoop d line true
      | none =>
        let d := { d with mem.busy := d.mem.busy.erase (first, n) }
        finishCmd (fillBands d first n (bit (y.param 2) 0)) q k stOk (toW n)

/-! ### TABLE_LOAD (R123 to R127, R214) -/

/-- The offset of a reserved field of `n` bytes that is not zero. -/
def nonZero (img : List Byte) (off n : Nat) : Option Nat := if leAt img off n = 0 then none else some off

/-- An FP32 code is finite. -/
def finite32 (c : Nat) : Bool := bits c 30 23 != 255

/-- The checks of R214. -/
def signboardBad (img : List Byte) : Option Nat :=
  let set_ (n : Nat) : Option Nat :=
    let o := 0x40 + 16 * n
    if bit (leAt img 8 8) n && !finite32 (leAt img o 4) then some o
    else if bit (leAt img 8 8) n && !finite32 (leAt img (o + 4) 4) then some (o + 4)
    else nonZero img (o + 8) 8
  List.findSome? id (
    [if leAt img 0 4 = 1 then none else some 0, nonZero img 4 4, nonZero img 0x10 48] ++
    (List.range 64).map set_)

/-- No load of its kind and partition is in progress, and none that was accepted earlier has started and still
waits for its turn (R125). -/
def loadTurn (d : Dev) (q : Nat) (y : Cmd) (kind : TableKind) : Bool :=
  let p := partOfQueue d q
  (genAt d kind p).loading.isNone && d.hub.queues.all fun e =>
    partOfQueue d e.1 != p || e.2.cmds.all fun z =>
      z.st != .started || z.step != 0 || z.opcode != y.opcode || decide (y.acc ≤ z.acc) ||
        (y.opcode == 0x0203 && z.param 0 != y.param 0)

/-- A table load: it begins in its turn, and ends with the image in the shadow or TABLE_INVALID; it is in
progress until it retires (R125). -/
def tableLoad (d : Dev) (q k : Nat) (y : Cmd) (kind : TableKind) (len : Nat)
    (bad : List Byte → Option Nat) : Dev :=
  let p := partOfQueue d q
  if y.step = 0 then
    if loadTurn d q y kind then
      updCmd (setGen d kind p { genAt d kind p with loading := some (q, k) }) q k fun y => { y with step := 1 }
    else d
  else if y.param 2 ≠ len then finishCmd d q k stTableInvalid (toW (y.param 2))
  else
    cmdAct d (vread (spaceOf d q) (y.param 1) len) (fun st _ d => finishFree d q k st)
      fun img d =>
        match bad img with
        | some o => finishCmd d q k stTableInvalid (toW o)
        | none =>
          let g := genAt d kind p
          finishCmd (setGen d kind p { g with shadow := img, pending := true }) q k stOk (toW (genNext g.active))

def execTableLoadSfu (q k : Nat) (s : State) : Host.Outcome State Fault Refusal :=
  onDev s fun d => onStarted d q k 0x0203 fun y =>
    if y.param 0 % 256 = 1 then tableLoad d q k y .sfu 17856 sfuImageBad else d

def execTableLoadSignboard (q k : Nat) (s : State) : Host.Outcome State Fault Refusal :=
  onDev s fun d => onStarted d q k 0x0203 fun y =>
    if y.param 0 % 256 = 2 then tableLoad d q k y .signboard 1088 signboardBad else d

/-! ### ADDR_INVALIDATE (R36) -/

/-- An element in flight of a context of `asid` touches `[lo, hi)`. -/
def flightIn (d : Dev) (asid lo hi : Nat) : Bool :=
  d.tiles.slots.any fun e =>
    !e.2.remote && (ctxAt d e.2.owner).asid == asid && e.2.flight.any fun x =>
      (elemRows x.shape x.addr).any fun r =>
        decide (r.2 < hi) && decide (lo < r.2 + x.shape.units * 64)

/-- Numbers of window writes that are not visible yet. -/
def writesLeft (d : Dev) : List Nat :=
  ((d.rnl.devReqs.filter fun x => !x.read).map (·.tag)) ++ d.rnl.reqQ.map (·.tag)

/-- Some other command of an ASID has writes in flight. -/
def cmdWrites (d : Dev) (asid q k : Nat) : Bool :=
  let left := writesLeft d
  d.hub.queues.any fun e => (queueAt d e.1).asid == asid && e.2.cmds.any fun y =>
    !(e.1 == q && y.seq == k) && y.st == .started && (y.tagsOut ++ (y.aux.filter (2 ^ 20 ≤ ·)).map (· - 2 ^ 20)).any left.contains

/-- ADDR_INVALIDATE: the entries go at once; the command finishes when nothing translated through them
is under way. -/
def execAddrInvalidate (q k : Nat) (s : State) : Host.Outcome State Fault Refusal :=
  onDev s fun d => onStarted d q k 0x0205 fun y =>
    let asid := y.param 0 % 4096
    let lo := alignDown 65536 (y.param 1)
    let hi := alignUp 65536 (y.param 1 + y.param 2)
    let d := tlbDrop d asid lo (hi - lo)
    let waits : Bool := flightIn d asid lo hi || cmdWrites d asid q k ||
      d.tiles.ctxs.any fun e => e.2.asid == asid && !e.2.writesOut.isEmpty
    if waits then d else finishCmd d q k stOk (toW (hi - lo))

/-! ### Semaphores and barriers (R343, R345) -/

/-- Command `k` is the oldest of its queue. -/
def isHead (d : Dev) (q k : Nat) : Bool :=
  match (queueAt d q).cmds with
  | y :: _ => y.seq == k
  | [] => false

/-- A transaction of a command that keeps its numbers in `aux`. -/
def noteCmd (q k : Nat) (d : Dev) (t : Nat) : Dev := updCmd d q k fun y => { y with aux := y.aux ++ [t] }

/-- A group command's turn: the group's image has been read in place (R290), and the chip's own entry is not
FILLING (R291). -/
def groupTurn (d : Dev) (g : Group) (bad : Nat → Dev → Dev) (ok : Dev → Dev) : Dev :=
  cmdAct d (readGroup g) (fun st _ d => bad st d) fun _ d => if selfFilling d g then bad stNotAdmitted d else ok d

/-- SEM_SIGNAL: with a local target it takes effect at retirement; with a remote one it is sent once
every earlier command has retired. -/
def execSemSignal (q k : Nat) (s : State) : Host.Outcome State Fault Refusal :=
  onDev s fun d => onStarted d q k 0x0301 fun y =>
    let p := partOfQueue d q
    let n := y.param 0 % 131072
    let chip := y.param 2 % 2 ^ 20
    if chip = 0 then finishCmd d q k stOk 0
    else if y.step = 0 then
      if isHead d q k = false then d
      else if chipIdValid d p ∧ chip = chipId d p then
        if partOfSem d n = p then finishCmd (semAdd d n (toW (y.param 1))) q k stOk 0
        else finishCmd d q k stTargetRefused 0
      else
        let d1 := updCmd d q k fun y => { y with step := 1 }
        match startXact d1 p chip (.cmd q k) 0 0 0 (noteCmd q k) fun _ => [semFrame n (y.param 1)] with
        | .ok d _ => d
        | .wait => d
    else if y.aux.isEmpty then finishCmd d q k y.status 0
    else d

/-- SEM_WAIT: its result word is the value that released it. -/
def execSemWait (q k : Nat) (s : State) : Host.Outcome State Fault Refusal :=
  onDev s fun d => onStarted d q k 0x0302 fun y =>
    let n := y.param 0 % 131072
    if y.step = 0 then
      match semWait d n (toW (y.param 1)) (.cmd q k) with
      | (true, d) => finishCmd d q k stOk (semAt d n)
      | (false, d) => updCmd d q k fun y => { y with step := 1 }
    else d

/-- SEM_SET takes effect at retirement; its result word is the old value. -/
def execSemSet (q k : Nat) (s : State) : Host.Outcome State Fault Refusal :=
  onDev s fun d => onStarted d q k 0x0304 fun _ => finishCmd d q k stOk 0

/-- BARRIER: arrives at the partition barrier and finishes with the episode. -/
def execBarrierCommand (q k : Nat) (s : State) : Host.Outcome State Fault Refusal :=
  onDev s fun d => onStarted d q k 0x0303 fun y =>
    let p0 := y.param 0
    if y.step = 0 then
      let d1 := updCmd d q k fun y => { y with step := 1 }
      match arrive d1 (partOfQueue d q) (bits p0 5 0) (bits p0 19 8 + 1) (.cmd q k) with
      | some d => d
      | none => finishFree d q k stBarrierMismatch
    else d

end Sys2Proof.Machine
end

