-- ==== Sys2Proof/Machine/Pages.lean ====
section
/-!
DEFINITION. The Page Ledger and its commands, and KV_PASS at the sender (R201 to R210, R215, R217,
R218, Tables ATT-6 to ATT-9).
-/

namespace Sys2Proof.Machine

def FrameState.code : FrameState → Nat
  | .absent => 0
  | .free => 1
  | .active => 2
  | .copying => 3
  | .banked => 4
  | .arriving => 5
  | .circulating => 6

/-- Words 0 and 1 of a Ledger entry (Table ATT-6). -/
def KvFrame.lo (x : KvFrame) : Word :=
  toW (x.state.code + x.fmt * 2 ^ 3 + x.refcnt * 2 ^ 8 + x.pins * 2 ^ 24 + x.pa / 2 ^ 16 * 2 ^ 32)

def KvFrame.hi (x : KvFrame) : Word :=
  toW (x.scPa / 2 ^ 12 + x.group * 2 ^ 36 + x.bank * 2 ^ 48 + x.pass * 2 ^ 49)

/-- Page and sidecar size of a partition (R198, R199). -/
def pageSize (d : Dev) (p : Nat) : Nat := if wbit (rget d .chipPartStatus) (8 + p) then 0x40000 else 0x10000
def sideSize (d : Dev) (p : Nat) : Nat := pageSize d p / 16

def absentEntry : Nat := 0xFFFFFFFF

/-- A write of LDG_ENTRY_SEL selects an entry and takes one snapshot of its two words (R203). -/
def selectFrame (d : Dev) (v : Word) : Dev :=
  let f := wbits v 18 0
  let d := rset d .ldgEntrySel 0 0 (toW f)
  rset (rset d .ldgEntryLo 0 0 (frameAt d f).lo) .ldgEntryHi 0 0 (frameAt d f).hi

/-- LDG_ENTRY_SEL_WRITE. -/
def execLdgEntrySelWrite (v : Word) (s : State) : Host.Outcome State Fault Refusal :=
  onDev s fun d => selectFrame d v

/-- Records a page command that failed (LDG_ERR_LAST), and a frame of another partition as a violation (R21). -/
def noteLedger (d : Dev) (q st f : Nat) : Dev :=
  let d := if st = stPartitionViolation then rcount d .chipPartStatus 0 0 31 24 1 else d
  rset d .ldgErrLast 0 0 (toW (st + f % 2 ^ 19 * 2 ^ 16 + q * 2 ^ 36))

/-- A page command ends: with a failure recorded, the result word the elements done. -/
def pageEnd (d : Dev) (q k st f n : Nat) : Dev :=
  finishCmd (if st = stOk then d else noteLedger d q st f) q k st (toW n)

/-- The elements a page command that has not retired has completed (R210): those counted in its result, of a
KV_PASS the pages sent and answered, of a RETURN the frames returned. -/
def Cmd.elementsDone (y : Cmd) : Nat :=
  let single : Bool := y.opcode == 0x0401 && decide (y.param 1 % 4 < 2)
  if y.st = .finished ∨ y.step = visibleStep then
    if single then (if y.status = stOk then 1 else 0) else y.result.toNat
  else if single then 0
  else if y.opcode = 0x0404 then y.step % 0x8000 - y.aux.length
  else if y.opcode = 0x0403 ∧ y.param 1 % 4 = 1 then y.aux2.headD 0
  else y.step

/-- Adds the window writes of the access just made to the command's tags. -/
def noteTags (d : Dev) (q k : Nat) : Dev :=
  if d.rnl.fresh = [] then d
  else updCmd { d with rnl.fresh := [] } q k fun y => { y with aux2 := y.aux2 ++ d.rnl.fresh }

/-- A command that works in elements ends, once its window writes are visible (R315). -/
def pageStop (d : Dev) (q k st f n : Nat) : Dev :=
  let d := noteTags d q k
  match cmdAt d q k with
  | some y =>
    let st := if y.keepsTags then max st y.status else st
    if y.keepsTags && !y.aux2.isEmpty then
      updCmd (if st = stOk then d else noteLedger d q st f) q k fun y =>
        { y with step := visibleStep, status := st, result := toW n }
    else pageEnd d q k st f n
  | none => d

/-! ### Page-table entries (R201) -/

def readEntry (sp : Space) (va : Nat) : Act Nat := do
  let bs ← vread sp va 4
  pure (leNat bs)

def writeEntry (sp : Space) (va f : Nat) : Act Unit := vwrite sp va (leBytes 4 f)

/-! ### Elements in order (R204, R207) -/

/-- What working on one element answers. -/
inductive PageStep
  /-- Done. -/
  | ok (d : Dev)
  /-- The command ends with a status about a frame. -/
  | fail (d : Dev) (status frame : Nat)
  /-- Nothing done; the element is tried again. -/
  | wait (d : Dev)

/-- Works on elements `i`, `i + 1`, … of a command, recording how many are done; ends it after the
last. -/
def pageLoop (q k : Nat) (f : Nat → Dev → PageStep) (total : Nat) : Nat → Dev → Dev
  | 0, d => pageStop d q k stOk 0 total
  | n + 1, d =>
    let i := total - (n + 1)
    match f i d with
    | .ok d => pageLoop q k f total n (noteTags (updCmd d q k fun y => { y with step := i + 1 }) q k)
    | .fail d st fr => pageStop d q k st fr i
    | .wait d => d

/-- Runs a command's elements from where it stands. -/
def pageRun (d : Dev) (q k total : Nat) (y : Cmd) (f : Nat → Dev → PageStep) : Dev :=
  pageLoop q k f total (total - y.step) d

/-- Runs an access as an element: `g` goes on with its value. A status of the access is about the frame
that stands in the place of its address. -/
def elemAct {α : Type} (d : Dev) (act : Act α) (g : α → Dev → PageStep) : PageStep :=
  match act.go { d with rnl.fresh := [] } with
  | (.ok a, d') => g a d'
  | (.error (.err st f), d') => .fail d' st f
  | (.error (.wait n), d') => .wait (waitDev d d' n)

/-- An access whose failure is about frame `f`. -/
def aboutFrame {α : Type} (f : Nat) (a : Act α) : Act α := atVirtual f a

/-- A frame number that exists in partition `p`. -/
def frameIn (d : Dev) (p f : Nat) : Bool := decide (f < 524288) && partOfFrame d f == p

/-- The status of a frame number that is no frame of partition `p`: one of another partition is refused under
R21 (R206). -/
def foreignStatus (f : Nat) : Nat := if f < 524288 then stPartitionViolation else stPageEntryState

/-- The status of a frame an operation that changes entries meets (R205). -/
def entryRefusal (x : KvFrame) : Nat :=
  if x.state = .circulating then stPageReadOnly else stPageEntryState

/-- No command accepted before command `k` of queue `q` waits for entry `f` (R204). -/
def entryTurn (d : Dev) (q k f : Nat) : Bool :=
  let acc := ((cmdAt d q k).map (·.acc)).getD 0
  d.ledger.waits.all fun w => w.1 != f || w.2 == (q, k) ||
    match cmdAt d w.2.1 w.2.2 with
    | some z => z.st != .started || decide (acc < z.acc)
    | none => true

/-- Command `k` of queue `q` waits for entry `f` (R204). -/
def waitEntry (d : Dev) (q k f : Nat) : Dev :=
  if d.ledger.waits.contains (f, q, k) then d
  else { d with ledger.waits := d.ledger.waits ++ [(f, q, k)] }

/-- Command `k` of queue `q` waits for no entry any more. -/
def leaveEntries (d : Dev) (q k : Nat) : Dev :=
  { d with ledger.waits := d.ledger.waits.filter fun w => w.2 ≠ (q, k) }

/-- The lowest FREE frame of a quarter that no copy has taken. -/
def lowestFree (d : Dev) (quarter : Nat) : Option Nat :=
  (List.range 131072).findSome? fun i =>
    let f := 131072 * quarter + i
    if (frameAt d f).state = .free ∧ d.ledger.taken.contains f = false then some f else none

/-- The work of ALLOC on the page table: an ABSENT entry takes the lowest FREE frame. -/
def allocEntry (sp : Space) (va quarter : Nat) : Act Nat := do
  let e ← aboutFrame 0 (readEntry sp va)
  if e ≠ absentEntry then Act.fail stPageEntryState 0
  else
    match lowestFree (← get) quarter with
    | none => Act.fail stLedgerNoFree 0
    | some f =>
      aboutFrame f (writeEntry sp va f)
      pure f

/-- ALLOC. -/
def execPageMapAlloc (q k : Nat) (s : State) : Host.Outcome State Fault Refusal :=
  onDev s fun d => onStarted d q k 0x0401 fun y =>
    if y.param 1 % 4 ≠ 0 then d
    else
      cmdAct d (allocEntry (spaceOf d q) (y.param 0) (bits (y.param 1) 3 2))
        (fun st f d => pageEnd d q k st f 0) fun f d =>
          let d := setFrame d f
            { frameAt d f with state := .active, refcnt := 1, fmt := bits (y.param 1) 4 4 }
          finishVisible d q k stOk (toW f)

/-- WRITE: an entry whose frame is shared starts a copy (R207, R208); `aux` keeps source and target. -/
def execPageMapWrite (q k : Nat) (s : State) : Host.Outcome State Fault Refusal :=
  onDev s fun d => onStarted d q k 0x0401 fun y =>
    if y.param 1 % 4 ≠ 1 ∨ y.step ≠ 0 then d
    else
      let p := partOfQueue d q
      let fail (d : Dev) (st f : Nat) : Dev := pageEnd d q k st f 0
      cmdAct d (readEntry (spaceOf d q) (y.param 0)) (fun st _ d => fail d st 0) fun f d =>
        let x := frameAt d f
        if frameIn d p f = false then fail d (foreignStatus f) f
        else if x.state = .copying ∨ entryTurn d q k f = false ∨ (x.state = .active ∧ 1 < x.refcnt ∧ x.pins ≠ 0) then
          waitEntry d q k f
        else if x.state ≠ .active then fail d (entryRefusal x) f
        else if x.refcnt ≤ 1 then finishCmd d q k stOk (toW f)
        else
          match lowestFree d (f / 131072) with
          | none => fail d stLedgerNoFree f
          | some g =>
            let d := leaveEntries (setFrame d f { x with state := .copying }) q k
            updCmd { d with ledger.taken := d.ledger.taken ++ [g] } q k fun y =>
              { y with step := 1, aux := [f, g] }

/-- The copy of page and sidecar under WRITE. -/
def copyFrame (d : Dev) (p : Nat) (src dst : KvFrame) : Act Unit := do
  let page ← readPhys src.pa (pageSize d p)
  let side ← readPhys src.scPa (sideSize d p)
  writePhys .device dst.pa page
  writePhys .device dst.scPa side

/-- PAGE_COPY_DONE: the copy ends; the new frame, the source's count and the entry change in one
operation, or after an error nothing has changed (R208). -/
def execPageCopyDone (q k : Nat) (s : State) : Host.Outcome State Fault Refusal :=
  onDev s fun d => onStarted d q k 0x0401 fun y =>
    match y.step, y.aux with
    | 1, [f, g] =>
      let p := partOfQueue d q
      let x := frameAt d f
      let free (d : Dev) : Dev :=
        setFrame { d with ledger.taken := d.ledger.taken.erase g } f { x with state := .active }
      let act : Act Unit := do
        copyFrame d p x (frameAt d g)
        writeEntry (spaceOf d q) (y.param 0) g
      cmdAct d act (fun st _ d => pageEnd (free d) q k st f 0) fun _ d =>
        let d := free d
        let d := setFrame d f { x with state := .active, refcnt := x.refcnt - 1 }
        let d := setFrame d g { frameAt d g with state := .active, refcnt := 1, fmt := x.fmt }
        finishVisible (rcount d .ldgStatus 0 0 23 8 1) q k stOk (toW g)
    | _, _ => d

/-- A frame's page and sidecar lie wholly in the data of one band each, in the frame's quarter. -/
def framePlaced (d : Dev) (p f pa sc : Nat) : Bool :=
  let one (a n : Nat) : Bool :=
    decide (f < 524288) && decide (a / quarterBytes = f / 131072) && bandOf a == bandOf (a + n - 1) &&
      decide (a % bandBytes + n ≤ dataLen (isCorrect d (bandOf a)))
  pa % 65536 == 0 && sc % 4096 == 0 && one pa (pageSize d p) && one sc (sideSize d p)

/-- DEFINE. -/
def execPageMapDefine (q k : Nat) (s : State) : Host.Outcome State Fault Refusal :=
  onDev s fun d => onStarted d q k 0x0401 fun y =>
    if y.param 1 % 4 ≠ 2 then d
    else
      let p := partOfQueue d q
      let n := y.param 2
      let pa (i : Nat) : Nat := y.param 3 + i * pageSize d p
      let sc (i : Nat) : Nat := y.param 4 + i * sideSize d p
      if (List.range n).all (fun i => framePlaced d p (y.param 0 + i) (pa i) (sc i)) = false then
        pageEnd d q k stFrameRange (y.param 0) 0
      else
        pageRun d q k n y fun i d =>
          let f := y.param 0 + i
          if (frameAt d f).state = .absent then
            .ok (setFrame d f { KvFrame.reset with state := .free, pa := pa i, scPa := sc i })
          else .fail d stPageEntryState f

/-! ### Banks (R207, R216) -/

/-- Key of a bank in parameter 3 or 2: group × 2 + bank. -/
def bankKey (w : Nat) : Nat := bits w 11 0 * 2 + bits w 12 12

def bankAt (d : Dev) (key : Nat) : Option KvBank := (d.ledger.banks.find? fun e => e.1 == key).map (·.2)

def setBank (d : Dev) (key : Nat) (b : KvBank) : Dev :=
  { d with ledger.banks := mput d.ledger.banks key b }

/-- The command's frame list, read once into `aux2`, at acceptance unless it did not read then; a frame of
another partition ends the command with no effect (R21). -/
def withList (d : Dev) (q k : Nat) (y : Cmd) (n : Nat) (f : List Nat → Dev → Dev) : Dev :=
  if y.aux2.length = n ∧ n ≠ 0 then f y.aux2 d
  else
    cmdAct d (vread (spaceOf d q) (y.param 0) (4 * n)) (fun st _ d => pageEnd d q k st 0 0) fun bs d =>
      let fs := (List.range n).map fun i => leAt bs (4 * i) 4
      match fs.find? fun x => decide (x < 524288) && !frameIn d (partOfQueue d q) x with
      | some x => pageEnd d q k stPartitionViolation x 0
      | none => f fs (updCmd d q k fun z => { z with aux2 := fs })

/-- BANK: frame `i` of the list becomes slot `i` (R207; log 28 when the bank has slots already). -/
def execPageMapBank (q k : Nat) (s : State) : Host.Outcome State Fault Refusal :=
  onDev s fun d => onStarted d q k 0x0401 fun y =>
    if y.param 1 % 4 ≠ 3 then d
    else
      let key := bankKey (y.param 3)
      withList d q k y (y.param 2) fun fs d =>
        pageRun d q k fs.length y fun i d =>
          let f := fs.getD i 0
          let x := frameAt d f
          if x.state ≠ .free ∨ d.ledger.taken.contains f then .fail d stPageEntryState f
          else
            let b := (bankAt d key).getD ⟨[], 0, 0, 0, []⟩
            let slots := if i < b.slots.length then setAt b.slots i f else b.slots ++ [f]
            let d := setBank d key
              { b with
                slots := slots
                sem := bits (y.param 4) 16 0
                credit := bits (y.param 5) 16 0
                next := 0 }
            .ok (setFrame d f
              { x with state := .banked, group := key / 2, bank := key % 2, pass := 0 })

/-- The work of PAGE_SHARE on one element (R204, R205, R207). -/
def shareElem (d : Dev) (q k src dst : Nat) : PageStep :=
  let sp := spaceOf d q
  let read : Act (Nat × Nat) := do
    let f ← readEntry sp src
    let e ← readEntry sp dst
    pure (f, e)
  elemAct d (aboutFrame 0 read) fun (f, e) d =>
    let x := frameAt d f
    if e ≠ absentEntry then .fail d stPageEntryState f
    else if frameIn d (partOfQueue d q) f = false then .fail d (foreignStatus f) f
    else if x.state = .copying ∨ entryTurn d q k f = false then .wait (waitEntry d q k f)
    else if x.state ≠ .active then .fail d (entryRefusal x) f
    else if x.refcnt = 65535 then .fail d stRefcountLimit f
    else
      elemAct d (aboutFrame f (writeEntry sp dst f)) fun _ d =>
        .ok (leaveEntries (setFrame d f { x with refcnt := x.refcnt + 1 }) q k)

/-- PAGE_SHARE. -/
def execPageShare (q k : Nat) (s : State) : Host.Outcome State Fault Refusal :=
  onDev s fun d => onStarted d q k 0x0402 fun y =>
    pageRun d q k (y.param 2) y fun i d => shareElem d q k (y.param 0 + 4 * i) (y.param 1 + 4 * i)

/-- The work of ENTRIES on one entry; an absent one is skipped (R204, R205, R207). -/
def releaseElem (d : Dev) (q k va : Nat) : PageStep :=
  let sp := spaceOf d q
  elemAct d (aboutFrame 0 (readEntry sp va)) fun f d =>
    let x := frameAt d f
    if f = absentEntry then .ok d
    else if frameIn d (partOfQueue d q) f = false then .fail d (foreignStatus f) f
    else if x.state = .copying ∨ (x.state = .active ∧ x.pins ≠ 0) ∨ entryTurn d q k f = false then
      .wait (waitEntry d q k f)
    else if x.state ≠ .active then .fail d (entryRefusal x) f
    else
      elemAct d (aboutFrame f (writeEntry sp va absentEntry)) fun _ d =>
        let left := x.refcnt - 1
        .ok (leaveEntries (setFrame d f { x with refcnt := left, state := if left = 0 then .free else .active }) q k)

/-- ENTRIES. -/
def execPageReleaseEntries (q k : Nat) (s : State) : Host.Outcome State Fault Refusal :=
  onDev s fun d => onStarted d q k 0x0403 fun y =>
    if y.param 1 % 4 ≠ 0 then d
    else pageRun d q k (y.param 2) y fun i d => releaseElem d q k (y.param 0 + 4 * i)

/-- Frames of a bank in a state. -/
def bankFrames (d : Dev) (key : Nat) (st : FrameState) : List Nat :=
  (((bankAt d key).map (·.slots)).getD []).filter fun f => (frameAt d f).state == st

/-- RETURN: CIRCULATING frames of the bank go back to BANKED, and the predecessor's credit semaphore is
signalled by the count; it waits while one is pinned (R207, R215, R217; log 27 without a
predecessor). -/
def execPageReleaseReturn (q k : Nat) (s : State) : Host.Outcome State Fault Refusal :=
  onDev s fun d => onStarted d q k 0x0403 fun y =>
    if y.param 1 % 4 ≠ 1 then d
    else
      let key := bankKey (y.param 3)
      let p := partOfQueue d q
      let turn (ok : Dev → Dev) : Dev :=
        match groupAt d (key / 2) with
        | some g => groupTurn d g (fun st d => pageEnd d q k st 0 0) ok
        | none => ok d
      if y.step = 0 then turn fun d =>
        let fs := bankFrames d key .circulating
        if fs.any fun f => (frameAt d f).pins ≠ 0 then d
        else
          let credit := ((bankAt d key).map (·.credit)).getD 0
          let back (d : Dev) : Dev :=
            let d := fs.foldl (fun d f => setFrame d f { frameAt d f with state := .banked }) d
            match bankAt d key with
            | some b => setBank d key { b with next := 0 }
            | none => d
          let target := (groupAt d (key / 2)).bind fun g =>
            (predecessor d p g g.self).map fun j => memberChip (memberWord d g j)
          match target with
          | none => pageEnd (back d) q k stOk 0 fs.length
          | some chip =>
            if fs.isEmpty then pageEnd (back d) q k stOk 0 0
            else
              let d1 := updCmd (back d) q k fun y => { y with step := 1, aux2 := [fs.length] }
              match startXact d1 p chip (.cmd q k) 0 0 0 (noteCmd q k)
                  fun _ => [semFrame credit fs.length] with
              | .ok d _ => d
              | .wait => d
      else if y.aux.isEmpty then pageEnd d q k y.status 0 (y.aux2.headD 0)
      else d

/-- UNBANK: BANKED frames of the bank become FREE and leave their slots; a bank with no frame left is
unbound. -/
def execPageReleaseUnbank (q k : Nat) (s : State) : Host.Outcome State Fault Refusal :=
  onDev s fun d => onStarted d q k 0x0403 fun y =>
    if y.param 1 % 4 ≠ 2 then d
    else
      let key := bankKey (y.param 3)
      let fs := bankFrames d key .banked
      if fs.any fun f => (frameAt d f).pins ≠ 0 then d
      else
        let d := fs.foldl (fun d f => setFrame d f
          { frameAt d f with state := .free, group := 0, bank := 0, pass := 0 }) d
        let d := match bankAt d key with
          | some b =>
            let left := b.slots.map fun f => if fs.contains f then absentEntry else f
            if left.all (· == absentEntry) then { d with ledger.banks := merase d.ledger.banks key }
            else setBank d key { b with slots := left }
          | none => d
        pageEnd d q k stOk 0 fs.length

/-- UNDEFINE. -/
def execPageReleaseUndefine (q k : Nat) (s : State) : Host.Outcome State Fault Refusal :=
  onDev s fun d => onStarted d q k 0x0403 fun y =>
    if y.param 1 % 4 ≠ 3 then d
    else
      pageRun d q k (y.param 2) y fun i d =>
        let f := y.param 0 + i
        if (frameAt d f).state = .free ∧ d.ledger.taken.contains f = false then
          .ok (setFrame d f KvFrame.reset)
        else .fail d stPageEntryState f

/-! ### KV_PASS at the sender (R215, R217, R218) -/

/-- Area of KV_PASS (Table FAB-4). -/
def kvArea (t pkt key slot pass fmt side : Nat) : Nat :=
  t + pkt * 2 ^ 14 + key / 2 * 2 ^ 22 + key % 2 * 2 ^ 34 + slot * 2 ^ 35 + pass * 2 ^ 47 +
    fmt * 2 ^ 62 + side * 2 ^ 63

/-- The packets of a page and its sidecar. -/
def kvFrames (key slot pass fmt : Nat) (page side : List Byte) (t : Nat) : List Frame :=
  let mk (s : Nat) (e : Nat × List Byte) : Frame :=
    { emptyFrame with
      type := 4
      last := s = 1 ∧ e.1 + 1 = (packetsOf side).length
      area := kvArea t e.1 key slot pass fmt s
      payload := e.2 }
  (numbered (packetsOf page)).map (mk 0) ++ (numbered (packetsOf side)).map (mk 1)

/-- Sends the frames of the list from where the command stands, waiting for one that is being copied (R208); one transaction for each frame, which
stays pinned until it is acknowledged. -/
def kvSend (q k key pass chip p : Nat) : List (Nat × Nat) → Dev → Dev
  | [], d => d
  | (i, f) :: rest, d =>
    let x := frameAt d f
    let stop (d : Dev) (st : Nat) : Dev :=
      updCmd d q k fun y => { y with step := 0x8000 + i, status := max y.status st }
    if x.state = .copying ∨ entryTurn d q k f = false then waitEntry d q k f
    else if x.state ≠ .active ∧ x.state ≠ .circulating then stop (noteLedger d q stPageEntryState f) stPageEntryState
    else
      let act : Act (List Byte × List Byte) := do
        let page ← readPhys x.pa (pageSize d p)
        let side ← readPhys x.scPa (sideSize d p)
        pure (page, side)
      match act.go d with
      | (.error (.wait n), d') => waitDev d d' n
      | (.error (.err st _), d') => stop d' st
      | (.ok (page, side), d') =>
        let d1 := leaveEntries (setFrame d' f { x with pins := x.pins + 1 }) q k
        let d1 := updCmd d1 q k fun y => { y with step := i + 1 }
        match startXact d1 p chip (.kv q k f) 0 0 0 (noteCmd q k) (kvFrames key i pass x.fmt page side)
            (fun i => let n := (packetsOf page).length
              if i < n then .dram (x.pa + 4096 * i) else .dram (x.scPa + 4096 * (i - n))) with
        | .ok d _ => kvSend q k key pass chip p rest d
        | .wait => d

/-- KV_PASS: it ends when every page sent is acknowledged. -/
def execKvPass (q k : Nat) (s : State) : Host.Outcome State Fault Refusal :=
  onDev s fun d => onStarted d q k 0x0404 fun y =>
    let n := y.param 1
    let key := bankKey (y.param 2)
    let p := partOfQueue d q
    if y.status ≠ stOk ∨ y.step = n then
      if !y.aux.isEmpty then d
      else if y.status = stOk then pageEnd d q k stOk 0 n
      else if y.status = stPageEntryState then finishCmd d q k y.status (toW (y.step - 0x8000))
      else finishFree (noteLedger d q y.status 0) q k y.status
    else
      match groupAt d (key / 2) with
      | none => pageEnd d q k stGroupParam 0 0
      | some g =>
        let bad (st : Nat) (d : Dev) : Dev :=
          if y.step = 0 then pageEnd d q k st 0 0
          else updCmd d q k fun y => { y with step := 0x8000 + y.step, status := max y.status st }
        groupTurn d g bad fun d =>
          match successor d p g g.self with
          | none => pageEnd d q k stPassIncomplete 0 0
          | some j =>
            withList d q k y n fun fs d =>
              kvSend q k key (bits (y.param 2) 46 32) (memberChip (memberWord d g j)) p
                ((numbered fs).drop y.step) d

end Sys2Proof.Machine
end

