-- ==== Sys2Proof/Machine/Satchel.lean ====
section
/-!
DEFINITION. Activation sets and the Satchel engines (R223 to R235, Tables TRN-2 to TRN-6).
-/

namespace Sys2Proof.Machine

/-! ### ACT_SET (R224, R225) -/

def execActSetDefine (q k : Nat) (s : State) : Host.Outcome State Fault Refusal :=
  onDev s fun d => onStarted d q k 0x0206 fun y =>
    let n := y.param 0 % 4096
    if y.param 1 % 4 ≠ 0 then d
    else if (setAt_ d n).state ≠ .free then finishFree d q k stActSetState
    else
      let x : ActSet := ⟨.hot, bits (y.param 1) 6 4, y.param 3 % 2 ^ 32, y.param 2, 0, 0⟩
      finishCmd (putSet d n x) q k stOk (toW x.declared)

def execActSetRelease (q k : Nat) (s : State) : Host.Outcome State Fault Refusal :=
  onDev s fun d => onStarted d q k 0x0206 fun y =>
    let n := y.param 0 % 4096
    let x := setAt_ d n
    if y.param 1 % 4 ≠ 1 then d
    else
      match x.state with
      | .hot | .offloaded | .lost =>
        finishCmd { d with sets := mset ActSet.reset d.sets n ActSet.reset } q k stOk (toW x.declared)
      | _ => finishFree d q k stActSetState

/-- A write of QTR_STAGE_CTL: PEAK of each stage named becomes its current HOT (R225). -/
def resetPeaks (d : Dev) (quarter : Nat) (v : Word) : Dev :=
  if quarter < 4 then
    let p := partOfQuarter d quarter
    ((List.range 8).filter fun i => wbit v i).foldl
      (fun d i => rset d .qtrStagePeak (homeQuarter d p) i (toW (hotBytes d p i))) d
  else d

/-- PEAK_RESET. -/
def execPeakReset (quarter : Nat) (v : Word) (s : State) : Host.Outcome State Fault Refusal :=
  onDev s fun d => resetPeaks d quarter v

/-! ### PLANES (R230, Table TRN-6) -/

/-- The low `n` bits of a number, least significant first. -/
def bitsLsb (n v : Nat) : List Bool := (List.range n).map v.testBit

/-- Zigzag differences of a group. -/
def zigzag : Nat → List Nat → List Nat
  | _, [] => []
  | prev, b :: bs =>
    let s := (b + 256 - prev) % 256
    (if s < 128 then 2 * s else 2 * (256 - s) - 1) :: zigzag b bs

def riceBits (k : Nat) (z : Nat) : List Bool :=
  List.replicate (z / 2 ^ k) true ++ false :: bitsLsb k z

/-- The codings of a group, in the order that decides ties: mode and bits. -/
def groupModes (g : List Nat) : List (Nat × List Bool) :=
  let zs := zigzag 0 g
  let flat := g.all fun b => b == g.headD 0
  (if flat then [(9, bitsLsb 8 (g.headD 0))] else []) ++
    (List.range 8).map (fun k => (k, (zs.map (riceBits k)).flatten)) ++
    [(8, (g.map (bitsLsb 8)).flatten)]

/-- The first shortest of a list. -/
def shortest : List (Nat × List Bool) → Nat × List Bool → Nat × List Bool
  | [], best => best
  | x :: xs, best => shortest xs (if x.2.length < best.2.length then x else best)

def groupBits (g : List Nat) : List Bool :=
  match groupModes g with
  | [] => []
  | x :: xs => let m := shortest xs x; bitsLsb 4 m.1 ++ m.2

/-- Cuts a list into pieces of `n`. -/
def cut {α : Type} (n : Nat) (xs : List α) : List (List α) :=
  (List.range ((xs.length + n - 1) / n)).map fun i => (xs.drop (n * i)).take n

/-- Plane `j` of elements of `w` bytes. -/
def planeOf (w j : Nat) (bs : List Byte) : List Nat :=
  (cut w bs).map fun e => (byteAt e j).toNat

/-- Bits packed into bytes from bit 0 of byte 0. -/
def packBits (bs : List Bool) : List Byte :=
  (cut 8 bs).map fun g => BitVec.ofNat 8 (((List.range g.length).zip g).map fun e => e.2.toNat * 2 ^ e.1).sum

def unpackBits (bs : List Byte) : List Bool := (bs.map fun b => bitsLsb 8 b.toNat).flatten

def planesEncode (w : Nat) (bs : List Byte) : List Byte :=
  packBits (((List.range w).map fun j => ((cut 256 (planeOf w j bs)).map groupBits).flatten).flatten)

/-- A number of `n` bits, least significant first; none past the end. -/
def takeBits (n : Nat) (bs : List Bool) : Option (Nat × List Bool) :=
  if bs.length < n then none
  else some ((((List.range n).zip (bs.take n)).map fun e => e.2.toNat * 2 ^ e.1).sum, bs.drop n)

/-- A unary count: ones up to a zero. -/
def takeUnary : List Bool → Nat → Option (Nat × List Bool)
  | [], _ => none
  | true :: bs, n => takeUnary bs (n + 1)
  | false :: bs, n => some (n, bs)

/-- The byte after `prev` for a zigzag value. -/
def unzig (prev z : Nat) : Nat :=
  if z % 2 = 0 then (prev + z / 2) % 256 else (prev + 256 - (z + 1) / 2 % 256) % 256

/-- Decodes `n` bytes of a group in mode `m`. -/
def groupDecode (m : Nat) : Nat → Nat → List Bool → Option (List Nat × List Bool)
  | 0, _, bs => some ([], bs)
  | n + 1, prev, bs =>
    if m = 8 then
      match takeBits 8 bs with
      | none => none
      | some (b, bs) => (groupDecode m n b bs).map fun r => (b :: r.1, r.2)
    else
      match takeUnary bs 0 with
      | none => none
      | some (hi, bs) =>
        match takeBits m bs with
        | none => none
        | some (lo, bs) =>
          let z := hi * 2 ^ m + lo
          if 256 ≤ z then none
          else
            let b := unzig prev z
            (groupDecode m n b bs).map fun r => (b :: r.1, r.2)

/-- Decodes the groups of lengths `ns`. -/
def groupsDecode : List Nat → List Bool → Option (List Nat × List Bool)
  | [], bs => some ([], bs)
  | n :: ns, bs =>
    match takeBits 4 bs with
    | none => none
    | some (m, bs) =>
      let one : Option (List Nat × List Bool) :=
        if m = 9 then (takeBits 8 bs).map fun r => (List.replicate n r.1, r.2)
        else if m ≤ 8 then groupDecode m n 0 bs
        else none
      match one with
      | none => none
      | some (g, bs) => (groupsDecode ns bs).map fun r => (g ++ r.1, r.2)

/-- Lengths of the groups of a plane of `n` bytes. -/
def groupLens (n : Nat) : List Nat := (cut 256 (List.replicate n ())).map List.length

/-- Decodes a PLANES payload into `len` bytes of elements of `w` bytes. -/
def planesDecode (w len : Nat) (pay : List Byte) : Option (List Byte) :=
  let n := len / w
  let lens := ((List.range w).map fun _ => groupLens n).flatten
  (groupsDecode lens (unpackBits pay)).map fun r =>
    ((List.range n).map fun i => (List.range w).map fun j => BitVec.ofNat 8 (r.1.getD (n * j + i) 0)).flatten

/-! ### MX8 (R231) -/

/-- The source format of a width code. -/
def widthFmt (code : Nat) : FloatFmt := if code = 1 then bf16 else fp32

/-- The exponent of a block's scale. -/
def mx8Exp (vs : List Fx) : Int :=
  match (vs.map Fx.abs).foldl maxX (.fin false 0 0) with
  | .fin _ man exp =>
    if man = 0 then -127
    else
      let e := ilog2 man exp - 8
      let e := if ltX (decodeF fp8e4m3 fp8e4m3.maxCode) (scaleX (.fin false man exp) (-e)) then e + 1 else e
      max (-127) e
  | _ => -127

def mx8Encode (f : FloatFmt) (bs : List Byte) : List Byte :=
  let vs := (cut (f.width / 8) bs).map fun e => decodeF f (leNat e)
  let blocks := cut 32 vs
  let elems := (blocks.map fun b =>
    let e := mx8Exp b
    b.map fun v => BitVec.ofNat 8 (roundF true fp8e4m3 .near 0 (scaleX v (-e))).1).flatten
  elems ++ blocks.map fun b => BitVec.ofNat 8 ((127 + mx8Exp b).toNat)

def mx8Decode (f : FloatFmt) (len : Nat) (pay : List Byte) : Option (List Byte) :=
  let n := len / (f.width / 8)
  if pay.length ≠ n + (n + 31) / 32 then none
  else
    some (((List.range n).map fun i =>
      let s : Int := ((byteAt pay (n + i / 32)).toNat : Int) - 127
      leBytes (f.width / 8) (roundF true f .near 0
        (scaleX (decodeF fp8e4m3 (byteAt pay i).toNat) s)).1).flatten)

/-- Every element of a chunk is finite. -/
def allFinite (f : FloatFmt) (bs : List Byte) : Bool :=
  (cut (f.width / 8) bs).all fun e =>
    match decodeF f (leNat e) with
    | .fin _ _ _ => true
    | _ => false

/-! ### Streams (R228, R229) -/

def pad64 (bs : List Byte) : List Byte := bs ++ List.replicate (alignUp 64 bs.length - bs.length) 0

/-- A chunk with its header and padding, and whether it fell back to lossless. -/
def chunkOf (coding width : Nat) (src : List Byte) : List Byte × Bool :=
  let w := 2 ^ width
  let lossy := coding = 1 ∧ allFinite (widthFmt width) src
  let planes := planesEncode w src
  let (code, pay) : Nat × List Byte :=
    if lossy then (2, mx8Encode (widthFmt width) src)
    else if planes.length < src.length then (1, planes) else (0, src)
  let crc := if code = 2 then crc32 pay else crc32 src
  (pad64 (leBytes 4 src.length ++ leBytes 1 code ++ leBytes 1 width ++ leBytes 2 0 ++
    leBytes 4 pay.length ++ leBytes 4 crc ++ pay), coding = 1 ∧ ¬ lossy)

/-- Offsets of the chunks in units of 64 bytes. -/
def chunkOffsets : Nat → List (List Byte) → List Nat
  | _, [] => []
  | o, c :: cs => o :: chunkOffsets (o + c.length / 64) cs

/-- The stream of a source, and how many chunks fell back (R233: a function of its operands alone). -/
def streamOf (coding width : Nat) (src : List Byte) : List Byte × Nat :=
  let cs := (cut 65536 src).map (chunkOf coding width)
  let bodies := cs.map (·.1)
  let dirLen := alignUp 64 (4 * cs.length)
  let dir := pad64 ((chunkOffsets ((64 + dirLen) / 64) bodies).map (leBytes 4)).flatten
  let body := bodies.flatten
  let head := leBytes 4 1 ++ leBytes 1 coding ++ leBytes 1 width ++ leBytes 2 0 ++
    leBytes 8 src.length ++ leBytes 4 cs.length ++ leBytes 4 0 ++
    leBytes 8 (64 + dirLen + body.length) ++ List.replicate 28 0
  (head ++ leBytes 4 (crc32 head) ++ dir ++ body, (cs.filter (·.2)).length)

/-- The bound of R232. -/
def streamBound (len : Nat) : Nat :=
  let n := (len + 65535) / 65536
  64 + 64 * ((n + 15) / 16) + len + 64 * n

/-- A stream header passes (R234); `len` is the destination length. -/
def headOk (h : List Byte) (len : Nat) : Bool :=
  leAt h 0 4 == 1 && decide (leAt h 4 1 ≤ 1) && decide (leAt h 5 1 ≤ 2) && leAt h 6 2 == 0 &&
    leAt h 8 8 == len && leAt h 0x10 4 == (len + 65535) / 65536 && leAt h 0x14 4 == 0 &&
    leAt h 0x18 8 % 64 == 0 && decide (leAt h 0x18 8 ≤ streamBound len) &&
    leAt h 0x20 28 == 0 && leAt h 0x3C 4 == crc32 (h.take 60)

/-- The directory increases within the stream (R234). -/
def dirOk (s : List Byte) : Bool :=
  let n := leAt s 0x10 4
  let off (i : Nat) : Nat := leAt s (64 + 4 * i) 4
  decide ((64 + alignUp 64 (4 * n)) / 64 ≤ off 0) &&
    (List.range (n - 1)).all (fun i => decide (off i < off (i + 1))) &&
    decide (off (n - 1) * 64 + 16 ≤ s.length) &&
    (List.range (alignUp 64 (4 * n) - 4 * n)).all fun i => byteAt s (64 + 4 * n + i) == 0

/-- Decodes chunk `i` of a stream (R234); none for a failed check. -/
def chunkDecode (s : List Byte) (i : Nat) : Option (List Byte) :=
  let c := s.drop (leAt s (64 + 4 * i) 4 * 64)
  let len := min 65536 (leAt s 8 8 - 65536 * i)
  let code := leAt c 4 1
  let width := leAt c 5 1
  let pay := (c.drop 16).take (leAt c 8 4)
  if leAt c 0 4 ≠ len ∨ 2 < width ∨ leAt c 6 2 ≠ 0 ∨ pay.length ≠ leAt c 8 4 then none
  else
    match code with
    | 0 => if pay.length = len ∧ crc32 pay = leAt c 12 4 then some pay else none
    | 1 =>
      match planesDecode (2 ^ width) len pay with
      | some bs => if crc32 bs = leAt c 12 4 then some bs else none
      | none => none
    | 2 => if width ≠ 0 ∧ crc32 pay = leAt c 12 4 then mx8Decode (widthFmt width) len pay else none
    | _ => none

/-- Decodes chunks from `i` on: the bytes, and the first chunk that fails. -/
def chunksDecode (s : List Byte) : Nat → Nat → List Byte × Option Nat
  | 0, _ => ([], none)
  | n + 1, i =>
    match chunkDecode s i with
    | none => ([], some i)
    | some bs => let r := chunksDecode s n (i + 1); (bs ++ r.1, r.2)

/-! ### The commands (R226, R227, R232 to R235) -/

/-- The engine's quarter (Table CMD-7). -/
def Cmd.quarter (y : Cmd) : Nat := y.engine % 256

/-- A Satchel command fails: its set moves, and QTR_SAT_LAST records it. -/
def satchelFails (d : Dev) (q k st chunk : Nat) : Dev :=
  match cmdAt d q k with
  | none => d
  | some y =>
    let d := rset d .qtrSatLast y.quarter 0 (toW (st + q * 2 ^ 16 + chunk * 2 ^ 34))
    finishFree (failSet d y) q k st

/-- Starts pieces of a remote write for a command, from piece `i` on. -/
def cmdPieces (q k p chip addr : Nat) : List (Nat × Nat × List Byte) → Dev → Dev
  | [], d => d
  | (i, off, bs) :: rest, d =>
    let d1 := updCmd d q k fun y => { y with step := i + 2 }
    match startXact d1 p chip (.cmd q k) (addr + off) 0 0 (noteCmd q k)
        (writeFrames 0 0 (addr + off) bs) with
    | .ok d _ => cmdPieces q k p chip addr rest d
    | .wait => d

/-- The value of `step` of a Satchel command whose window writes are all that is left. -/
def writtenStep : Nat := 2 ^ 33

/-- A Satchel command has made its writes: it goes on once those to the window are visible (R315). `aux2` keeps
what its end needs. -/
def satchelWritten (d : Dev) (q k st : Nat) (keep : List Nat) : Dev :=
  let tags := d.rnl.fresh
  updCmd { d with rnl.fresh := [] } q k fun y =>
    { y with step := writtenStep, status := st, aux := tags.map (2 ^ 20 + ·), aux2 := keep }

/-- A STORE has succeeded and its stream is visible. -/
def storeDone (d : Dev) (q k : Nat) (y : Cmd) (len cls : Nat) : Dev :=
  let d := match y.tracked with
    | none => d
    | some n =>
      let x := setAt_ d n
      if x.state = .storing ∨ x.state = .offloaded then
        putSet d n { x with state := .offloaded, stored := x.stored + len, cls := cls }
      else d
  let d := rwrap (rwrap d .qtrSatIn y.quarter 0 (y.param 1)) .qtrSatOut y.quarter 0 len
  finishCmd d q k stOk (toW len)

/-- The writes of a STORE to virtual addresses are made; what lies in DRAM is visible. -/
def storeWritten (d : Dev) (q k : Nat) (y : Cmd) (len cls : Nat) : Dev :=
  if d.rnl.fresh = [] then storeDone d q k y len cls else satchelWritten d q k stOk [len, cls]

/-- SATCHEL_STORE: the stream goes to a virtual address, or to another chip in transactions, which end
before the command does. A chunk that falls back counts once, in `aux2`. -/
def execSatchelStore (q k : Nat) (s : State) : Host.Outcome State Fault Refusal :=
  onDev s fun d => onStarted d q k 0x0110 fun y =>
    let sp := spaceOf d q
    let p := partOfQueue d q
    let coding := bits (y.param 3) 2 1
    let width := bits (y.param 3) 5 4
    let dst := y.param 2
    let fails (st : Nat) (d : Dev) : Dev := satchelFails d q k st 0
    if y.status ≠ stOk ∧ y.aux.isEmpty then fails y.status d
    else if y.step = writtenStep then
      if y.aux.isEmpty then storeDone d q k y (y.aux2.headD 0) (y.aux2.getD 1 0) else d
    else
      let before := d
      cmdAct d (vread sp (y.param 0) (y.param 1)) (fun st _ d => fails st d) fun src d =>
        let (str, fell) := streamOf coding width src
        let d := if y.aux2 = [] then
            rcount (updCmd d q k fun y => { y with aux2 := [fell] }) .qtrSatStat y.quarter 0 31 16 fell
          else d
        if bit (y.param 3) 0 then
          if ownChip d p dst then
            if localOk d p (globalLocal dst) str.length then
              cmdActFrom before d (writePhys .software (globalLocal dst) str)
                (fun st _ d => fails st d)
                fun _ d => storeDone d q k y str.length 2
            else fails stTargetRefused d
          else
            let ps := numbered (chunks1M (str.length / 2 ^ 20 + 1) 0 str)
            if y.step = ps.length + 1 then
              if y.aux.isEmpty then storeDone d q k y str.length 2 else d
            else cmdPieces q k p (globalChip dst) (globalLocal dst) (ps.drop (y.step - 1)) d
        else
          let act : Act Nat := do
            let (pa, _) ← translate sp dst true
            vwrite sp dst str
            pure (if regionOf pa = .window then 1 else 0)
          cmdActFrom before d act
            (fun st _ d => cmdActFrom before d (junkRange sp dst (str.length / 64))
              (fun _ _ d => fails st d) fun _ d => fails st d)
            fun cls d => storeWritten d q k y str.length cls

/-- A RESTORE has succeeded and its bytes are visible. -/
def restoreDone (d : Dev) (q k : Nat) (y : Cmd) : Dev :=
  let d := match y.tracked with
    | none => d
    | some n =>
      let x := setAt_ d n
      if x.state = .restoring then putSet d n { x with state := .hot, stored := 0 } else d
  finishCmd d q k stOk (toW (y.param 2))

/-- A RESTORE writes what its stream holds; `before` is the device in which its turn began. -/
def restoreStream (before d : Dev) (q k : Nat) (y : Cmd) (str : List Byte) : Dev :=
  let sp := spaceOf d q
  let n := leAt str 0x10 4
  if dirOk str = false then satchelFails d q k stSatchelStream 0
  else
    let (bs, bad) := chunksDecode str n 0
    let act : Act Unit := do
      vwrite sp (y.param 1) bs
      match bad with
      | some i => junkRange sp (y.param 1 + 65536 * i) ((y.param 2 - 65536 * i) / 64)
      | none => pure ()
    cmdActFrom before d act
      (fun st _ d => cmdActFrom before d (junkRange sp (y.param 1) (y.param 2 / 64))
        (fun _ _ d => satchelFails d q k st 0) fun _ d => satchelFails d q k st 0)
      fun _ d =>
        let (st, i) := match bad with
          | some i => (stSatchelCheck, i)
          | none => (stOk, 0)
        let d := if st = stOk then d else rcount d .qtrSatStat y.quarter 0 47 32 1
        if d.rnl.fresh ≠ [] then satchelWritten d q k st [i]
        else if st = stOk then restoreDone d q k y
        else satchelFails d q k st i

/-- Starts the READs of `[lo, hi)` of a remote stream into the command's buffer, up to 1 MiB each. -/
def askPieces (q k p chip addr hi : Nat) : Nat → Nat → Dev → Dev
  | 0, _, d => d
  | n + 1, lo, d =>
    if hi ≤ lo then d
    else
      let len := min (2 ^ 20) (hi - lo)
      let d1 := updCmd d q k fun y => { y with step := lo + len }
      match startXact d1 p chip (.cmd q k) (addr + lo) lo ((len + 4095) / 4096) (noteCmd q k)
          (readFrames (addr + lo) len) with
      | .ok d _ => askPieces q k p chip addr hi n (lo + len) d
      | .wait => d

/-- SATCHEL_RESTORE: the header first, then the rest; from another chip both are read into the command's
buffer, and `step` counts the bytes asked for. -/
def execSatchelRestore (q k : Nat) (s : State) : Host.Outcome State Fault Refusal :=
  onDev s fun d => onStarted d q k 0x0111 fun y =>
    let sp := spaceOf d q
    let p := partOfQueue d q
    let src := y.param 0
    let len := y.param 2
    let before := d
    let fails (st : Nat) (d : Dev) : Dev :=
      cmdActFrom before d (junkRange sp (y.param 1) (len / 64)) (fun _ _ d => satchelFails d q k st 0)
        fun _ d => satchelFails d q k st 0
    let localRead (rd : Nat → Nat → Act (List Byte)) : Dev :=
      cmdAct d (rd 0 64) (fun st _ d => fails st d) fun h d =>
        if headOk h len then
          cmdActFrom before d (rd 64 (leAt h 0x18 8 - 64)) (fun st _ d => fails st d)
            fun rest d => restoreStream before d q k y (h ++ rest)
        else satchelFails d q k stSatchelStream 0
    if y.step = writtenStep then
      if !y.aux.isEmpty then d
      else if y.status = stOk then restoreDone d q k y
      else satchelFails d q k y.status (y.aux2.headD 0)
    else if bit (y.param 3) 0 = false then localRead fun o n => vread sp (src + o) n
    else if ownChip d p src then
      localRead fun o n =>
        if localOk d p (globalLocal src + o) n then readPhys (globalLocal src + o) n
        else Act.fail stTargetRefused src
    else if !y.aux.isEmpty then d
    else if y.status ≠ stOk then fails y.status d
    else
      let chip := globalChip src
      let addr := globalLocal src
      if y.step = 0 then askPieces q k p chip addr 64 1 0 d
      else if headOk (y.buf.take 64) len = false then satchelFails d q k stSatchelStream 0
      else
        let total := leAt y.buf 0x18 8
        if y.step < total then askPieces q k p chip addr total (total / 2 ^ 20 + 1) y.step d
        else restoreStream d d q k y y.buf

end Sys2Proof.Machine
end

