-- ==== Sys2Proof/Machine/Scale.lean ====
section
/-!
DEFINITION. SCALE_STEP and PARAM_GATHER (R236 to R244, Table TRN-7).
-/

namespace Sys2Proof.Machine

/-! ### Scale records (R240) -/

def slotFmt (x : List Byte) : Nat := leAt x 4 1
def slotCtl (x : List Byte) : Nat := leAt x 5 1
def slotHistN (x : List Byte) : Nat := leAt x 6 1
def slotHistPos (x : List Byte) : Nat := leAt x 7 1
def slotData (x : List Byte) : Nat := leAt x 0x10 8
def slotBscale (x : List Byte) : Nat := leAt x 0x18 8
def slotMap (x : List Byte) : Nat := leAt x 0x20 8
def slotAmax (x : List Byte) : Nat := leAt x 0x28 8
def slotNblk (x : List Byte) : Nat := leAt x 0x30 4
def slotNamax (x : List Byte) : Nat := leAt x 0x34 2
def slotE (x : List Byte) : Nat := leAt x 0x36 1
def slotHist (x : List Byte) (i : Nat) : Nat := leAt x (0x40 + 4 * (i % 16)) 4

/-- The checks of R243, and the ranges of Table TRN-7. -/
def recordOk (r w : List Byte) (step : Nat) : Bool :=
  let reserved (x : List Byte) : Bool :=
    slotCtl x / 16 == 0 && leAt x 0x37 1 == 0 && leAt x 0x3C 4 == 0
  leAt r 8 8 == step && decide (5 ≤ slotFmt r ∧ slotFmt r ≤ 9) && slotFmt r == slotFmt w &&
    slotCtl r % 4 == slotCtl w % 4 && slotNblk r == slotNblk w && slotNamax r == slotNamax w &&
    decide (1 ≤ slotNblk r) && decide (1 ≤ slotNamax r ∧ slotNamax r ≤ 4096) &&
    decide (slotHistN r ≤ 16 ∧ slotHistPos r ≤ 15) && reserved r && reserved w

/-- The element format of a record. -/
def recordFmt (x : List Byte) : FloatFmt := (fmtOf (slotFmt x)).getD fp8e4m3

/-- A block of 32 packed elements holds one of the largest magnitude. -/
def blockAtMax (f : FloatFmt) (bs : List Byte) : Bool :=
  let v := leNat bs
  (List.range 32).any fun i => elemAt v f.width i % 2 ^ (f.width - 1) == f.maxCode

/-- Flags by block as bytes, bit b mod 8 of byte b / 8. -/
def flagBytes (fs : List Bool) : List Byte := packBits fs

/-- One record under SCALE_STEP (R242): it answers whether blocks were flagged, whether the record stays
CURRENT and whether its amax was not finite; none for a record that fails R243. -/
def scaleRecord (sp : Space) (va step : Nat) : Act (Option (Bool × Bool × Bool)) := do
  let bs ← vread sp va 256
  let (r, w) := if step % 2 = 0 then (bs.take 128, bs.drop 128) else (bs.drop 128, bs.take 128)
  if recordOk r w step = false then pure none
  else
    let f := recordFmt r
    let n := slotNblk r
    let parts ← vread sp (slotAmax r) (4 * slotNamax r)
    let a := ((cut 4 parts).map fun p => (decodeF fp32 (leNat p)).abs).foldl maxX (.fin false 0 0)
    let finite : Bool := !a.isNan && !a.isInf
    let fmax := decodeF f f.maxCode
    let history := bit (slotCtl r) 2
    let scan : Bool := history && (!finite || ltX (scaleX fmax ((slotE r : Int) - 127)) a)
    let flags ← if scan then (do
        let data ← vread sp (slotData r) (4 * f.width * n)
        pure ((cut (4 * f.width) data).map (blockAtMax f)))
      else pure (List.replicate n false)
    vwrite sp (slotMap w) (flagBytes flags)
    let hists := (List.range 16).map (slotHist r)
    let code := (roundF true fp32 .near 0 a).1
    let hists := if finite then setAt hists (slotHistPos r) code else hists
    let pos := if finite then (slotHistPos r + 1) % 16 else slotHistPos r
    let num := if finite then min (slotHistN r + 1) 16 else slotHistN r
    let recent := (List.range num).map fun i => decodeF fp32 (hists.getD ((pos + 15 - i) % 16) 0)
    let big := recent.foldl maxX (.fin false 0 0)
    let head := slotCtl r % 4
    let e : Int := match big with
      | .fin _ man exp =>
        if man = 0 then -127 else clampI (-127) 127 (ilog2 man exp - mxEmax f + head)
      | _ => -127
    let code := if num = 0 then 0 else (127 + e).toNat
    if num ≠ 0 then
      vwrite sp (slotBscale w)
        (flags.map fun b => BitVec.ofNat 8 (min (code + b.toNat) 0xFE))
    vwrite sp (slotAmax w) (List.replicate (4 * slotNamax w) 0)
    let flagged := (flags.filter id).length
    let ctl := head + (if num = 0 then 0 else 4) + (if finite then 0 else 8)
    let out := w.take 5 ++ leBytes 1 ctl ++ leBytes 1 num ++ leBytes 1 pos ++ leBytes 8 (step + 1) ++
      (w.drop 0x10).take 0x26 ++ leBytes 1 code ++ leBytes 1 0 ++ leBytes 4 flagged ++ leBytes 4 0 ++
      (hists.map (leBytes 4)).flatten
    vwrite sp (if step % 2 = 0 then va + 128 else va) out
    pure (some (decide (0 < flagged), num == 0, !finite))

/-- The records from number `i` on; `step` counts those done, `aux` holds how many were flagged. -/
def scaleLoop (q k : Nat) (sp : Space) (base step : Nat) : Nat → Nat → Dev → Dev
  | 0, _, d =>
    match cmdAt d q k with
    | none => d
    | some y =>
      let d := updCmd d q k fun z => { z with aux := [], aux2 := [] }
      finishVisible { d with rnl.fresh := y.aux2 } q k stOk (toW (y.aux.headD 0))
  | n + 1, i, d =>
    cmdAct d (scaleRecord sp (base + 256 * i) step)
      (fun st _ d => finishFree { d with rnl.fresh := [] } q k st) fun r d =>
        match r with
        | none => finishCmd { d with rnl.fresh := [] } q k stScaleRecord (toW i)
        | some (fl, cur, nf) =>
          let h := homeQuarter d (partOfQueue d q)
          let count (d : Dev) (b : Bool) (hi lo : Nat) : Dev :=
            if b then rcount d .qtrScaleStat h 0 hi lo 1 else d
          let d := count (count (count (count d true 15 0) cur 31 16) fl 47 32) nf 63 48
          let tags := d.rnl.fresh
          let d := updCmd { d with rnl.fresh := [] } q k fun y =>
            { y with
              step := i + 1
              aux := [y.aux.headD 0 + fl.toNat]
              aux2 := y.aux2 ++ tags }
          scaleLoop q k sp base step n (i + 1) d

def execScaleStep (q k : Nat) (s : State) : Host.Outcome State Fault Refusal :=
  onDev s fun d => onStarted d q k 0x0207 fun y =>
    scaleLoop q k (spaceOf d q) (y.param 0) (y.param 2) (y.param 1 - y.step) y.step d

/-! ### PARAM_GATHER (R236 to R238) -/

/-- Pieces of a data range of up to 1 MiB within one run: physical address, offset. -/
def rangePieces (d : Dev) (base o len : Nat) : List (Nat × Nat × Nat) :=
  let runs := dataRunsOf d (dataAddr d base o) len
  let offs := (runs.foldl (fun p r => (p.1 ++ [(r.1, p.2, r.2)], p.2 + r.2)) ([], 0)).1
  (offs.map fun (pa, off, n) =>
    (List.range ((n + 2 ^ 20 - 1) / 2 ^ 20)).map fun i =>
      (pa + 2 ^ 20 * i, off + 2 ^ 20 * i, min (2 ^ 20) (n - 2 ^ 20 * i))).flatten

/-- What a gather knows of itself. -/
structure Gather where
  gx : Group
  gy : Group
  s : Nat
  shard : Nat
  whole : Nat
deriving DecidableEq, Repr

def gatherOf (d : Dev) (y : Cmd) : Option Gather :=
  match groupAt d (bits (y.param 3) 11 0), groupAt d (bits (y.param 3) 27 16) with
  | some a, some b => some ⟨a, b, y.param 2, y.param 0, y.param 1⟩
  | _, _ => none

/-- The conditions of R236 that this chip can check. -/
def gatherOk (d : Dev) (p : Nat) (g : Gather) : Bool :=
  let total := g.gx.members * g.gy.members * g.s
  let last := dataAddr d g.whole (total - 1)
  let lastS := dataAddr d g.shard (g.s - 1)
  decide (0 < g.s) && g.s % 64 == 0 && g.shard % 64 == 0 && g.whole % 64 == 0 &&
    dataRangeOk d p g.shard g.s none && dataRangeOk d p g.whole total none &&
    (decide (lastS < g.whole) || decide (last < g.shard))

/-- Chip IDs of the other members of a group, in list order starting after this chip. -/
def otherMembers (d : Dev) (g : Group) : List Nat :=
  (List.range (g.members - 1)).map fun i => memberChip (memberWord d g ((g.self + 1 + i) % g.members))

/-- Leaves a data range undefined. -/
def junkData (base : Nat) (n : Nat) : Act Unit :=
  (List.range n).forM fun i => do
    let d ← get
    let (bs, d) := freeLine d
    set d
    tryCatch (dwrite base (64 * i) bs)
      fun stop => match stop with
        | .err _ _ => pure ()
        | .wait w => throw (.wait w)

/-- A gather that fails leaves the whole copy undefined. -/
def gatherFails (d : Dev) (q k : Nat) (g : Gather) (st : Nat) : Dev :=
  let n := g.gx.members * g.gy.members * g.s / 64
  cmdAct d (junkData g.whole n) (fun _ _ d => finishFree d q k st) fun _ d => finishFree d q k st

/-- Sends pieces `i`, `i + 1`, … of `[o, o + len)` of the whole copy to a chip, reading them at byte `o` of the
data range `base`. -/
def gatherSend (q k p chip : Nat) (g : Gather) (base o : Nat) :
    List (Nat × Nat × Nat × Nat) → Dev → Dev
  | [], d => d
  | (i, pa, off, n) :: rest, d =>
    cmdAct d (dread base (o + off) n) (fun st _ d => gatherFails d q k g st) fun bs d =>
      let d1 := updCmd d q k fun y => { y with aux2 := setAt y.aux2 2 (i + 1) }
      match startXact d1 p chip (.cmd q k) pa 0 0 (noteCmd q k) (writeFrames 0 0 pa bs)
          (PktSrc.range base (o + off)).each with
      | .ok d _ => gatherSend q k p chip g base o rest d
      | .wait => d

/-- One phase of a gather: writes `[o, o + len)` of the whole copy, which it reads from byte `from_` of the
data range `base`, to each other member in turn, then signals it. `aux2` holds the phase, the member and
the piece. -/
def gatherPhase (d : Dev) (q k p : Nat) (g : Gather) (others : List Nat) (m piece o len sem base from_ : Nat)
    (next : Dev → Dev) : Dev :=
  match others[m]? with
  | none => next d
  | some chip =>
    let ps := numbered (rangePieces d g.whole o len)
    if piece < ps.length then gatherSend q k p chip g base from_ (ps.drop piece) d
    else
      let d1 := updCmd d q k fun y => { y with aux2 := [y.aux2.headD 0, m + 1, 0] }
      match startXact d1 p chip (.cmd q k) 0 0 0 (noteCmd q k) fun _ => [semFrame sem 1] with
      | .ok d _ => d
      | .wait => d

/-- PARAM_GATHER. -/
def execParamGather (q k : Nat) (s : State) : Host.Outcome State Fault Refusal :=
  onDev s fun d => onStarted d q k 0x0A03 fun y =>
    let p := partOfQueue d q
    match gatherOf d y with
    | none => finishFree d q k stGatherParam
    | some g =>
      let t := g.gx.members
      let u := g.gy.members
      let mine := (g.gy.self * t + g.gx.self) * g.s
      let block := g.gy.self * t * g.s
      let sx := bits (y.param 4) 16 0
      let sy := bits (y.param 4) 48 32
      let bx := bits (y.param 5) 31 0
      let by_ := bits (y.param 5) 63 32
      if !y.aux.isEmpty then d
      else if y.status ≠ stOk then gatherFails d q k g y.status
      else
        let bad (st : Nat) (d : Dev) : Dev :=
          if y.aux2 = [] then finishFree d q k st else gatherFails d q k g st
        groupTurn d g.gx bad fun d => groupTurn d g.gy bad fun d =>
        match y.aux2 with
        | [] =>
          if gatherOk d p g = false then finishFree d q k stGatherParam
          else
            let act : Act Unit := do
              let bs ← dread g.shard 0 g.s
              dwrite g.whole mine bs
            cmdAct d act (fun st _ d => gatherFails d q k g st) fun _ d =>
              updCmd d q k fun y => { y with aux2 := [0, 0, 0] }
        | [0, m, piece] =>
          gatherPhase d q k p g (otherMembers d g.gx) m piece mine g.s sx g.shard 0
            fun d => updCmd d q k fun y => { y with aux2 := [1, 0, 0] }
        | [1, _, _] =>
          if bx + t - 1 ≤ (semAt d sx).toNat then updCmd d q k fun y => { y with aux2 := [2, 0, 0] }
          else d
        | [2, m, piece] =>
          gatherPhase d q k p g (otherMembers d g.gy) m piece block (t * g.s) sy g.whole block
            fun d => updCmd d q k fun y => { y with aux2 := [3, 0, 0] }
        | _ =>
          if by_ + u - 1 ≤ (semAt d sy).toNat then finishCmd d q k stOk (toW (t * u * g.s)) else d

end Sys2Proof.Machine
end

