-- ==== Sys2Proof/Machine/Tally.lean ====
section
/-!
DEFINITION. Tally: exact gradient reduction (R247 to R266, Tables TLY-1 to TLY-6).
-/

namespace Sys2Proof.Machine

/-! ### Contexts and records (R249, R250) -/

def tallyAt (d : Dev) (g : Nat) : Option TallyCtx := (d.tally.ctxs.find? fun e => e.1 == g).map (·.2)

def updTally (d : Dev) (g : Nat) (f : TallyCtx → TallyCtx) : Dev :=
  { d with tally.ctxs := d.tally.ctxs.map fun e => if e.1 = g then (e.1, f e.2) else e }

/-- A difference of steps modulo 2^32, signed. -/
def stepDiff (a b : Nat) : Int := sext 32 (a + 2 ^ 32 - b % 2 ^ 32)

def stepBefore (t : Nat) : Nat := (t + 2 ^ 32 - 1) % 2 ^ 32

/-- Elements and bytes of a chunk; bytes of its 64-bit sums (R247). -/
def chunkBytes : Nat := 65536
def sumBytes : Nat := 131072

def logBytes (g : Group) : Nat := alignUp 64 (8 * g.members)

/-- Record size of a context with or without CARRY sums (R250). -/
def recordBytes (carry : Bool) (g : Group) : Nat := 192 + logBytes g + sumBytes * (if carry then 2 else 1)

/-- Offset of the record of owned chunk `i` in the slot of step `t`. -/
def recordOff (x : TallyCtx) (g : Group) (t i : Nat) : Nat :=
  (t % 4 * x.cpm + i) * recordBytes x.carry g

/-- A record being handled: its context, group and place. -/
structure TRec where
  p : Nat
  gnum : Nat
  x : TallyCtx
  g : Group
  t : Nat
  i : Nat
deriving DecidableEq, Repr

def TRec.off (r : TRec) : Nat := recordOff r.x r.g r.t r.i
def TRec.chunk (r : TRec) : Nat := r.g.self * r.x.cpm + r.i
def TRec.accOff (r : TRec) : Nat := r.off + 192 + logBytes r.g
def TRec.carryOff (r : TRec) : Nat := r.accOff + sumBytes

/-- The fixed part of a record (Table TLY-2). -/
def readHead (r : TRec) : Act (List Byte) := dread r.x.base r.off 192
def writeHead (r : TRec) (h : List Byte) : Act Unit := dwrite r.x.base r.off h

def headFlag (h : List Byte) (i : Nat) : Bool := bit (leAt h 0 8) i
def expClosed (h : List Byte) : Bool := headFlag h 32
def mainClosed (h : List Byte) : Bool := headFlag h 33
def carryClosed (h : List Byte) : Bool := headFlag h 34
def headFailed (h : List Byte) : Bool := headFlag h 35
def headSum (h : List Byte) (carry : Bool) : Nat := leAt h (if carry then 0x10 else 8) 8
def headCodes (h : List Byte) : List Byte := (h.drop 0x40).take 128

/-- A head with STEP `t`, a flag added and a sum replaced. -/
def headWith (h : List Byte) (t flag : Nat) : List Byte :=
  leBytes 8 (setBits (leAt h 0 8 ||| flag) 31 0 t) ++ h.drop 8

def headSetSum (h : List Byte) (carry : Bool) (v : Nat) : List Byte :=
  if carry then h.take 0x10 ++ leBytes 8 v ++ h.drop 0x18 else h.take 8 ++ leBytes 8 v ++ h.drop 0x10

def headSetCodes (h codes : List Byte) : List Byte := h.take 0x40 ++ codes ++ h.drop 0xC0

/-- The LOG words of all members. -/
def readLogs (r : TRec) : Act (List Nat) := do
  let bs ← dread r.x.base (r.off + 192) (8 * r.g.members)
  pure ((cut 8 bs).map leNat)

/-- The reads that closing a record can need. -/
def readRecord (r : TRec) : Act Unit := do
  let _ ← readHead r
  let _ ← readLogs r
  pure ()

def writeLog (r : TRec) (j v : Nat) : Act Unit := dwrite r.x.base (r.off + 192 + 8 * j) (leBytes 8 v)

/-- A member's packets, main or carried, as bits. -/
def logBits (carry : Bool) (w : Nat) : Nat := if carry then bits w 31 16 else bits w 15 0

def isPartial (carry : Bool) (w : Nat) : Bool := logBits carry w != 0 && logBits carry w != 0xFFFF

def isWhole (carry : Bool) (w : Nat) : Bool := logBits carry w == 0xFFFF

/-! ### The order of contributions (R253) -/

/-- Members in the order in which member SELF sends. Members of its tray beyond those R253 names follow
in list order (log 30). -/
def sendOrder (d : Dev) (g : Group) : List Nat :=
  let tray (j : Nat) : Nat := memberTray (memberWord d g j)
  let all := List.range g.members
  let mine := all.filter fun j => tray j == tray g.self
  let pos := mine.idxOf g.self
  let near := g.self :: [1, 2, 3].filterMap fun m => mine[pos ^^^ m]?
  let trays : List Nat := all.foldl (fun ts j => if ts.contains (tray j) then ts else ts ++ [tray j]) []
  let k := trays.idxOf (tray g.self)
  let later := (trays.drop (k + 1) ++ trays.take k).map fun t => all.filter fun j => tray j == t
  near ++ mine.filter (fun j => !near.contains j) ++ later.flatten

/-! ### Packets (R254, Table TLY-3) -/

/-- A tally packet as it arrives. -/
structure TPkt where
  kind : Nat
  gnum : Nat
  member : Nat
  step : Nat
  chunk : Nat
  pkt : Nat
  check : Nat
  src : Nat
  payload : List Byte
deriving DecidableEq, Repr

/-- The tally fields in the packet-specific area (Table FAB-4). -/
def tallyArea (x : TPkt) : Nat :=
  x.kind + x.gnum * 2 ^ 2 + x.member * 2 ^ 14 + x.step * 2 ^ 31 + x.chunk * 2 ^ 63 + x.pkt * 2 ^ 95 +
    x.check * 2 ^ 99

def tallyPkt (f : Frame) : TPkt where
  kind := bits f.area 1 0
  gnum := bits f.area 13 2
  member := bits f.area 30 14
  step := bits f.area 62 31
  chunk := bits f.area 94 63
  pkt := bits f.area 98 95
  check := bits f.area 159 99
  src := f.src
  payload := f.payload

def tallyFrame (x : TPkt) : Frame :=
  { emptyFrame with type := 2, tly := true, last := true, area := tallyArea x, payload := x.payload }

/-! ### Failures (R258, R260, R265) -/

/-- Fields of TLY_FAIL by cause. -/
inductive TFail
  | check | late | lost | dram
deriving DecidableEq, Repr

def TFail.lo : TFail → Nat
  | .check => 0
  | .late => 16
  | .lost => 32
  | .dram => 48

/-- Marks the chunk FAILED; the first failure of a chunk is kept (log 31). -/
def markFailed (r : TRec) (why : TFail) (status : Nat) : Act Unit := do
  let h ← readHead r
  if headFailed h then pure ()
  else
    let logs ← readLogs r
    let h := headWith h r.t (2 ^ 35)
    writeHead r (h.take 0x18 ++ leBytes 2 status ++ h.drop 0x1A)
    modify fun d =>
      let m := ((sendOrder d r.g).find? fun j => !isWhole false (logs.getD j 0)).getD 0
      let d := rcount d .tlyFail 0 r.p (why.lo + 15) why.lo 1
      let d := rset d .tlyErrLast 0 0 (toW (status + r.gnum * 2 ^ 16 + m * 2 ^ 28))
      rset d .tlyErrChunk 0 0 (toW (r.chunk + r.t * 2 ^ 32))

/-! ### Closing (R259, R260) -/

/-- A started TALLY_CONTRIBUTE of the partition sends this chunk. -/
def contributes (d : Dev) (gnum step chunk : Nat) : Bool :=
  d.hub.queues.any fun e => e.2.cmds.any fun y =>
    y.st == .started && y.opcode == 0x0501 && y.param 0 % 4096 == gnum && bits (y.param 1) 31 0 == step &&
      decide (bits (y.param 3) 31 0 ≤ chunk ∧ chunk < bits (y.param 3) 31 0 + bits (y.param 3) 63 32)

/-- Keeps a publication for the command that waits for it. -/
def keepPub (d : Dev) (x : TallyPub) : Dev :=
  if contributes d x.group x.step x.chunk ∧
      d.tally.pubs.all (fun y => (y.group, y.step, y.chunk) != (x.group, x.step, x.chunk)) then
    { d with tally.pubs := d.tally.pubs ++ [x] }
  else d

/-- Publishes the agreed codes to member `j`; a FILLING chip sends nothing (R291). -/
def publish (r : TRec) (codes : List Byte) (d : Dev) (j : Nat) : Dev :=
  if selfFilling d r.g then d
  else if j = r.g.self then keepPub d ⟨r.gnum, r.t, r.chunk, codes⟩
  else
    let w := memberWord d r.g j
    if memberState d r.p w = 1 then d
    else submit d r.p (memberChip w) none
      [tallyFrame ⟨2, r.gnum, r.g.self, r.t, r.chunk, 0, 0, chipId d r.p, codes⟩]

/-- Closes the exponent round of a chunk (R259). -/
def closeExp (r : TRec) : Act Unit := do
  let h ← readHead r
  if expClosed h then pure ()
  else
    let logs ← readLogs r
    writeHead r (headWith h r.t (2 ^ 32))
    modify fun d => ((List.range r.g.members).filter fun j => bit (logs.getD j 0) 32).foldl
      (publish r (headCodes h)) d

def hasWait (d : Dev) (r : TRec) (carried : Bool) : Bool :=
  match tallyAt d r.gnum with
  | some x => x.waits.any fun w => w.carried == carried && w.step == r.t && w.idx == r.i
  | none => false

def dropWait (d : Dev) (r : TRec) (carried : Bool) : Dev :=
  updTally d r.gnum fun x =>
    { x with waits := x.waits.filter fun w => !(w.carried == carried && w.step == r.t && w.idx == r.i) }

def addWait (d : Dev) (r : TRec) (carried : Bool) : Dev :=
  if hasWait d r carried then d
  else updTally d r.gnum fun x => { x with waits := x.waits ++ [⟨carried, r.t, r.i, d.clock⟩] }

def setClosed (r : TRec) (flag : Nat) : Act Unit := do
  let h ← readHead r
  writeHead r (headWith h r.t flag)

/-- Step `t` is one whose slot an arrival can still reach. -/
def inReach (r : TRec) : Bool := decide (-1 ≤ stepDiff r.t r.x.c)

/-- The carried contributions of step `t` close with step `t + 1`, after a wait of their own for PARTIAL
members (R260). -/
def closeCarry (r : TRec) : Act Unit := do
  if !inReach r then pure ()
  else
    let logs ← readLogs r
    if logs.any (isPartial true) then modify fun d => addWait d r true
    else setClosed r (2 ^ 34)

/-- What closing the main accumulation reads of the step before. -/
def readPrev (r : TRec) : Act Unit := do
  let prev : TRec := { r with t := stepBefore r.t }
  if inReach prev then readRecord prev else pure ()

/-- Closes the main accumulation of a chunk (R260); everything it reads is read before anything changes. -/
def closeMain (r : TRec) : Act Unit := do
  readPrev r
  setClosed r (2 ^ 33)
  modify fun d => dropWait d r false
  closeCarry { r with t := stepBefore r.t }

/-- The deadline of the main accumulation: PARTIAL members are waited for (R260). -/
def deadlineMain (r : TRec) : Act Unit := do
  let h ← readHead r
  if mainClosed h then pure ()
  else
    let logs ← readLogs r
    if logs.any (isPartial false) then modify fun d => addWait d r false else closeMain r

/-- Whether packets that leave these LOG words close a chunk: all members whole, or no PARTIAL one left in the
wait. -/
def mainCloses (d : Dev) (r : TRec) (logs : List Nat) : Bool :=
  logs.all (isWhole false) || (hasWait d r false && !logs.any (isPartial false))

/-- Carried packets that leave no PARTIAL member in the wait close it. -/
def afterCarry (r : TRec) (logs : List Nat) : Act Unit := do
  let d ← get
  if hasWait d r true && !logs.any (isPartial true) then
    setClosed r (2 ^ 34)
    modify fun d => dropWait d r true
  else pure ()

/-! ### Arrivals (R257, R258, Table TLY-4) -/

/-- 2^61 - 1 (R255). -/
def tallyP : Nat := 2 ^ 61 - 1

/-- The weight of element `i` of a chunk (R255). -/
def tallyWeight (seed step chunk i : Nat) : Nat :=
  let k : SrKey := ⟨seed, step, chunk, 0⟩
  let w := (srWord k (2 * i) * 2 ^ 32 + srWord k (2 * i + 1)) % tallyP
  if w = 0 then 1 else w

/-- The check word of elements `from` on, as integers (R255). -/
def tallyCheck (seed step chunk first : Nat) (ms : List Int) : Nat :=
  (ms.foldl (fun (p : Nat × Nat) m =>
    ((p.1 + tallyWeight seed step chunk (first + p.2) * (m % (tallyP : Int)).toNat) % tallyP, p.2 + 1))
    (0, 0)).1

/-- The larger code of each block (R251). -/
def combineCodes (a b : List Byte) : List Byte :=
  ((List.range 64).map fun i => leBytes 2 (max (leAt a (2 * i) 2) (leAt b (2 * i) 2))).flatten

/-- Adds a packet's mantissas to the sums of its 1,024 elements, at the controllers (R74, R179, R258). -/
def addMantissas (r : TRec) (carry : Bool) (x : TPkt) : Act Unit := do
  let off := (if carry then r.carryOff else r.accOff) + 8192 * x.pkt
  dflush r.x.base off 8192
  let old ← dread r.x.base off 8192 .noalloc
  dwrite r.x.base off (((List.range 1024).map fun i =>
    leBytes 8 (wrapN 64 (sext 64 (leAt old (8 * i) 8) + sext 32 (leAt x.payload (4 * i) 4)))).flatten) .noalloc

def tallyStat (p lo : Nat) : Act Unit := modify fun d => rcount d .tlyStat 0 p (lo + 15) lo 1

/-- An EXP packet with its bit clear. -/
def applyExp (r : TRec) (h : List Byte) (logs : List Nat) (x : TPkt) : Act Nat := do
  let logs := setAt logs x.member (logs.getD x.member 0 ||| 2 ^ 32)
  writeLog r x.member (logs.getD x.member 0)
  if expClosed h then
    modify fun d => publish r (headCodes h) d x.member
    pure stOk
  else
    writeHead r (headSetCodes (headWith h r.t 0) (combineCodes (headCodes h) x.payload))
    if logs.all fun w => bit w 32 then closeExp r
    pure stOk

/-- A MANT packet with its bits clear. What it closes is read first, so that a read that fails finds nothing
changed. -/
def applyMant (r : TRec) (h : List Byte) (logs : List Nat) (x : TPkt) : Act Nat := do
  let log := logs.getD x.member 0
  if mainClosed h && !r.x.carry then
    writeLog r x.member (log ||| 2 ^ 33)
    tallyStat r.p 16
    pure stTallyLateDropped
  else
    let late := mainClosed h
    let logs := setAt logs x.member (log ||| 2 ^ (x.pkt + if late then 16 else 0))
    let d ← get
    let closes : Bool := !late && mainCloses d r logs
    if closes then readPrev r
    addMantissas r late x
    writeHead r (headSetSum (headWith h r.t 0) late ((headSum h late + x.check) % tallyP))
    writeLog r x.member (logs.getD x.member 0)
    if late then
      tallyStat r.p 16
      afterCarry r logs
      pure stTallyLateCarried
    else
      if closes then closeMain r
      pure stOk

/-- A read under an arrival fails: nothing is recorded but the FAILED chunk (R258). -/
def arrivalFails (r : TRec) (st : Nat) : Act Nat := do
  tryCatch (markFailed r .dram st) fun stop => match stop with
    | .err _ _ => pure ()
    | .wait n => throw (.wait n)
  pure st

/-- An arriving EXP or MANT packet at partition `p`: its status (R254, R257). -/
def tallyArrive (p : Nat) (x : TPkt) : Act Nat := do
  let d ← get
  match tallyAt d x.gnum, groupAt d x.gnum with
  | some c, some g =>
    if g.members ≤ x.member ∨ memberChip (memberWord d g x.member) ≠ x.src ∨ x.chunk / c.cpm ≠ g.self then
      pure stTallyParam
    else
      let r : TRec := ⟨p, x.gnum, c, g, x.step, x.chunk % c.cpm⟩
      let ahead := stepDiff x.step c.c
      if 1 < ahead then pure stTallyStepAhead
      else if ahead < -1 then
        tallyStat p 32
        pure stTallyStale
      else
        let run : Act Nat := do
          let h ← readHead r
          let logs ← readLogs r
          let log := logs.getD x.member 0
          if ahead = -1 && carryClosed h then
            tallyStat p 32
            pure stTallyStale
          else if x.kind = 0 then
            if bit log 32 then
              tallyStat p 0
              pure stOk
            else applyExp r h logs x
          else if bit log x.pkt then
            tallyStat p 0
            pure stOk
          else if bit log (16 + x.pkt) then
            tallyStat p 0
            pure stTallyLateCarried
          else if bit log 33 then
            tallyStat p 0
            pure stTallyLateDropped
          else applyMant r h logs x
        tryCatch run fun stop => match stop with
          | .err st _ => arrivalFails r st
          | .wait n => throw (.wait n)
  | _, _ => pure stTallyNotOpen

/-- An arriving PUBLISH packet (R259, R261). -/
def publishArrive (d : Dev) (x : TPkt) : Nat × Dev :=
  match tallyAt d x.gnum, groupAt d x.gnum with
  | some c, some g =>
    if g.members ≤ x.member ∨ memberChip (memberWord d g x.member) ≠ x.src ∨
        x.chunk / c.cpm ≠ x.member then (stTallyParam, d)
    else (stOk, keepPub d ⟨x.gnum, x.step, x.chunk, x.payload⟩)
  | _, _ => (stTallyNotOpen, d)

/-! ### Deadlines (R259, R260) -/

/-- SHIFT of a step: the shifts of steps up to and including it (R301). -/
def Bell.shift (b : Bell) (t : Nat) : Int :=
  ((b.shifts.filter fun e => decide (stepDiff e.1 t ≤ 0)).map (·.2.2)).sum

/-- BELL(t) (R301). -/
def Bell.time (b : Bell) (t : Nat) : Int := b.t0 + stepDiff t b.s0 * b.period + b.shift t

/-- The records of step `t` of a LATE_TOLERANT context whose deadline, `lead` before the close, has
come. -/
def dueRecords (d : Dev) (gnum t : Nat) (lead : TallyCtx → Nat) : List TRec :=
  let p := partOfGroup d gnum
  match tallyAt d gnum, groupAt d gnum, (fabPart d p).bell with
  | some x, some g, some b =>
    if x.late ∧ -1 ≤ stepDiff t x.c ∧ stepDiff t x.c ≤ 1 ∧ 0 ≤ stepDiff t x.s0 ∧
        b.time t + x.closeOff - lead x ≤ d.ns then
      (List.range x.cpm).map fun i => ⟨p, gnum, x, g, t, i⟩
    else []
  | _, _, _ => []

/-- Runs what the device does to records on its own: a record that cannot be read is left; a write that
must wait for the companion leaves everything for the next try. -/
def runRecords (d : Dev) (rs : List TRec) (f : TRec → Act Unit) : Dev :=
  let one (r : TRec) : Act Unit := tryCatch (f r) fun stop => match stop with
    | .err _ _ => pure ()
    | .wait n => throw (.wait n)
  match (rs.forM one).go d with
  | (.error (.wait n), d') => waitDev d d' n
  | (_, d') => d'

/-- The end of a wait for PARTIAL members (R260). -/
def partialEnds (w : TallyWait) (r : TRec) : Act Unit := do
  if w.carried then
    markFailed { r with t := (r.t + 1) % 2 ^ 32 } .late stTallyPartial
    setClosed r (2 ^ 34)
    modify fun d => dropWait d r true
  else
    markFailed r .late stTallyPartial
    closeMain r

/-- PARTIAL_WAIT_EXPIRY: 1 ms has passed for a chunk's PARTIAL members. -/
def execPartialWaitExpiry (gnum chunk step now : Nat) (s : State) : Host.Outcome State Fault Refusal :=
  onDev s fun d =>
    let d := advanceTo d now
    match tallyAt d gnum, groupAt d gnum with
    | some x, some g =>
      let due := x.waits.filter fun w =>
        w.step == step && g.self * x.cpm + w.idx == chunk && decide (w.since + 1000000 ≤ d.clock)
      due.foldl (fun d w => runRecords d [⟨partOfGroup d gnum, gnum, x, g, step, w.idx⟩] (partialEnds w)) d
    | _, _ => d

/-! ### TALLY_OPEN (R249) -/

/-- Zeroes a part of a data range. -/
def dclear (base o len : Nat) : Act Unit := do
  let d ← get
  (dataRunsOf d (dataAddr d base o) len).forM fun (pa, k) => do
    let d ← get
    if isBusy d (bandOf pa) then Act.fail stBandBusy pa
    else
      match heldIn_ d pa (pa + k) with
      | some line => throw (.wait (.snoop line true))
      | none =>
        let out (a : Nat) : Bool := decide (a < pa) || decide (pa + k ≤ a)
        let d := qcClear d pa k
        let tags := d.mem.tagErr.filter fun e =>
          (List.range (k / 64)).all fun i => checkLineOf (isCorrect d (bandOf pa)) (pa + 64 * i) != e.1
        let d := { d with
          mem.bytes := bytesClear d.mem.bytes pa k
          mem.lineErr := mkeep out d.mem.lineErr
          mem.tagErr := tags }
        set ((streamLines d pa (pa + k)).foldl touchLine d)

/-- Commands of a group that a CLOSE ends with TALLY_NOT_OPEN. -/
def endTallyCmds (d : Dev) (gnum : Nat) : Dev :=
  d.hub.queues.foldl (fun d e => e.2.cmds.foldl (fun d y =>
    if y.st = .started ∧ (y.opcode = 0x0501 ∨ y.opcode = 0x0502) ∧ y.param 0 % 4096 = gnum then
      finishFree d e.1 y.seq stTallyNotOpen
    else d) d) d

/-- A context ends. -/
def closeTally (d : Dev) (gnum : Nat) : Dev :=
  { d with
    tally.ctxs := merase d.tally.ctxs gnum
    tally.pubs := d.tally.pubs.filter fun x => x.group ≠ gnum }

/-- The context that an OPEN asks for. -/
def tallyOf (y : Cmd) : TallyCtx where
  late := bit (y.param 0) 16
  carry := bit (y.param 0) 17
  base := bits (y.param 1) 47 0
  cpm := bits (y.param 2) 31 0
  s0 := bits (y.param 3) 31 0
  closeOff := bits (y.param 4) 31 0
  expLead := bits (y.param 4) 63 32
  c := bits (y.param 3) 31 0
  waits := []
  sets := []
  fired := []

def tallyRegion (x : TallyCtx) (g : Group) : Nat := 4 * x.cpm * recordBytes x.carry g

/-- The fields of an OPEN are in range (Table TLY-1). -/
def TallyCtx.fieldsOk (x : TallyCtx) : Bool :=
  (x.late || !x.carry) && decide (1 ≤ x.cpm ∧ x.cpm ≤ 65536) && x.base % 65536 == 0 &&
    (!x.late || decide (1000 ≤ x.closeOff ∧ x.expLead < x.closeOff))

/-- The count of a TALLY_CONTRIBUTE and its source address (R261). -/
def Cmd.contribOk (y : Cmd) : Bool := bits (y.param 3) 63 32 != 0 && y.param 2 % 64 == 0

/-- The area addresses of a TALLY_FINISH (R262). -/
def Cmd.areasOk (y : Cmd) : Bool := y.param 2 % 64 == 0 && y.param 3 % 64 == 0

def tallyOpenOk (d : Dev) (p : Nat) (x : TallyCtx) (g : Group) : Bool :=
  x.fieldsOk && dataRangeOk d p x.base (tallyRegion x g) (some true)

/-- TALLY_OPEN: the region is zeroed, then the context is open. -/
def execTallyOpen (q k : Nat) (s : State) : Host.Outcome State Fault Refusal :=
  onDev s fun d => onStarted d q k 0x0503 fun y =>
    let gnum := y.param 0 % 4096
    let p := partOfQueue d q
    if bit (y.param 0) 18 then d
    else if (tallyAt d gnum).isSome then finishFree d q k stTallyContextState
    else
      match groupAt d gnum with
      | none => finishFree d q k stTallyParam
      | some g =>
        let x := tallyOf y
        groupTurn d g (fun st d => finishFree d q k st) fun d =>
        if tallyOpenOk d p x g = false then finishFree d q k stTallyParam
        else cmdAct d (dclear x.base 0 (tallyRegion x g)) (fun st _ d => finishFree d q k st) fun _ d =>
          finishFree { d with tally.ctxs := mput d.tally.ctxs gnum x } q k stOk

/-- TALLY_CLOSE: TALLY_OPEN with CLOSE. -/
def execTallyClose (q k : Nat) (s : State) : Host.Outcome State Fault Refusal :=
  onDev s fun d => onStarted d q k 0x0503 fun y =>
    let gnum := y.param 0 % 4096
    if bit (y.param 0) 18 = false then d
    else
      match tallyAt d gnum, groupAt d gnum with
      | some _, some g =>
        groupTurn d g (fun st d => finishFree d q k st) fun d =>
          finishFree (closeTally (endTallyCmds d gnum) gnum) q k stOk
      | _, _ => finishFree d q k stTallyNotOpen

/-! ### TALLY_CONTRIBUTE (R251, R252, R261) -/

/-- The exponent code of a block of FP32 codes (R251). -/
def blockCode (cs : List Nat) : Nat :=
  if cs.any fun c => bits c 30 23 == 255 then 0xFFFF
  else
    match (cs.map fun c => (decodeF fp32 c).abs).foldl maxX (.fin false 0 0) with
    | .fin _ man exp => if man = 0 then 0 else (0x0100 + (ilog2 man exp + 1)).toNat
    | _ => 0xFFFF

/-- FP32 codes of a chunk, and its exponent codes. -/
def fp32s (bs : List Byte) : List Nat := (cut 4 bs).map leNat
def chunkCodes (bs : List Byte) : List Byte := ((cut 256 (fp32s bs)).map fun b => leBytes 2 (blockCode b)).flatten

/-- The integer nearest to a finite value, ties to even. -/
def nearestInt : Fx → Int
  | .fin s m e =>
    if 0 ≤ e then signedAt s m e 0
    else
      let n := 2 ^ (-e).toNat
      let v : Nat := m / n + (if n < 2 * (m % n) ∨ (2 * (m % n) = n ∧ m / n % 2 = 1) then 1 else 0)
      if s then -(v : Int) else v
  | _ => 0

/-- One mantissa under an agreed code, and whether it counts as clamped (R252). A NaN in a block with a finite
code holds the free value `f`. -/
def mantissa (code c : Nat) (f : Word) : Int × Bool :=
  let top (s : Bool) : Int := if s then -(2 ^ 31 - 1) else 2 ^ 31 - 1
  let v := decodeF fp32 c
  if code = 0xFFFF then (0, false)
  else if code = 0 then (0, match v with
    | .fin _ m _ => m != 0
    | _ => false)
  else
    match v with
    | .fin s _ _ =>
      let m := nearestInt (scaleX v (30 - ((code : Int) - 0x0100)))
      if 2 ^ 31 ≤ m.natAbs then (top s, true) else (m, false)
    | .inf s => (top s, true)
    | .nan => (sext 32 f.toNat, true)

/-- The mantissas of a chunk and the number of clamped ones; `f` gives free words for elements without a
stated mantissa. -/
def mantissas (codes : List Byte) (bs : List Byte) (f : Nat → Word) : List Int × Nat :=
  let cs := fp32s bs
  let ms := ((List.range cs.length).zip cs).map fun (i, c) => mantissa (leAt codes (2 * (i / 256)) 2) c (f i)
  (ms.map (·.1), (ms.filter (·.2)).length)

/-- The 16 MANT packets of a chunk (R254, R255). -/
def mantPkts (g : Group) (gnum step chunk src : Nat) (ms : List Int) : List TPkt :=
  let ps := cut 1024 ms
  ((List.range ps.length).zip ps).map fun (i, p) =>
    ⟨1, gnum, g.self, step, chunk, i, tallyCheck g.seed step chunk (1024 * i) p, src,
      (p.map fun m => leBytes 4 (wrapN 32 m)).flatten⟩

/-- What a TALLY_CONTRIBUTE knows of itself: its chunks in the order of R253, with their owners. -/
structure Contrib where
  p : Nat
  gnum : Nat
  g : Group
  step : Nat
  va : Nat
  first : Nat
  count : Nat
  order : List (Nat × Nat)

def contribOf (d : Dev) (q : Nat) (y : Cmd) (x : TallyCtx) (g : Group) : Contrib :=
  let f := bits (y.param 3) 31 0
  let n := bits (y.param 3) 63 32
  let owned (j : Nat) : List (Nat × Nat) :=
    ((List.range x.cpm).map fun i => (j * x.cpm + i, j)).filter fun e => decide (f ≤ e.1 ∧ e.1 < f + n)
  ⟨partOfQueue d q, y.param 0 % 4096, g, bits (y.param 1) 31 0, y.param 2, f, n,
    ((sendOrder d g).map owned).flatten⟩

def isBad (y : Cmd) (chunk : Nat) : Bool := y.aux2.contains (2 * chunk)
def isSent (y : Cmd) (chunk : Nat) : Bool := y.aux2.contains (2 * chunk + 1)

/-- A chunk's packets were answered with a status at once. -/
def answered (q k chunk status : Nat) (d : Dev) : Dev :=
  updCmd d q k (Cmd.told (2 ^ 20) status (if status = stOk then [] else [2 * chunk]))

/-- A source that cannot be read ends the sending; the command ends with the status once its packets
are answered. -/
def contribStops (q k st : Nat) (d : Dev) : Dev :=
  updCmd d q k fun y => { y with step := 2 ^ 33, status := max y.status st }

/-- Hands packets of a chunk to its owner; where it has to wait, the turn leaves `before`. -/
def sendTally (before d : Dev) (q k : Nat) (z : Contrib) (chunk owner : Nat) (pkts : List TPkt)
    (note : Cmd → Cmd) : Dev :=
  let w := memberWord d z.g owner
  if owner = z.g.self then
    let act : Act Nat := pkts.foldlM (fun st x => do
      let r ← tallyArrive z.p x
      pure (max st r)) stOk
    cmdActFrom before d act (fun _ _ d => d) fun st d => answered q k chunk st (updCmd d q k note)
  else if memberState d z.p w = 1 then answered q k chunk stTallyMemberLost (updCmd d q k note)
  else
    match startXact (updCmd d q k note) z.p (memberChip w) (.tally q k chunk) 0 0 0 (noteCmd q k)
        fun _ => pkts.map tallyFrame with
    | .ok d _ => d
    | .wait => before

/-- The exponents of the next chunk. -/
def sendExp (d : Dev) (q k : Nat) (z : Contrib) (chunk owner : Nat) : Dev :=
  cmdAct d (vread (spaceOf d q) (z.va + chunkBytes * (chunk - z.first)) chunkBytes)
    (fun st _ d => contribStops q k st d) fun bs d1 =>
      sendTally d d1 q k z chunk owner
        [⟨0, z.gnum, z.g.self, z.step, chunk, 0, 0, chipId d z.p, chunkCodes bs⟩]
        fun y => { y with step := y.step + 1 }

/-- The mantissas of a published chunk. -/
def sendMant (d : Dev) (q k : Nat) (z : Contrib) (chunk owner : Nat) (codes : List Byte) : Dev :=
  cmdAct d (vread (spaceOf d q) (z.va + chunkBytes * (chunk - z.first)) chunkBytes)
    (fun st _ d => contribStops q k st d) fun bs d1 =>
      let (ms, n) := mantissas codes bs fun i => Config.freeValue (d1.free + i)
      let d2 : Dev := { d1 with free := d1.free + (fp32s bs).length }
      sendTally d (rcount d2 .tlyStat 0 z.p 63 48 n) q k z chunk owner
        (mantPkts z.g z.gnum z.step chunk (chipId d z.p) ms)
        fun y => { y with aux2 := y.aux2 ++ [2 * chunk + 1] }

/-- The command ends: the publications kept for it go. -/
def contribEnds (d : Dev) (q k : Nat) (z : Contrib) (st n : Nat) : Dev :=
  finishCmd { d with
    tally.pubs := d.tally.pubs.filter fun x =>
      !(x.group == z.gnum && x.step == z.step && decide (z.first ≤ x.chunk ∧ x.chunk < z.first + z.count)) }
    q k st (toW n)

/-- Chunks still to send mantissas for, and the first that is published. -/
def nextMant (d : Dev) (y : Cmd) (z : Contrib) : Option (Nat × Nat × List Byte) :=
  z.order.findSome? fun (c, j) =>
    if isBad y c || isSent y c then none
    else (d.tally.pubs.find? fun x => x.group == z.gnum && x.step == z.step && x.chunk == c).map
      fun x => (c, j, x.codes)

/-- A chunk that is not published and whose owner is lost (R265). -/
def lostOwner (d : Dev) (y : Cmd) (z : Contrib) : Option Nat :=
  (z.order.find? fun (c, j) => !isBad y c && !isSent y c && memberState d z.p (memberWord d z.g j) == 1).map (·.1)

/-- TALLY_CONTRIBUTE: first the exponents of each chunk, then the mantissas of those published. -/
def execTallyContribute (q k : Nat) (s : State) : Host.Outcome State Fault Refusal :=
  onDev s fun d => onStarted d q k 0x0501 fun y =>
    let gnum := y.param 0 % 4096
    match tallyAt d gnum, groupAt d gnum with
    | some x, some g =>
      let z := contribOf d q y x g
      if y.contribOk = false ∨ g.members * x.cpm < z.first + z.count then
        finishFree d q k stTallyParam
      else if y.step = 2 ^ 33 then if y.aux.isEmpty then finishFree d q k y.status else d
      else
        groupTurn d g (fun st d => contribStops q k st d) fun d =>
        match z.order[y.step]? with
        | some (c, j) => sendExp d q k z c j
        | none =>
          match nextMant d y z, lostOwner d y z with
          | some (c, j, codes), _ => sendMant d q k z c j codes
          | none, some c => answered q k c stTallyMemberLost d
          | none, none =>
            let bad := (z.order.filter fun e => isBad y e.1).length
            if y.aux.isEmpty ∧ z.order.all (fun e => isBad y e.1 || isSent y e.1) then
              contribEnds d q k z y.status (z.count - bad)
            else d
    | _, _ => finishFree d q k stTallyNotOpen

/-! ### TALLY_FINISH (R256, R262) -/

/-- Bytes of a member set. -/
def setBytes (g : Group) : Nat := 64 * ((g.members + 511) / 512)

def memberSet (g : Group) (carry : Bool) (logs : List Nat) : List Byte :=
  let bs := packBits (logs.map (isWhole carry))
  bs ++ List.replicate (setBytes g - bs.length) 0

def sumsOf (bs : List Byte) : List Int := (cut 8 bs).map fun b => sext 64 (leNat b)

/-- One addend of a result element: its sum under the agreed code of its block; none when the block is
not finite. -/
def tallyTerm (code : Nat) (m : Int) : Option Fx :=
  if code = 0xFFFF then none
  else if code = 0 then some (.fin false 0 0)
  else some (.fin (decide (m < 0)) m.natAbs ((code : Int) - 0x0100 - 30))

/-- The result of a chunk that is not FAILED. -/
def tallyResult (codes : List Byte) (acc : List Int) (carry : Option (List Byte × List Int)) : List Byte :=
  ((List.range 16384).map fun i =>
    let a := tallyTerm (leAt codes (2 * (i / 256)) 2) (acc.getD i 0)
    let b := match carry with
      | some (cs, ms) => tallyTerm (leAt cs (2 * (i / 256)) 2) (ms.getD i 0)
      | none => some (.fin false 0 0)
    let x : Fx := match a, b with
      | some u, some v => (addX .near u v).1
      | _, _ => .nan
    leBytes 4 (roundF true fp32 .near 0 x).1).flatten

/-- A member of a STRICT group is lost before its packets were complete (R260): the chunk fails and
closes, so that the step can end (log 32). -/
def strictLost (r : TRec) : Act Unit := do
  let h ← readHead r
  if r.x.late || mainClosed h then pure ()
  else
    let logs ← readLogs r
    let d ← get
    if (List.range r.g.members).any fun j =>
        memberState d r.p (memberWord d r.g j) == 1 && !isWhole false (logs.getD j 0) then
      markFailed r .lost stTallyMemberLost
      closeMain r
    else pure ()

/-- Compares sums with the check words (R256). -/
def checkSums (r prev : TRec) (acc : List Int) (carry : Option (List Int)) : Act Unit := do
  let h ← readHead r
  let bad : Bool := tallyCheck r.g.seed r.t r.chunk 0 acc != headSum h false
  match carry with
  | none => if bad then markFailed r .check stTallyCheckMismatch
  | some ms =>
    let hp ← readHead prev
    if bad || tallyCheck r.g.seed prev.t r.chunk 0 ms != headSum hp true then
      markFailed r .check stTallyCheckMismatch

/-- Finishes one owned chunk: none while it must wait, else its failure status (0 for none) and its sets. -/
def finishChunk (r : TRec) (result mask : Nat) : Act (Option (Nat × List Byte)) := do
  strictLost r
  let prev : TRec := { r with t := stepBefore r.t }
  let h ← readHead r
  let hp ← readHead prev
  if !mainClosed h || (r.x.carry && !carryClosed hp) then pure none
  else
    let read : Act (List Int × Option (List Int)) := do
      let acc ← dread r.x.base r.accOff sumBytes
      if r.x.carry then
        let c ← dread r.x.base prev.carryOff sumBytes
        pure (sumsOf acc, some (sumsOf c))
      else pure (sumsOf acc, none)
    let sums ← tryCatch (some <$> read) fun stop => match stop with
      | .err st _ => do
        markFailed r .dram st
        pure none
      | .wait n => throw (.wait n)
    match sums with
    | some (acc, carry) => checkSums r prev acc carry
    | none => pure ()
    let h ← readHead r
    let out := match headFailed h, sums with
      | false, some (acc, carry) => tallyResult (headCodes h) acc (carry.map fun ms => (headCodes hp, ms))
      | _, _ => (List.replicate 16384 (leBytes 4 fp32.nanCode)).flatten
    dwrite result (chunkBytes * r.i) out
    let logs ← readLogs r
    let old ← readLogs prev
    let carried := if r.x.carry then old else old.map fun _ => 0
    let sets := memberSet r.g false logs ++ memberSet r.g true carried
    dwrite mask (2 * setBytes r.g * r.i) sets
    pure (some (if headFailed h then leAt h 0x18 2 else 0, sets))

/-- The areas of R262: valid data ranges apart from the state region. -/
def finishAreasOk (d : Dev) (p : Nat) (x : TallyCtx) (g : Group) (result mask : Nat) : Bool :=
  let apart (a n : Nat) : Bool :=
    decide (dataAddr d a (n - 1) < x.base) || decide (dataAddr d x.base (tallyRegion x g - 1) < a)
  let n := chunkBytes * x.cpm
  let m := x.cpm * 2 * setBytes g
  result % 64 == 0 && mask % 64 == 0 && dataRangeOk d p result n none && dataRangeOk d p mask m none &&
    apart result n && apart mask m

/-- TALLY_FINISH: the owned chunks in order, each once it has closed, then the slot of step s + 2. -/
def execTallyFinish (q k : Nat) (s : State) : Host.Outcome State Fault Refusal :=
  onDev s fun d => onStarted d q k 0x0502 fun y =>
    let gnum := y.param 0 % 4096
    let p := partOfQueue d q
    let t := bits (y.param 1) 31 0
    match tallyAt d gnum, groupAt d gnum with
    | some x, some g =>
      if t ≠ x.c then finishFree d q k stTallyContextState
      else if finishAreasOk d p x g (y.param 2) (y.param 3) = false then finishFree d q k stTallyParam
      else if y.step < x.cpm then
        groupTurn d g (fun st d => finishFree d q k st) fun d =>
        cmdAct d (finishChunk ⟨p, gnum, x, g, t, y.step⟩ (y.param 2) (y.param 3))
          (fun st _ d => finishFree d q k st) fun r d =>
            match r with
            | none => d
            | some (st, sets) => updCmd d q k fun z =>
              { z with
                step := z.step + 1
                buf := z.buf ++ sets
                status := max z.status st
                aux := [z.aux.headD 0 + (if st = stOk then 0 else 1)] }
      else
        let n := x.cpm * recordBytes x.carry g
        cmdAct d (dclear x.base ((t + 2) % 4 * n) n) (fun st _ d => finishFree d q k st) fun _ d =>
          finishCmd (updCmd d q k fun z => { z with aux2 := [1] }) q k y.status
            (toW (x.cpm - y.aux.headD 0))
    | _, _ => finishFree d q k stTallyNotOpen

/-- A TALLY_FINISH of a context has started and not finished. -/
def finishWaits (d : Dev) (gnum : Nat) : Bool :=
  d.hub.queues.any fun e => e.2.cmds.any fun y =>
    y.st == .started && y.opcode == 0x0502 && y.param 0 % 4096 == gnum

/-- A write of TLY_CTX_SEL selects a group and takes one snapshot of its context's state (R257). -/
def selectTally (d : Dev) (v : Word) : Dev :=
  let g := wbits v 11 0
  let w := match tallyAt d g with
    | some x => 1 + x.late.toNat * 2 + x.carry.toNat * 4 + (finishWaits d g).toNat * 8 + x.c * 2 ^ 32
    | none => 0
  rset (rset d .tlyCtxSel 0 0 (toW g)) .tlyCtxState 0 0 (toW w)

/-- TLY_CTX_SEL_WRITE. -/
def execTlyCtxSelWrite (v : Word) (s : State) : Host.Outcome State Fault Refusal :=
  onDev s fun d => selectTally d v

end Sys2Proof.Machine
end

