-- ==== Sys2Proof/Machine/Groups.lean ====
section
/-!
DEFINITION. Groups, expert dispatch and the Departure Bell as commands: GROUP_SET, GROUP_CLEAR,
DISPATCH_TABLE_LOAD, DISPATCH, BELL_ARM and BELL_DISARM (R290, R291, R294 to R296, R301).
-/

namespace Sys2Proof.Machine

/-! ### GROUP_SET (R290) -/

/-- A started command that names a group. -/
def namesGroup (gnum : Nat) (y : Cmd) : Bool :=
  y.st == .started &&
  match y.opcode with
  | 0x0401 => y.param 1 % 4 == 3 && bits (y.param 3) 11 0 == gnum
  | 0x0403 => (y.param 1 % 4 == 1 || y.param 1 % 4 == 2) && bits (y.param 3) 11 0 == gnum
  | 0x0404 => bits (y.param 2) 11 0 == gnum
  | 0x0501 => y.param 0 % 4096 == gnum
  | 0x0502 => y.param 0 % 4096 == gnum
  | 0x0503 => y.param 0 % 4096 == gnum
  | 0x0A01 => y.param 0 % 4096 == gnum
  | 0x0A03 => bits (y.param 3) 11 0 == gnum || bits (y.param 3) 27 16 == gnum
  | _ => false

/-- The group is in use: an open tally context, a bound KV bank, or another command in flight. -/
def groupBusy (d : Dev) (gnum q k : Nat) : Bool :=
  (tallyAt d gnum).isSome || d.ledger.banks.any (fun e => e.1 / 2 == gnum) ||
    d.hub.queues.any fun e => e.2.cmds.any fun y => namesGroup gnum y && (e.1 != q || y.seq != k)

/-- Entries of the group are still to be written in its image. -/
def editsLeft (d : Dev) (gnum : Nat) : Bool := ((groupAt d gnum).map (editsOf d)).getD false

/-- Every run of the image lies in the data of CORRECT bands of partition `p`. -/
def imagePlaced (d : Dev) (p : Nat) (runs : List (Nat × Nat)) : Bool :=
  runs.all fun (pa, n) =>
    inPartDram d p pa n &&
    (List.range (bandOf (pa + n - 1) + 1 - bandOf pa)).all fun i =>
      isCorrect d (bandOf pa + i) &&
        decide (min (pa + n) ((bandOf pa + i + 1) * bandBytes) ≤
          (bandOf pa + i) * bandBytes + dataLen true)

/-- The checks of R290 on an image. -/
def groupImageOk (d : Dev) (p : Nat) (img : List Byte) : Bool :=
  let g := leAt img 4 4
  let self := leAt img 8 4
  let words := (List.range g).map fun j => leAt img (0x40 + 8 * j) 8
  let ids := words.map memberChip
  leAt img 0 4 == 1 && decide (1 ≤ g ∧ g ≤ 131072) && decide (self < g) && leAt img 0x0C 4 == 0 &&
    (nonZero img 0x18 40).isNone && words.all (fun w => bits w 63 42 == 0 && bits w 41 40 != 3) &&
    ids.all (fun c => !chipBad c) && decide ids.Nodup &&
    chipIdValid d p && ids.getD self 0 == chipId d p

/-- Reads an image in place: its runs and its bytes. -/
def groupImage (sp : Space) (va : Nat) : Act (List (Nat × Nat) × List Byte) := do
  let head ← vread sp va 64
  let g := leAt head 4 4
  if 131072 < g then pure ([], head)
  else
    let runs ← physRuns sp va (64 + 8 * g) true
    let img ← vread sp va (64 + 8 * g)
    pure (runs, img)

def execGroupSet (q k : Nat) (s : State) : Host.Outcome State Fault Refusal :=
  onDev s fun d => onStarted d q k 0x0A01 fun y =>
    let gnum := y.param 0 % 4096
    let p := partOfQueue d q
    if bit (y.param 0) 16 ∨ editsLeft d gnum then d
    else if groupBusy d gnum q k then finishFree d q k stGroupBusy
    else if y.param 1 % 64 ≠ 0 then finishFree d q k stGroupParam
    else cmdAct d (groupImage (spaceOf d q) (y.param 1)) (fun st _ d => finishFree d q k st)
      fun (runs, img) d =>
        if groupImageOk d p img && imagePlaced d p runs then
          let g : Group := ⟨y.param 1, runs, leAt img 4 4, leAt img 8 4, leAt img 0x10 8⟩
          finishFree { d with fab.groups := mput d.fab.groups gnum g } q k stOk
        else finishFree d q k stGroupParam

def execGroupClear (q k : Nat) (s : State) : Host.Outcome State Fault Refusal :=
  onDev s fun d => onStarted d q k 0x0A01 fun y =>
    let gnum := y.param 0 % 4096
    if bit (y.param 0) 16 = false ∨ editsLeft d gnum then d
    else if groupBusy d gnum q k then finishFree d q k stGroupBusy
    else finishFree { d with fab.groups := merase d.fab.groups gnum } q k stOk

/-! ### The dispatch table (R294) -/

/-- Fields of a dispatch image. -/
def dspCount (img : List Byte) : Nat := leAt img 4 4
def dspGroup (img : List Byte) : Nat := bits (leAt img 8 4) 11 0
def dspSem (img : List Byte) : Nat := bits (leAt img 0x0C 4) 16 0
def dspChip (img : List Byte) (e : Nat) : Nat := bits (leAt img (0x40 + 32 * e) 8) 19 0
def dspQuota (img : List Byte) (e : Nat) : Nat := bits (leAt img (0x40 + 32 * e) 8) 47 32
def dspSlotBase (img : List Byte) (e : Nat) : Nat := leAt img (0x48 + 32 * e) 8
def dspCountBase (img : List Byte) (e : Nat) : Nat := leAt img (0x50 + 32 * e) 8

/-- A base: a local physical address, a multiple of 64. -/
def dspBaseBad (a : Nat) : Bool := a % 64 != 0 || decide (2 ^ 48 ≤ a)

/-- The first failing field of an image whose length says `n` experts (R294, log 33). -/
def dispatchBad (n : Nat) (img : List Byte) : Option Nat :=
  let expert (e : Nat) : Option Nat :=
    let o := 0x40 + 32 * e
    let w := leAt img o 8
    if bits w 31 20 ≠ 0 ∨ bits w 63 48 ≠ 0 then some o
    else if dspBaseBad (dspSlotBase img e) then some (o + 8)
    else if dspBaseBad (dspCountBase img e) then some (o + 16)
    else nonZero img (o + 24) 8
  List.findSome? id (
    [if leAt img 0 4 = 1 then none else some 0,
      if 1 ≤ dspCount img ∧ dspCount img ≤ 65536 ∧ dspCount img = n then none else some 4,
      if bits (leAt img 8 4) 31 12 = 0 then none else some 8,
      if bits (leAt img 0x0C 4) 31 17 = 0 then none else some 0x0C,
      nonZero img 0x10 48] ++ (List.range n).map expert)

/-- DISPATCH_TABLE_LOAD: loads of one partition run one at a time, in acceptance order (R125, R294). -/
def execDispatchTableLoad (q k : Nat) (s : State) : Host.Outcome State Fault Refusal :=
  onDev s fun d => onStarted d q k 0x0A02 fun y =>
    let p := partOfQueue d q
    let len := y.param 1
    let n := (len - 64) / 32
    if y.step = 0 then
      if loadTurn d q y .dispatch then
        updCmd (setGen d .dispatch p { genAt d .dispatch p with loading := some (q, k) }) q k fun y =>
          { y with step := 1 }
      else d
    else if len < 96 ∨ len ≠ 64 + 32 * n ∨ 65536 < n then finishCmd d q k stTableInvalid 4
    else
      cmdAct d (vread (spaceOf d q) (y.param 0) len) (fun st _ d => finishFree d q k st)
        fun img d =>
          match dispatchBad n img with
          | some o => finishCmd d q k stTableInvalid (toW o)
          | none =>
            let g := genAt d .dispatch p
            finishCmd (setGen d .dispatch p { g with shadow := img, pending := true })
              q k stOk (toW (genNext g.active))

/-! ### DISPATCH (R295, R296) -/

/-- Fields of a DISPATCH. -/
structure Disp where
  p : Nat
  space : Space
  rows : Nat
  list : Nat
  n : Nat
  bytes : Nat
  k : Nat
  c : Nat
  reroute : Bool
  step : Nat
  map : Nat
deriving DecidableEq, Repr

def dispOf (d : Dev) (q : Nat) (y : Cmd) : Disp where
  p := partOfQueue d q
  space := spaceOf d q
  rows := y.param 0
  list := y.param 1
  n := bits (y.param 2) 31 0
  bytes := 64 * bits (y.param 2) 42 32
  k := bits (y.param 2) 46 43
  c := bits (y.param 2) 50 47
  reroute := bit (y.param 2) 51
  step := bits (y.param 3) 31 0
  map := y.param 4

/-- The fields of a DISPATCH are in range. -/
def Cmd.dispOk (y : Cmd) : Bool :=
  let n := bits (y.param 2) 31 0
  let units := bits (y.param 2) 42 32
  let k := bits (y.param 2) 46 43
  let c := bits (y.param 2) 50 47
  decide (1 ≤ n ∧ n ≤ 2 ^ 24) && decide (1 ≤ units ∧ units ≤ 1024) && decide (1 ≤ k ∧ k ≤ 8) &&
    decide (k ≤ c ∧ c ≤ 8)

/-- The placement of one token: its map entries, the choices placed as (expert, slot), the counts. -/
structure Placed where
  map : List Nat
  sends : List (Nat × Nat)
  used : List Nat
deriving DecidableEq, Repr

/-- Choices `r` on of one token (R295). -/
def placeFrom (x : Disp) (img : List Byte) (route : List Nat) : List Nat → Nat → Placed → Placed
  | [], _, z => z
  | e :: rest, r, z =>
    let skip : Bool := z.sends.length == x.k || (!x.reroute && decide (x.k ≤ r)) ||
      decide (dspCount img ≤ e) || (route.take r).contains e
    let u := z.used.getD e 0
    let z := if skip || !decide (u < dspQuota img e) then { z with map := z.map ++ [0xFFFFFFFF] }
      else ⟨z.map ++ [u], z.sends ++ [(e, u)], setAt z.used e (u + 1)⟩
    placeFrom x img route rest (r + 1) z

/-- A failed read or write ends the command with its status once its transactions are answered. -/
def dispStops (q k st : Nat) (d : Dev) : Dev :=
  updCmd d q k fun y => { y with step := 2 ^ 33, status := max y.status st }

/-- Packets of one row to an expert's slot (Table FAB-4). -/
def dispFrames (x : Disp) (e u addr : Nat) (row : List Byte) (t : Nat) : List Frame :=
  let ps := packetsOf row
  (numbered ps).map fun (i, pl) =>
    { emptyFrame with
      type := 5
      last := i + 1 = ps.length
      area := t + i * 2 ^ 14 + (addr + 4096 * i) % 2 ^ 44 * 2 ^ 32 + e * 2 ^ 76 + u * 2 ^ 92 +
        x.step * 2 ^ 108
      payload := pl }

/-- Writes bytes at a target chip: here, or as a transaction of the command. None when no transaction is
free. -/
def dispWrite (q k : Nat) (x : Disp) (chip addr : Nat) (bs : List Byte) (src : PktSrc) (mk : Nat → List Frame) :
    Act (Option Unit) := do
  let d ← get
  if chipIdValid d x.p ∧ chip = chipId d x.p then
    if localOk d x.p addr bs.length then
      writePhys .software addr bs
      pure (some ())
    else Act.fail stTargetRefused addr
  else
    match startXact d x.p chip (.cmd q k) addr 0 0 (noteCmd q k) mk src.each with
    | .ok d _ =>
      set d
      pure (some ())
    | .wait => pure none

/-- One token: its row goes to each place, its map entries are written. -/
def dispToken (q k : Nat) (x : Disp) (self i : Nat) (img : List Byte) (used : List Nat) :
    Act (Option Placed) := do
  let route ← vread x.space (x.list + 4 * x.c * i) (4 * x.c)
  let es := (cut 4 route).map fun b => leNat b % 65536
  let z := placeFrom x img es es 0 ⟨[], [], used⟩
  let row ← if z.sends.isEmpty then pure [] else vread x.space (x.rows + x.bytes * i) x.bytes
  let rs ← z.sends.mapM fun (e, u) =>
    let addr := dspSlotBase img e + (self * dspQuota img e + u) * x.bytes
    dispWrite q k x (dspChip img e) addr row
      (.virt x.space.asid x.space.unit (x.rows + x.bytes * i)) (dispFrames x e u addr row)
  vwrite x.space (x.map + 4 * x.c * i) (z.map.map (leBytes 4)).flatten
  pure (if rs.all Option.isSome then some z else none)

/-- Distinct targets of a table, in order of first appearance. -/
def dspTargets (img : List Byte) : List Nat :=
  (List.range (dspCount img)).foldl (fun ts e =>
    if ts.contains (dspChip img e) then ts else ts ++ [dspChip img e]) []

/-- Signals one target. -/
def dispSignal (d : Dev) (q k : Nat) (x : Disp) (img : List Byte) (chip : Nat) : Dev :=
  let next (d : Dev) : Dev := updCmd d q k fun y => { y with step := y.step + 1 }
  if chipIdValid d x.p ∧ chip = chipId d x.p then
    if partOfSem d (dspSem img) = x.p then next (semAdd d (dspSem img) 1)
    else updCmd (next d) q k fun y => { y with status := max y.status stTargetRefused }
  else
    match startXact (next d) x.p chip (.cmd q k) 0 0 0 (noteCmd q k) fun _ => [semFrame (dspSem img) 1] with
    | .ok d _ => d
    | .wait => d

/-- DISPATCH: `aux` holds its transactions and, from 2^20 on, its window writes, `aux2` the drops and the counts by expert, `buf` the table in force at its start. -/
def execDispatch (q k : Nat) (s : State) : Host.Outcome State Fault Refusal :=
  onDev s fun d => onStarted d q k 0x0A04 fun y =>
    let x := dispOf d q y
    let img := y.buf
    let ne := dspCount img
    let fail (st _ : Nat) (d : Dev) : Dev := dispStops q k st d
    if y.step = 2 ^ 33 then if y.aux.isEmpty then finishFree d q k y.status else d
    else if y.step = 0 then
      let g := genAt d .dispatch x.p
      if y.dispOk = false ∨ g.image = [] then finishFree d q k stDispatchParam
      else
        match groupAt d (dspGroup g.image) with
        | none => finishFree d q k stGroupParam
        | some gr =>
          groupTurn d gr (fun st d => finishFree d q k st) fun d => updCmd d q k fun y =>
            { y with step := 1, buf := g.image, aux2 := 0 :: List.replicate (dspCount g.image) 0 }
    else
      match groupAt d (dspGroup img) with
      | none => dispStops q k stGroupParam d
      | some gr =>
        if y.step ≤ x.n then
          cmdAct d (dispToken q k x gr.self (y.step - 1) img y.aux2.tail) fail fun z d' =>
            match z with
            | none => d
            | some z => updCmd d' q k fun y =>
              { y with
                step := y.step + 1
                aux := y.aux ++ d'.rnl.fresh.map (2 ^ 20 + ·)
                aux2 := (y.aux2.headD 0 + (x.k - z.sends.length)) :: z.used }
        else if y.step ≤ x.n + ne then
          let e := y.step - 1 - x.n
          let addr := dspCountBase img e + 64 * gr.self
          let rec_ := leBytes 4 (y.aux2.getD (e + 1) 0) ++ List.replicate 60 0
          cmdAct d (dispWrite q k x (dspChip img e) addr rec_ .fixed (writeFrames 0 0 addr rec_)) fail
            fun r d' =>
              match r with
              | none => d
              | some _ => updCmd d' q k fun y => { y with step := y.step + 1 }
        else
          match (dspTargets img)[y.step - 1 - x.n - ne]? with
          | some chip => dispSignal d q k x img chip
          | none =>
            if y.aux.isEmpty then
              let drops := y.aux2.headD 0
              let d := rcount d .fabDspDrop 0 x.p 31 0 drops
              finishCmd d q k (max y.status (if drops = 0 then stOk else stDispatchDropped)) (toW drops)
            else d

/-! ### The Bell (R301) -/

/-- Campus time is LOCKED or HOLDOVER, or FREE_OK lets it be any. -/
def timeUsable (d : Dev) : Bool :=
  2 ≤ rfield d .fabTimeStatus 0 0 1 0 || wbit (rget d .fabTimeCtl) 2

/-- The period of a BELL_ARM is in range. -/
def Cmd.bellOk (y : Cmd) : Bool := decide (1000 ≤ y.param 2 ∧ y.param 2 ≤ 2 ^ 40)

def execBellArm (q k : Nat) (s : State) : Host.Outcome State Fault Refusal :=
  onDev s fun d => onStarted d q k 0x0702 fun y =>
    let p := partOfQueue d q
    let s0 := bits (y.param 1) 31 0
    let period := y.param 2
    if bit (y.param 4) 0 then d
    else if timeUsable d = false then finishFree d q k stTimeNotLocked
    else if y.bellOk = false ∨ y.param 0 < d.ns then finishFree d q k stBellParam
    else
      let b : Bell := ⟨y.param 0, s0, period, bits (y.param 3) 16 0, [], s0⟩
      finishFree (setFabPart d p { fabPart d p with bell := some b }) q k stOk

def execBellDisarm (q k : Nat) (s : State) : Host.Outcome State Fault Refusal :=
  onDev s fun d => onStarted d q k 0x0702 fun y =>
    let p := partOfQueue d q
    if bit (y.param 4) 0 = false then d
    else finishFree (setFabPart d p { fabPart d p with bell := none }) q k stOk

end Sys2Proof.Machine
end

