-- ==== Sys2Proof/Machine/Ports.lean ====
section
/-!
DEFINITION. Fabric ports: laser inputs, bring-up, calibration and the link level (R267 to R272, R277).
-/

namespace Sys2Proof.Machine

/-! ### States of a port -/

/-- Codes of FAB_PORT_STATUS.STATE. -/
inductive PortState
  | down | training | up | cal | fault
deriving DecidableEq, Repr

def PortState.code : PortState → Nat
  | .down => 0
  | .training => 1
  | .up => 2
  | .cal => 3
  | .fault => 4

def portIn (d : Dev) (i : Nat) (st : PortState) : Bool := portState d i == st.code

def setPortState (d : Dev) (i : Nat) (st : PortState) : Dev := rsetf d .fabPortStatus 0 i 2 0 st.code

def engineOf (port : Nat) : Nat := port / 4

/-- The laser inputs that serve a port (R269). -/
def fibresOf (port : Nat) : List Nat := (List.range 4).map (engineOf port * 8 + port % 4 / 2 * 4 + ·)

def portDark (d : Dev) (port : Nat) : Bool := (fibresOf port).any d.fab.lowFibres.contains

/-- A port goes DOWN: frames in transit on it are left to the flows (R271). -/
def portDown (d : Dev) (i : Nat) (st : PortState) : Dev :=
  let x := portAt d i
  setPortState (setPort d i { x with
    unacked := []
    linkQ := []
    ackDue := false
    nakDue := false
    owed := []
    credit := []
    downAt := if portUp d i then d.clock else x.downAt
    startAt := d.clock + 1000000000
    init := false }) i st

/-- The start of a bring-up (Table FAB-2): a port without light stays DOWN. REACH_NEXT comes into
force. -/
def bringUp (d : Dev) (i : Nat) : Dev :=
  if portDark d i then portDown d i .down
  else
    let e := engineOf i
    let d := rsetf d .fabEngineStatus 0 e 0 0 (rfield d .fabEngineCtl 0 e 0 0)
    let x := portAt d i
    setPortState (setPort d i { x with
      lseq := 0
      rxSeq := 0
      unacked := []
      linkQ := []
      ackDue := false
      nakDue := false
      owed := []
      credit := []
      downAt := if portUp d i then d.clock else x.downAt
      trainAt := d.clock
      init := false }) i .training

/-- PORT_BRINGUP: after a chip reset, or 1 s after DOWN or FAULT. -/
def execPortBringup (port now : Nat) (s : State) : Host.Outcome State Fault Refusal :=
  onDev s fun d =>
    let d1 := advanceTo d now
    if port < 32 ∧ (portIn d1 port .down ∨ portIn d1 port .fault) ∧ (portAt d1 port).startAt ≤ d1.clock then
      bringUp d1 port
    else d

/-- PORT_UP: LINK_INIT is exchanged within 50 ms of the start. Bring-up has calibrated the port. -/
def execPortUp (port now : Nat) (s : State) : Host.Outcome State Fault Refusal :=
  onDev s fun d =>
    let d1 := advanceTo d now
    let x := portAt d1 port
    if port < 32 ∧ portIn d1 port .training ∧ x.init = true ∧ d1.clock ≤ x.trainAt + 50000000 then
      pump (setPortState (setPort d1 port { x with calAt := d1.clock }) port .up)
    else d

/-- PORT_FAULT: a port is not UP 50 ms after its start. -/
def execPortFault (port now : Nat) (s : State) : Host.Outcome State Fault Refusal :=
  onDev s fun d =>
    let d1 := advanceTo d now
    if port < 32 ∧ portIn d1 port .training ∧ (portAt d1 port).trainAt + 50000000 ≤ d1.clock then
      portDown d1 port .fault
    else d

/-- PORT_DOWN: loss of signal or lock, or more than 64 uncorrectable codewords in 1 ms; `corr` and
`uncorr` are the codewords counted meanwhile. -/
def execPortDown (port corr uncorr now : Nat) (s : State) : Host.Outcome State Fault Refusal :=
  onDev s fun d =>
    let d1 := advanceTo d now
    if port < 32 ∧ (portIn d1 port .up ∨ portIn d1 port .cal) then
      let d1 := rcount (rcount d1 .fabPortStatus 0 port 63 32 corr) .fabPortStatus 0 port 15 8 uncorr
      portDown d1 port .down
    else d

/-- A write of FAB_ENGINE_CTL: CAL_PERIOD outside 1 to 100 is ignored; RETRAIN brings the engine's ports
up again. -/
def writeEngineCtl (d : Dev) (e : Nat) (v : Word) : Dev :=
  let d := rsetf d .fabEngineCtl 0 e 0 0 (wbits v 0 0)
  let n := wbits v 15 8
  let d := if 1 ≤ n ∧ n ≤ 100 then rsetf d .fabEngineCtl 0 e 15 8 n else d
  if wbit v 1 then (List.range 4).foldl (fun d i => bringUp d (4 * e + i)) d else d

def execRetrain (engine : Nat) (v : Word) (s : State) : Host.Outcome State Fault Refusal :=
  onDev s fun d => if engine < 8 ∧ wbit v 1 then writeEngineCtl d engine v else d

/-! ### Laser inputs (R269) -/

/-- Minimum input of an engine's reach mode in 0.25 dBm: 12 dBm or 15 dBm. -/
def laserMin (d : Dev) (e : Nat) : Int := if wbit (rget d .fabEngineStatus 0 e) 0 then 60 else 48

/-- The monitor's view of an engine. -/
def noteLight (d : Dev) (e level : Nat) : Dev :=
  let ok := (List.range 8).all fun f => !d.fab.lowFibres.contains (8 * e + f)
  rsetf (rsetf d .fabEngineStatus 0 e 15 8 level) .fabEngineStatus 0 e 1 1 ok.toNat

/-- LASER_INPUT_LOW: input `fibre` has been below the minimum for 1 µs; `level` is the engine's lowest
input, 8 bits two's complement in 0.25 dBm. -/
def execLaserInputLow (engine fibre level now : Nat) (s : State) : Host.Outcome State Fault Refusal :=
  onDev s fun d =>
    let d1 := advanceTo d now
    let n := 8 * engine + fibre
    if engine < 8 ∧ fibre < 8 ∧ sext 8 level < laserMin d1 engine then
      let d1 : Dev := { d1 with fab.lowFibres := if d1.fab.lowFibres.contains n then d1.fab.lowFibres
                                else d1.fab.lowFibres ++ [n] }
      ((List.range 4).map (4 * engine + ·)).foldl (fun d i =>
        if (fibresOf i).contains n ∧ (portIn d i .up ∨ portIn d i .cal ∨ portIn d i .training) then
          portDown d i .down
        else d) (noteLight d1 engine level)
    else d

/-- LASER_INPUT_RESTORED: the input has been back in range for 10 ms. -/
def execLaserInputRestored (engine fibre level now : Nat) (s : State) :
    Host.Outcome State Fault Refusal :=
  onDev s fun d =>
    let d1 := advanceTo d now
    if engine < 8 ∧ fibre < 8 then
      noteLight { d1 with fab.lowFibres := d1.fab.lowFibres.filter (· ≠ 8 * engine + fibre) } engine level
    else d

/-! ### Calibration (R272) -/

/-- CAL_PERIOD of a port's engine in ns. -/
def calPeriod (d : Dev) (port : Nat) : Nat := rfield d .fabEngineCtl 0 (engineOf port) 15 8 * 100000000

/-- No port of the engine is in CAL. -/
def calFree (d : Dev) (port : Nat) : Bool :=
  (List.range 4).all fun i => !portIn d (4 * engineOf port + i) .cal

/-- A calibration of 20 µs lies wholly in the calibration window of the port's partition, which a Bell has
opened. -/
def calWindow (d : Dev) (port : Nat) : Bool :=
  match (fabPart d (partOfPort d port)).lastBell with
  | some t => decide (t + 100000 ≤ d.ns) && decide (d.ns + 20000 ≤ t + 1100000)
  | none => false

def startCal (d : Dev) (port : Nat) : Dev :=
  setPortState (setPort d port { portAt d port with calAt := d.clock, downAt := d.clock }) port .cal

/-- CAL_FORCED: the last calibration is older than 2 × CAL_PERIOD. -/
def execCalForced (port now : Nat) (s : State) : Host.Outcome State Fault Refusal :=
  onDev s fun d =>
    let d1 := advanceTo d now
    if port < 32 ∧ portIn d1 port .up ∧ calFree d1 port = true ∧
        (portAt d1 port).calAt + 2 * calPeriod d1 port < d1.clock then
      startCal (rcount d1 .fabEngineStatus 0 (engineOf port) 31 16 1) port
    else d

/-- CAL_DONE: 20 µs later the port is back in service. -/
def execCalDone (port now : Nat) (s : State) : Host.Outcome State Fault Refusal :=
  onDev s fun d =>
    let d1 := advanceTo d now
    if port < 32 ∧ portIn d1 port .cal ∧ (portAt d1 port).calAt + 20000 ≤ d1.clock then
      pump (setPortState d1 port .up)
    else d

/-! ### The link level (R277) -/

/-- A link-scope CONTROL frame (Table FAB-5). -/
def sendLink (d : Dev) (i subtype area : Nat) : Dev :=
  portSend d i (ctlFrame d (partOfPort d i) 0 subtype area []) false

/-- The port's partition has an identity; without one nothing but LINK_INIT leaves (R273). -/
def portNamed (d : Dev) (i : Nat) : Bool := chipIdValid d (partOfPort d i)

/-- LINK_ACK of everything up to `lseq`. -/
def sendLinkAck (d : Dev) (i lseq : Nat) : Dev :=
  if portNamed d i then sendLink d i 0x03 (lseq % 65536) else setPort d i { portAt d i with ackDue := true }

/-- A NAK: the switch resends from `lseq` on. -/
def sendLinkNak (d : Dev) (i lseq : Nat) : Dev :=
  if portNamed d i then sendLink d i 0x03 (lseq % 65536 + 65536)
  else setPort d i { portAt d i with nakDue := true }

/-- CREDIT: units by VC, 16 bits each from area bit 8 (log 34). -/
def sendCredit (d : Dev) (i vc units : Nat) : Dev :=
  if portNamed d i then sendLink d i 0x02 (units * 2 ^ (16 * vc))
  else
    let x := portAt d i
    setPort d i { x with owed := mset 0 x.owed vc (mget 0 x.owed vc + units) }

/-- A port whose partition has received its identity sends what it owes. -/
def settleOwed (d : Dev) (i : Nat) : Dev :=
  let x := portAt d i
  let d := setPort d i { x with ackDue := false, nakDue := false, owed := [] }
  let d := if x.nakDue then sendLinkNak d i x.rxSeq
    else if x.ackDue then sendLinkAck d i (x.rxSeq + 65535) else d
  x.owed.foldl (fun d e => sendCredit d i e.1 e.2) d

/-- A frame is a CONTROL frame of a subtype. -/
def isCtl (sub : Nat) (f : Frame) : Bool := f.type == 6 && f.area % 256 == sub

def linkScope (f : Frame) : Bool := isCtl 1 f || isCtl 2 f || isCtl 3 f

/-- The credit of a frame's buffer goes back to the switch. -/
def returnCredit (d : Dev) (i : Nat) (f : Frame) : Dev :=
  if linkScope f then d else sendCredit d i f.vc (frameUnits f)

/-- The link level of an arriving frame: a bad frame, and one that follows a gap, is dropped with a NAK; a
copy of one already taken is acknowledged again; the next in order is taken. -/
def linkIn (d : Dev) (i : Nat) (trailer : Word) (f : Frame) : Bool × Dev :=
  let x := portAt d i
  let lseq := wbits trailer 15 0
  let ahead := (lseq + 65536 - x.rxSeq) % 65536
  if frameSound f trailer = false then (false, sendLinkNak d i x.rxSeq)
  else if ahead = 0 then
    let d := setPort d i { x with rxSeq := (x.rxSeq + 1) % 65536 }
    let d := if isCtl 3 f then d else sendLinkAck d i lseq
    (true, returnCredit d i f)
  else if 32768 ≤ ahead then (false, if isCtl 3 f then d else sendLinkAck d i (x.rxSeq + 65535))
  else (false, sendLinkNak d i x.rxSeq)

/-- An arriving frame of the kind a row names, on an UP port: what the taken frame does. -/
def onFrame (d : Dev) (now port : Nat) (trailer : Word) (f : Frame) (kind : Frame → Bool)
    (act : Dev → Dev) : Dev :=
  if port < 32 ∧ portIn d port .up ∧ kind f then
    match linkIn (advanceTo d now) port trailer f with
    | (true, d) => act d
    | (false, d) => d
  else d

/-- Credits of the three VCs. -/
def vcCredits (c0 c1 c2 : Nat) : List (Nat × Nat) :=
  mset 0 (mset 0 (mset 0 [] 0 c0) 1 c1) 2 c2

/-- LINK_INIT from the switch in training: its credits are taken and the device's own LINK_INIT goes
out. The credits it advertises are not stated: free. -/
def execLinkInit (now port : Nat) (trailer : Word) (f : Frame) (c0 c1 c2 : Nat) (s : State) :
    Host.Outcome State Fault Refusal :=
  onDev s fun d =>
    if port < 32 ∧ portIn d port .training ∧ isCtl 1 f then
      match linkIn (advanceTo d now) port trailer f with
      | (false, d) => d
      | (true, d) =>
        let (v, d) := freeW d
        let d := linkSend d port (ctlFrame d (partOfPort d port) 0 0x01 (port + wbits v 47 0 * 2 ^ 8) []) false
        setPort d port { portAt d port with credit := vcCredits c0 c1 c2, init := true }
    else d

/-- CARAVAN_CREDIT: units come back by VC. -/
def execCaravanCredit (now port : Nat) (trailer : Word) (f : Frame) (c0 c1 c2 : Nat) (s : State) :
    Host.Outcome State Fault Refusal :=
  onDev s fun d =>
    onFrame d now port trailer f (isCtl 2) fun d =>
      let x := portAt d port
      let get (v : Nat) : Nat := mget 0 x.credit v
      pump (setPort d port { x with credit := vcCredits (get 0 + c0) (get 1 + c1) (get 2 + c2) })

/-- A frame whose payload is read again at its source (R282); none where it cannot be read now. -/
def freshen (d : Dev) (f : Frame) (src : PktSrc) : Option Frame × Dev :=
  match (src.read f.payload).go d with
  | (.ok bs, d') => (some { f with payload := bs }, d')
  | (.error (.wait n), d') => (none, waitDev d d' n)
  | (.error (.err _ _), d') => (none, d')

/-- Sends frames of the replay list again, their payloads read anew; one whose payload cannot be read holds
up those behind it (log 159). -/
def replayFrames (port : Nat) : List (Nat × Frame × PktSrc) → Dev → Dev
  | [], d => d
  | (n, f, src) :: rest, d =>
    match freshen d f src with
    | (some f, d) => replayFrames port rest (emit (rcount d .fabPortStatus 0 port 31 16 1) (.frame port (frameTrailer f n) f))
    | (none, d) => d

/-- LINK_ACK: area [23:8] is the LSEQ acknowledged, with all before it; with [24] set, a NAK, from which
on frames are sent again. -/
def takeLinkAck (d : Dev) (port : Nat) (f : Frame) : Dev :=
  let x := portAt d port
  let n := bits f.area 23 8
  let later (e : Nat × Frame × PktSrc) : Bool := decide ((e.1 + 65536 - n) % 65536 < 32768)
  if bit f.area 24 then
    let again := x.unacked.filter later
    pump (replayFrames port again (setPort d port { x with unacked := again }))
  else pump (setPort d port { x with unacked := x.unacked.filter fun e => later e && e.1 != n })

def execLinkAck (now port : Nat) (trailer : Word) (f : Frame) (s : State) :
    Host.Outcome State Fault Refusal :=
  onDev s fun d => onFrame d now port trailer f (isCtl 3) fun d => takeLinkAck d port f

end Sys2Proof.Machine
end

