-- ==== Sys2Proof/Machine/Events.lean ====
section
/-!
DEFINITION. Scheduled events (R300): which are due, the order in which they fire, and the rows of the
calibration window and of the late-tolerant deadlines. A row of an event acts only in its turn. A step of
campus time makes the events it passes due, and they then fire in the same order.
-/

namespace Sys2Proof.Machine

/-- The scheduled events, in the order of R300. -/
inductive Event
  | bell | calibration | drain | telemetry | deadline | hint
deriving DecidableEq, Repr

def Event.rank : Event → Nat
  | .bell => 0
  | .calibration => 1
  | .drain => 2
  | .telemetry => 3
  | .deadline => 4
  | .hint => 5

/-- Edges of a snapshot's drain windows that campus time has reached, newest step first: the window of
step t ≥ s opens at BELL(t) + OFFSET and closes LENGTH later (R393). -/
def drainEdges (d : Dev) (p : Nat) (x : Snap) : List (Int × Int) :=
  match (fabPart d p).bell with
  | none => []
  | some b =>
    let steps := (List.range ((x.offset + x.length) / max 1 b.period + 2)).map fun i =>
      (b.next + 2 ^ 32 - 1 - i) % 2 ^ 32
    ((steps.filter fun t => decide (0 ≤ stepDiff t x.step)).map fun t =>
      (b.time t + x.offset, b.time t + x.offset + x.length)).filter fun e => decide (e.1 ≤ d.ns)

/-- The window of some step t ≥ s is open (R393). -/
def windowOpen (d : Dev) (p : Nat) (x : Snap) : Bool :=
  (drainEdges d p x).any fun e => decide ((d.ns : Int) < e.2)

/-- When a snapshot's drain window last opened or closed; now, where no Bell says. -/
def drainAt (d : Dev) (p : Nat) (x : Snap) : Int :=
  match ((drainEdges d p x).flatMap fun e => [e.1, e.2]).filter fun (v : Int) => decide (v ≤ d.ns) with
  | [] => d.ns
  | v :: vs => vs.foldl max v

/-- A port is ready for calibration in its window. -/
def calReady (d : Dev) (port : Nat) : Bool :=
  portIn d port .up && calFree d port && calWindow d port &&
    decide ((portAt d port).calAt + calPeriod d port ≤ d.clock)

/-- The campus time at which a port became due in its window. -/
def calDueAt (d : Dev) (port : Nat) : Int :=
  max (((fabPart d (partOfPort d port)).lastBell.getD 0 + 100000 : Nat) : Int)
    ((d.ns : Int) - (d.clock - ((portAt d port).calAt + calPeriod d port) : Nat))

/-- Deadlines of a late-tolerant context that have come and not fired: exponent rounds, then closes. -/
def deadlinesDue (d : Dev) (gnum : Nat) (x : TallyCtx) : List (Int × Event) :=
  match (fabPart d (partOfGroup d gnum)).bell with
  | none => []
  | some b =>
    let one (step : Nat) (close : Bool) : List (Int × Event) :=
      if (dueRecords d gnum step fun x => if close then 0 else x.expLead).isEmpty ∨ x.fired.contains (step, close)
      then []
      else [(b.time step + x.closeOff - (if close then 0 else x.expLead), .deadline)]
    ([x.c + 2 ^ 32 - 1, x.c, x.c + 1].map (· % 2 ^ 32)).flatMap fun t => one t false ++ one t true

/-- Scheduled events that are due, with their times. -/
def eventsDue (d : Dev) : List (Int × Event) :=
  let bells := d.fab.parts.flatMap fun e => match e.2.bell with
    | some b => if b.time b.next ≤ d.ns then [(b.time b.next, Event.bell)] else []
    | none => []
  let cals := ((List.range 32).filter (calReady d)).map fun i => (calDueAt d i, Event.calibration)
  let drains := (d.snp.snaps.filter fun e => windowOpen d e.1 e.2 != e.2.window).map fun e =>
    (drainAt d e.1 e.2, Event.drain)
  let closes := d.tally.ctxs.flatMap fun e => deadlinesDue d e.1 e.2
  let hints := d.pwr.hints.flatMap fun h =>
    if h.inForce then []
    else if h.start ≤ d.ns then [((h.start : Int), Event.hint)]
    else if h.start ≤ d.ns + 50000 ∧ h.fired = false then [((h.start : Int) - 50000, Event.hint)]
    else []
  bells ++ cals ++ drains ++ closes ++ hints

/-- An event of time `t` may fire: none that is due comes before it in time, or at the same time in the
list of R300. -/
def inTurnAt (d : Dev) (t : Int) (e : Event) : Bool :=
  (eventsDue d).all fun x => decide (t < x.1) || (decide (t = x.1) && decide (e.rank ≤ x.2.rank))

/-! ### Calibration windows (R272) and late-tolerant deadlines (R259, R260) -/

/-- CAL_WINDOW: a port whose period has passed is recalibrated in the window. -/
def execCalWindow (port now : Nat) (s : State) : Host.Outcome State Fault Refusal :=
  onDev s fun d =>
    let d1 := advanceTo d now
    if port < 32 ∧ calReady d1 port ∧ inTurnAt d1 (calDueAt d1 port) .calibration then startCal d1 port
    else d

/-- A deadline fires for the records that are due; what must wait for the companion is tried again. -/
def fireDeadline (d : Dev) (gnum step : Nat) (close : Bool) (f : TRec → Act Unit) : Dev :=
  let lead (x : TallyCtx) : Nat := if close then 0 else x.expLead
  match tallyAt d gnum, (fabPart d (partOfGroup d gnum)).bell with
  | some x, some b =>
    let step := step % 2 ^ 32
    if x.fired.contains (step, close) then runRecords d (dueRecords d gnum step lead) f
    else if (dueRecords d gnum step lead).isEmpty then d
    else if inTurnAt d (b.time step + x.closeOff - lead x) .deadline then
      let d := updTally d gnum fun x => { x with fired := (step, close) :: x.fired }
      runRecords d (dueRecords d gnum step lead) f
    else d
  | _, _ => d

/-- EXP_DEADLINE: BELL(t) + CLOSE_OFFSET - EXP_LEAD has come. -/
def execExpDeadline (gnum step now : Nat) (s : State) : Host.Outcome State Fault Refusal :=
  onDev s fun d => fireDeadline (advanceTo d now) gnum step false closeExp

/-- CLOSE_DEADLINE: BELL(t) + CLOSE_OFFSET has come. -/
def execCloseDeadline (gnum step now : Nat) (s : State) : Host.Outcome State Fault Refusal :=
  onDev s fun d => fireDeadline (advanceTo d now) gnum step true deadlineMain

/-! ### Power hints in force (R413 to R415) -/

/-- The class in force for the chip: the highest of any hint in force. -/
def classInForce (d : Dev) : Option Nat :=
  match (d.pwr.hints.filter (·.inForce)).map (·.cls) with
  | [] => none
  | cs => some (cs.foldl max 0)

/-- The number of pending hints in PWR_STATUS. -/
def showHints (d : Dev) : Dev := rsetf d .pwrStatus 0 0 46 40 d.pwr.hints.length

/-- The interval of a class ends: its mean power joins the last eight. -/
def closeInterval (d : Dev) (k : Nat) : Dev :=
  let x := mget (0, 0) d.pwr.interval k
  if x.2 = 0 then d
  else { d with
    pwr.interval := merase d.pwr.interval k
    pwr.predictor := mput d.pwr.predictor k ((x.1 / x.2 :: mget [] d.pwr.predictor k).take 8) }

/-- After the hints changed: a class that is no longer in force closes its interval, and the rail setpoint
follows the hints that have fired. -/
def hintsChanged (before d : Dev) : Dev :=
  let d := match classInForce before with
    | some k => if classInForce d = some k then d else closeInterval d k
    | none => d
  showHints { d with pwr.raised := d.pwr.hints.any fun h => h.fired && decide (2 ≤ h.cls) }

end Sys2Proof.Machine
end

