-- ==== Sys2Proof/Machine/FabricIn.lean ====
section
/-!
DEFINITION. Arriving packets: flows at the target, the checks of R280, application, replies, and what
replies do at the source (R216, R278 to R284, R295).
-/

namespace Sys2Proof.Machine

/-! ### Receive flows (R278 to R281) -/

def findRx (d : Dev) (p src : Nat) : Option RxFlow :=
  d.fab.rx.find? fun x => x.part == p && x.src == src

def updRx (d : Dev) (p src : Nat) (f : RxFlow → RxFlow) : Dev :=
  { d with fab.rx := d.fab.rx.map fun x => if x.part = p ∧ x.src = src then f x else x }

/-- Distance of FSEQ `a` ahead of `b`, modulo 2^24. -/
def fseqAhead (a b : Nat) : Nat := (a + 2 ^ 24 - b % 2 ^ 24) % 2 ^ 24

/-- The flow has handled `n`. -/
def RxFlow.seen (x : RxFlow) (n : Nat) : Bool := decide (2 ^ 23 ≤ fseqAhead n x.base) || x.handled.contains n

/-- Moves `base` over handled FSEQs. -/
def slideBase : Nat → RxFlow → RxFlow
  | 0, x => x
  | n + 1, x =>
    if x.handled.contains x.base then
      slideBase n { x with handled := x.handled.filter (· ≠ x.base), base := (x.base + 1) % 2 ^ 24 }
    else x

/-- Forgets replies that no copy can ask for any more, 2^23 and more FSEQs back. -/
def RxFlow.prune (x : RxFlow) : RxFlow :=
  { x with refused := x.refused.filter fun e => decide (fseqAhead x.base e.1 ≤ 2 ^ 23) || x.handled.contains e.1 }

/-- Records a handled packet with the status of its reply. -/
def RxFlow.record (x : RxFlow) (n status now : Nat) : RxFlow :=
  (slideBase (x.handled.length + 1)
    { x with
      handled := x.handled ++ [n]
      refused := x.refused.filter (fun e => e.1 ≠ n) ++ (if status = stOk then [] else [(n, status)])
      usedAt := now }).prune

/-- The payload of an ACK: bit `i` says that FSEQ base + i is handled without a refusal (log 35). -/
def ackMap (x : RxFlow) : List Byte :=
  packBits ((List.range 512).map fun i =>
    let n := (x.base + i) % 2 ^ 24
    x.handled.contains n && !x.refused.any fun e => e.1 == n)

/-- The cumulative ACK of a flow: the last FSEQ that is handled with all before it (log 35). -/
def sendAck (d : Dev) (x : RxFlow) : Dev :=
  sendCtl d x.part x.src 0x12 ((x.base + 2 ^ 24 - 1) % 2 ^ 24) (ackMap x)

def sendStatus (d : Dev) (p src n status : Nat) : Dev :=
  sendCtl d p src 0x13 (n + status * 2 ^ 24) []

/-- Sends the reply recorded for a handled packet. -/
def replyAgain (d : Dev) (x : RxFlow) (n : Nat) : Dev :=
  match x.refused.find? fun e => e.1 == n with
  | some (_, st) => sendStatus d x.part x.src n st
  | none => sendAck d x

/-- A packet is handled with a status: it is recorded and answered. -/
def answerPkt (d : Dev) (p src n status : Nat) : Dev :=
  let d := updRx d p src fun x => x.record n status d.clock
  match findRx d p src with
  | none => d
  | some x => replyAgain d x n

/-! ### The checks of R280 -/

/-- Check 2: the source is fenced, or FENCE_OVERFLOW shuts it out (R292). -/
def sourceShut (d : Dev) (p src : Nat) : Bool :=
  fenced d p src || ((fabPart d p).overflow && decide (src < 0xFFF00) && !inAnyGroup d p src)

/-- The group a packet names. -/
def packetGroup (f : Frame) : Option Nat :=
  if f.type = 2 ∧ f.tly then some (bits f.area 13 2)
  else if f.type = 4 then some (bits f.area 33 22)
  else none

def frameTid (f : Frame) : Nat := bits f.area 13 0
def framePkt (f : Frame) : Nat := bits f.area 21 14
def frameAddr (f : Frame) : Nat := bits f.area 75 32

/-- Bytes an address check covers. -/
def frameSpan (f : Frame) : Nat := if f.type = 1 then 64 * bits f.area 82 76 else f.payload.length

/-- Checks 4 and 5. -/
def packetRefusal (d : Dev) (p : Nat) (f : Frame) : Option Nat :=
  let addrBad : Bool :=
    match f.type with
    | 0 => !localOk d p (frameAddr f) (frameSpan f)
    | 1 => !f.resp && !localOk d p (frameAddr f) (frameSpan f)
    | 2 => !f.tly && (!localOk d p (frameAddr f) (frameSpan f) || (accumBits (bits f.area 25 22)).isNone)
    | 3 => decide (131072 ≤ bits f.area 16 0) || partOfSem d (bits f.area 16 0) != p
    | 5 => !localOk d p (frameAddr f) (frameSpan f)
    | _ => false
  match packetGroup f with
  | some g =>
    if partOfGroup d g = p ∧ admitted d p g f.src then none else some stNotAdmitted
  | none => if addrBad then some stTargetRefused else none

/-! ### KV_PASS at the receiver (R216) -/

/-- Packets of a page and of its sidecar. -/
def kvPackets (d : Dev) (p side : Nat) : Nat := (if side = 1 then sideSize d p else pageSize d p) / 4096

/-- Raises the arrival semaphore for each slot that is next and CIRCULATING. -/
def countArrivals : Nat → Nat → Dev → Dev
  | 0, _, d => d
  | n + 1, key, d =>
    match bankAt d key with
    | none => d
    | some b =>
      match b.slots[b.next]? with
      | none => d
      | some f =>
        if (frameAt d f).state = .circulating then
          countArrivals n key (semAdd (setBank d key { b with next := b.next + 1 }) b.sem 1)
        else d

/-- A packet of a slot that takes it: its bytes are written, and the slot circulates once all have come. -/
def kvTake (p key : Nat) (b : KvBank) (fr : Nat) (f : Frame) : Act Nat := do
  let d ← get
  let side := bits f.area 63 63
  let pkt := framePkt f
  let x := frameAt d fr
  if kvPackets d p side ≤ pkt then pure stTargetRefused
  else
    writePhys .device ((if side = 1 then x.scPa else x.pa) + 4096 * pkt) f.payload
    modify fun d =>
      let have_ := (((b.got.find? fun e => e.1 == fr).map (·.2)).getD []).filter (· ≠ 2 * pkt + side)
      let got := have_ ++ [2 * pkt + side]
      let others := b.got.filter fun e => e.1 ≠ fr
      if got.length = kvPackets d p 0 + kvPackets d p 1 then
        let d := setFrame d fr { x with
          state := .circulating, fmt := bits f.area 62 62, pass := bits f.area 61 47 }
        countArrivals (b.slots.length + 1) key (setBank d key { b with got := others })
      else
        let d := setFrame d fr { x with state := .arriving, pass := bits f.area 61 47 }
        setBank d key { b with got := others ++ [(fr, got)] }
    pure stOk

def kvArrive (p : Nat) (f : Frame) : Act Nat := do
  let d ← get
  let key := bits f.area 33 22 * 2 + bits f.area 34 34
  let busy : Act Nat := do
    modify fun d => rcount d .ldgStatus 0 0 39 24 1
    pure stBankBusy
  match bankAt d key with
  | none => busy
  | some b =>
    match b.slots[bits f.area 46 35]? with
    | none => busy
    | some fr =>
      let x := frameAt d fr
      if x.state = .banked ∨ (x.state = .arriving ∧ x.pass = bits f.area 61 47) then kvTake p key b fr f
      else busy

/-! ### Application -/

/-- Replaces bytes of a list from `off` on, which it first makes long enough. -/
def putBytesAt (xs : List Byte) (off : Nat) (bs : List Byte) : List Byte :=
  xs.take off ++ List.replicate (off - xs.length) 0 ++ bs ++ xs.drop (off + bs.length)

/-- Data of a READ response reach who asked for them (R140, R284). -/
def giveData (d : Dev) (x : Xact) (off : Nat) (bs : List Byte) : Dev :=
  match x.who with
  | .elem t n k =>
    setSlot d t n ((slotAt d t n).updElem k fun e => { e with bytes := putBytesAt e.bytes off bs })
  | .cmd q k => updCmd d q k fun y => { y with buf := putBytesAt y.buf off bs }
  | _ => d

/-- A READ response at the requester. -/
def takeResponse (d : Dev) (p : Nat) (f : Frame) : Dev :=
  match findXact d (frameTid f) with
  | none => d
  | some x =>
    if x.part = p ∧ x.dst = f.src ∧ 0 < x.resp then
      let d := giveData d x (x.base + 4096 * framePkt f) f.payload
      settleXact (putXact d (frameTid f) { x with resp := x.resp - 1 }) (frameTid f)
    else d

/-- The response to a READ request. -/
def readReply (f : Frame) (bs : List Byte) : Frame :=
  { emptyFrame with
    type := 1
    vc := 2
    resp := true
    last := f.last
    area := dataArea (frameTid f) (framePkt f) 0 (frameAddr f) 0
    payload := bs }

/-- A SEM_SIGNAL that reaches one of the four semaphores of SNP_REPL_SRC is seen by the snapshot engine:
a request, or an acknowledgement (R394). -/
def noteSignal (d : Dev) (p sem src amount : Nat) : Dev :=
  let base := rfield d .snpReplSrc 0 p 56 40
  let key := 4 * p + (sem - base)
  if base = 0 ∨ sem < base ∨ base + 3 < sem then d
  else if sem = base + 3 then
    let a := p * 2 ^ 20 + src
    { d with snp.acks := mset 0 d.snp.acks a (mget 0 d.snp.acks a + amount) }
  else
    let r := mget Repl.reset d.snp.repls key
    { d with snp.repls := mset Repl.reset d.snp.repls key { r with todo := r.todo ++ [(src, amount)] } }

/-- Applies a packet that has passed the checks 1 to 5: its status. -/
def applyPacket (p : Nat) (f : Frame) : Act Nat := do
  match f.type with
  | 0 =>
    writePhys .software (frameAddr f) f.payload
    pure stOk
  | 1 =>
    if f.resp then
      modify fun d => takeResponse d p f
      pure stOk
    else
      let bs ← readPhys (frameAddr f) (frameSpan f)
      modify fun d => submit d p f.src none [readReply f bs] fun _ => .dram (frameAddr f)
      pure stOk
  | 2 =>
    if f.tly then
      match bits f.area 1 0 with
      | 2 => do
        let d ← get
        let (st, d) := publishArrive d (tallyPkt f)
        set d
        pure st
      | 3 => pure stTallyParam
      | _ => tallyArrive p (tallyPkt f)
    else
      accumAt .software (frameAddr f) (bits f.area 25 22) f.payload
      pure stOk
  | 3 =>
    modify fun d => noteSignal (semAdd d (bits f.area 16 0) (toW (bits f.area 63 32))) p (bits f.area 16 0)
      f.src (bits f.area 63 32)
    pure stOk
  | 4 => kvArrive p f
  | _ =>
    writePhys .software (frameAddr f) f.payload
    pure stOk

/-- The checks from the second on, and application: the packet's status. Group traffic has its group's image
read first. -/
def handlePkt (p port : Nat) (f : Frame) : Act Nat := do
  let refuse (st : Nat) : Act Nat := do
    modify fun d => noteRefused d p st f.src port
    pure st
  let d ← get
  if sourceShut d p f.src then refuse stSourceFenced
  else
    match ((packetGroup f).filter fun g => partOfGroup d g == p).bind (groupAt d) with
    | some g => readGroup g
    | none => pure ()
    let d ← get
    match packetRefusal d p f with
    | some st => refuse st
    | none => applyPacket p f

/-- Tries a packet of a flow: refused, applied, or still waiting for the companion. -/
def tryPkt (d : Dev) (p port : Nat) (f : Frame) : Bool × Dev :=
  match (handlePkt p port f).go d with
  | (.ok st, d') => (true, answerPkt d' p f.src f.fseq st)
  | (.error (.err st _), d') => (true, answerPkt d' p f.src f.fseq st)
  | (.error (.wait n), d') => (false, waitDev d d' n)

/-- The packet may be applied now: it is no SEM_SIGNAL and has no FENCE, or all before it are handled
(R281). -/
def inTurn (x : RxFlow) (f : Frame) : Bool := (f.type != 3 && !f.fence) || f.fseq == x.base

/-- Tries each of the waiting packets once. -/
def tryAll (p src : Nat) : List (Nat × Frame) → Dev → Dev
  | [], d => d
  | (port, f) :: rest, d =>
    match findRx d p src with
    | none => d
    | some x =>
      if inTurn x f then
        match tryPkt d p port f with
        | (true, d) =>
          tryAll p src rest (updRx d p src fun y =>
            { y with waiting := y.waiting.filter fun e => e.2.fseq ≠ f.fseq })
        | (false, d) => tryAll p src rest d
      else tryAll p src rest d

/-- Tries the waiting packets of a flow until a round applies none. -/
def settleFlow : Nat → Nat → Nat → Dev → Dev
  | 0, _, _, d => d
  | n + 1, p, src, d =>
    match findRx d p src with
    | none => d
    | some x =>
      let d' := tryAll p src x.waiting d
      match findRx d' p src with
      | none => d'
      | some y => if y.waiting.length < x.waiting.length then settleFlow n p src d' else d'

def settleRx (d : Dev) (p src : Nat) : Dev :=
  match findRx d p src with
  | none => d
  | some x => settleFlow x.waiting.length p src d

/-- Packets and member entries that wait for the companion are tried again. -/
def retryFlows (d : Dev) : Dev :=
  let d := settleEdits d
  d.fab.rx.foldl (fun d x => settleRx d x.part x.src) d

/-- Waiting packets of sources that are shut out are refused (R292). -/
def refuseShut (d : Dev) (p : Nat) : Dev :=
  d.fab.rx.foldl (fun d x =>
    if x.part = p ∧ sourceShut d p x.src then
      x.waiting.foldl (fun d e =>
        answerPkt (noteRefused d p stSourceFenced x.src e.1) p x.src e.2.fseq stSourceFenced)
        (updRx d p x.src fun y => { y with waiting := [] })
    else d) d

/-- An arriving packet at the partition of its port (R280). -/
def packetIn (d : Dev) (port : Nat) (f : Frame) : Dev :=
  let p := partOfPort d port
  if chipIdValid d p = false ∨ f.dst ≠ chipId d p then d
  else
    match findRx d p f.src with
    | none => sendStatus (noteRefused d p stFlowUnknown f.src port) p f.src f.fseq stFlowUnknown
    | some x =>
      if sourceShut d p f.src then
        let d := noteRefused d p stSourceFenced f.src port
        if x.seen f.fseq then sendStatus d p f.src f.fseq stSourceFenced
        else settleRx (answerPkt d p f.src f.fseq stSourceFenced) p f.src
      else if x.seen f.fseq then replyAgain d x f.fseq
      else if x.waiting.any fun e => e.2.fseq == f.fseq then d
      else if f.tag ≠ jobTag d p then
        settleRx (answerPkt (noteRefused d p stJobTagMismatch f.src port) p f.src f.fseq stJobTagMismatch)
          p f.src
      else
        settleRx (updRx d p f.src fun y => { y with waiting := y.waiting ++ [(port, f)], usedAt := d.clock })
          p f.src

/-- A packet's row: the link level, then the flow. -/
def onPacket (now port : Nat) (trailer : Word) (f : Frame) (kind : Frame → Bool) (s : State) :
    Host.Outcome State Fault Refusal :=
  onDev s fun d => onFrame d now port trailer f kind fun d => packetIn d port f

def execCaravanWrite (now port : Nat) (trailer : Word) (f : Frame) (s : State) :
    Host.Outcome State Fault Refusal := onPacket now port trailer f (fun f => f.type == 0) s

def execCaravanRead (now port : Nat) (trailer : Word) (f : Frame) (s : State) :
    Host.Outcome State Fault Refusal := onPacket now port trailer f (fun f => f.type == 1 && !f.resp) s

def execCaravanReadResponse (now port : Nat) (trailer : Word) (f : Frame) (s : State) :
    Host.Outcome State Fault Refusal := onPacket now port trailer f (fun f => f.type == 1 && f.resp) s

def execCaravanAccumulate (now port : Nat) (trailer : Word) (f : Frame) (s : State) :
    Host.Outcome State Fault Refusal := onPacket now port trailer f (fun f => f.type == 2 && !f.tly) s

/-- A tally packet of a kind. -/
def isTally (kind : Nat) (f : Frame) : Bool := f.type == 2 && f.tly && bits f.area 1 0 == kind

def execCaravanTallyExp (now port : Nat) (trailer : Word) (f : Frame) (s : State) :
    Host.Outcome State Fault Refusal := onPacket now port trailer f (isTally 0) s

def execCaravanTallyMant (now port : Nat) (trailer : Word) (f : Frame) (s : State) :
    Host.Outcome State Fault Refusal := onPacket now port trailer f (isTally 1) s

def execCaravanTallyPublish (now port : Nat) (trailer : Word) (f : Frame) (s : State) :
    Host.Outcome State Fault Refusal := onPacket now port trailer f (isTally 2) s

def execCaravanSemSignal (now port : Nat) (trailer : Word) (f : Frame) (s : State) :
    Host.Outcome State Fault Refusal := onPacket now port trailer f (fun f => f.type == 3) s

def execCaravanKvPass (now port : Nat) (trailer : Word) (f : Frame) (s : State) :
    Host.Outcome State Fault Refusal := onPacket now port trailer f (fun f => f.type == 4) s

def execCaravanDispatch (now port : Nat) (trailer : Word) (f : Frame) (s : State) :
    Host.Outcome State Fault Refusal := onPacket now port trailer f (fun f => f.type == 5) s

/-! ### Flows opening and closing (R278, R279) -/

/-- Flows of a partition in the receive direction. -/
def rxHeld (d : Dev) (p : Nat) : Nat := (d.fab.rx.filter fun x => x.part == p).length

/-- Takes a FLOW_OPEN while a receive flow is free; it waits otherwise. -/
def openRx (d : Dev) (p src inc first : Nat) : Dev :=
  let d := { d with
    fab.rx := d.fab.rx.filter fun x => !(x.part == p && x.src == src)
    fab.opens := d.fab.opens.filter fun e => !(e.1 == p && e.2.1 == src) }
  if rxHeld d p < flowLimit d p then
    let x : RxFlow := ⟨p, src, inc, first, [], [], [], d.clock⟩
    sendCtl { d with fab.rx := d.fab.rx ++ [x] } p src 0x11 (inc + first * 2 ^ 32) []
  else { d with fab.opens := d.fab.opens ++ [(p, src, inc, first)] }

/-- FLOW_OPENs that waited are taken. -/
def openWaiting (d : Dev) : Dev :=
  d.fab.opens.foldl (fun d e => openRx d e.1 e.2.1 e.2.2.1 e.2.2.2) d

/-- An end-to-end CONTROL frame for this partition. -/
def onControl (now port : Nat) (trailer : Word) (f : Frame) (sub : Nat) (act : Nat → Dev → Dev)
    (s : State) : Host.Outcome State Fault Refusal :=
  onDev s fun d => onFrame d now port trailer f (isCtl sub) fun d =>
    let p := partOfPort d port
    if chipIdValid d p ∧ f.dst = chipId d p then act p d else d

/-- FLOW_OPEN: area [39:8] is the incarnation, [63:40] the first FSEQ. -/
def execFlowOpen (now port : Nat) (trailer : Word) (f : Frame) (s : State) :
    Host.Outcome State Fault Refusal :=
  onControl now port trailer f 0x10
    (fun p d => openRx d p f.src (bits f.area 39 8) (bits f.area 63 40)) s

/-- FLOW_ACCEPT: the flow of that incarnation is open. -/
def execFlowAccept (now port : Nat) (trailer : Word) (f : Frame) (s : State) :
    Host.Outcome State Fault Refusal :=
  onControl now port trailer f 0x11
    (fun p d => pump (updTx d p f.src fun x =>
      if x.state = .opening ∧ x.inc = bits f.area 39 8 then { x with state := .ready, usedAt := d.clock }
      else x)) s

/-- A new round trip sample: SRTT and RTTVAR with gains of 1/8 and 1/4 (R283, log 36). -/
def rttNext (old : Option (Nat × Nat)) (r : Nat) : Nat × Nat :=
  match old with
  | none => (r, r / 2)
  | some (srtt, var) =>
    let e := (max srtt r) - (min srtt r)
    ((7 * srtt + r) / 8, (3 * var + e) / 4)

/-- ACK: area [31:8] is the cumulative FSEQ, the payload the map of the next 512. -/
def takeAck (p : Nat) (f : Frame) (d : Dev) : Dev :=
  match findTx d p f.src with
  | none => d
  | some x =>
    let cum := bits f.area 31 8
    let hit (n : Nat) : Bool :=
      let a := fseqAhead n cum
      a == 0 || decide (2 ^ 23 ≤ a) || (decide (a ≤ 512) && bit (leNat f.payload) (a - 1))
    let acked := x.pkts.filter fun y => y.sent && hit y.frame.fseq
    let sample := (acked.filter fun y => y.tries == 0).getLast?
    let d := match sample with
      | some y => updTx d p f.src fun z => { z with rtt := some (rttNext z.rtt (d.clock - y.sentAt)) }
      | none => d
    pump (acked.foldl (fun d y => replyPkt d p f.src y.frame.fseq stOk) d)

def execAck (now port : Nat) (trailer : Word) (f : Frame) (s : State) :
    Host.Outcome State Fault Refusal := onControl now port trailer f 0x12 (fun p d => takeAck p f d) s

/-- STATUS: area [31:8] is the FSEQ of a refused packet, [47:32] its status. -/
def execStatus (now port : Nat) (trailer : Word) (f : Frame) (s : State) :
    Host.Outcome State Fault Refusal :=
  onControl now port trailer f 0x13
    (fun p d => pump (replyPkt d p f.src (bits f.area 31 8) (bits f.area 47 32))) s

/-- FLOW_RETIRE: a flow with nothing outstanding, idle for 100 ms, is retired: a transmit flow (`tx`) or
a receive flow. -/
def execFlowRetire (p peer : Nat) (tx : Bool) (now : Nat) (s : State) :
    Host.Outcome State Fault Refusal :=
  onDev s fun d =>
    let d1 := advanceTo d now
    let idle (t : Nat) : Bool := decide (t + 100000000 ≤ d1.clock)
    if tx then
      match findTx d1 p peer with
      | some x =>
        if x.state = .ready ∧ x.pkts = [] ∧ idle x.usedAt then
          pump { d1 with fab.tx := d1.fab.tx.filter fun y => !(y.part == p && y.dst == peer) }
        else d
      | none => d
    else
      match findRx d1 p peer with
      | some x =>
        if x.waiting = [] ∧ idle x.usedAt then
          openWaiting { d1 with fab.rx := d1.fab.rx.filter fun y => !(y.part == p && y.src == peer) }
        else d
      | none => d

/-! ### Timeouts at the source (R283) -/

/-- The retransmission timeout of a flow in ns. -/
def TxFlow.timeout (x : TxFlow) : Nat :=
  match x.rtt with
  | none => 2000000
  | some (srtt, var) => min 10000000 (max (srtt + 4 * var) 10000)

/-- A flow is given up: its transactions complete with a status and it is retired (log 37). -/
def dropFlow (d : Dev) (p dst status : Nat) : Dev :=
  let d := failTo d p dst status
  pump { d with fab.tx := d.fab.tx.filter fun y => !(y.part == p && y.dst == dst) }

/-- Sends a packet again on an UP port of its route set, its payload read anew; none where nothing can be
sent now. -/
def resend (d : Dev) (x : TxFlow) (y : OutPkt) : Option Dev :=
  let ups := (routePorts d x.part x.dst).filter (portUp d)
  match ups[x.rr % max 1 ups.length]?, freshen d y.frame y.src with
  | none, _ => none
  | some _, (none, d) => some d
  | some i, (some f, d) =>
    if canLink d i f ∧ bucketsOpen d x.part i f then
      let d := linkSend (takeBuckets d x.part i f) i f true y.src
      some (updTx d x.part x.dst fun z =>
        { z with
          rr := z.rr + 1
          usedAt := d.clock
          pkts := z.pkts.map fun w =>
            if w.frame.fseq = y.frame.fseq then
              { w with port := i, sentAt := d.clock, tries := w.tries + 1 } else w })
    else none

/-- RETRANSMIT_TIMEOUT: a packet, or the FLOW_OPEN of a flow, has had no answer in time. -/
def execRetransmitTimeout (p dst fseq now : Nat) (s : State) : Host.Outcome State Fault Refusal :=
  onDev s fun d =>
    let d1 := advanceTo d now
    match findTx d1 p dst with
    | none => d
    | some x =>
      if x.state = .opening then
        if x.openedAt + 2000000 ≤ d1.clock then
          if 8 ≤ x.opens then dropFlow d1 p dst stFabricTimeout
          else sendCtl (updTx d1 p dst fun y => { y with openedAt := d1.clock, opens := y.opens + 1 }) p dst 0x10
            (x.inc + x.firstSeq * 2 ^ 32) []
        else d
      else
        match x.pkts.find? fun y => y.frame.fseq == fseq && y.sent with
        | none => d
        | some y =>
          if y.sentAt + x.timeout ≤ d1.clock then
            if 8 ≤ y.tries then dropFlow d1 p dst stFabricTimeout else (resend d1 x y).getD d
          else d

/-- NO_ROUTE: no port of the route set has been UP for 10 ms. -/
def execNoRoute (p dst now : Nat) (s : State) : Host.Outcome State Fault Refusal :=
  onDev s fun d =>
    let d1 := advanceTo d now
    if (routePorts d1 p dst).all fun i => !portUp d1 i && decide ((portAt d1 i).downAt + 10000000 ≤ d1.clock) then
      failTo d1 p dst stNoRoute
    else d

end Sys2Proof.Machine
end

