-- ==== Sys2Proof/Machine/Control.lean ====
section
/-!
DEFINITION. CONTROL messages of the fabric manager: identities, lost and replaced members, fences,
shares, routes and Bell shifts (R273, R274, R287, R288, R292, R293, R302).
-/

namespace Sys2Proof.Machine

/-- Counts an ignored CONTROL message (FAB_ERR_LAST.IGNORED). -/
def countIgnored (d : Dev) : Dev := rcount d .fabErrLast 0 0 63 48 1

/-- A message of the fabric manager; one from another source is ignored and counted (R274). -/
def onManager (now port : Nat) (trailer : Word) (f : Frame) (sub : Nat) (act : Nat → Dev → Dev)
    (s : State) : Host.Outcome State Fault Refusal :=
  onDev s fun d => onFrame d now port trailer f (isCtl sub) fun d =>
    if 0xFFF00 ≤ f.src then act (partOfPort d port) d else countIgnored d

/-- CONTROL subtypes of Table FAB-5. -/
def listedCtl : List Nat :=
  [0x01, 0x02, 0x03, 0x10, 0x11, 0x12, 0x13, 0x20, 0x30, 0x31, 0x32, 0x33, 0x34, 0x35, 0x36, 0x40]

/-- CONTROL_IGNORED: an unlisted subtype (R276). -/
def execControlIgnored (now port : Nat) (trailer : Word) (f : Frame) (s : State) :
    Host.Outcome State Fault Refusal :=
  onDev s fun d => onFrame d now port trailer f
    (fun f => f.type == 6 && !listedCtl.contains (f.area % 256)) countIgnored

/-- ID_ASSIGN: taken while READY is 0 or the ID unassigned (R273). -/
def execIdAssign (now port : Nat) (trailer : Word) (f : Frame) (chip tag : Nat) (s : State) :
    Host.Outcome State Fault Refusal :=
  onManager now port trailer f 0x30 (fun p d =>
    if (isReady d p = false ∨ chipIdValid d p = false) ∧ chipBad chip = false then
      let d := rset d .fabId 0 p (toW (chip + 2 ^ 20 + tag % 65536 * 2 ^ 32))
      pump ((portsOf d p).foldl settleOwed d)
    else countIgnored d) s

/-! ### Group entries in place (R292, R293) -/

/-- Rewrites every entry of the partition's groups that holds a chip ID. -/
def editMembers (d : Dev) (p chip : Nat) (f : Nat → Nat) : Dev :=
  (d.fab.groups.filter fun e => partOfGroup d e.1 == p).foldl (fun d e =>
    (List.range e.2.members).foldl (fun d j =>
      let w := memberWord d e.2 j
      if memberChip w = chip then setMember d e.2 j (f w) else d) d) d

/-- An entry with another STATE: 0 ACTIVE, 1 LOST. -/
def withState (st w : Nat) : Nat := setBits w 41 40 st

/-- A chip ID appears in a group of the partition. -/
def inGroups (d : Dev) (p chip : Nat) : Bool :=
  d.fab.groups.any fun e => partOfGroup d e.1 == p &&
    (List.range e.2.members).any fun j => memberChip (memberWord d e.2 j) == chip

/-- A chip ID joins the fence list of a partition; a full list gives up its oldest entry that is in no
group, or overflows, and the ID is then fenced without an entry. -/
def fenceChip (d : Dev) (p chip : Nat) : Dev :=
  let q := fabPart d p
  if q.fence.length < 4096 then setFabPart d p { q with fence := q.fence ++ [chip] }
  else
    match q.fence.find? fun x => !inGroups d p x with
    | some old => setFabPart d p { q with fence := q.fence.erase old ++ [chip] }
    | none => setFabPart d p { q with overflow := true, beyond := q.beyond ++ [chip] }

/-- The status with which a transaction to a lost chip ends (R218, R238, R265, R292). -/
def lostStatus (d : Dev) (x : Xact) : Nat :=
  match x.who with
  | .kv _ _ _ => stPassIncomplete
  | .tally _ _ _ => stTallyMemberLost
  | .cmd q k =>
    match cmdAt d q k with
    | some y => if y.opcode = 0x0A03 then stGatherIncomplete else stMemberLost
    | none => stMemberLost
  | _ => stMemberLost

/-- Ends every transaction of a partition to a lost chip. -/
def failLost (d : Dev) (p chip : Nat) : Dev :=
  pump ((d.fab.xacts.filter fun e => e.2.part == p && e.2.dst == chip).foldl
    (fun d e => failXact d e.1 (lostStatus d e.2)) d)

/-- The chip that a KV bank's group names next to this one, on one side. -/
def neighbour (d : Dev) (p gnum : Nat) (side : Dev → Nat → Group → Nat → Option Nat) : Option Nat :=
  (groupAt d gnum).bind fun g => (side d p g g.self).map fun j => memberChip (memberWord d g j)

/-- A group has this chip as a member. -/
def holdsChip (d : Dev) (gnum chip : Nat) : Bool :=
  match groupAt d gnum with
  | some g => (List.range g.members).any fun j => memberChip (memberWord d g j) == chip
  | none => false

/-- Started commands that a loss ends beside their transactions: a KV_PASS to the lost successor and a
PARAM_GATHER of a group with the lost member. -/
def markLost (d : Dev) (p chip : Nat) : Dev :=
  let mark (q : Nat) (y : Cmd) : Cmd :=
    let st : Nat :=
      if y.st ≠ .started ∨ partOfQueue d q ≠ p then stOk
      else if y.opcode = 0x0404 ∧ neighbour d p (bits (y.param 2) 11 0) successor = some chip then
        stPassIncomplete
      else if y.opcode = 0x0A03 ∧ (holdsChip d (bits (y.param 3) 11 0) chip ∨
          holdsChip d (bits (y.param 3) 27 16) chip) then stGatherIncomplete
      else stOk
    { y with status := max y.status st }
  { d with hub.queues := d.hub.queues.map fun e =>
      (e.1, { e.2 with cmds := e.2.cmds.map (mark e.1) }) }

/-- ARRIVING slots from a lost predecessor return to BANKED (R218). -/
def returnArrivals (d : Dev) (p chip : Nat) : Dev :=
  (d.ledger.banks.filter fun e => partOfGroup d (e.1 / 2) == p &&
      neighbour d p (e.1 / 2) predecessor == some chip).foldl (fun d e =>
    let back := e.2.slots.filter fun f => (frameAt d f).state == .arriving
    let d := back.foldl (fun d f => setFrame d f { frameAt d f with state := .banked }) d
    rcount (setBank d e.1 { e.2 with got := [] }) .ldgStatus 0 0 55 40 back.length) d

/-- STRICT chunks that wait for a lost member fail and close (R260). -/
def failStrict (d : Dev) (p : Nat) : Dev :=
  let rs := (d.tally.ctxs.map fun e =>
    match groupAt d e.1 with
    | some g =>
      if partOfGroup d e.1 = p then
        ([e.2.c, (e.2.c + 1) % 2 ^ 32].map fun t =>
          (List.range e.2.cpm).map fun i => (⟨p, e.1, e.2, g, t, i⟩ : TRec)).flatten
      else []
    | none => []).flatten
  runRecords d rs strictLost

/-- MEMBER_LOST (R292). -/
def memberLost (p chip : Nat) (d : Dev) : Dev :=
  let d := rcount d .fabFence 0 p 31 16 1
  if fenced d p chip then d
  else
    let d := returnArrivals (markLost d p chip) p chip
    let d := editMembers (fenceChip d p chip) p chip (withState 1)
    refuseShut (failStrict (failLost d p chip) p) p

def execMemberLost (now port : Nat) (trailer : Word) (f : Frame) (chip : Nat) (s : State) :
    Host.Outcome State Fault Refusal :=
  onManager now port trailer f 0x31 (fun p d => memberLost p chip d) s

/-- MEMBER_REPLACE (R293). -/
def execMemberReplace (now port : Nat) (trailer : Word) (f : Frame) (old new tray : Nat) (s : State) :
    Host.Outcome State Fault Refusal :=
  onManager now port trailer f 0x32 (fun p d =>
    if fenced d p old then
      let d := editMembers d p old fun w => setBits (setBits (setBits w 19 0 new) 39 20 tray) 41 40 0
      if chipIdValid d p ∧ chipId d p = new then editMembers d p new (withState 0) else d
    else countIgnored d) s

/-- FENCE_CLEAR: LOST entries of the ID return to ACTIVE (R292, R293). -/
def execFenceClear (now port : Nat) (trailer : Word) (f : Frame) (chip : Nat) (s : State) :
    Host.Outcome State Fault Refusal :=
  onManager now port trailer f 0x33 (fun p d =>
    let q := fabPart d p
    editMembers (setFabPart d p
      { q with fence := q.fence.filter (· ≠ chip), beyond := q.beyond.filter (· ≠ chip) }) p chip fun w =>
      if bits w 41 40 = 1 then withState 0 w else w) s

/-! ### Shares and routes (R287, R288) -/

/-- SHARE_SET: ceilings of the partition's ports in order, and wrap rules (first, last, Gb/s). A message
with a value out of range is ignored and counted (log 38). -/
def execShareSet (now port : Nat) (trailer : Word) (f : Frame) (ceilings : List Nat)
    (wraps : List (Nat × Nat × Nat)) (s : State) : Host.Outcome State Fault Refusal :=
  onManager now port trailer f 0x34 (fun p d =>
    let ports := portsOf d p
    if ceilings.length = ports.length ∧ ceilings.all (fun c => decide (1 ≤ c ∧ c ≤ 256)) ∧
        wraps.length ≤ 64 then
      let d := (ports.zip ceilings).foldl (fun d e =>
        let x := portAt d e.1
        setPort d e.1 { x with ceiling := e.2, bucket := ⟨x.bucket.now x.rate d.clock, d.clock⟩ }) d
      let ws := wraps.map fun w => (⟨w.1, w.2.1, w.2.2, ⟨2 ^ 26, d.clock⟩⟩ : Wrap)
      pump (setFabPart d p { fabPart d p with wraps := ws })
    else countIgnored d) s

/-- ROUTE_SET: every rule (first, last, port mask) is replaced at once. -/
def execRouteSet (now port : Nat) (trailer : Word) (f : Frame) (rules : List (Nat × Nat × Nat))
    (s : State) : Host.Outcome State Fault Refusal :=
  onManager now port trailer f 0x35 (fun p d =>
    if rules.length ≤ 64 then pump (setFabPart d p { fabPart d p with routes := rules })
    else countIgnored d) s

/-! ### BELL_SHIFT (R302) -/

/-- The sum of the shifts applied to a step. -/
def Bell.own (b : Bell) (t : Nat) : Int := ((b.shifts.find? fun e => e.1 == t).map (·.2.1)).getD 0

/-- A step's sum of shifts, and the shift in force for it. -/
def Bell.put (b : Bell) (t : Nat) (sum v : Int) : Bell :=
  { b with shifts := b.shifts.filter (fun e => e.1 ≠ t) ++ [(t, sum, v)] }

/-- Applies a shift at time `now`: the Bell, whether it was late, and the clamps made. -/
def Bell.apply (b : Bell) (t : Nat) (shift : Int) (now : Nat) : Bell × Bool × Nat :=
  let late : Bool := decide (b.time t < now)
  let t := if late then (t + 1) % 2 ^ 32 else t
  let sum := b.own t + shift
  let v := clampI (-2000000) 2000000 sum
  let low : Int := max (b.time (stepBefore t) + b.period / 2) (now + 10000)
  let moved := (b.put t sum v).time t
  let w := if moved < low then v + (low - moved) else v
  (b.put t sum w, late, (if v = sum then 0 else 1) + (if w = v then 0 else 1))

def execBellShift (now port : Nat) (trailer : Word) (f : Frame) (step : Nat) (shift : Int) (s : State) :
    Host.Outcome State Fault Refusal :=
  onManager now port trailer f 0x36 (fun p d =>
    match (fabPart d p).bell with
    | none => d
    | some b =>
      let (b, late, n) := b.apply (step % 2 ^ 32) shift d.ns
      let d := setFabPart d p { fabPart d p with bell := some b }
      rcount (rcount d .fabBellStat 0 p 47 32 late.toNat) .fabBellStat 0 p 31 16 n) s

end Sys2Proof.Machine
end

