-- ==== Sys2Proof/Machine/Campus.lean ====
section
/-!
DEFINITION. Campus time and the Departure Bell (R297 to R301, Tables FAB-8 and FAB-9). A row that names a
time is given the count of the reference clock; campus time follows it under R297 (log 2).
-/

namespace Sys2Proof.Machine

/-- Codes of FAB_TIME_STATUS.STATE. -/
inductive TimeState
  | freeRun | acquiring | locked | holdover
deriving DecidableEq, Repr

def TimeState.code : TimeState → Nat
  | .freeRun => 0
  | .acquiring => 1
  | .locked => 2
  | .holdover => 3

def timeIn (d : Dev) (t : TimeState) : Bool := rfield d .fabTimeStatus 0 0 1 0 == t.code
def setTime (d : Dev) (t : TimeState) : Dev := rsetf d .fabTimeStatus 0 0 1 0 t.code
def everLocked (d : Dev) : Bool := wbit (rget d .fabTimeStatus) 2
def timeSrc (d : Dev) : Nat := rfield d .fabTimeCtl 0 0 1 0

/-- A Bell is armed in some partition. -/
def anyBell (d : Dev) : Bool := d.fab.parts.any fun e => e.2.bell.isSome

/-- Whether campus time may run backwards (R297). -/
def mayStepBack (d : Dev) : Bool := !anyBell d && !everLocked d

/-- An offset as OFFSET shows it: 32 bits, saturating. -/
def offsetCode (x : Int) : Nat := wrapN 32 (clampI (-(2 ^ 31)) (2 ^ 31 - 1) x)

/-- Campus time is set. Time stamps of this device that are still to be used move with it (R298). -/
def stepTime (d : Dev) (v : Nat) : Dev :=
  let by_ : Int := v - d.ns
  { d with
    ns := v
    frac := 0
    fab.sync := d.fab.sync.map fun s => (s.1, s.2.1 + by_, s.2.2)
    fab.delayReq := d.fab.delayReq.map fun s => (s.1, s.2 + by_) }

/-- A valid measurement: campus time is `off` ns ahead of its source (Table FAB-8). The frequency
correction that results is not stated: free, within the 100 ppm of a slew. -/
def measure (d : Dev) (off : Int) : Dev :=
  let d := if timeIn d .freeRun || timeIn d .holdover then
    setTime { d with fab.goodRun := 0 } .acquiring else d
  let d := rsetf d .fabTimeStatus 0 0 63 32 (offsetCode off)
  let (v, d) := freeW d
  let big : Bool := decide (1000000 < off.natAbs)
  let d : Dev := { d with fab.measuredAt := d.clock, fab.freq := clampI (-100000) 100000 (sext 32 v.toNat) }
  if timeIn d .acquiring then
    let d : Dev := if big && mayStepBack d then stepTime { d with fab.slew := 0 } ((d.ns : Int) - off).toNat
      else { d with fab.slew := -off * 65536 }
    let n := if off.natAbs < 100 then d.fab.goodRun + 1 else 0
    let d : Dev := { d with fab.goodRun := n }
    if 16 ≤ n then rsetf (setTime d .locked) .fabTimeStatus 0 0 2 2 1 else d
  else
    let d := if big then rcount d .fabTimeStatus 0 0 31 16 1 else d
    { d with fab.slew := -off * 65536 }

/-! ### PTP (R298) -/

/-- A number as `n` bytes, most significant first (IEEE 1588 byte order). -/
def beBytes (n v : Nat) : List Byte := (leBytes n v).reverse

/-- A Delay_Req as IEEE 1588-2019 clause 13 lays it out, padded to 64 bytes; `id` stands for the clock
identity, which is not stated. -/
def delayReqMsg (domain id seq port : Nat) : List Byte :=
  beBytes 1 1 ++ beBytes 1 2 ++ beBytes 2 44 ++ beBytes 1 domain ++ beBytes 1 0 ++ beBytes 2 0 ++
    beBytes 8 0 ++ beBytes 4 0 ++ beBytes 8 id ++ beBytes 2 (port + 1) ++ beBytes 2 seq ++ beBytes 1 1 ++
    beBytes 1 0x7F ++ List.replicate 10 0 ++ List.replicate 20 0

/-- A Delay_Req for the port of FAB_TIME_CTL, which sends it, and notes its time, as soon as it can. -/
def sendDelayReq (d : Dev) (p src port seq : Nat) : Dev :=
  let (v, d) := freeW d
  let f := ctlFrame d p src 0x20 0 (delayReqMsg (rfield d .fabTimeCtl 0 0 15 8) v.toNat seq port)
  flushCtl { d with fab.delayOut := some (seq, f) }

/-- A PTP message: `kind` is its messageType (0 Sync, 8 Follow_Up, 9 Delay_Resp), `time` its timestamp
and `corr` its correctionField in ns, `twoStep` its flag, `interval` its logMessageInterval. -/
def takePtp (d : Dev) (p src port kind seq time : Nat) (corr : Int) (twoStep : Bool) (interval : Int) : Dev :=
  match kind with
  | 0 =>
    if interval < -7 ∨ 0 < interval then d
    else
      let d : Dev := { d with fab.interval := 1000000000 / 2 ^ interval.natAbs }
      if twoStep then
        sendDelayReq { d with fab.sync := some (seq, d.ns, corr) } p src port seq
      else
        let t1 : Int := time + corr
        let here := d.ns
        sendDelayReq (measure { d with fab.sync := some (seq, here, t1) } ((here : Int) - t1 - d.fab.pathDelay))
          p src port seq
  | 8 =>
    match d.fab.sync with
    | some (n, here, c) =>
      if n = seq then
        let t1 : Int := time + corr + c
        measure { d with fab.sync := some (seq, here, t1) } ((here : Int) - t1 - d.fab.pathDelay)
      else d
    | none => d
  | 9 =>
    match d.fab.sync, d.fab.delayReq with
    | some (_, here, t1), some (n, t3) =>
      if n = seq then
        let t4 : Int := time - corr
        { d with fab.pathDelay := ((here : Int) - t1 + (t4 - t3)) / 2, fab.delayReq := none }
      else d
    | _, _ => d
  | _ => d

/-- PTP: on the port of FAB_TIME_CTL with SRC = PTP, and in its domain; other messages are ignored. -/
def execPtp (now port : Nat) (trailer : Word) (f : Frame) (kind domain seq time : Nat) (corr : Int)
    (twoStep : Bool) (interval : Int) (s : State) : Host.Outcome State Fault Refusal :=
  onControl now port trailer f 0x20 (fun p d =>
    if timeSrc d = 1 ∧ port = rfield d .fabTimeCtl 0 0 20 16 ∧ domain = rfield d .fabTimeCtl 0 0 15 8 then
      takePtp d p f.src port kind seq time corr twoStep interval
    else d) s

/-! ### PPS, holdover, setting and reading (R297, R299) -/

/-- TIME_HOLDOVER: no valid measurement for 8 sync intervals. -/
def execTimeHoldover (now : Nat) (s : State) : Host.Outcome State Fault Refusal :=
  onDev s fun d =>
    let d1 := advanceTo d now
    let n := if timeSrc d1 = 2 then 1000000000 else d1.fab.interval
    if timeIn d1 .locked ∧ d1.fab.measuredAt + 8 * n ≤ d1.clock then setTime d1 .holdover else d

/-- PPS_IN_EDGE: a whole second, with SRC = PPS_IN. A FAB_TIME_SET that waits takes effect; else the
edge measures against the nearest second. -/
def execPpsInEdge (now : Nat) (s : State) : Host.Outcome State Fault Refusal :=
  onDev s fun d =>
    if timeSrc d = 2 then
      let d := advanceTo d now
      match d.fab.setNext with
      | some v =>
        let d : Dev := { d with fab.setNext := none }
        measure (if v < d.ns ∧ mayStepBack d = false then d else stepTime d v) 0
      | none => measure d ((d.ns : Int) - ((d.ns + 500000000) / 1000000000 * 1000000000 : Nat))
    else d

/-- PPS_OUT_PULSE: PPS_OUT is high for 10 ms from each whole second, while enabled and LOCKED or
HOLDOVER. -/
def execPpsOutPulse (now : Nat) (s : State) : Host.Outcome State Fault Refusal :=
  onDev s fun d =>
    let d := advanceTo d now
    let on : Bool := wbit (rget d .fabTimeCtl) 3 && (timeIn d .locked || timeIn d .holdover)
    { d with fab.ppsOut := on && decide (d.ns % 1000000000 < 10000000) }

/-- A write of FAB_TIME_SET (R297, R299). -/
def setCampus (d : Dev) (v : Word) : Dev :=
  if v.toNat < d.ns ∧ mayStepBack d = false then d
  else if timeSrc d = 2 ∧ everLocked d = false then { d with fab.setNext := some v.toNat }
  else if timeIn d .freeRun then stepTime d v.toNat
  else d

/-- FAB_TIME_SET: an Innkeeper write. -/
def execFabTimeSet (v : Word) (s : State) : Host.Outcome State Fault Refusal :=
  onDev s fun d => setCampus d v

/-- A read of FAB_TIME_NS latches the fraction. -/
def readCampus (d : Dev) : Word × Dev := (toW d.ns, rset d .fabTimeFrac 0 0 (toW d.frac))

/-- FAB_TIME_NS_READ: an Innkeeper read of FAB_TIME_NS. -/
def execFabTimeNsRead (s : State) : Host.Outcome State Fault Refusal :=
  onDev s fun d =>
    let (v, d) := readCampus d
    emit d (.mmio stOk (some v))

/-! ### The Departure Bell (R301) -/

/-- DEPARTURE_BELL: BELL(t) of the next step has come, in its turn (R300). -/
def execDepartureBell (p now : Nat) (s : State) : Host.Outcome State Fault Refusal :=
  onDev s fun d =>
    let d1 := advanceTo d now
    match (fabPart d1 p).bell with
    | some b =>
      if b.time b.next ≤ d1.ns ∧ inTurnAt d1 (b.time b.next) .bell then
        let b' : Bell := { b with next := (b.next + 1) % 2 ^ 32 }
        semAdd (setFabPart d1 p
          { fabPart d1 p with bell := some b', lastBell := some (b.time b.next).toNat }) b.sem 1
      else d
    | none => d

end Sys2Proof.Machine
end

