-- ==== Sys2Proof/Machine/Ranolink.lean ====
section
/-!
DEFINITION. Ranolink: requests of the companion, coherence, completions, snoops and the states of the
link (R305 to R326). Flits are not kept apart from the messages they carry (log 4).
-/

namespace Sys2Proof.Machine

/-! ### Messages and flits as bytes (R308, R310) -/

/-- A message in the stream: the header of Table RNL-4, then its data. -/
def msgBytes (m : Msg) : List Byte :=
  leBytes 4 (m.type + m.ack.toNat * 2 ^ 5 + m.coh.toNat * 2 ^ 6 + m.data.length / 64 * 2 ^ 8 + m.tag * 2 ^ 16) ++
    leBytes 2 m.status ++ leBytes 6 m.addr ++ leBytes 4 m.word ++ m.data

/-- The message stream of the device: its messages in the order sent, each on a 4-byte boundary. -/
def rnlStream (out : List Out) : List Byte :=
  out.flatMap fun o => match o with
    | .rnl m => msgBytes m
    | _ => []

def crc64Step : Nat → Nat → Nat
  | 0, c => c
  | n + 1, c => crc64Step n (c * 2 % 2 ^ 64 ^^^ (if 2 ^ 63 ≤ c then 0x42F0E1EBA9EA3693 else 0))

/-- CRC-64 of R308, the highest bit of a byte first (log 160). -/
def crc64 (bs : List Byte) : Nat :=
  bs.foldl (fun c b => crc64Step 8 (c ^^^ b.toNat * 2 ^ 56)) (2 ^ 64 - 1) ^^^ (2 ^ 64 - 1)

/-- A flit (Table RNL-3): FTYPE, FSEQ, ASEQ where one is known, and 236 bytes of payload. -/
def flitBytes (ftype fseq : Nat) (aseq : Option Nat) (payload : List Byte) : List Byte :=
  let head := leBytes 4 (fseq % 1024 + ftype % 4 * 2 ^ 10 + aseq.getD 0 % 1024 * 2 ^ 12 + aseq.isSome.toNat * 2 ^ 22)
  let body := head ++ padTo 236 payload
  let flit := body ++ leBytes 8 (crc64 body) ++ [0, 0]
  flit ++ leBytes 6 (Config.flitFec flit).toNat

/-! ### Sending -/

/-- A message without data of the device. -/
def plainMsg (type tag status addr word : Nat) (data : List Byte) : Msg :=
  ⟨type, false, false, tag, status, addr, word, data⟩

/-- Sends what waits: responses as far as credit lasts, then events. -/
def flushRsp : Nat → Dev → Dev
  | 0, d => d
  | n + 1, d =>
    match d.rnl.rspQ with
    | [] => d
    | m :: ms =>
      let u := msgUnits (m.data.length / 64)
      if linkUp d ∧ u ≤ rnlCredit d .rsp then
        flushRsp n (emit (useCredit { d with rnl.rspQ := ms } .rsp u) (.rnl m))
      else d

/-- MGT messages leave first, in L0: they wait for no credit (R312, R324). -/
def flushMgt (d : Dev) : Dev :=
  if linkUp d then d.rnl.mgtQ.foldl (fun d m => emit d (.rnl m)) { d with rnl.mgtQ := [] } else d

def flushRnl (d : Dev) : Dev :=
  let d := flushMgt d
  let d := flushRsp d.rnl.rspQ.length d
  sendEvents evtMax (pushWrites d.rnl.reqQ.length d)

/-- Sends an MGT message, which waits while the link is in L1 or RECOVERY. -/
def sendMgt (d : Dev) (m : Msg) : Dev :=
  if linkKept d then flushRnl { d with rnl.mgtQ := d.rnl.mgtQ ++ [m] } else d

def sendRsp (d : Dev) (m : Msg) : Dev := flushRnl { d with rnl.rspQ := d.rnl.rspQ ++ [m] }

/-- A CREDIT message: units of one class, the class from bit 16 on (log 34). -/
def returnUnits (d : Dev) (k : MsgClass) (n : Nat) : Dev :=
  sendMgt d (plainMsg 0x1C 0 0 0 (n % 2 ^ 16 + k.code * 2 ^ 16) [])

/-- The device advertises its own credits of the classes that it receives; how many is not stated, a free
value (R312, log 34). -/
def advertise (d : Dev) : Dev :=
  [MsgClass.req, .rsp, .srsp].foldl (fun d k =>
    let (v, d) := freeW d
    returnUnits d k v.toNat) d

/-! ### The snoop filter (R319) -/

/-- Sets the companion's state of a line; its entry becomes the last used, an empty one goes. -/
def setLine (d : Dev) (pa : Nat) (s m : Bool) : Dev :=
  let n := pa / 1024
  let i := pa % 1024 / 64
  let old := (d.rnl.filter.find? fun x => x.num == n).getD ⟨n, 0, 0⟩
  let x : Sector := ⟨n, setBits old.s i i s.toNat, setBits old.m i i m.toNat⟩
  let rest := d.rnl.filter.filter fun x => x.num ≠ n
  { d with rnl.filter := if x.s = 0 ∧ x.m = 0 then rest else rest ++ [x] }

def hasEntry (d : Dev) (pa : Nat) : Bool := d.rnl.filter.any fun x => x.num == pa / 1024

/-- Entries of the filter. -/
def filterSize : Nat := 262144

/-- The first line an entry holds. -/
def Sector.first (x : Sector) : Nat := x.num * 1024 + 64 * lowestBit 16 (x.s ||| x.m)

def snooped (d : Dev) (pa : Nat) : Bool := d.rnl.snoops.any fun x => x.line == pa

/-! ### Requests of the companion (R313, R314, R317 to R320) -/

/-- What serving a request answers. -/
inductive Served
  | done (d : Dev)
  | wait (d : Dev)

/-- The checks before a companion access: DRAM of a READY partition (R28, R42, R462, Table RNL-8). -/
def companionGate (pa : Nat) : Act Unit := do
  let d ← get
  match regionOf pa with
  | .dram q => if isReady d (partOfQuarter d q) then pure () else Act.fail stPartitionInReset pa
  | .mmio => Act.fail stMmioAccess pa
  | .doorbell _ => Act.fail stMmioAccess pa
  | _ => Act.fail stAddressUnmapped pa

/-- A companion read of a line, which changes no line's state (R319). -/
def companionRead (pa : Nat) : Act (List Byte) := do
  companionGate pa
  checkDram pa false .software
  readDramLine pa

/-- A status of a line check (Table MEM-3). -/
def isLineStatus (st : Nat) : Bool := st == stDramUncorrectable || st == stDramCrc || st == stDramTag

/-- MRD: a CPL_DATA for each line in ascending order; a line that fails its check has no data; another
status ends the read. -/
def serveMrd (tag addr : Nat) : List Nat → Dev → Dev
  | [], d => d
  | i :: is, d =>
    match (companionRead (addr + 64 * i)).go d with
    | (.ok bs, d) => serveMrd tag addr is (sendRsp d (plainMsg 0x09 tag stOk addr i bs))
    | (.error (.err st _), d) =>
      if isLineStatus st then serveMrd tag addr is (sendRsp d (plainMsg 0x09 tag st addr i []))
      else sendRsp d (plainMsg 0x08 tag st addr 0 [])
    | (.error (.wait _), d) => d

/-- MRD_S and MRD_M: a full filter first gives up its entry longest unused. -/
def serveCoh (d : Dev) (tag addr : Nat) (own : Bool) : Served :=
  match (companionRead addr).go d with
  | (.error (.wait _), _) => .wait d
  | (.error (.err st _), d') =>
    .done (sendRsp d' (if isLineStatus st then plainMsg 0x09 tag st addr 0 [] else plainMsg 0x08 tag st addr 0 []))
  | (.ok bs, d') =>
    match d.rnl.filter with
    | x :: _ =>
      if hasEntry d addr = false ∧ filterSize ≤ d.rnl.filter.length then
        .wait (sendSnoop d x.first true true)
      else .done (sendRsp (grant d') (plainMsg 0x09 tag stOk addr 0 bs))
    | [] => .done (sendRsp (grant d') (plainMsg 0x09 tag stOk addr 0 bs))
where
  /-- The companion holds the line: a line it holds in M stays in M. The cache line is written back and
  invalidated for MRD_M (Table RNL-6). -/
  grant (d : Dev) : Dev :=
    let m := own || (heldLine d addr).2
    setLine (if own then qcFlush d addr else d) addr (!m) m

/-- MWR: lines in order, each as a device write. -/
def companionWrite (addr : Nat) : List (List Byte) → Act Unit
  | [] => pure ()
  | b :: bs => do
    companionGate addr
    writeLine .software addr b
    companionWrite (addr + 64) bs

def serveMwr (d : Dev) (m : Msg) : Served :=
  match (companionWrite m.addr (cut 64 m.data)).go d with
  | (.error (.wait n), d') => .wait (waitDev d d' n)
  | (.error (.err st _), d') => .done (sendRsp d' (plainMsg 0x08 m.tag st m.addr 0 []))
  | (.ok _, d') => .done (if m.ack then sendRsp d' (plainMsg 0x0A m.tag stOk m.addr 0 []) else d')

/-- Data of a modified line come home through the Quarter Cache. -/
def putHome (d : Dev) (line : Nat) (bs : List Byte) : Dev := putLine d line bs .normal

/-- A snoop has its answer: the line's new state, and an entry evicted by it is counted. -/
def endSnoop (d : Dev) (x : Snoop) : Dev :=
  let d := { d with rnl.snoops := d.rnl.snoops.filter fun y => y.line ≠ x.line }
  let d := if x.inv then setLine d x.line false false else setLine d x.line true false
  if x.evict && !hasEntry d x.line then rcount d .rnlSfStatus 0 0 35 20 1 else d

/-- The companion writes back a modified line; a snoop that waits for it has its answer (R319, R320). -/
def serveWb (d : Dev) (m : Msg) : Dev :=
  if (heldLine d m.addr).2 then
    let d := setLine (putHome d m.addr m.data) m.addr false false
    match d.rnl.snoops.find? fun x => x.line == m.addr with
    | some x => endSnoop d { x with inv := true }
    | none => d
  else d

/-- The companion has dropped a shared line (R319). -/
def serveEvict (d : Dev) (m : Msg) : Dev :=
  let (s, own) := heldLine d m.addr
  if s && !own then setLine d m.addr false false else d

/-- An access of the companion to a doorbell page among its requests: its one 64-bit word (R313, R316). -/
def bellMsg (pa : Nat) (v : Word) : Msg := ⟨0x04, false, false, 0, 0, pa, 8, leBytes 8 v.toNat⟩

def isBell (m : Msg) : Bool :=
  match regionOf m.addr with
  | .doorbell _ => m.type == 0x04 && m.word == 8
  | _ => false

/-- The companion's write of a doorbell page takes effect. -/
def serveBell (d : Dev) (m : Msg) : Dev :=
  inReadyPart d ((m.addr - 0x400100000000) / 0x1000) (writeDoorbell d m.addr (toW (leNat m.data)))

/-- Lines of a request. -/
def reqLines (m : Msg) : List Nat :=
  let n := if m.type = 0x01 then m.word else if m.type = 0x04 then m.data.length / 64 else 1
  (List.range n).map fun i => m.addr + 64 * i

/-- Serves one request; one to a line with a snoop outstanding waits for its answer (R320). -/
def serve (d : Dev) (m : Msg) : Served :=
  if isBell m then .done (serveBell d m)
  else if (reqLines m).any (snooped d) then .wait d
  else
    match m.type with
    | 0x01 => .done (serveMrd m.tag m.addr (List.range m.word) d)
    | 0x02 => serveCoh d m.tag m.addr false
    | 0x03 => serveCoh d m.tag m.addr true
    | 0x05 => .done (serveWb d m)
    | 0x06 => .done (serveEvict d m)
    | _ => serveMwr d m

/-- A request has been served: its credit goes back. -/
def reqDone (d : Dev) (m : Msg) : Dev := returnUnits d .req (msgUnits (m.data.length / 64))

/-- Serves requests in the order they were sent (R314). -/
def serveAll : Nat → Dev → Dev
  | 0, d => d
  | n + 1, d =>
    match d.rnl.reqs with
    | [] => d
    | m :: ms =>
      match serve d m with
      | .wait d => d
      | .done d => serveAll n (reqDone { d with rnl.reqs := ms } m)

/-- The WB that a snoop's answer says is in flight gives the home its data as soon as it is there (R320). -/
def takeWb (d : Dev) : Dev :=
  d.rnl.snoops.foldl (fun d x =>
    if x.wbPending then
      match d.rnl.reqs.find? fun m => m.type == 0x05 && m.addr == x.line with
      | some m => reqDone (serveWb { d with rnl.reqs := d.rnl.reqs.erase m } m) m
      | none => d
    else d) d

def serveReqs (d : Dev) : Dev :=
  let d := takeWb d
  serveAll d.rnl.reqs.length d

/-- What waited for a line goes on. -/
def lineFree (d : Dev) : Dev := retryFlows (serveReqs ((List.range 64).foldl clearRetry d))

/-- A request arrives. -/
def reqIn (d : Dev) (m : Msg) (ok : Bool) : Dev :=
  if linkUp d && ok && m.addr % 64 == 0 then
    serveReqs { d with rnl.reqs := d.rnl.reqs ++ [m], rnl.lastTraffic := d.clock }
  else d

/-- MRD. -/
def execMrd (tag addr rlen : Nat) (s : State) : Host.Outcome State Fault Refusal :=
  onDev s fun d => reqIn d (plainMsg 0x01 tag 0 addr rlen []) (decide (1 ≤ rlen ∧ rlen ≤ 64))

def execMrdS (tag addr : Nat) (s : State) : Host.Outcome State Fault Refusal :=
  onDev s fun d => reqIn d (plainMsg 0x02 tag 0 addr 0 []) true

def execMrdM (tag addr : Nat) (s : State) : Host.Outcome State Fault Refusal :=
  onDev s fun d => reqIn d (plainMsg 0x03 tag 0 addr 0 []) true

/-- MWR. -/
def execMwr (tag addr : Nat) (ack : Bool) (data : List Byte) (s : State) : Host.Outcome State Fault Refusal :=
  onDev s fun d =>
    reqIn d ⟨0x04, ack, false, tag, 0, addr, 0, data⟩
      (data.length % 64 == 0 && decide (64 ≤ data.length ∧ data.length ≤ 4096))

/-- A write of a doorbell page by the Innkeeper, or, over the link, by the companion, whose earlier requests
come first (R316). -/
def doorbellIn (d : Dev) (pa width : Nat) (v : Word) (companion : Bool) : Dev :=
  if width ≠ 8 then emit d (.mmio stMmioAccess none)
  else if companion then
    if linkUp d then serveReqs { d with rnl.reqs := d.rnl.reqs ++ [bellMsg pa v], rnl.lastTraffic := d.clock } else d
  else serveBell d (bellMsg pa v)

/-- DB_TAIL_WRITE: an Innkeeper or companion write to DB_TAIL, one 64-bit access (R331, R462). -/
def execDbTailWrite (q width : Nat) (v : Word) (companion : Bool) (s : State) :
    Host.Outcome State Fault Refusal :=
  onDev s fun d =>
    if q < 262144 then doorbellIn d (0x400100000000 + q * 0x1000) width v companion else d

/-- DB_CQHEAD_WRITE (R331, R462). -/
def execDbCqheadWrite (q width : Nat) (v : Word) (companion : Bool) (s : State) :
    Host.Outcome State Fault Refusal :=
  onDev s fun d =>
    if q < 262144 then doorbellIn d (0x400100000000 + q * 0x1000 + 0x18) width v companion else d

/-! ### Lines given up (R319, R320) -/

/-- A line that the companion gives up has come home: what waited for it goes on. -/
def homeIn (d : Dev) (m : Msg) (ok : Bool) : Dev :=
  if linkUp d && ok then lineFree (reqIn d m ok) else d

/-- WB: the companion writes back a modified line. -/
def execWb (addr : Nat) (data : List Byte) (s : State) : Host.Outcome State Fault Refusal :=
  onDev s fun d => homeIn d (plainMsg 0x05 0 0 addr 0 data) (data.length == 64)

/-- EVICT: the companion has dropped a shared line. -/
def execEvict (addr : Nat) (s : State) : Host.Outcome State Fault Refusal :=
  onDev s fun d => homeIn d (plainMsg 0x06 0 0 addr 0 []) true

/-- SNP_RSP: the answer to a snoop, with the data of a modified line, or with its WB in flight. -/
def execSnpRsp (line : Nat) (data : List Byte) (wb : Bool) (s : State) : Host.Outcome State Fault Refusal :=
  onDev s fun d =>
    if linkUp d then
      let d := returnUnits d .srsp (msgUnits (data.length / 64))
      match d.rnl.snoops.find? fun x => x.line == line with
      | none => d
      | some x =>
        let m := (heldLine d line).2
        if wb && m then
          lineFree { d with rnl.snoops := d.rnl.snoops.map fun y =>
            if y.line = line then { y with wbPending := true } else y }
        else
          let d := if m && data.length == 64 then putHome d line data else d
          lineFree (endSnoop d (if wb then { x with inv := true } else x))
    else d

/-! ### Completions of the device's requests (R313, R315) -/

/-- A window write of the device has its end: every owner learns it. -/
def tellWrite (d : Dev) (tag status : Nat) : Dev :=
  let t := 2 ^ 20 + tag
  let d := d.tiles.ctxs.foldl (fun d e =>
    if e.2.writesOut.contains tag then
      let d := updCtx d e.1 fun x => { x with writesOut := x.writesOut.filter (· ≠ tag) }
      let d := opEnds d e.1 t status
      if status = stOk then clearRetry d (tileOf e.1) else d
    else d) d
  let d := d.tiles.slots.foldl (fun d e =>
    match e.2.flight.find? fun y => y.xacts.contains t with
    | some y => elemTold d (e.1 / 16) (e.1 % 16) y.num t status y.addr
    | none => d) d
  let cmd (y : Cmd) : Cmd :=
    if (y.step = visibleStep ∨ y.posted ∨ y.keepsTags && y.st == .started) ∧
        y.aux2.contains tag then
      { y with
        aux2 := y.aux2.filter (· ≠ tag)
        status := if y.posted then y.status else max y.status status }
    else if y.aux.contains t ∧ y.st = .started then
      { y with aux := y.aux.filter (· ≠ t), status := max y.status status }
    else y
  { d with hub.queues := d.hub.queues.map fun (e : Nat × Queue) =>
      (e.1, { e.2 with cmds := e.2.cmds.map cmd }) }

/-- A read of a window line has its end; one overtaken by a write serves nobody. -/
def lineArrives (d : Dev) (line status : Nat) (bs : List Byte) : Dev :=
  if line % 64 ≠ 0 then d
  else (List.range 64).foldl clearRetry { d with rnl.arrived := d.rnl.arrived ++ [(line, status, bs)] }

/-- A completion with a status for the request with a TAG. -/
def endReq (d : Dev) (tag status : Nat) (bs : List Byte) : Dev :=
  match d.rnl.devReqs.find? fun x => x.tag % 65536 == tag % 65536 with
  | none => d
  | some x =>
    let d := { d with rnl.devReqs := d.rnl.devReqs.filter fun y => y.tag ≠ x.tag }
    if x.read then lineArrives d x.line status bs else tellWrite d x.tag status

/-- After completions: what waits is sent, and what waited goes on. -/
def afterReq (d : Dev) : Dev := retryFlows (flushRnl d)

/-- CPL: a completion without data; an error is RANOLINK_ABORT (Table RNL-8). -/
def execCpl (tag status : Nat) (s : State) : Host.Outcome State Fault Refusal :=
  onDev s fun d =>
    if linkUp d then
      afterReq (endReq (returnUnits d .rsp (msgUnits 0)) tag (if status = stOk then stOk else stRanolinkAbort)
        (List.replicate 64 0))
    else d

/-- CPL_DATA: the device's reads are of one line each. -/
def execCplData (tag status : Nat) (data : List Byte) (s : State) : Host.Outcome State Fault Refusal :=
  onDev s fun d =>
    if linkUp d then
      let d := returnUnits d .rsp (msgUnits (data.length / 64))
      if status = stOk then (if data.length = 64 then afterReq (endReq d tag stOk data) else d)
      else afterReq (endReq d tag stRanolinkAbort [])
    else d

/-- WR_DONE: the write with this tag and every earlier one are visible. -/
def execWrDone (tag : Nat) (s : State) : Host.Outcome State Fault Refusal :=
  onDev s fun d =>
    if linkUp d then
      let d := returnUnits d .rsp (msgUnits 0)
      let ws := (d.rnl.devReqs.filter fun x => !x.read).map fun x => x.tag % 65536
      if ws.contains tag then
        afterReq ((ws.take (ws.idxOf tag + 1)).foldl (fun d t => endReq d t stOk []) d)
      else d
    else d

/-- CREDIT: units of the five classes come back. -/
def execCredit (req rsp snp srsp evt : Nat) (s : State) : Host.Outcome State Fault Refusal :=
  onDev s fun d =>
    if linkUp d then
      let add (d : Dev) (k : MsgClass) (n : Nat) : Dev :=
        { d with rnl.credit := mset 0 d.rnl.credit k.code (rnlCredit d k + n) }
      serveReqs (flushRnl (add (add (add (add (add d .req req) .rsp rsp) .snp snp) .srsp srsp) .evt evt))
    else d

/-- MESSAGE_DROPPED: a type that the companion may not send (R311). -/
def execMessageDropped (type : Nat) (s : State) : Host.Outcome State Fault Refusal :=
  onDev s fun d =>
    let known := [0x01, 0x02, 0x03, 0x04, 0x05, 0x06, 0x08, 0x09, 0x0A, 0x12, 0x1C, 0x1D]
    if linkUp d ∧ known.contains type = false then rcount d .rnlErrCnt 0 0 63 48 1 else d

/-! ### Boot over the link (R425, R428) -/

/-- SEC_BOOT_STATUS.STAGE: 0 ROM_INIT, 1 WAIT_LINK, 2 WAIT_IMAGE, 3 FETCH, 4 VERIFY, 5 START, 6
RUNNING. -/
def bootStage (d : Dev) : Nat := rfield d .secBootStatus 0 0 2 0

def setBoot (d : Dev) (stage : Nat) : Dev := rsetf d .secBootStatus 0 0 2 0 stage

/-- BOOT_HELLO (Table BOT-2). -/
def sendHello (uid : BitVec 128) (d : Dev) : Dev :=
  let lc := rget d .secLcStatus
  let bs := leBytes 16 uid.toNat ++ leBytes 1 (wbits lc 1 0) ++ leBytes 1 (wbits lc 13 8) ++
    leBytes 2 d.boot.lastStatus ++ leBytes 4 Config.romVersion.toNat ++
    leBytes 4 (rfield d .secBootStatus 0 0 47 32) ++ leBytes 4 0xB0 ++ leBytes 32 0
  emit { d with boot.helloAt := d.clock } (.rnl (plainMsg 0x1D 0 0 0 0x0100 bs))

/-- The ROM in WAIT_LINK finds the link ACTIVE: it says hello and waits for an image. -/
def bootLink (uid : BitVec 128) (d : Dev) : Dev :=
  if bootStage d = 1 ∧ linkUp d then sendHello uid (setBoot d 2) else d

/-! ### The link goes DOWN and comes back (R307, R309, R321, R322, R325) -/

def setLink (d : Dev) (st : Nat) : Dev := rsetf d .rnlLinkStatus 0 0 3 0 st

/-- The lines the companion holds in M. -/
def linesM (d : Dev) : List Nat :=
  (d.rnl.filter.map fun x =>
    ((List.range 16).filter fun i => x.m.testBit i).map fun i => x.num * 1024 + 64 * i).flatten

/-- The link goes DOWN with a cause (R322); a FETCH is given up (R428). -/
def linkDown (d : Dev) (cause : Nat) : Dev :=
  let lost := linesM d
  let d := lost.foldl (fun d a => touchLine (failLine (qcDrop d a) a) a) d
  let d := rcount d .rnlSfStatus 0 0 51 36 lost.length
  let reqs := d.rnl.devReqs ++ d.rnl.reqQ.map fun m => ⟨m.tag, false, m.addr⟩
  let d := { d with
    rnl.filter := []
    rnl.snoops := []
    rnl.devReqs := []
    rnl.reqs := []
    rnl.rspQ := []
    rnl.reqQ := []
    rnl.mgtQ := []
    rnl.startDue := false
    rnl.naks := []
    rnl.credit := []
    rnl.lostLines := d.rnl.lostLines ++ lost
    rnl.downAt := d.clock }
  let d := rsetf (setLink d 0) .rnlLinkStatus 0 0 15 8 cause
  let d := rsetf d .rnlLinkStatus 0 0 6 4 0
  let d := if bootStage d = 3 then setBoot { d with boot.store := [] } 1 else d
  retryFlows (reqs.foldl (fun d x =>
    if x.read then lineArrives d x.line stRanolinkDown [] else tellWrite d x.tag stRanolinkDown) d)

/-- SNOOP_TIMEOUT: a snoop unanswered for 1 ms; one answered with a WB in flight has its answer (R321). -/
def execSnoopTimeout (line now : Nat) (s : State) : Host.Outcome State Fault Refusal :=
  onDev s fun d =>
    let d1 := advanceTo d now
    if d1.rnl.snoops.any fun x => x.line == line && !x.wbPending && decide (x.since + 1000000 ≤ d1.clock) then
      linkDown (rcount d1 .rnlSfStatus 0 0 63 52 1) 3
    else d

/-- LINK_DOWN: the partner is lost. -/
def execLinkDown (now : Nat) (s : State) : Host.Outcome State Fault Refusal :=
  onDev s fun d => if linkKept d then linkDown (advanceTo d now) 4 else d

/-- LINK_TRAINING_START: at once after power-up and a reset, else 100 ms after DOWN (R307). -/
def execLinkTrainingStart (now : Nat) (s : State) : Host.Outcome State Fault Refusal :=
  onDev s fun d =>
    let d1 := advanceTo d now
    if linkState d1 = 0 ∧ (d1.rnl.startDue = true ∨ d1.rnl.downAt + 100000000 ≤ d1.clock) then
      setLink { d1 with rnl.trainAt := d1.clock, rnl.startDue := false } 1
    else d

/-- Training has begun and not ended. -/
def training (d : Dev) : Bool := 1 ≤ linkState d && linkState d ≤ 3

/-- The events due once the link is ACTIVE again: 0x0008, then one for each lost line (R322, R323). -/
def restoredEvents (d : Dev) : Dev :=
  let cause := rfield d .rnlLinkStatus 0 0 15 8
  if d.rnl.wasUp = false then { d with rnl.wasUp := true }
  else
    let lost := d.rnl.lostLines
    let d := postEvent d 0 0x0008 [toW cause, toW d.rnl.lostSince, toW lost.length]
    let d := lost.foldl (fun d a =>
      let cls := if isCorrect d (bandOf a) then 1 else 2
      postEvent d (partOfQuarter d (a / quarterBytes)) 0x0002 (dramWords a cls false)) d
    { d with rnl.lostLines := [], rnl.lostSince := 0 }

/-- LINK_ACTIVE: training completes within 200 ms, with the width, the reversal and the credits
advertised by class. -/
def execLinkActive (width : Nat) (reversed : Bool) (req rsp snp srsp evt now : Nat) (s : State) :
    Host.Outcome State Fault Refusal :=
  onDev s fun d =>
    let d1 := advanceTo d now
    if training d1 ∧ 1 ≤ width ∧ width ≤ 3 ∧ d1.clock < d1.rnl.trainAt + 200000000 then
      let d1 := rsetf (setLink d1 4) .rnlLinkStatus 0 0 6 4 (width + 4 * reversed.toNat)
      let c := mset 0 (mset 0 (mset 0 (mset 0 (mset 0 [] 0 req) 1 rsp) 2 snp) 3 srsp) 4 evt
      bootLink s.fuses.uid (flushRnl (restoredEvents (advertise { d1 with rnl.credit := c, rnl.lastTraffic := d1.clock })))
    else d

/-- LINK_TRAINING_TIMEOUT: not ACTIVE within 200 ms. -/
def execLinkTrainingTimeout (now : Nat) (s : State) : Host.Outcome State Fault Refusal :=
  onDev s fun d =>
    let d1 := advanceTo d now
    if training d1 ∧ d1.rnl.trainAt + 200000000 ≤ d1.clock then linkDown d1 1 else d

/-- FLIT_NAK: a flit fails: one the device receives (`rx`), which it NAKs with the FSEQ before it, or one
it sent, which the companion NAKs; `resent` flits are then sent again. `seq` is the FSEQ that is due; the
FSEQ of the NAK itself is not stated, a free value (log 160). -/
def execFlitNak (rx : Bool) (seq resent : Nat) (s : State) : Host.Outcome State Fault Refusal :=
  onDev s fun d =>
    if linkUp d then
      let key := 2 * (seq % 1024) + rx.toNat
      let n := ((d.rnl.naks.find? fun e => e.1 == key).map (·.2)).getD 0
      let side := d.rnl.naks.filter fun e => e.1 % 2 ≠ rx.toNat
      let d := { d with rnl.naks := side ++ [(key, n + 1)] }
      if rx then
        let (v, d) := freeW (rcount d .rnlErrCnt 0 0 31 16 1)
        emit d (.flit (flitBytes 2 v.toNat (some (seq + 1023)) []))
      else rcount d .rnlErrCnt 0 0 47 32 resent
    else d

/-- LINK_RECOVERY: four resends in a row of one flit have failed. -/
def execLinkRecovery (now : Nat) (s : State) : Host.Outcome State Fault Refusal :=
  onDev s fun d =>
    if linkUp d ∧ d.rnl.naks.any fun e => 5 ≤ e.2 then
      let d := advanceTo d now
      setLink (rcount { d with rnl.recoverAt := d.clock } .rnlLinkStatus 0 0 31 16 1) 5
    else d

/-- RECOVERY_DONE: the link resumes, and what waited goes on. -/
def execRecoveryDone (now : Nat) (s : State) : Host.Outcome State Fault Refusal :=
  onDev s fun d =>
    if linkState d = 5 then
      let d := setLink (advanceTo d now) 4
      lineFree (flushRnl { d with rnl.naks := [] })
    else d

/-- RECOVERY_TIMEOUT: RECOVERY has not succeeded within 100 ms. -/
def execRecoveryTimeout (now : Nat) (s : State) : Host.Outcome State Fault Refusal :=
  onDev s fun d =>
    let d1 := advanceTo d now
    if linkState d1 = 5 ∧ d1.rnl.recoverAt + 100000000 ≤ d1.clock then linkDown d1 2 else d

/-- A write of RNL_LINK_CTL: RETRAIN takes the link DOWN, with cause 0 (log 39), and trains it again. -/
def writeLinkCtl (d : Dev) (v : Word) : Dev :=
  let d := rsetf d .rnlLinkCtl 0 0 1 1 (wbits v 1 1)
  let d := if wbits v 31 16 = 0 then d else rsetf d .rnlLinkCtl 0 0 31 16 (wbits v 31 16)
  if wbit v 0 then
    let d := linkDown d 0
    setLink { d with rnl.trainAt := d.clock } 1
  else d

def execLinkRetrain (v : Word) (s : State) : Host.Outcome State Fault Refusal :=
  onDev s fun d => if wbit v 0 then writeLinkCtl d v else d

/-! ### L1 (R324) -/

/-- The idle time before L1 in ns: 10 µs in DEEP. -/
def l1Idle (d : Dev) : Nat := 1000 * (if d.power = .deep then 10 else rfield d .rnlLinkCtl 0 0 31 16)

/-- L1_ENTRY: both sides agree after the idle time. -/
def execL1Entry (now : Nat) (s : State) : Host.Outcome State Fault Refusal :=
  onDev s fun d =>
    let d1 := advanceTo d now
    if linkUp d1 ∧ wbit (rget d1 .rnlLinkCtl) 1 ∧ d1.rnl.lastTraffic + l1Idle d1 ≤ d1.clock then setLink d1 6
    else d

/-- L1_EXIT: either side's demand brings the link back to L0. -/
def execL1Exit (now : Nat) (s : State) : Host.Outcome State Fault Refusal :=
  onDev s fun d =>
    if linkState d = 6 then
      let d := setLink (advanceTo d now) 4
      lineFree (flushRnl { d with rnl.lastTraffic := d.clock })
    else d

end Sys2Proof.Machine
end

