-- ==== Sys2Proof/Machine/Dump.lean ====
section
/-!
DEFINITION. The crash dump (R363 to R369): what it records, how a read of the scan network fails, the
dump slots, and DUMP, CRASH_DUMP and SCAN_READ_TIMEOUT. The order of the words of a unit is the
model's (log 46).
-/

namespace Sys2Proof.Machine

/-! ### Records (R363, R364, R366) -/

/-- A unit's words for the dump: section type of Table FLT-3, quarter, UNIT, whether it belongs to a
tile, and its words as (INDEX, value, covered by debug scope TILE). -/
structure DumpUnit where
  kind : Nat
  unit : Nat
  tile : Bool
  words : List (Nat × Nat × Bool)

/-- A word that a dump records: value and reason code of Table FLT-2. -/
structure DumpWord where
  value : Nat
  reason : Nat
  unit : Nat
  index : Nat

/-- The 16 bytes of a record (R366). -/
def DumpWord.bytes (x : DumpWord) : List Byte :=
  leBytes 8 x.value ++ leBytes 2 x.reason ++ leBytes 2 x.unit ++ leBytes 4 x.index

/-- The data contents under scope TILE are withheld: the device is DEPLOYED and TILE is not in force
(R439). -/
def dataLocked (d : Dev) : Bool := rfield d .secLcStatus 0 0 1 0 == 2 && !debugOpen d

/-- Reads a unit's words in order: `off` is the reason for a unit whose domain is off or in reset, `silent`
the indices that go unanswered, `miss` how many went so in a row (R364). -/
def readUnit (unit off : Nat) (locked : Bool) (silent : List Nat) :
    Nat → List (Nat × Nat × Bool) → List DumpWord
  | _, [] => []
  | miss, (i, v, data) :: rest =>
    let w (v r : Nat) : DumpWord := ⟨v, r, unit, i⟩
    if off ≠ 0 then w 0 off :: readUnit unit off locked silent miss rest
    else if 4 ≤ miss then w 0 2 :: readUnit unit off locked silent miss rest
    else if data && locked then w 0 6 :: readUnit unit off locked silent 0 rest
    else if silent.contains i then w 0 1 :: readUnit unit off locked silent (miss + 1) rest
    else w v 0 :: readUnit unit off locked silent 0 rest

/-- UNIT_OFF for a tile whose logic is power-gated, UNIT_IN_RESET for a partition in reset (Table
FLT-2). -/
def unitOff (d : Dev) (quarter : Nat) (tile : Bool) : Nat :=
  if inReset d (partOfQuarter d quarter) then 4
  else if tile && (d.power == .deep || d.power == .night) then 3
  else 0

/-- A context's registers and what its scope TILE covers. A data word that is 0 takes no record. -/
def ctxWords (d : Dev) (c : Nat) : List (Nat × Nat × Bool) :=
  let x := ctxAt d c
  let t := tileOf c
  let state : Nat := match x.state with
    | .idle => 0
    | .checking => 1
    | .ready => 2
    | .running => 3
    | .waiting => 4
    | .draining => 5
    | .faulted => 6
    | .halted => 7
  let plain := [state + x.asid * 16 + x.queue * 2 ^ 16, x.pc, x.fStatus + x.fEngine * 2 ^ 16, x.fAddr,
    x.seq, x.preds] ++ (List.range 64).map fun i => (x.sreg i).toNat
  let keep (ws : List (Nat × Nat)) : List (Nat × Nat × Bool) :=
    (ws.filter fun e => e.2 ≠ 0).map fun e => (e.1, e.2, true)
  let vec := (x.vregs.map fun e =>
    (List.range 128).map fun j => (1024 + 128 * e.1 + j, elemAt e.2.toNat 64 j)).flatten
  let acc := ((d.tiles.accRows.filter fun e =>
      ownsTile d c && e.1 / 1024 == t && x.acc.testBit (e.1 / 128 % 8)).map fun e =>
    (List.range 64).map fun j => (8192 + 64 * (e.1 % 1024) + j, elemAt e.2.toNat 64 j)).flatten
  let lo := sramKey t x.sramBase / 8
  let sram := (List.range (x.sramSize / 8)).map fun i =>
    (2 ^ 20 + i, leNat (bytesAt d.tiles.sram (8 * (lo + i)) 8))
  ((List.range plain.length).zip plain).map (fun e => (e.1, e.2, false)) ++ keep vec ++ keep acc ++ keep sram

/-- A context's itinerary positions (R363): state and counts of each slot, loop indices, address
registers, WAITSEM counts, and PUB and REL of its ring. -/
def itinWords (d : Dev) (c : Nat) : List (Nat × Nat × Bool) :=
  let t := tileOf c
  ((ctxAt d c).itins.map fun n =>
    let s := slotAt d t n
    let (pub, rel) := match ringAt d t s.ring with
      | some r => (r.pub, r.rel)
      | none => (0, 0)
    let ws := [s.stateWord, s.delivered + s.consumed * 2 ^ 32, s.heldStatus + s.heldElem * 2 ^ 32, pub, rel]
      ++ s.loops.map (·.k) ++ s.addrs ++ s.waits.map fun e => e.1 * 2 ^ 32 + e.2
    ((List.range ws.length).zip ws).map fun e => (64 * n + e.1, e.2, false)).flatten

def ctxUnits (d : Dev) (c : Nat) : List DumpUnit :=
  [⟨2, tileOf c, true, (ctxWords d c).map fun e => (2 ^ 24 * slotOf c + e.1, e.2)⟩,
    ⟨3, tileOf c, true, itinWords d c⟩]

/-- A queue record (R363). -/
def queueUnit (d : Dev) (q : Nat) : DumpUnit :=
  let x := queueAt d q
  let started := x.cmds.filter fun y => y.st != .accepted
  let st : Nat := match x.state with
    | .off => 0
    | .run => 1
    | .stopped => 2
  let ws := [st, x.tail, x.retire, x.reply, x.cqhead, started.length] ++
    (started.map fun y => [y.seq, y.start]).flatten
  ⟨4, q % 65536, false, ((List.range ws.length).zip ws).map fun e => (e.1, e.2, false)⟩

def semUnit (d : Dev) (n : Nat) : DumpUnit :=
  ⟨5, n / 32768, false, [(n % 32768, (semAt d n).toNat, false)]⟩

/-- Accumulator types and counts and queued MMAs of a tile's Matrix Engine. -/
def tileUnit (d : Dev) (t : Nat) : DumpUnit :=
  let acc := (List.range 8).map fun a =>
    let i := accInfo d t a
    (match i.ty with | .none => 0 | .fp32 => 1 | .int32 => 2) + i.k * 4 + i.n * 2 ^ 40
  let ws := acc ++ [(mmaQueue d t).length]
  ⟨1, t, true, ((List.range ws.length).zip ws).map fun e => (e.1, e.2, false)⟩

/-- Hub units of a chip dump: Innkeeper cores by their beats, the Ledger's entries in use, the tally
contexts' steps, the outstanding transactions. -/
def hubUnits (d : Dev) : List DumpUnit :=
  [⟨6, 0, false, d.recov.beats.map fun e => (e.1, e.2.1, false)⟩,
    ⟨7, 3, false, (d.ledger.frames.map fun e =>
      [(2 * e.1, e.2.lo.toNat, false), (2 * e.1 + 1, e.2.hi.toNat, false)]).flatten⟩,
    ⟨7, 4, false, d.tally.ctxs.map fun e => (e.1, e.2.c, false)⟩,
    ⟨7, 10, false, d.fab.xacts.map fun e => (e.1, e.2.dst, false)⟩,
    ⟨7, 6, false, (List.range 4).map fun p => (p, (rget d .snpState 0 p).toNat, false)⟩]

/-! ### What a dump covers -/

/-- Context `c` owns state in an engine of its tile, or an instruction of its is queued or under way there
(R77). DEDUCED (log 161): a vector register holds a value where it is not all zeros. -/
def activeOn (d : Dev) (c tileEng : Nat) : Bool :=
  let x := ctxAt d c
  x.state != .idle &&
    (x.wait.engine == some tileEng ||
    match tileEng with
    | 2 => (x.acc != 0 && ownsTile d c) || mmaBusy d c
    | 3 => !x.vregs.isEmpty
    | 6 => !x.itins.isEmpty
    | 1 => !x.writesOut.isEmpty
    | 8 => !x.remoteOut.isEmpty
    | _ => false)

/-- The started, unretired commands active on an engine, by start time and queue (R370). -/
def suspectsOf (d : Dev) (engine tileEng : Nat) (trigger : Option (Nat × Nat)) : List (Nat × Nat) :=
  let hit (q : Nat) (y : Cmd) : Bool :=
    y.st == .started &&
      (trigger == some (q, y.seq) ||
        (if engine / 256 = 2 then
          y.opcode == 0x0201 && y.aux.any fun c => tileOf c == engine % 256 && activeOn d c tileEng
        else decide (engine < 2 ^ 16) && y.engine == engine))
  let all := (d.hub.queues.map fun e => (e.2.cmds.filter (hit e.1)).map fun y => (y.start, e.1, y.seq)).flatten
  (all.mergeSort fun a b => a.1 < b.1 || (a.1 == b.1 && decide (a.2.1 ≤ b.2.1))).map (·.2)

/-- The contexts of a quarter that are not IDLE. -/
def busyCtxs (d : Dev) (quarter : Nat) : List Nat :=
  (d.tiles.ctxs.filter fun e => e.1 / 128 == quarter && e.2.state != .idle).map (·.1)

/-- Semaphores that a command names itself. -/
def Cmd.ownSems (y : Cmd) : List Nat :=
  match y.opcode with
  | 0x0301 => if y.param 2 % 2 ^ 20 = 0 then [y.param 0 % 131072] else []
  | 0x0302 | 0x0304 => [y.param 0 % 131072]
  | 0x0401 => if y.param 1 % 4 = 3 then [y.param 4 % 131072] else []
  | 0x0601 => [y.param 4 % 131072]
  | 0x0702 => [y.param 3 % 131072]
  | 0x0A03 => [y.param 4 % 131072, y.param 4 / 2 ^ 32 % 131072]
  | _ => []

/-- What an engine dump holds: the engine's own state; the contexts active on it; and the queues and
semaphores that its suspects and their contexts' manifests name (R363). -/
def engineUnits (d : Dev) (h : DumpHead) : List DumpUnit :=
  let sus := suspectsOf d h.engine h.tileEng (some (h.queue, h.seq))
  let ctxs := (sus.map fun s => ((cmdAt d s.1 s.2).map fun y => if y.opcode = 0x0201 then y.aux else []).getD []).flatten
  let sems := (ctxs.map fun c => ((ctxAt d c).semRanges.map fun r =>
    (List.range r.2).map (r.1 + ·)).flatten).flatten ++
    sus.flatMap fun s => ((cmdAt d s.1 s.2).map Cmd.ownSems).getD []
  let own := if h.engine / 256 = 2 then [tileUnit d (h.engine % 256)]
    else (hubUnits d).filter fun u => u.kind == 7 && u.unit * 256 == h.engine
  own ++ (ctxs.map (ctxUnits d)).flatten ++
    (sus.map (·.1)).eraseDups.map (queueUnit d) ++ sems.eraseDups.map (semUnit d)

/-- A quarter's share of a partition or chip dump. A queue or semaphore at its reset value takes no
record. -/
def quarterUnits (d : Dev) (quarter : Nat) : List DumpUnit :=
  (List.range 16).map (fun i => tileUnit d (16 * quarter + i)) ++
    ((busyCtxs d quarter).map (ctxUnits d)).flatten ++
    (d.hub.queues.filter fun e => e.1 / 65536 == quarter).map (fun e => queueUnit d e.1) ++
    (d.hub.sems.filter fun e => e.1 / 32768 == quarter).map fun e => semUnit d e.1

def unitsFor (d : Dev) (h : DumpHead) (quarter : Nat) : List DumpUnit :=
  match h.scope with
  | 0 => engineUnits d h
  | 1 => quarterUnits d quarter
  | _ => quarterUnits d quarter ++ (if quarter = 0 then hubUnits d else [])

/-! ### Slots (R365, R366) -/

/-- Physical address of byte `o` of a quarter's dump region (R365). -/
def dumpAddr (quarter o : Nat) : Nat :=
  quarter * quarterBytes + (49139 + o / 5505024) * bandBytes + o % 5505024

def slotBytes : Nat := 16777216

/-- A section of one kind: its records, padded to 64 bytes. -/
def sectionOf (d : Dev) (quarter : Nat) (silent : List (Nat × Nat)) (us : List DumpUnit) (kind : Nat) :
    List DumpWord :=
  ((us.filter fun u => u.kind == kind).map fun u =>
    readUnit u.unit (unitOff d quarter u.tile) (dataLocked d)
      ((silent.filter fun e => e.1 == u.unit).map (·.2)) 0 u.words).flatten

/-- Directory and sections of a slot, and how many words are UNREADABLE. -/
def slotBody (d : Dev) (quarter : Nat) (silent : List (Nat × Nat)) (us : List DumpUnit) : List Byte × Nat :=
  let secs := ((List.range 7).map fun i => (i + 1, sectionOf d quarter silent us (i + 1))).filter fun e =>
    !e.2.isEmpty
  let pad (bs : List Byte) : List Byte := bs ++ List.replicate (alignUp 64 bs.length - bs.length) 0
  let (dir, body) := secs.foldl (fun (acc : List Byte × List Byte) e =>
    (acc.1 ++ leBytes 4 e.1 ++ leBytes 4 (256 + acc.2.length) ++ leBytes 4 e.2.length ++ leBytes 4 0,
      pad (acc.2 ++ (e.2.map DumpWord.bytes).flatten))) ([], [])
  ((dir ++ List.replicate (192 - dir.length) 0) ++ body,
    (secs.map fun e => (e.2.filter fun w => w.reason ≠ 0).length).sum)

/-- Words 2 to 7 of Table FLT-4. -/
def DumpHead.words (h : DumpHead) : List Word :=
  [toW (h.id % 2 ^ 16 + h.scope * 2 ^ 16 + h.cause * 2 ^ 19 + h.outcome * 2 ^ 23 + h.parts * 2 ^ 27 +
      h.truncated.toNat * 2 ^ 31 + min h.unreadable (2 ^ 32 - 1) * 2 ^ 32),
    toW (h.engine % 2 ^ 16 + h.tileEng % 16 * 2 ^ 16),
    toW (h.queue % 2 ^ 18 + h.seq % 2 ^ 32 * 2 ^ 32),
    toW (min h.suspects 255 + min h.culprits 255 * 2 ^ 8 + min h.notReplayable 255 * 2 ^ 16),
    toW h.slotPa, toW h.bytes]

/-- The 64 header bytes of a slot (Table FLT-3). -/
def DumpHead.header (h : DumpHead) (bytes : Nat) : List Byte :=
  (h.words.map fun w => leBytes 8 w.toNat).flatten ++ leBytes 4 1 ++ leBytes 4 bytes ++ leBytes 8 h.time

/-- Writes dump bytes at offset `o` of a slot, line by line, as the debug engine does (R365). -/
def putDump (d : Dev) (quarter id o : Nat) (bs : List Byte) : Dev :=
  ((List.range (bs.length / 64)).zip (cut 64 bs)).foldl
    (fun d e => putHome d (dumpAddr quarter (id % 4 * slotBytes + o + 64 * e.1)) e.2) d

/-- The partition a dump's event carries: the lowest it covers. -/
def DumpHead.part (h : DumpHead) : Nat := lowestBit 3 h.parts

/-- Sends the event of a dump and writes DBG_LAST_DUMP and, unless a wipe has taken the slots, their
headers (R367). -/
def reportDump (d : Dev) (h : DumpHead) (slots : Bool) : Dev :=
  let d := if slots then
      h.quarters.foldl (fun d q => putDump d q h.id 0 (h.header h.bytes)) d else d
  let d := rset d .dbgLastDump 0 0
    (toW (h.id % 2 ^ 16 + h.scope * 2 ^ 16 + h.cause * 2 ^ 19 + h.outcome * 2 ^ 23 +
      h.time / 2 ^ 20 % 2 ^ 32 * 2 ^ 32))
  postEvent d h.part 0x0005 h.words

/-- Takes the dump: the slots of its quarters are written and its number is given (R363 to R367). -/
def writeDump (d : Dev) (r : DumpReq) : Dev × DumpHead :=
  let id := d.recov.nextDump
  let bodies := r.head.quarters.map fun q => (q, slotBody d q r.silent (unitsFor d r.head q))
  let room := slotBytes - 64
  let total (n : Nat) : Nat := 64 + min n room
  let h : DumpHead :=
    { r.head with
      id := id
      time := d.ns
      truncated := bodies.any fun e => decide (room < e.2.1.length)
      unreadable := (bodies.map fun e => e.2.2).sum
      bytes := total ((bodies.head?.map fun e => e.2.1.length).getD 0)
      slotPa := dumpAddr (r.head.quarters.headD 0) (id % 4 * slotBytes) }
  let d := bodies.foldl (fun d e =>
    putDump (putDump d e.1 id 64 (e.2.1.take room)) e.1 id 0 (h.header (total e.2.1.length))) d
  let d := { d with recov.nextDump := (id + 1) % 65536 }
  (reportDump d h false, h)

/-! ### Asking for dumps and resets (R363, R368, R379) -/

/-- A dump joins those that wait for the debug engine (R369). -/
def askDump (d : Dev) (owner : DumpFor) (h : DumpHead) : Dev :=
  { d with recov.dumps := d.recov.dumps ++ [⟨owner, h, []⟩] }

/-- The quarters whose dump slots an engine's dump uses (R365). -/
def engineQuarters (engine : Nat) : List Nat :=
  if engine / 256 = 2 then [engine % 256 / 16]
  else if engine / 256 = 1 ∨ engine / 256 = 5 then [engine % 256]
  else [0]

/-- The partitions a reset domain covers. -/
def domParts (d : Dev) (dom : Nat) : List Nat := if dom < 4 then [dom] else List.range (partCount d)

/-- A reset of the domain, or one that covers it, is requested or under way (R379). -/
def resetAsked (d : Dev) (dom : Nat) : Bool :=
  d.recov.resets.any fun r => if dom < 4 then r.dom == dom || decide (4 ≤ r.dom) else decide (dom ≤ r.dom)

/-- A reset is started: its dump comes first (R363). One that is already covered is ignored. -/
def askReset (d : Dev) (dom cause : Nat) : Dev :=
  if resetAsked d dom then d
  else
    let ps := domParts d dom
    let h : DumpHead :=
      { DumpHead.empty with
        scope := if dom < 4 then 1 else 2
        cause := cause
        parts := (ps.map (2 ^ ·)).sum
        quarters := (ps.map (quartersOf d)).flatten }
    let d := { d with recov.resets := d.recov.resets ++ [⟨dom, cause, .dumping, d.clock, h, 0⟩] }
    askDump d (.domain dom) h

/-! ### DUMP (R369) -/

/-- DUMP asks for its dump and finishes with its number. -/
def execDump (q k : Nat) (s : State) : Host.Outcome State Fault Refusal :=
  onDev s fun d => onStarted d q k 0x0801 fun y =>
    if y.step ≠ 0 then d
    else
      let p := partOfQueue d q
      let engine := bits (y.param 1) 15 0
      let scope := bits (y.param 0) 1 0
      let h : DumpHead :=
        { DumpHead.empty with
          scope := scope
          outcome := 1
          parts := 2 ^ p
          engine := if scope = 0 then engine else 0
          tileEng := if scope = 0 then bits (y.param 1) 19 16 else 0
          queue := q
          seq := k
          quarters := if scope = 0 then engineQuarters engine else quartersOf d p }
      askDump (updCmd d q k fun y => { y with step := 1 }) (.command q k) h

/-- What waits for a dump goes on once it is written. -/
def afterDump (d : Dev) (r : DumpReq) (h : DumpHead) : Dev :=
  match r.owner with
  | .command q k => finishCmd d q k stOk (toW h.id)
  | .engine e t =>
    { d with recov.engines := d.recov.engines.map fun x =>
        if x.engine = e ∧ x.tileEng = t then
          { x with
            stage := .dumped
            since := d.clock
            head := { h with culprits := x.head.culprits, notReplayable := x.head.notReplayable } }
        else x }
  | .domain dom =>
    { d with recov.resets := d.recov.resets.map fun x =>
        if x.dom = dom then { x with stage := .holding, since := d.clock, head := h } else x }

/-- CRASH_DUMP: the dump that the debug engine has been taking is written, and what waits for it goes
on (R363 to R367). -/
def execCrashDump (now : Nat) (s : State) : Host.Outcome State Fault Refusal :=
  onDev s fun d =>
    match d.recov.dumps with
    | [] => d
    | r :: rest =>
      let (d, h) := writeDump { advanceTo d now with recov.dumps := rest } r
      afterDump d r h

/-- SCAN_READ_TIMEOUT: a read of the dump being taken, by unit and index, goes unanswered for 10 µs
(R364). -/
def execScanReadTimeout (unit index : Nat) (s : State) : Host.Outcome State Fault Refusal :=
  onDev s fun d =>
    match d.recov.dumps with
    | [] => d
    | r :: rest =>
      { d with recov.dumps := { r with silent := r.silent ++ [(unit, index)] } :: rest }

end Sys2Proof.Machine
end

