-- ==== Sys2Proof/Machine/Drive.lean ====
section
/-!
DEFINITION. The snapshot port, its drive and the layout of a slot (R387 to R391, R396): NVMe commands,
headers, directories and what makes a copy valid.
-/

namespace Sys2Proof.Machine

/-! ### Namespaces (R388, R389) -/

/-- Namespace `n` (NSID n + 1) is usable. -/
def nsUsable (d : Dev) (n : Nat) : Bool := wbit (rget d .snpPortStatus) (8 + n)

/-- Blocks of a region of a namespace, and the first block of region `i`. -/
def regionBlocks (d : Dev) (n : Nat) : Nat := (rfield d .snpNsInfo 0 n 47 0 - 256) / 1536 * 256
def regionStart (d : Dev) (n i : Nat) : Nat := 256 + i * regionBlocks d n

/-- The namespaces of a mask, lowest first. -/
def maskList (m : Nat) : List Nat := (List.range 4).filter m.testBit

/-- The usable namespaces of a partition's quarters. -/
def ownSpaces (d : Dev) (p : Nat) : List Nat := (quartersOf d p).filter (nsUsable d)

def zeroBlock : List Byte := List.replicate 4096 0

def driveBlock (d : Dev) (n blk : Nat) : List Byte := mget zeroBlock d.snp.drive (n * 2 ^ 48 + blk)

/-- Writes whole blocks from `blk` on. -/
def drivePut (d : Dev) (n blk : Nat) (data : List Byte) : Dev :=
  let bs := cut 4096 data
  let put (m : List (Nat × List Byte)) (e : Nat × List Byte) : List (Nat × List Byte) :=
    mset zeroBlock m (n * 2 ^ 48 + blk + e.1) (padTo 4096 e.2)
  { d with snp.drive := ((List.range bs.length).zip bs).foldl put d.snp.drive }

/-! ### NVMe commands (R388) -/

/-- A status for the issuer of an NVMe command that failed; the NVMe status goes to SNP_ERR_LAST. -/
def nvFail (d : Dev) (who : NvWho) (ns nvme : Nat) : Dev :=
  let d := rsetf (rsetf d .snpErrLast 0 0 19 18 ns) .snpErrLast 0 0 63 53 nvme
  match who with
  | .none => d
  | .cmd q k => updCmd d q k fun y =>
    if y.st = .finished then y else { y with status := max y.status stDriveError }
  | .repl p i =>
    let r := mget Repl.reset d.snp.repls (4 * p + i)
    { d with snp.repls := mset Repl.reset d.snp.repls (4 * p + i) { r with bad := true } }

/-- Submits an NVMe command; one to a namespace that is not usable fails at once. -/
def nvIssue (d : Dev) (who : NvWho) (ns : Nat) (op : NvOp) (off : Nat) : Dev :=
  if nsUsable d ns then
    { d with
      snp.nvme := d.snp.nvme ++ [⟨d.snp.nextId, ns, op, off, who, d.clock, false⟩]
      snp.nextId := d.snp.nextId + 1 }
  else nvFail d who ns 0

/-- An issuer has NVMe commands outstanding. -/
def nvBusy (d : Dev) (who : NvWho) : Bool := d.snp.nvme.any fun c => c.who == who

/-- A namespace's I/O queue has room: it is 1,024 deep. -/
def nvRoom (d : Dev) (ns : Nat) : Bool := decide ((d.snp.nvme.filter fun c => c.ns == ns).length < 1024)

/-- Data for the issuer of a read. -/
def nvGive (d : Dev) (who : NvWho) (off : Nat) (bs : List Byte) : Dev :=
  match who with
  | .none => d
  | .cmd q k => updCmd d q k fun y => { y with buf := putBytesAt y.buf off bs }
  | .repl p i =>
    let r := mget Repl.reset d.snp.repls (4 * p + i)
    { d with snp.repls := mset Repl.reset d.snp.repls (4 * p + i) { r with buf := putBytesAt r.buf off bs } }

/-- What an NVMe command does at the drive. -/
def nvApply (d : Dev) (c : NvCmd) : Dev :=
  match c.op with
  | .read blk n => nvGive d c.who c.off ((List.range n).flatMap fun i => driveBlock d c.ns (blk + i))
  | .write blk data => drivePut d c.ns blk data
  | .flush => d

/-- A write that ends without an answer has reached the drive or not. -/
def nvMaybe (d : Dev) (c : NvCmd) : Dev :=
  match c.op with
  | .write blk data =>
    let (b, d) := freeBit d
    if b then drivePut d c.ns blk data else d
  | _ => d

/-- Takes a command off the outstanding ones. -/
def nvDrop (d : Dev) (c : NvCmd) : Dev := { d with snp.nvme := d.snp.nvme.erase c }

/-- The commands outstanding when the controller stops: their writes have reached the drive or not. -/
def nvAbandon (d : Dev) : Dev := { d.snp.nvme.foldl nvMaybe d with snp.nvme := [] }

/-- NVME_COMPLETION: status code type and status code, both 0 for success. -/
def execNvmeCompletion (id sct sc now : Nat) (s : State) : Host.Outcome State Fault Refusal :=
  onDev s fun d =>
    match d.snp.nvme.find? fun c => c.id == id && !c.lost with
    | none => d
    | some c =>
      let d := nvDrop (advanceTo d now) c
      if sct = 0 ∧ sc = 0 then nvApply d c
      else nvFail (rcount d .snpPortStatus 0 0 31 16 1) c.who c.ns (sct % 8 * 2 ^ 8 + sc % 2 ^ 8)

/-- NVME_TIMEOUT: a command is not complete 5 s after submission. It is aborted; if the abort does not
complete either, the controller is reset, and every other outstanding command fails with it. -/
def execNvmeTimeout (id : Nat) (aborted : Bool) (now : Nat) (s : State) : Host.Outcome State Fault Refusal :=
  onDev s fun d =>
    let d1 := advanceTo d now
    match d1.snp.nvme.find? fun c => c.id == id with
    | none => d
    | some c =>
      if c.since + 5000000000 ≤ d1.clock then
        let d1 := rcount (nvFail (nvMaybe (nvDrop d1 c) c) c.who c.ns 0) .snpPortStatus 0 0 47 32 1
        if aborted then d1
        else nvAbandon (d1.snp.nvme.foldl (fun d c => nvFail d c.who c.ns 0) d1)
      else d

/-! ### The port (R388) -/

def snpLink (d : Dev) : Nat := rfield d .snpPortStatus 0 0 1 0

/-- SNAPSHOT_PORT_TRAIN: the port has trained at a speed and width as SNP_PORT_STATUS codes them and the
controller is set up; `spaces` gives the size of each namespace and whether its LBA format is that of
Table SNP-2. With no drive to train with, the port tries again 1 s later. -/
def execSnapshotPortTrain (speed width : Nat) (spaces : List (Nat × Bool)) (now : Nat) (s : State) :
    Host.Outcome State Fault Refusal :=
  onDev s fun d =>
    let d1 := advanceTo d now
    if snpLink d1 = 2 ∨ d1.clock < d1.snp.trainFrom then d
    else if 1 ≤ speed ∧ speed ≤ 4 ∧ 1 ≤ width ∧ width ≤ 3 then
      let ok := ((List.range 4).map fun n => if ((spaces.getD n (0, false)).2) then 2 ^ n else 0).sum
      let d1 := { d1 with snp.perstN := true }
      let d1 := rsetf d1 .snpPortStatus 0 0 11 0 (2 + speed * 4 + width * 32 + 128 + ok * 256)
      (List.range 4).foldl (fun d n =>
        let e := spaces.getD n (0, false)
        rset d .snpNsInfo 0 n (toW (e.1 % 2 ^ 48 + e.2.toNat * 2 ^ 48))) d1
    else { d1 with snp.perstN := true, snp.trainFrom := d1.clock + 1000000000 }

/-- SNAPSHOT_LINK_DOWN: outstanding commands get no answer and time out; the port trains again 1 s
later. -/
def execSnapshotLinkDown (now : Nat) (s : State) : Host.Outcome State Fault Refusal :=
  onDev s fun d =>
    if snpLink d = 2 then
      let d := advanceTo d now
      let d := { d with
        snp.nvme := d.snp.nvme.map fun (c : NvCmd) => { c with lost := true }
        snp.trainFrom := d.clock + 1000000000 }
      rsetf d .snpPortStatus 0 0 11 0 0
    else d

/-! ### Slots (R390, R396) -/

/-- Blocks of the directory of `n` chunks, and the first block of its chunks. -/
def dirBlocks (n : Nat) : Nat := (2048 + 48 * n + 4095) / 4096
def dataBase (n : Nat) : Nat := alignUp 256 (1 + dirBlocks n)

/-- Blocks a slot of `n` chunks over `m` namespaces needs in each. -/
def slotBlocks (n m : Nat) : Nat := dataBase n + 256 * ((n + m - 1) / m)

/-- Namespace and block, within its region, of chunk `k` of `n`. -/
def chunkPlace (nss : List Nat) (n k : Nat) : Nat × Nat :=
  let m := max 1 nss.length
  (nss.getD (k % m) 0, dataBase n + 256 * (k / m))

/-- Fields of a header (Table SNP-3). -/
def headMask (h : List Byte) : Nat := leAt h 9 1 % 16
def headSource (h : List Byte) : Nat := leAt h 0x10 4 % 2 ^ 20
def headQuarters (h : List Byte) : Nat := leAt h 0x14 4
def headStep (h : List Byte) : Nat := leAt h 0x18 8
def headGen (h : List Byte) : Nat := leAt h 0x20 8
def headChunks (h : List Byte) : Nat := leAt h 0x30 4
def headDirHash (h : List Byte) : List Byte := (h.drop 0x40).take 48

/-- MAGIC, VERSION and HDR_HASH match. -/
def headValid (h : List Byte) : Bool :=
  leAt h 0 4 == 0x58424F53 && leAt h 4 4 == 1 && sha384 (h.take 0x1D0) == (h.drop 0x1D0).take 48

/-- Two headers are copies of one. -/
def headSame (a b : List Byte) : Bool :=
  headStep a == headStep b && headGen a == headGen b && headDirHash a == headDirHash b

/-- Region entries of a directory in use: VA, LENGTH, STREAM_OFF, KIND. -/
def dirEntries (dir : List Byte) : List (Nat × Nat × Nat × Nat) :=
  ((List.range 64).map fun i =>
    (leAt dir (32 * i) 8, leAt dir (32 * i + 8) 8, leAt dir (32 * i + 16) 8, leAt dir (32 * i + 24) 1)).filter
      fun e => e.2.1 != 0

def dirHash (dir : List Byte) (k : Nat) : List Byte := (dir.drop (2048 + 48 * k)).take 48

/-- A directory block run, from its 64 region entries of 32 bytes and the chunks' hashes. -/
def makeDir (entries : List Byte) (hashes : List (List Byte)) : List Byte :=
  padTo (4096 * dirBlocks hashes.length) (padTo 2048 entries ++ hashes.flatten)

/-! ### Looking at two slots

The buffer holds the header of slot `a` (0 or 1) in namespace `n` at 4096 × (4a + n), and from 32 KiB on
the directories. -/

def bufHead (buf : List Byte) (a n : Nat) : List Byte := padTo 4096 ((buf.drop (4096 * (4 * a + n))).take 4096)

/-- Reads the headers of regions `r0` and `r0 + 1` in some namespaces. -/
def probeHeads (d : Dev) (who : NvWho) (nss : List Nat) (r0 : Nat) : Dev :=
  [0, 1].foldl (fun d a => nss.foldl (fun d n =>
    nvIssue d who n (.read (regionStart d n (r0 + a)) 1) (4096 * (4 * a + n))) d) d

/-- The header of slot `a` on which every namespace of its mask agrees. -/
def slotHead (buf : List Byte) (nss : List Nat) (a : Nat) : Option (List Byte) :=
  match nss.find? fun n => headValid (bufHead buf a n) with
  | none => none
  | some n =>
    let h := bufHead buf a n
    if (maskList (headMask h)).all fun m =>
        nss.contains m && headValid (bufHead buf a m) && headSame h (bufHead buf a m) then some h
    else none

/-- Directory blocks of the larger of the two slots. -/
def probeDirMax (buf : List Byte) (nss : List Nat) : Nat :=
  ([0, 1].map fun a => ((slotHead buf nss a).map fun h => dirBlocks (headChunks h)).getD 0).foldl max 0

def dirPlace (buf : List Byte) (nss : List Nat) (a n : Nat) : Nat :=
  32768 + (4 * a + n) * 4096 * probeDirMax buf nss

/-- Reads the directories of the slots whose headers agree. -/
def probeDirs (d : Dev) (who : NvWho) (buf : List Byte) (nss : List Nat) (r0 : Nat) : Dev :=
  [0, 1].foldl (fun d a =>
    match slotHead buf nss a with
    | none => d
    | some h => (maskList (headMask h)).foldl (fun d n =>
        nvIssue d who n (.read (regionStart d n (r0 + a) + 1) (dirBlocks (headChunks h)))
          (dirPlace buf nss a n)) d) d

/-- The directory of slot `a` as namespace `n` holds it. -/
def bufDir (buf : List Byte) (nss : List Nat) (a n : Nat) (h : List Byte) : List Byte :=
  padTo (4096 * dirBlocks (headChunks h))
    ((buf.drop (dirPlace buf nss a n)).take (4096 * dirBlocks (headChunks h)))

/-- A valid slot's header and directory (R396). -/
def slotValid (buf : List Byte) (nss : List Nat) (a : Nat) : Option (List Byte × List Byte) :=
  match slotHead buf nss a with
  | none => none
  | some h =>
    let ns := maskList (headMask h)
    if ns.all fun n => sha384 (bufDir buf nss a n h) == headDirHash h then
      some (h, bufDir buf nss a (ns.headD 0) h)
    else none

/-- The newest valid slot: the one with the larger GEN. -/
def newestSlot (buf : List Byte) (nss : List Nat) : Option Nat :=
  match slotValid buf nss 0, slotValid buf nss 1 with
  | some a, some b => some (if headGen a.1 < headGen b.1 then 1 else 0)
  | some _, none => some 0
  | none, some _ => some 1
  | none, none => none

/-! ### Streams -/

/-- A part of a stream: memory of the address space, bytes of the device section, or padding. -/
inductive SnapPiece
  | mem (va n : Nat)
  | dev (o n : Nat)
  | pad (n : Nat)
deriving DecidableEq, Repr

/-- The parts of `len` stream bytes from offset `off`; `dl` is the length of the device section. -/
def piecesOf : List (Nat × Nat) → Nat → Nat → Nat → List SnapPiece
  | [], dl, off, len =>
    let n := min len (dl - off)
    [.dev off n, .pad (len - n)]
  | (va, n) :: rest, dl, off, len =>
    if len = 0 then []
    else if off < n then .mem (va + off) (min len (n - off)) :: piecesOf rest dl 0 (len - min len (n - off))
    else piecesOf rest dl (off - n) len

/-- Bytes of a chunk. -/
def snapChunk : Nat := 1048576

end Sys2Proof.Machine
end

