-- ==== Sys2Proof/Machine/Recovery.lean ====
section
/-!
DEFINITION. Hangs and their recovery (R355 to R362, R370 to R382): timeouts, heartbeats, context and
engine resets, the replay of suspects, requests for resets, and escalation.
-/

namespace Sys2Proof.Machine

/-! ### Decisions of the Night Porter (R420) -/

/-- The threshold-free details of a decision: no sensor. -/
def noSensor : Nat := 0xFF

/-- Decision `code` of Table PWR-3: its bit in NP_ALARM, its in-band interrupt if it has one, and, where
the hub runs, event 0x0007. -/
def npDecide (d : Dev) (code sensor : Nat) (value threshold : Int) (ibi : Nat) : Dev :=
  let d := rsetf d .npAlarm 0 0 code code 1
  let d := if ibi = 0 then d
    else
      let d : Dev := { d with np.lastIbi := ibi, np.cycleAsked := d.np.cycleAsked || ibi == 1 }
      emit d (.ibi ibi)
  if d.live = false then d
  else postEvent d 0 0x0007
    [toW (code + sensor * 2 ^ 8), toW (wrapN 32 value), toW (wrapN 32 threshold), toW ibi]

/-! ### Context reset (R49, R77, R103, R153, R166) -/

/-- Nothing of the context is in flight (R166, Table FAB-11). -/
def ctxStill (d : Dev) (c : Nat) : Bool :=
  let x := ctxAt d c
  x.writesOut.isEmpty && x.remoteOut.isEmpty &&
    x.itins.all fun n => (slotAt d (tileOf c) n).still

/-- Transactions of an owner that is gone run on with nobody waiting. -/
def orphan (d : Dev) (p : XWho → Bool) : Dev :=
  { d with fab.xacts := d.fab.xacts.map fun (e : Nat × Xact) =>
      if (p e.2.who) then (e.1, { e.2 with who := .none }) else e }

def XWho.ofCtx (c : Nat) (ns : List Nat) : XWho → Bool
  | .ctx a => a == c
  | .elem t n _ => t == tileOf c && ns.contains n
  | _ => false

def XWho.ofSlots (t : Nat) (ns : List Nat) : XWho → Bool
  | .elem u n _ => u == t && ns.contains n
  | _ => false

/-- Zeroes a range of Tile SRAM, with correct parity (R77). -/
def sramClear (d : Dev) (t a n : Nat) : Dev :=
  let k := sramKey t a
  { d with
    tiles.sram := d.tiles.sram.filter fun e => !(decide (k ≤ e.1) && decide (e.1 < k + n))
    tiles.sramBad := d.tiles.sramBad.filter fun w => !(decide (k / 4 ≤ w) && decide (w < (k + n) / 4)) }

/-- Takes a context's entries out of the Matrix Engine. -/
def matrixDrop (d : Dev) (c : Nat) : Dev :=
  let t := tileOf c
  let d := { d with tiles.mmaQ := mset [] d.tiles.mmaQ t ((mmaQueue d t).filter fun r => r.ctx != c) }
  match mget none d.tiles.array t with
  | some b => if b.owner = c then { d with tiles.array := mset none d.tiles.array t none } else d
  | none => d

/-- The slots of a context end, its receiving rings unbind, its watched lines and barrier arrivals go
(R166). -/
def streamDrop (d : Dev) (c : Nat) : Dev :=
  let t := tileOf c
  let x := ctxAt d c
  let d := orphan (dropWaits (withdraw d (.ctx c)) (.ctx c)) (XWho.ofCtx c x.itins)
  x.itins.foldl (fun d n => dropWaits d (.slot t n)) d

/-- Context reset (Table TIL-11). -/
def contextReset (d : Dev) (c : Nat) : Dev :=
  let t := tileOf c
  let x := ctxAt d c
  let own := ownsTile d c
  let d := foldNumFlags (streamDrop d c) c
  let d := unbindRings (freeStreams d c) c
  let d := matrixDrop d c
  let d := (List.range 8).foldl (fun d a => if own && x.acc.testBit a then accClear d t a else d) d
  let d := l1Inval (sramClear d t x.sramBase x.sramSize) t x.asid
  let d := clearRetry (setCtx d c Ctx.reset) t
  rcount d .dbgRecCnt 0 0 15 0 1

/-- Ends the LAUNCH of a context with a status; the context is no longer its own. -/
def endLaunch (d : Dev) (x : Ctx) (status : Nat) : Dev :=
  updCmd (finishFree d x.queue x.seq status) x.queue x.seq fun y => { y with aux := [] }

/-- CONTEXT_RESET: the reset that follows a context fault, once nothing of the context is in flight; its
LAUNCH then finishes with the fault's status (R51, R166, R358). -/
def execContextReset (c : Nat) (s : State) : Host.Outcome State Fault Refusal :=
  onDev s fun d =>
    let x := ctxAt d c
    if c < 512 ∧ x.state = .faulted ∧ ctxStill d c then endLaunch (contextReset d c) x x.fStatus else d

/-! ### Engine reset (R77, R127, R166, R246, R266, R303) -/

/-- The Stream Engine of a tile is reset: every slot of every context ends, the ring buffers are zeroed and
barrier arrivals are withdrawn. A context that waited at a barrier arrives anew; one that waits on a
semaphore waits on (log 113). -/
def streamReset (d : Dev) (t : Nat) : Dev :=
  let one (d : Dev) (c : Nat) : Dev :=
    let x := ctxAt d c
    let d := orphan (withdraw d (.ctx c)) (XWho.ofSlots t x.itins)
    let d := x.rings.foldl (fun d n =>
      match ringAt d t n with
      | some r =>
        let d := setRing d t n { r with bound := if r.kind = .mcastRecv then false else r.bound }
        if ownsTile d c then sramClear d t r.base (r.depth * r.elem) else d
      | none => d) d
    let d := x.itins.foldl (fun d n =>
      setSlot (dropWaits d (.slot t n)) t n
        { slotAt d t n with state := .ended, flight := [], side := [], signals := [], stopReq := false }) d
    updCtx d c fun y =>
      if y.wait = .barrier then
        { y with wait := .none, state := if y.state = .waiting then .ready else y.state }
      else y
  let d := ((tileCtxs t).filter fun c => (ctxAt d c).state != .idle).foldl one d
  { d with tiles.watch := d.tiles.watch.filter fun e => e.2.1 != t }

/-- Resets one engine: `engine` as Table CMD-7, `tileEng` as TILE_CTX_FAULT.ENGINE. An engine that keeps
nothing beyond its commands has no other state to lose. -/
def engineReset (d : Dev) (engine tileEng : Nat) : Dev :=
  if engine / 256 = 2 then
    let t := engine % 256
    match tileEng with
    | 2 =>
      let d := (List.range 8).foldl (fun d a => accClear d t a) d
      { d with
        tiles.mmaQ := mset [] d.tiles.mmaQ t []
        tiles.array := mset none d.tiles.array t none }
    | 3 => (tileCtxs t).foldl (fun d c => updCtx d c fun x => { x with vregs := [] }) d
    | 6 => streamReset d t
    | _ => d
  else d

/-! ### Entering the hang path (R360, R361, R370, R377) -/

/-- The recovery of an engine. -/
def recoveryOf (d : Dev) (engine tileEng : Nat) : Option Recovery :=
  d.recov.engines.find? fun r => r.engine == engine && r.tileEng == tileEng

def putRecovery (d : Dev) (r : Recovery) : Dev :=
  { d with recov.engines := d.recov.engines.map fun x =>
      if x.engine = r.engine ∧ x.tileEng = r.tileEng then r else x }

/-- The partitions an engine's recovery covers: those of its quarter or of its suspects. -/
def engineParts (d : Dev) (engine : Nat) (sus : List (Nat × Nat)) : List Nat :=
  match engineQuarters engine with
  | [q] =>
    if engine / 256 = 1 ∨ engine / 256 = 2 ∨ engine / 256 = 5 then [partOfQuarter d q]
    else if sus.isEmpty then List.range (partCount d)
    else (List.range 4).filter fun p => sus.any fun e => partOfQueue d e.1 == p
  | _ => [0]

/-- An engine stops accepting work, and its dump is asked for. `trigger` is the command that timed
out. -/
def enterHang (d : Dev) (engine tileEng cause : Nat) (trigger : Option (Nat × Nat)) : Dev :=
  if (recoveryOf d engine tileEng).isSome then d
  else
    let sus := suspectsOf d engine tileEng trigger
    let ps := engineParts d engine sus
    let h : DumpHead :=
      { DumpHead.empty with
        cause := cause
        parts := (ps.map (2 ^ ·)).sum
        engine := if engine < 2 ^ 16 then engine else 0
        tileEng := tileEng
        queue := (trigger.map (·.1)).getD 0
        seq := (trigger.map (·.2)).getD 0
        suspects := sus.length
        notReplayable := (sus.filter fun e => !(((cmdAt d e.1 e.2).map Cmd.replayable).getD false)).length
        quarters := engineQuarters engine }
    let r : Recovery := ⟨engine, tileEng, ps.headD 0, .dumping, sus, [], [], none, 0, 0, h⟩
    let key := engine * 16 + tileEng
    let past := (mget [] d.recov.entries key).filter fun t => d.clock < t + 1000000000
    askDump { d with
      recov.engines := d.recov.engines ++ [r]
      recov.entries := mset [] d.recov.entries key (d.clock :: past) } (.engine engine tileEng) h

/-! ### Timeouts (R348, R360) -/

/-- The timeout a code stands for, in ns (Table CMD-1). -/
def timeoutNs (code : Nat) : Nat :=
  bits code 13 0 * (match bits code 15 14 with | 0 => 10000 | 1 => 1000000 | _ => 1000000000)

/-- The limit of a command of queue `q`. -/
def timeLimit (d : Dev) (q : Nat) (y : Cmd) : Nat :=
  let t := (queueAt d q).tclass y.tclass
  timeoutNs (if t = 0 then rfield d .qtrTclassDef (quarterOfQueue q) y.tclass 15 0 else t)

/-- Faults a context on a timed-out wait, at once: what it waits for may never come. -/
def timeoutCtx (d : Dev) (c : Nat) : Dev :=
  let x := ctxAt d c
  enterFaulted d c ⟨none, stCommandTimeout, x.pc, 0, (if x.remoteOut.isEmpty then Eng.sync else .fabric).code⟩

/-- The timer of a LAUNCH in context `c` expires: its oldest unfinished instruction is an MMA, an operation
still under way, or the one that waits; `held` is the engine that holds its oldest unfinished
instruction, as TILE_CTX_FAULT.ENGINE, where the context does not tell it. -/
def launchTimeout (d : Dev) (q k c held : Nat) : Dev :=
  let x := ctxAt d c
  let hang (e : Nat) : Dev := enterHang d (0x200 + tileOf c) e 1 (some (q, k))
  if x.state = .faulted then d
  else if mmaBusy d c then hang 2
  else if let o :: _ := x.ops then if o.eng = Eng.fabric.code then timeoutCtx d c else hang o.eng
  else if x.state = .checking ∨ x.state = .ready ∨ x.wait = .sem ∨ x.wait = .barrier ∨ x.wait.tries true ∨
      (x.state = .draining ∧ x.remoteOut ≠ []) then timeoutCtx d c
  else hang (x.wait.engine.getD held)

/-- COMMAND_TIMEOUT: the timer of a started command expires (R348, R360). -/
def execCommandTimeout (q k held now : Nat) (s : State) : Host.Outcome State Fault Refusal :=
  onDev s fun d =>
    let d1 := advanceTo d now
    match cmdAt d1 q k with
    | none => d
    | some y =>
      if y.st = .started ∧ isSuspect d1 q k = false ∧ y.startClock + timeLimit d1 q y ≤ d1.clock then
        if isGate y then
          finishFree (dropWaits (withdraw d1 (.cmd q k)) (.cmd q k)) q k stWaitTimeout
        else if y.opcode = 0x0201 then
          match y.aux with
          | [c] => launchTimeout d1 q k c held
          | _ => finishFree d1 q k stCommandTimeout
        else enterHang d1 y.engine 0 1 (some (q, k))
      else d

/-! ### Replay of suspects (R370 to R374) -/

/-- Undoes what a started command has under way on its engine: waits, transactions, a table load, busy bands
(R175), a copy on write, NVMe commands. -/
def clearWork (d : Dev) (q : Nat) (y : Cmd) : Dev :=
  let d := dropWaits (withdraw d (.cmd q y.seq)) (.cmd q y.seq)
  let d := orphan d fun w =>
    match w with
    | .cmd a b => a == q && b == y.seq
    | .tally a b _ => a == q && b == y.seq
    | _ => false
  let d := { d with snp.nvme := d.snp.nvme.map fun (v : NvCmd) =>
    if (v.who == .cmd q y.seq) then { v with who := .none } else v }
  let d := endLoads d q y.seq
  match y.opcode, y.step, y.aux with
  | 0x0108, 1, _ => { d with mem.busy := d.mem.busy.erase (y.param 0 / bandBytes, y.param 1) }
  | 0x0401, 1, [f, g] =>
    setFrame { d with ledger.taken := d.ledger.taken.erase g } f { frameAt d f with state := .active }
  | _, _, _ => d

/-- What rereading a command's packet from its ring slot answers (R329, R371). -/
inductive Reread
  | packet (bs : List Byte) (d : Dev)
  | fails (status : Nat) (d : Dev)
  | wait (d : Dev)

def reread (d : Dev) (q k : Nat) : Reread :=
  let x := queueAt d q
  match (readPhys (x.ringPa + k % x.size * 64) 64).go d with
  | (.ok bs, d') => .packet bs d'
  | (.error (.err st _), d') => .fails st d'
  | (.error (.wait n), d') => .wait (waitDev d d' n)

/-- A command whose context's reads and writes have all come back, so that its reset can end (R166). -/
def cmdStill (d : Dev) (y : Cmd) : Bool := y.opcode != 0x0201 || y.aux.all (ctxStill d)

/-- Runs a suspect again from its beginning, with its packet read anew; a packet that no longer reads ends it
with the read's status. Answers `true` while that has to wait. -/
def restart (d : Dev) (q k : Nat) : Dev × Bool :=
  match cmdAt d q k with
  | none => (d, false)
  | some y =>
    if cmdStill d y = false then (d, true)
    else
      match reread d q k with
      | .wait d => (d, true)
      | .fails st d =>
        let d := clearWork d q y
        let d := if y.opcode = 0x0201 then y.aux.foldl contextReset d else d
        (finishFree (updCmd d q k fun y => { y with aux := [] }) q k st, false)
      | .packet bs d =>
        let led := (y.aux.map fun c => ((ctxAt d c).ledger.map fun e => [e.1, e.2]).flatten).flatten
        let d := clearWork d q y
        let d := if y.opcode = 0x0201 then y.aux.foldl contextReset d else d
        let z : Cmd :=
          { y with
            data := bs
            start := d.ns
            startClock := d.clock
            replayed := true
            status := stOk
            result := 0
            step := 0
            aux := []
            aux2 := []
            buf := [] }
        let d := updCmd d q k fun _ => z
        match y.opcode, y.aux with
        | 0x0201, [c] => (enterChecking d q { z with aux2 := led } c, false)
        | _, _ => (d, false)

/-- Stops the queues of a partition that is SUSPENDED (R373). -/
def suspend (d : Dev) (p : Nat) : Dev :=
  let stop (e : Nat × Queue) : Nat × Queue :=
    if partOfQueue d e.1 = p ∧ e.2.state = .run then (e.1, { e.2 with state := .stopped }.noteHead d.clock)
    else e
  let d := { d with
    hub.queues := d.hub.queues.map stop
    recov.suspended := if d.recov.suspended.contains p then d.recov.suspended else d.recov.suspended ++ [p] }
  if wbit (rget d .dbgRecoveryCtl) 16 then askReset d p 5 else d

/-- A suspect without REPLAYABLE ends as its kind says (R372); answers whether the outcome is UNSAFE. -/
def settleUnreplayable (d : Dev) (q : Nat) (y : Cmd) : Dev × Bool :=
  match y.opcode with
  | 0x0401 | 0x0402 | 0x0403 | 0x0404 =>
    (finishCmd (clearWork d q y) q y.seq stLedgerInterrupted (toW y.elementsDone), false)
  | 0x0503 => (finishFree d q y.seq stTallyInterrupted, false)
  | 0x0206 | 0x0002 => (d, false)
  | _ =>
    if y.opcode = 0x0301 ∧ y.step ≠ 0 then (d, false)
    else
    let d := clearWork d q y
    let d := if y.opcode = 0x0201 then y.aux.foldl contextReset d else d
    let d := updCmd d q y.seq fun y => { y with aux := [] }
    (suspend (finishFree (failSet d y) q y.seq stSuspectNotReplayable) (partOfQueue d q), true)

/-- The recovery ends: its outcome is reported, and the engine admits new work (R367, R371). -/
def endRecovery (d : Dev) (r : Recovery) : Dev :=
  let h := r.head
  let out := if h.outcome = 3 then 3 else if h.culprits = 0 then 1 else 2
  let d := { d with recov.engines := d.recov.engines.filter fun x =>
    !(x.engine == r.engine && x.tileEng == r.tileEng) }
  rcount (reportDump d { h with outcome := out } true) .dbgRecCnt 0 0 31 16 1

/-- Settles suspects in order until one is started again and probed, one has to wait, or none is left
(R371). -/
def settleNext (r : Recovery) : List (Nat × Nat) → Dev → Dev
  | [], d => endRecovery d r
  | (q, k) :: rest, d =>
    let later (d : Dev) : Dev := putRecovery d { r with suspects := (q, k) :: rest }
    match cmdAt d q k with
    | none => settleNext r rest d
    | some y =>
      let fault := (y.aux.map fun c => ctxAt d c).find? fun x => x.state == .faulted
      if y.st ≠ .started then settleNext r rest d
      else if y.opcode = 0x0201 ∧ fault.isSome then settleNext r rest d
      else if y.replayable then
        match restart d q k with
        | (d, true) => later d
        | (d, false) => putRecovery d { r with suspects := rest, probing := some (q, k), probeAt := d.clock }
      else if cmdStill d y = false then later d
      else
        match settleUnreplayable d q y with
        | (d, bad) =>
          settleNext (if bad then { r with head := { r.head with outcome := 3 } } else r) rest d

/-- Runs cleared suspects again; answers those that have to wait. -/
def runAgain : List (Nat × Nat) → Dev → List (Nat × Nat) × Dev
  | [], d => ([], d)
  | (q, k) :: rest, d =>
    if ((cmdAt d q k).map fun y => y.st == .started).getD false then
      match restart d q k with
      | (d, true) => ((q, k) :: rest, d)
      | (d, false) => runAgain rest d
    else runAgain rest d

/-- A recovery goes on: first the cleared suspects that run again, then the next suspect. -/
def settle (d : Dev) (r : Recovery) : Dev :=
  match runAgain r.again d with
  | ([], d) =>
    let r := { r with again := [] }
    settleNext r r.suspects (putRecovery d r)
  | (es, d) => putRecovery d { r with again := es }

/-- An engine's reset is done, and its suspects are settled. -/
def settleEngine (d : Dev) (r : Recovery) : Dev := settle d { r with stage := .settling }

/-- A recovery that cannot succeed at its level goes to the next (R377): a tile, copy or Satchel engine to
its partition, a hub engine to the chip. The engine stays closed until that reset. -/
def escalateEngine (d : Dev) (r : Recovery) : Dev :=
  let h := { r.head with outcome := 4 }
  let d := reportDump (putRecovery d { r with head := h }) h true
  let low : Bool := r.engine / 256 == 1 || r.engine / 256 == 2 || r.engine / 256 == 5
  askReset d (if low then r.part else 4) 5

/-- An engine's reset can end: for a Stream Engine, once every read and write its slots have in flight is over
(R166). -/
def engineStill (d : Dev) (engine tileEng : Nat) : Bool :=
  engine / 256 != 2 || tileEng != 6 || (tileCtxs (engine % 256)).all fun c =>
    (ctxAt d c).itins.all fun n => (slotAt d (engine % 256) n).still

/-- A recovery whose dump is written goes on: the third entry within 1 s escalates, any other resets the
engine and settles the suspects. -/
def afterEngineDump (d : Dev) (r : Recovery) : Dev :=
  let past := (mget [] d.recov.entries (r.engine * 16 + r.tileEng)).filter fun t =>
    d.clock < t + 1000000000
  if 3 ≤ past.length then escalateEngine d r
  else if engineStill d r.engine r.tileEng then settleEngine (engineReset d r.engine r.tileEng) r
  else d

/-- HANG_PATH: an engine in the hang path is dumped, unless its dump is written already, and reset, and its
suspects are settled; what had to wait goes on (R363, R370 to R373, R377). -/
def execHangPath (engine tileEng now : Nat) (s : State) : Host.Outcome State Fault Refusal :=
  onDev s fun d =>
    match recoveryOf d engine tileEng with
    | none => d
    | some r =>
      let d1 := advanceTo d now
      match r.stage, d1.recov.dumps with
      | .settling, _ => if r.probing.isSome then d else settle d1 r
      | .dumped, _ => if r.head.outcome = 4 then d else afterEngineDump d1 r
      | .dumping, [] => d
      | .dumping, x :: rest =>
        if x.owner = .engine engine tileEng then
          match writeDump { d1 with recov.dumps := rest } x with
          | (d2, h) =>
            let d2 := afterDump d2 x h
            match recoveryOf d2 engine tileEng with
            | some r => afterEngineDump d2 r
            | none => d2
        else d

/-- ENGINE_RESET: the reset of an engine whose dump is written (R370); HANG_PATH settles what follows. -/
def execEngineReset (engine tileEng : Nat) (s : State) : Host.Outcome State Fault Refusal :=
  onDev s fun d =>
    match recoveryOf d engine tileEng with
    | none => d
    | some r =>
      if r.stage = .dumped ∧ r.head.outcome ≠ 4 ∧ engineStill d engine tileEng = true then
        engineReset d engine tileEng
      else d

/-- The probed suspect is the culprit: the engine is reset again, and the suspect is faulted (R371). -/
def faultCulprit (d : Dev) (r : Recovery) (q k : Nat) : Dev :=
  let d := engineReset d r.engine r.tileEng
  match cmdAt d q k with
  | none => d
  | some y =>
    if y.opcode = 0x0201 then y.aux.foldl (fun d c => faultOn (matrixDrop d c) c stCommandTimeout r.tileEng 0) d
    else finishFree (failSet (clearWork d q y) y) q k stCommandTimeout

/-- SUSPECT_PROBE_EXPIRY: the probed suspect finishes, or PROBE elapses: it clears, or, `hung` on the engine,
is the culprit, after which those cleared before it run again; the next suspect follows (R371). -/
def execSuspectProbeExpiry (engine tileEng : Nat) (hung : Bool) (now : Nat) (s : State) :
    Host.Outcome State Fault Refusal :=
  onDev s fun d =>
    let d1 := advanceTo d now
    match recoveryOf d1 engine tileEng with
    | none => d
    | some r =>
      match r.probing with
      | none => d
      | some (q, k) =>
        let runs : Bool := ((cmdAt d1 q k).map fun y => y.st == .started).getD false
        let r' : Recovery := { r with probing := none }
        if !runs then settle d1 r'
        else if d1.clock < r.probeAt + 1000 * rfield d1 .dbgRecoveryCtl 0 0 15 0 then d
        else if hung then
          if engineStill d1 engine tileEng then
            let r' : Recovery :=
              { r' with head := { r'.head with culprits := r'.head.culprits + 1 }, again := r'.cleared }
            settle (faultCulprit (putRecovery d1 r') r' q k) r'
          else d
        else settle d1 { r' with cleared := r'.cleared ++ [(q, k)] }

/-- A write of DBG_RECOVERY_STATE[p] with RELEASE set (R373). -/
def releaseSuspended (d : Dev) (p : Nat) : Dev :=
  { d with recov.suspended := d.recov.suspended.filter (· ≠ p) }

/-- SUSPEND_RELEASE. -/
def execSuspendRelease (p : Nat) (s : State) : Host.Outcome State Fault Refusal :=
  onDev s fun d => releaseSuspended d p

/-! ### Heartbeats (R361, R362) -/

/-- FIRMWARE_HEARTBEAT: agent 0 to 3 an Innkeeper core, 4 the fabric engine's firmware, 5 the snapshot
engine's. -/
def execFirmwareHeartbeat (agent now : Nat) (s : State) : Host.Outcome State Fault Refusal :=
  onDev s fun d =>
    if agent < 6 ∧ rfield d .secBootStatus 0 0 2 0 = 6 then
      let d := advanceTo d now
      let n := ((d.recov.beats.find? fun e => e.1 == agent).map fun e => e.2.1).getD 0
      let d := { d with recov.beats :=
        (d.recov.beats.filter fun e => e.1 ≠ agent) ++ [(agent, (n + 1) % 2 ^ 32, d.clock)] }
      rsetf d .dbgHbStatus 0 0 agent agent 1
    else d

/-- The engine whose hang path an agent's loss starts. -/
def agentEngine (agent : Nat) : Nat :=
  match agent with
  | 4 => 0x0A00
  | 5 => 0x0600
  | n => 2 ^ 16 + n

/-- HEARTBEAT_LOSS: an agent has missed three beats. -/
def execHeartbeatLoss (agent now : Nat) (s : State) : Host.Outcome State Fault Refusal :=
  onDev s fun d =>
    let d1 := advanceTo d now
    match d1.recov.beats.find? fun e => e.1 == agent with
    | none => d
    | some (_, _, last) =>
      if wbit (rget d1 .dbgHbStatus) agent ∧ last + 3000000 ≤ d1.clock then
        let d1 := rcount (rsetf d1 .dbgHbStatus 0 0 agent agent 0) .dbgHbStatus 0 0 31 16 1
        let d1 := npDecide d1 6 noSensor agent 3 0
        let again : Bool := match d1.recov.hungAt.find? fun e => e.1 == agent with
          | some (_, t) => decide (d1.clock < t + 1000000000)
          | none => false
        let d1 := { d1 with recov.hungAt := (d1.recov.hungAt.filter fun e => e.1 ≠ agent) ++ [(agent, d1.clock)] }
        if agent < 4 && (again || rfield d1 .dbgHbStatus 0 0 3 0 == 0) then askReset d1 4 2
        else enterHang d1 (agentEngine agent) 0 2 none
      else d

/-- NP_HEARTBEAT: every 10 ms (R362). -/
def execNpHeartbeat (s : State) : Host.Outcome State Fault Refusal :=
  onNp s fun d =>
    if d.np.on then rsetf d .npStatus 0 0 31 0 ((rfield d .npStatus 0 0 31 0 + 1) % 2 ^ 32) else d

/-! ### Transfers on chip (R356, R357) -/

/-- TRANSFER_PARITY_ERROR: copy `nth` of a transfer (0 the first, `n` its resend n) fails parity on a
network segment (0), a bridge (1) or into Tile SRAM (2). The eighth resend that fails declares its segment
failed. -/
def execTransferParityError (kind nth : Nat) (s : State) : Host.Outcome State Fault Refusal :=
  onDev s fun d =>
    if 3 ≤ kind then d
    else if nth = 0 then rcount d .dbgParity 0 0 (16 * kind + 15) (16 * kind) 1
    else if 8 ≤ nth then askReset (rcount d .dbgParity 0 0 55 48 1) 4 3
    else d

/-! ### Holds, acknowledgements and requests of resets (R368, R378, R379) -/

/-- The partition of a port has it UP. -/
def upPorts (d : Dev) (p : Nat) : List Nat :=
  (List.range 32).filter fun i => partOfPort d i == p && portIn d i .up

/-- LAST_GASP with a cause on every UP port of partition `p` (R378, Table FAB-5). -/
def lastGasp (d : Dev) (p cause : Nat) : Dev :=
  if chipIdValid d p then
    (upPorts d p).foldl (fun d i =>
      portSend d i (ctlFrame d p 0xFFFFF 0x40 (chipId d p + d.ns % 2 ^ 64 * 2 ^ 20 + cause * 2 ^ 84) []) true) d
  else d

/-- The hold of a domain is over: its reset is due. A requested power cycle is then asked of the tray
controller (R377, Table PWR-3). -/
def endHold (d : Dev) (dom : Nat) : Dev :=
  if d.recov.resets.any fun r => r.dom == dom && r.stage == .holding then
    let d := { d with recov.resets := d.recov.resets.map fun r =>
      if r.dom = dom ∧ r.stage = .holding then { r with stage := .due } else r }
    if dom = 5 then
      let d := (List.range (partCount d)).foldl (fun d p => lastGasp d p 4) d
      emit { d with np.lastIbi := 1, np.cycleAsked := true } (.ibi 1) else d
  else d

/-- HOLD_END: HOLD_MS has elapsed. -/
def execHoldEnd (dom now : Nat) (s : State) : Host.Outcome State Fault Refusal :=
  onDev s fun d =>
    let d1 := advanceTo d now
    if d1.recov.resets.any fun r => r.dom == dom && r.stage == .holding &&
        decide (r.since + 1000000 * rfield d1 .dbgDumpCtl 0 0 9 0 ≤ d1.clock) then endHold d1 dom
    else d

/-- A write of DBG_DUMP_ACK: bits 3:0 end the hold of a partition, bit 4 that of a chip reset or power
cycle. -/
def writeDumpAck (d : Dev) (v : Word) : Dev :=
  let d := (List.range 4).foldl (fun d p => if wbit v p then endHold d p else d) d
  if wbit v 4 then endHold (endHold d 4) 5 else d

/-- DUMP_ACK. -/
def execDumpAck (v : Word) (s : State) : Host.Outcome State Fault Refusal :=
  onDev s fun d => writeDumpAck d v

/-- A write of DBG_RESET_REQ: another KEY, a partition that the layout does not have, and a domain that is
already to be reset are ignored and counted; LEVEL 0 asks for nothing. -/
def writeResetReq (d : Dev) (v : Word) : Dev :=
  let level := wbits v 1 0
  let dom := if level = 1 then wbits v 3 2 else level + 2
  if level = 0 ∧ wbits v 31 16 = 0xA5C3 then d
  else if wbits v 31 16 ≠ 0xA5C3 ∨ resetAsked d dom ∨ (level = 1 ∧ partCount d ≤ dom) then
    rcount d .dbgHbStatus 0 0 47 32 1
  else
    askReset d dom 4

/-- RESET_REQ_PARTITION: LEVEL 1. -/
def execResetReqPartition (v : Word) (s : State) : Host.Outcome State Fault Refusal :=
  onDev s fun d => if wbits v 1 0 = 1 then writeResetReq d v else d

/-- RESET_REQ_CHIP: LEVEL 2. -/
def execResetReqChip (v : Word) (s : State) : Host.Outcome State Fault Refusal :=
  onDev s fun d => if wbits v 1 0 = 2 then writeResetReq d v else d

/-- RESET_REQ_POWER_CYCLE: LEVEL 3. -/
def execResetReqPowerCycle (v : Word) (s : State) : Host.Outcome State Fault Refusal :=
  onDev s fun d => if wbits v 1 0 = 3 then writeResetReq d v else d

/-! ### Escalation (R377) -/

/-- A partition's wipe has failed for a channel (R188, R190). -/
def wipeFailed (d : Dev) (p : Nat) : Bool :=
  d.mem.chanFailed.any fun c => partOfQuarter d (c / 96) == p

/-- A reset that has begun has taken 1 s. -/
def overdue (d : Dev) (dom : Nat) : Bool :=
  d.recov.resets.any fun r => r.dom == dom && (r.stage == .replying || r.stage == .running) &&
    decide (r.since + 1000000000 ≤ d.clock)

def dropReset (d : Dev) (dom : Nat) : Dev :=
  { d with recov.resets := d.recov.resets.filter fun r => r.dom ≠ dom }

/-- ESCALATION: a reset has not finished within its time. `level` 0 is context `a`, 1 engine `a`, `b`, 2
partition `a`, 3 the chip. -/
def execEscalation (level a b now : Nat) (s : State) : Host.Outcome State Fault Refusal :=
  onDev s fun d =>
    let d1 := advanceTo d now
    match level with
    | 0 =>
      let x := ctxAt d1 a
      if a < 512 ∧ x.state = .faulted ∧ ctxStill d1 a = false ∧ x.faultAt + 100000 ≤ d1.clock then
        enterHang d1 (0x200 + tileOf a) 6 5 (some (x.queue, x.seq))
      else d
    | 1 =>
      match recoveryOf d1 a b with
      | some r => if r.stage = .dumped ∧ r.head.outcome ≠ 4 ∧ r.since + 100000 ≤ d1.clock then escalateEngine d1 r else d
      | none => d
    | 2 =>
      if a < 4 ∧ overdue d1 a ∧ wipeFailed d1 a = false then askReset (dropReset d1 a) 4 5 else d
    | 3 =>
      let still : Bool := rfield d1 .secBootStatus 0 0 2 0 == 0 || d1.recov.resets.any fun r => r.stage == .replying
      if overdue d1 4 ∧ still ∧ d1.np.cycleAsked = false ∧
          (List.range 384).all (fun c => d1.mem.chanTrained.contains c || d1.mem.chanFailed.contains c) then
        npDecide d1 10 noSensor 0 0 1
      else d
    | _ => d

end Sys2Proof.Machine
end

