-- ==== Sys2Proof/Machine/Reset.lean ====
section
/-!
DEFINITION. Resets at partition level and above, training, the wipe and READY (R17, R23, R24, R42, R127,
R166, R176, R188 to R191, R219, R246, R266, R303, R325, R354, R376 to R379, R424).
-/

namespace Sys2Proof.Machine

/-! ### Commands that a reset interrupts (R354) -/

/-- The status of a started command that a reset covering its partition interrupts. -/
def interruptedStatus (y : Cmd) : Nat :=
  match y.opcode with
  | 0x0401 | 0x0402 | 0x0403 | 0x0404 => stLedgerInterrupted
  | 0x0110 | 0x0111 | 0x0A03 | 0x0207 => stOffloadInterrupted
  | 0x0501 | 0x0502 | 0x0503 => stTallyInterrupted
  | 0x0A04 => stFabricInterrupted
  | 0x0301 => if y.param 2 % 2 ^ 20 = 0 then stCommandInterrupted else stFabricInterrupted
  | 0x0601 | 0x0602 | 0x0603 | 0x0604 => stSnapshotInterrupted
  | _ => stCommandInterrupted

/-- Interrupts a command that has started and not retired, unless its reply is under way; a page command's
result counts its completed elements (R210), any other's is not stated. -/
def interruptCmd (q : Nat) (d : Dev) (y : Cmd) : Dev :=
  if y.began = false ∨ y.posted then d
  else
    let st := interruptedStatus y
    let (v, d) := if st = stLedgerInterrupted then (toW y.elementsDone, d) else freeW d
    updCmd d q y.seq fun z =>
      { z with st := .finished, status := st, result := v, finish := d.ns, step := 0, aux2 := [] }

def interruptPart (d : Dev) (p : Nat) : Dev :=
  (d.hub.queues.filter fun e => partOfQueue d e.1 == p).foldl
    (fun d e => e.2.cmds.foldl (interruptCmd e.1) d) d

/-- The queues of a partition whose completion ring lies outside the memory to be wiped. -/
def windowQueues (d : Dev) (p : Nat) : List Nat :=
  (d.hub.queues.filter fun e =>
    partOfQueue d e.1 == p && e.2.state != .off && regionOf e.2.cringPa == .window).map (·.1)

/-- The head of a queue retires; one that never started posts nothing (R354). -/
def postHead (q : Nat) (d : Dev) : Dev :=
  let x := queueAt d q
  match x.cmds with
  | y :: rest => if y.began then retireHead d q else setQueue d q { x with cmds := rest }
  | [] => d

/-- Posts the replies of a partition's interrupted commands, in queue order. -/
def postReplies (d : Dev) (p : Nat) : Dev :=
  (windowQueues d p).foldl (fun d q =>
    (List.range (queueAt d q).cmds.length).foldl (fun d _ => postHead q d) d) d

/-- A reply of the partition is still to be written or to become visible. -/
def repliesLeft (d : Dev) (p : Nat) : Bool :=
  (windowQueues d p).any fun q =>
    let x := queueAt d q
    (canRetire { x with cmds := x.cmds.filter (·.began) }).isSome

/-! ### Registers (R11, Tables CMD-11 and PWR-6) -/

/-- The bits of a register that a partition or chip reset keeps: RWS fields, the Night Porter's block, what
is counted since power-up, and what shows hardware state that no such reset changes: sensors, lasers, fuses
and trained channels (R11: an RO field returns hardware state, R188). -/
def keptBits (r : Reg) : Nat :=
  if r.info.blk = .np then 2 ^ 64 - 1
  else
    match r with
    | .qtrDbStat => 0xFFFF
    | .pwrEnergy => 2 ^ 64 - 1
    | .pwrStatus => 0xFE00000000
    | .mcStatus => 0x7FFFF0004FFFF
    | .secLcStatus => 0x38003FF3
    | .fabTimeStatus => 4
    | .fabEngineStatus => 0xFF02
    | _ => r.info.rws

/-- The register a key belongs to. -/
def regOf (key : Nat) : Option Reg := Reg.all.find? fun r => r.code == key / 65536

def instOf (key : Nat) : Nat := key / 1024 % 64

/-- Registers that `covered` names go to their reset values, but for the bits `kept`. -/
def resetRegs (covered : Reg → Nat → Nat → Bool) (kept : Reg → Nat) (regs : List (Nat × Word)) : List (Nat × Word) :=
  regs.filterMap fun e =>
    match regOf e.1 with
    | none => some e
    | some r =>
      if covered r (instOf e.1) (e.1 % 1024) then
        let m := toW (kept r)
        let v := (e.2 &&& m) ||| (toW r.info.reset &&& ~~~m)
        if v = toW r.info.reset then none else some (e.1, v)
      else some e

/-- The registers a reset of partition `p`, of quarters `qs`, covers. -/
def partCovers (p : Nat) (qs : List Nat) (r : Reg) (inst i : Nat) : Bool :=
  match r.info.blk with
  | .mc => qs.contains (inst / 6)
  | .qtr => qs.contains inst
  | .tile => qs.contains (inst / 16)
  | _ =>
    match r with
    | .chipAsidTbl | .snpReplCtl | .snpReplSrc | .snpState | .snpProg | .snpFill => i == p
    | _ => false

/-! ### What a partition's reset clears (R23) -/

def resetTiles (t : Tiles) (qs : List Nat) : Tiles :=
  let out (n : Nat) (k : Nat) : Bool := !qs.contains (k / n)
  { t with
    ctxs := mkeep (out 128) t.ctxs
    slots := mkeep (out 256) t.slots
    rings := mkeep (out 512) t.rings
    acc := mkeep (out 128) t.acc
    accRows := mkeep (out 16384) t.accRows
    mmaQ := mkeep (out 16) t.mmaQ
    array := mkeep (out 16) t.array
    sram := mkeep (out (16 * sramBytes)) t.sram
    sramBad := t.sramBad.filter (out (4 * sramBytes))
    l1 := t.l1.filter fun e => out 16 e.1
    watch := t.watch.filter fun e => out 16 e.2.1 }

/-- DRAM, Quarter Caches and band maps of the quarters, and the translation buffers of their ASIDs (R37,
R176); a channel that has failed stays failed until it trains again (R188). -/
def resetMem (m : Mem) (qs : List Nat) : Mem :=
  let out (n : Nat) (k : Nat) : Bool := !qs.contains (k / n)
  { m with
    bytes := mkeep (out quarterBytes) m.bytes
    lineErr := mkeep (out quarterBytes) m.lineErr
    tagErr := mkeep (out quarterBytes) m.tagErr
    overwritten := m.overwritten.filter fun e => out quarterBytes e.1
    corrCnt := mkeep (out quarterBytes) m.corrCnt
    bandMap := mkeep (out bandsPerQuarter) m.bandMap
    busy := m.busy.filter fun e => out bandsPerQuarter e.1
    tlb := mkeep (fun k =>
      let b := k / 2 ^ 44
      out (1024 * 2 ^ 32) (k % 2 ^ 44) && !qs.contains (if b < 64 then b / 16 else b - 64)) m.tlb
    qc := m.qc.filter fun x => out quarterBytes (128 * x.line)
    scrubPos := mkeep (out 96) m.scrubPos
    scrubPasses := mkeep (out 96) m.scrubPasses
    scrubStart := mkeep (out 96) m.scrubStart
    scrubPeriod := mkeep (out 96) m.scrubPeriod
    scrubForced := m.scrubForced.filter (out 96)
    chanWiped := m.chanWiped.filter (out 96) }

/-- Queues, semaphores, barriers and tables (Table CMD-11, R127, R294). -/
def resetHub (h : Hub) (p : Nat) (qs : List Nat) : Hub :=
  let out (n : Nat) (k : Nat) : Bool := !qs.contains (k / n)
  { h with
    queues := mkeep (out 65536) h.queues
    sems := mkeep (out 32768) h.sems
    waiters := h.waiters.filter fun w => out 32768 w.sem
    barriers := mkeep (fun k => k / 64 != p) h.barriers
    gens := mkeep (fun k => k % 4 != p) h.gens
    rrAsid := mkeep (fun k => k / 2 ^ 20 != p) h.rrAsid
    rrQueue := mkeep (fun k => k / 2 ^ 32 != p) h.rrQueue
    asidLocked := h.asidLocked.filter (· ≠ p) }

/-- The partition's flows, transactions, groups, fences and Bell (Table FAB-11). -/
def resetFab (f : Fab) (p : Nat) (qs : List Nat) : Fab :=
  { f with
    tx := f.tx.filter fun x => x.part != p
    rx := f.rx.filter fun x => x.part != p
    opens := f.opens.filter fun e => e.1 != p
    xacts := f.xacts.filter fun e => e.2.part != p
    parts := f.parts.map fun e =>
      if e.1 = p then (e.1, { e.2 with fence := [], beyond := [], overflow := false, bell := none }) else e
    groups := mkeep (fun g => !qs.contains (g / 1024)) f.groups
    edits := f.edits.filter fun e => !qs.contains (e.1 / quarterBytes) }

/-- Page Ledger, activation sets and tally contexts of the quarters (R219, R246, R266). -/
def resetTables (d : Dev) (qs : List Nat) : Dev :=
  let out (n : Nat) (k : Nat) : Bool := !qs.contains (k / n)
  { d with
    ledger := ⟨mkeep (out 131072) d.ledger.frames, mkeep (out 2048) d.ledger.banks,
      d.ledger.taken.filter (out 131072), d.ledger.waits.filter fun w => out 131072 w.1⟩
    sets := mkeep (out 1024) d.sets
    tally := ⟨mkeep (out 1024) d.tally.ctxs, d.tally.pubs.filter fun x => out 1024 x.group⟩ }

/-- A queue number that no queue has: a probed suspect whose partition was reset. -/
def queueCount : Nat := 262144

/-- Recoveries, snapshots, replica service and hints of a partition. The recovery of an engine that other
partitions use too goes on without its suspects there (R23). -/
def resetServices (d : Dev) (p : Nat) : Dev :=
  let inPart (r : Recovery) : Bool := engineParts d r.engine [] == [p]
  let gone : List DumpFor := (d.recov.engines.filter inPart).map fun r => .engine r.engine r.tileEng
  let left (e : Nat × Nat) : Bool := partOfQueue d e.1 != p
  let ofPart (w : NvWho) : Bool :=
    match w with
    | .none => false
    | .cmd q _ => partOfQueue d q == p
    | .repl n _ => n == p
  let d := { d with
    recov.engines := (d.recov.engines.filter fun r => !inPart r).map fun (r : Recovery) =>
      { r with
        suspects := r.suspects.filter left
        cleared := r.cleared.filter left
        again := r.again.filter left
        probing := r.probing.map fun e => if left e then e else (queueCount, 0) }
    recov.dumps := d.recov.dumps.filter fun x => !(gone.contains x.owner)
    recov.suspended := d.recov.suspended.filter (· ≠ p)
    snp.snaps := merase d.snp.snaps p
    snp.repls := mkeep (fun k => k / 4 != p) d.snp.repls
    snp.acks := mkeep (fun k => k / 2 ^ 20 != p) d.snp.acks
    snp.nvme := d.snp.nvme.map fun (v : NvCmd) =>
      if (ofPart v.who) then { v with who := .none } else v
  }
  hintsChanged d { d with pwr.hints := d.pwr.hints.filter fun h => h.part != p }

/-- Companion state of the wiped lines: the device forgets what the companion holds of them. -/
def resetFilter (d : Dev) (qs : List Nat) : Dev :=
  let out (a : Nat) : Bool := !qs.contains (a / quarterBytes)
  { d with
    rnl.filter := d.rnl.filter.filter fun x => out (x.num * 1024)
    rnl.snoops := d.rnl.snoops.filter fun x => out x.line }

/-- Everything of a partition goes to its reset state, and its wipe begins (Table MEM-6), or has failed
where a channel is out of service (R188). -/
def clearPart (d : Dev) (p : Nat) : Dev :=
  let qs := quartersOf d p
  let d := resetServices d p
  let d := resetFilter (resetTables d qs) qs
  let d := { d with
    tiles := resetTiles d.tiles qs
    mem := resetMem d.mem qs
    hub := resetHub d.hub p qs
    fab := resetFab d.fab p qs
    regs := resetRegs (partCovers p qs) keptBits d.regs }
  (List.range 24).foldl (fun d m =>
    if qs.contains (m / 6) then
      let failed : Bool := d.mem.chanFailed.any fun c => c / 96 == m / 6
      rsetf d .mcStatus m 0 17 16 (if failed then 3 else 1)
    else d) d

/-! ### PARTITION_RESET (R23, R24, R354, R378) -/

def resetOf (d : Dev) (dom : Nat) : Option ResetReq := d.recov.resets.find? fun r => r.dom == dom

def setStage (d : Dev) (dom : Nat) (st : ResetStage) : Dev :=
  { d with recov.resets := d.recov.resets.map fun r => if r.dom = dom then { r with stage := st } else r }

/-- The reset of a domain begins: it holds CHIP_PART_CFG as it is now (R24), and its time runs (R376). -/
def startReset (d : Dev) (dom : Nat) : Dev :=
  { d with recov.resets := d.recov.resets.map fun r =>
    if r.dom = dom then { r with stage := .replying, since := d.clock, cfg := rget d .chipPartCfg } else r }

/-- The MGT reset notice with the partition number (Table RNL-8); its subtype is not stated, a free
value. -/
def resetNotice (d : Dev) (p : Nat) : Dev :=
  let (v, d) := freeW d
  sendMgt d (plainMsg 0x1D 0 0 0 (wbits v 31 0) (leBytes 64 p))

/-- The reset of a partition begins: the modes wait in CHIP_PART_CFG come into force, READY falls. -/
def beginPart (d : Dev) (p cause : Nat) : Dev :=
  let d := lastGasp d p cause
  let cfg := rget d .chipPartCfg
  let d := rsetf d .chipPartStatus 0 0 (4 + p) (4 + p) (wbits cfg (4 + p) (4 + p))
  let d := rsetf d .chipPartStatus 0 0 (8 + p) (8 + p) (wbits cfg (8 + p) (8 + p))
  let d := rsetf d .chipPartStatus 0 0 (16 + p) (16 + p) 1
  interruptPart (rsetf d .chipPartStatus 0 0 (20 + p) (20 + p) 0) p

/-- PARTITION_RESET: a reset that is due begins, and once the replies that can be written are visible the
partition is cleared. -/
def execPartitionReset (p now : Nat) (s : State) : Host.Outcome State Fault Refusal :=
  onDev s fun d =>
    let d1 := advanceTo d now
    match resetOf d1 p with
    | none => d
    | some r =>
      if 4 ≤ p then d
      else if r.stage = .due ∨ r.stage = .replying then
        let d1 := if r.stage = .due then startReset (beginPart (resetNotice d1 p) p 2) p else d1
        let d1 := postReplies d1 p
        if repliesLeft d1 p then d1
        else serveReqs (setStage (rcount (clearPart d1 p) .dbgRecCnt 0 0 47 32 1) p .running)
      else d

/-! ### CHIP_RESET (R24, R176, R270, R297, R303, R325, R424, R425) -/

/-- CHIP_PART_STATUS when the chip comes out of reset: layout and modes from CHIP_PART_CFG, every
partition of the layout in reset (R24, R42). -/
def partStatusAt (cfg : Word) : Word :=
  let lay := wbits cfg 1 0
  let n := match lay with
    | 0 => 1
    | 1 => 2
    | _ => 4
  toW (lay + wbits cfg 7 4 % 2 ^ n * 2 ^ 4 + wbits cfg 11 8 % 2 ^ n * 2 ^ 8 + (2 ^ n - 1) * 2 ^ 16)

/-- Granules of a channel (R185). -/
def scrubGranules : Nat := 3145728

/-- Target position in bytes at the present time: (t / P) × 3 GiB (R186). -/
def scrubTarget (d : Dev) (chan : Nat) : Nat :=
  let t := d.clock - mget 0 d.mem.scrubStart chan
  min (scrubGranules * 1024)
    (t * (scrubGranules * 1024) / (mget 0 d.mem.scrubPeriod chan * 3600000000000))

/-- How far the scrub lags its target, in bytes (R186). -/
def scrubLag (d : Dev) (chan : Nat) : Nat := scrubTarget d chan - mget 0 d.mem.scrubPos chan * 1024

/-- MC_STATUS.SCRUB_FORCED: some channel of the stack is FORCED. -/
def showForced (d : Dev) (stack : Nat) : Dev :=
  rsetf d .mcStatus stack 0 19 19 (d.mem.scrubForced.any fun c => c / 16 == stack).toNat

/-- Campus time as the hub finds it: held by the Night Porter, in HOLDOVER, or from 0 in FREE_RUN (Table
FAB-8, R423). -/
def resumeTime (d : Dev) : Dev :=
  if d.np.timeHeld then setTime { d with np.timeHeld := false } .holdover
  else setTime { d with ns := 0, frac := 0, fab.freq := 0 } .freeRun

/-- The hub and every partition at their reset state, boot about to begin. With `keep`, DRAM and its band
map stay and no wipe runs (R417). The reset that follows a life-cycle transition resets RWS fields too
(Table SCP-6). -/
def restartChip (d : Dev) (keep : Bool) (cfg : Word) : Dev :=
  let d := nvAbandon (hintsChanged d { d with pwr.hints := [] })
  let kept (r : Reg) : Nat := if d.boot.moving && r.info.blk != .np then keptBits r &&& (2 ^ 64 - 1 - r.info.rws) else keptBits r
  let regs := resetRegs (fun _ _ _ => true) kept d.regs
  let d' : Dev :=
    { Dev.reset with
      regs := mset 0 regs (Reg.key .chipPartStatus 0 0) (partStatusAt cfg)
      mem := if keep then
          { d.mem with
            overwritten := []
            tlb := []
            qc := []
            chanTrained := []
            chanFailed := [] }
        else Mem.reset
      rnl := { Rnl.reset with downAt := d.clock, wasUp := d.rnl.wasUp }
      fab := { Fab.reset with
        lowFibres := d.fab.lowFibres
        freq := d.fab.freq
        parts := d.fab.parts.map fun e => (e.1, { FabPart.reset with incs := e.2.incs })
        ports := (List.range 32).map fun i => (i, { Port.reset with startAt := d.clock, downAt := d.clock }) }
      recov := { Rec.reset with hungAt := d.recov.hungAt }
      snp := { Snp.reset with drive := d.snp.drive, trainFrom := d.clock }
      pwr := { Pwr.reset with predictor := d.pwr.predictor, held := d.pwr.held, failHold := d.pwr.failHold, busyAt := d.clock }
      np := d.np
      boot := { Boot.reset with lastStatus := d.boot.lastStatus }
      pins := d.pins
      ns := d.ns
      frac := d.frac
      clock := d.clock
      free := d.free
      out := d.out
      tripped := d.tripped }
  resumeTime ((List.range 24).foldl (fun d i => rsetf (showForced d i) .mcStatus i 0 15 0 0) d')

/-- The chip reset itself, once the replies are written: the link goes DOWN with it (Table RNL-8). A power
cycle that is asked for stays asked for. -/
def chipReset (d : Dev) (r : ResetReq) : Dev :=
  let cycle := d.recov.resets.filter fun (x : ResetReq) => x.dom == 5
  let dumps := d.recov.dumps.filter fun x => x.owner == .domain 5
  let d := rcount { d with np.timeHeld := d.np.on } .dbgRecCnt 0 0 63 48 1
  let d := rsetf (restartChip d false r.cfg) .rnlLinkStatus 0 0 15 8 5
  { d with
    recov.resets := { r with stage := .running, since := r.since } :: cycle
    recov.dumps := dumps }

/-- CHIP_RESET: a chip reset that is due. -/
def execChipReset (now : Nat) (s : State) : Host.Outcome State Fault Refusal :=
  onDev s fun d =>
    let d1 := advanceTo d now
    match resetOf d1 4 with
    | none => d
    | some r =>
      if r.stage = .due ∨ r.stage = .replying then
        let ps := List.range (partCount d1)
        let d1 := if r.stage = .due then startReset (ps.foldl (fun d p => beginPart d p 3) d1) 4 else d1
        let d1 := ps.foldl postReplies d1
        if ps.any (repliesLeft d1) then d1 else chipReset d1 ((resetOf d1 4).getD r)
      else d

/-- Power comes back: everything is at its power-up state but the Night Porter's, while its own rail has
stayed on, and what lies outside the package (R423, R424, R454). -/
def powerUp (d : Dev) : Dev :=
  let d := nvAbandon d
  let np : List (Nat × Word) := d.regs.filter fun e => ((regOf e.1).map fun r => r.info.blk == .np).getD false
  resumeTime
    { Dev.reset with
      regs := bootRegs.foldl (fun m e => mset 0 m e.1 e.2) np
      fab := { Fab.reset with
        lowFibres := d.fab.lowFibres
        freq := d.fab.freq
        ports := (List.range 32).map fun i =>
          (i, { Port.reset with startAt := d.clock, downAt := d.clock }) }
      snp := { Snp.reset with drive := d.snp.drive, trainFrom := d.clock }
      pwr.busyAt := d.clock
      np := { d.np with cycleAsked := false, failAsserted := false }
      pins := d.pins
      tripped := d.tripped
      ns := d.ns
      frac := d.frac
      clock := d.clock
      free := d.free
      out := d.out }

/-- POWER_CYCLE: the tray removes and restores the package's power, but for VDD_NP, in answer to in-band
interrupt 0x01 (R377). -/
def execPowerCycle (s : State) : Host.Outcome State Fault Refusal :=
  onNp s fun d =>
    if d.np.cycleAsked && !d.tripped then powerUp { d with np.timeHeld := d.np.on } else d

/-! ### Training, wipe and READY (R42, R176, R185, R188 to R190, R426) -/

/-- The channels of a partition. -/
def channelsOf (d : Dev) (p : Nat) : List Nat :=
  ((quartersOf d p).map fun q => (List.range 96).map (96 * q + ·)).flatten

/-- Firmware area and dump region of a quarter: bands 49,135 to 49,151, set to CORRECT and empty (R365,
R426). -/
def setClosedBands (d : Dev) (quarter : Nat) : Dev :=
  fillBands d (quarter * bandsPerQuarter + 49135) 17 true

/-- Each channel's scrub pass begins (R185). -/
def beginScrub (d : Dev) (chans : List Nat) : Dev :=
  chans.foldl (fun d c =>
    let h := rfield d .mcScrubCtl (c / 16) 0 4 0
    { d with
      mem.scrubPos := mset 0 d.mem.scrubPos c 0
      mem.scrubStart := mset 0 d.mem.scrubStart c d.clock
      mem.scrubPeriod := mset 0 d.mem.scrubPeriod c h
      mem.scrubForced := d.mem.scrubForced.filter (· ≠ c) }) d

/-- A reset is over: its dump, if it took one, is reported again (R367). -/
def closeReset (d : Dev) (r : ResetReq) : Dev :=
  let d := dropReset d r.dom
  if r.head.bytes = 0 then d else reportDump d { r.head with outcome := 1 } false

/-- The domains of a reset under way that is over now: the partition itself, or the chip once each of its
partitions is READY. -/
def endResets (d : Dev) (p : Nat) : Dev :=
  let ended : List ResetReq := d.recov.resets.filter fun r =>
    r.stage == .running && (r.dom == p || (r.dom == 4 && (List.range (partCount d)).all (isReady d)))
  ended.foldl closeReset d

/-- A partition raises READY once firmware runs, its channels are in service and its wipe is done (R42,
R426). -/
def raiseReady (d : Dev) (p : Nat) : Dev :=
  let cs := channelsOf d p
  if inReset d p = true ∧ rfield d .secBootStatus 0 0 2 0 = 6 ∧
      cs.all (fun c => d.mem.chanTrained.contains c && d.mem.chanWiped.contains c &&
        !d.mem.chanFailed.contains c) then
    let d := (quartersOf d p).foldl setClosedBands d
    let d := rsetf d .chipPartStatus 0 0 (16 + p) (16 + p) 0
    let d := rsetf d .chipPartStatus 0 0 (20 + p) (20 + p) 1
    endResets d p
  else d

/-- A channel has failed: its quarter is without usable memory, its wipe ends FAILED, and the companion is
told (R188). -/
def failWipe (d : Dev) (chan : Nat) : Dev :=
  let d := { d with mem.chanFailed := d.mem.chanFailed ++ [chan] }
  let d := (List.range 6).foldl (fun d i => rsetf d .mcStatus (6 * (chan / 96) + i) 0 17 16 3) d
  let ok := rfield d .mcStatus (chan / 16) 0 15 0
  postEvent d (partOfQuarter d (chan / 96)) 0x0004 [toW (chan / 16 + ok * 2 ^ 5)]

/-- CHANNEL_TRAIN: a channel ends its training, in service or not (R188). -/
def execChannelTrain (chan : Nat) (ok : Bool) (s : State) : Host.Outcome State Fault Refusal :=
  onDev s fun d =>
    if 384 ≤ chan ∨ d.mem.chanTrained.contains chan ∨ d.mem.chanFailed.contains chan then d
    else if ok then
      let d := { d with mem.chanTrained := d.mem.chanTrained ++ [chan] }
      let d := rsetf d .mcStatus (chan / 16) 0 (chan % 16) (chan % 16) 1
      let d := if rfield d .mcStatus (chan / 16) 0 17 16 = 0 ∧ d.mem.chanWiped.contains chan = false then
          rsetf d .mcStatus (chan / 16) 0 17 16 1
        else d
      raiseReady d (partOfQuarter d (chan / 96))
    else failWipe d chan

/-- WIPE_DONE: the last channel of a partition reports its wipe done; scrub passes begin, and READY rises if
firmware runs (R185, R189, Table MEM-6). A quarter with a channel out of service has no wipe to end (R188). -/
def execWipeDone (p now : Nat) (s : State) : Host.Outcome State Fault Refusal :=
  onDev s fun d =>
    let d1 := advanceTo d now
    let wipes (q : Nat) : Bool := (List.range 96).all fun i =>
      let c := 96 * q + i
      d1.mem.chanTrained.contains c && !d1.mem.chanFailed.contains c && !d1.mem.chanWiped.contains c
    let qs := (quartersOf d1 p).filter wipes
    if p < partCount d1 ∧ inReset d1 p = true ∧ qs ≠ [] then
      let cs := qs.flatMap fun q => (List.range 96).map (96 * q + ·)
      let d1 := { d1 with mem.chanWiped := d1.mem.chanWiped ++ cs }
      let d1 := qs.foldl (fun d q => (List.range 6).foldl (fun d i =>
        rsetf (rsetf d .mcStatus (6 * q + i) 0 17 16 2) .mcStatus (6 * q + i) 0 31 24 255) d) d1
      raiseReady (beginScrub d1 cs) p
    else d

/-- WIPE_FAILED: a write fails during a channel's wipe, at `pct` of 256 of its stack (R190). -/
def execWipeFailed (chan pct : Nat) (s : State) : Host.Outcome State Fault Refusal :=
  onDev s fun d =>
    let p := partOfQuarter d (chan / 96)
    if chan < 384 ∧ inReset d p = true ∧ d.mem.chanTrained.contains chan ∧
        d.mem.chanFailed.contains chan = false ∧ d.mem.chanWiped.contains chan = false then
      rsetf (failWipe d chan) .mcStatus (chan / 16) 0 31 24 (min pct 255)
    else d

end Sys2Proof.Machine
end

