-- ==== Sys2Proof/Machine/Crypto.lean ====
section
/-!
DEFINITION. SHA-256, SHA-512, HMAC, the counter-mode KDF, HMAC_DRBG and the RSA part of the device identity
(R434, R435, R441; SP 800-108r1, SP 800-90A, FIPS 186-5 appendix A.1.3, RFC 8017).
-/

namespace Sys2Proof.Machine

/-! ### SHA-512 and SHA-256 -/

def sha512Init : List Word :=
  [0x6A09E667F3BCC908, 0xBB67AE8584CAA73B, 0x3C6EF372FE94F82B, 0xA54FF53A5F1D36F1,
   0x510E527FADE682D1, 0x9B05688C2B3E6C1F, 0x1F83D9ABFB41BD6B, 0x5BE0CD19137E2179]

def sha512 (bs : List Byte) : List Byte :=
  ((cut 128 (shaPad bs)).foldl shaBlock sha512Init).flatMap fun w => beBytes 8 w.toNat

abbrev Half := BitVec 32

/-- The constants of SHA-256 are the upper halves of those of SHA-512. -/
def upperHalf (w : Word) : Half := BitVec.ofNat 32 (w.toNat / 2 ^ 32)

/-- The message padded to blocks of 64 bytes. -/
def sha256Pad (bs : List Byte) : List Byte :=
  let n := bs.length
  bs ++ [0x80] ++ List.replicate ((119 - n % 64) % 64) 0 ++ beBytes 8 (8 * n)

/-- The schedule of a block, newest first: sixteen words, and `n` more. -/
def sha256Schedule : Nat → List Half → List Half
  | 0, w => w
  | n + 1, w =>
    let s0 (x : Half) : Half := x.rotateRight 7 ^^^ x.rotateRight 18 ^^^ (x >>> 3)
    let s1 (x : Half) : Half := x.rotateRight 17 ^^^ x.rotateRight 19 ^^^ (x >>> 10)
    sha256Schedule n ((s1 (w.getD 1 0) + w.getD 6 0 + s0 (w.getD 14 0) + w.getD 15 0) :: w)

/-- A round on the working variables a to h. -/
def sha256Round (v : List Half) (kw : Half × Half) : List Half :=
  let x (i : Nat) : Half := v.getD i 0
  let s1 := (x 4).rotateRight 6 ^^^ (x 4).rotateRight 11 ^^^ (x 4).rotateRight 25
  let ch := (x 4 &&& x 5) ^^^ (~~~(x 4) &&& x 6)
  let t1 := x 7 + s1 + ch + kw.1 + kw.2
  let s0 := (x 0).rotateRight 2 ^^^ (x 0).rotateRight 13 ^^^ (x 0).rotateRight 22
  let maj := (x 0 &&& x 1) ^^^ (x 0 &&& x 2) ^^^ (x 1 &&& x 2)
  [t1 + (s0 + maj), x 0, x 1, x 2, x 3 + t1, x 4, x 5, x 6]

def sha256Block (h : List Half) (block : List Byte) : List Half :=
  let first := (cut 4 block).map fun b => BitVec.ofNat 32 (beNat b)
  let w := (sha256Schedule 48 first.reverse).reverse
  (h.zip (((shaK.map upperHalf).zip w).foldl sha256Round h)).map fun e => e.1 + e.2

def sha256 (bs : List Byte) : List Byte :=
  ((cut 64 (sha256Pad bs)).foldl sha256Block (sha512Init.map upperHalf)).flatMap fun w => beBytes 4 w.toNat

/-! ### HMAC, the KDF and HMAC_DRBG -/

/-- HMAC with a hash of 128-byte blocks; the key is no longer than a block. -/
def hmac (hash : List Byte → List Byte) (key msg : List Byte) : List Byte :=
  let k := padTo 128 key
  hash ((k.map (· ^^^ 0x5C)) ++ hash ((k.map (· ^^^ 0x36)) ++ msg))

def hmac384 (key msg : List Byte) : List Byte := hmac sha384 key msg

/-- The KDF in counter mode of SP 800-108r1: a 32-bit counter from 1, the label, a zero byte, the context
and the length in bits (log 162). -/
def kdf (key label context : List Byte) (len : Nat) : List Byte :=
  ((List.range ((len + 47) / 48)).flatMap fun i =>
    hmac384 key (beBytes 4 (i + 1) ++ label ++ [0] ++ context ++ beBytes 4 (8 * len))).take len

/-- The working state of HMAC_DRBG. -/
structure Drbg where
  key : List Byte
  v : List Byte

def Drbg.update (g : Drbg) (data : List Byte) : Drbg :=
  let k := hmac384 g.key (g.v ++ [0] ++ data)
  let v := hmac384 k g.v
  if data = [] then ⟨k, v⟩
  else
    let k := hmac384 k (v ++ [1] ++ data)
    ⟨k, hmac384 k v⟩

/-- Instantiated from seed material. -/
def drbgStart (seed : List Byte) : Drbg :=
  Drbg.update ⟨List.replicate 48 0, List.replicate 48 1⟩ seed

/-- `n` blocks of 48 bytes, and V after them. -/
def drbgBlocks (key : List Byte) : Nat → List Byte → List Byte × List Byte
  | 0, v => ([], v)
  | n + 1, v =>
    let v := hmac384 key v
    let r := drbgBlocks key n v
    (v ++ r.1, r.2)

/-- One request for 1,536 bits. -/
def drbgDraw (g : Drbg) : List Byte × Drbg :=
  let r := drbgBlocks g.key 4 g.v
  (r.1, Drbg.update ⟨g.key, r.2⟩ [])

/-! ### The RSA-3072 key of the device (R434, R435) -/

/-- The DevID seed: 72 bytes derived from the device secret and CHIP_UID, the secret and the UID as the
little-endian bytes of their fuses (log 162). -/
def devIdSeed (uds : BitVec 256) (uid : BitVec 128) : List Byte :=
  kdf (leBytes 32 uds.toNat) ([0x44, 0x45, 0x56, 0x49, 0x44].map (BitVec.ofNat 8)) (leBytes 16 uid.toNat) 72

/-- A drawn string as a candidate, made odd. -/
def candidateOf (bs : List Byte) : Nat := beNat bs ||| 1

/-- Candidate `i` of a generator. -/
def candidate : Nat → Drbg → Nat
  | 0, g => candidateOf (drbgDraw g).1
  | i + 1, g => candidate i (drbgDraw g).2

/-- A candidate passes: at least √2 × 2^1535, p - 1 prime to 65,537, and prime (log 162). -/
def passes (p : Nat) : Bool := decide (2 ^ 3071 ≤ p * p) && Nat.gcd (p - 1) 65537 == 1 && decide p.Prime

/-- q passes beside p: they differ by more than 2^1436. -/
def passesBeside (p q : Nat) : Bool := passes q && decide (2 ^ 1436 < (p - q) + (q - p))

/-- The first candidate from `i` on that passes a test, among `fuel`. -/
def searchFrom (ok : Nat → Bool) : Nat → Nat → Drbg → Nat
  | 0, i, _ => i
  | fuel + 1, i, g => if ok (candidateOf (drbgDraw g).1) then i else searchFrom ok fuel (i + 1) (drbgDraw g).2

/-- The indices to fuse: the first candidate that passes, and the first after it that passes beside it. -/
def searchPrimes (seed : List Byte) : Nat × Nat :=
  let g := drbgStart seed
  let i := searchFrom passes 65535 0 g
  let p := candidate i g
  (i, searchFrom (fun q => passesBeside p q) 65535 0 g)

/-- b to the power e modulo n, over the lowest `fuel` bits of e. -/
def powMod (n : Nat) : Nat → Nat → Nat → Nat
  | 0, _, _ => 1 % n
  | fuel + 1, b, e =>
    let r := powMod n fuel (b * b % n) (e / 2)
    if e % 2 = 1 then b * r % n else r

/-- The inverse of `a` modulo `m`. -/
def invMod (a m : Nat) : Nat := (Nat.gcdA a m % (m : Int)).toNat

/-- The identity of a part: its DevID seed and the two primes that its fuses name. -/
structure DevId where
  seed : List Byte
  p : Nat
  q : Nat

def devId (uds : BitVec 256) (uid : BitVec 128) (pIter qIter : Nat) : DevId :=
  let seed := devIdSeed uds uid
  let g := drbgStart seed
  ⟨seed, candidate pIter g, candidate qIter g⟩

/-- The regenerated candidates pass (R435). -/
def DevId.holds (x : DevId) : Bool := passes x.p && passesBeside x.p x.q

def DevId.modulus (x : DevId) : Nat := x.p * x.q

/-- The private exponent. -/
def DevId.exponent (x : DevId) : Nat := invMod 65537 (Nat.lcm (x.p - 1) (x.q - 1))

/-- EMSA-PSS-ENCODE to 3,071 bits with a salt of 48 bytes. -/
def pssEncode (msg salt : List Byte) : List Byte :=
  let h := sha384 (List.replicate 8 0 ++ sha384 msg ++ salt)
  let masked := xorBytes (List.replicate 286 0 ++ [1] ++ salt) (mgf1 h 335)
  (masked.headD 0 &&& 0x7F) :: masked.tail ++ h ++ [0xBC]

/-- RSASSA-PSS with SHA-384 (R430, R441). -/
def DevId.pssSign (x : DevId) (msg salt : List Byte) : List Byte :=
  beBytes 384 (powMod x.modulus 3072 (beNat (pssEncode msg salt)) x.exponent)

end Sys2Proof.Machine
end

