-- ==== Sys2Proof/Machine/SlhDsa.lean ====
section
/-!
DEFINITION. SLH-DSA of FIPS 205, SHA2 parameter sets with n = 24: key generation, signatures and their
verification (R430, R434, R441).
-/

namespace Sys2Proof.Machine

/-- A parameter set: total height, layers, height of a layer, height and number of FORS trees, and bytes of
the message digest; n is 24 and w is 16. -/
structure SlhSet where
  h : Nat
  d : Nat
  hp : Nat
  a : Nat
  k : Nat
  m : Nat

/-- SLH-DSA-SHA2-192s: images and tokens (R430). -/
def slh192s : SlhSet := ⟨63, 7, 9, 14, 17, 39⟩
/-- SLH-DSA-SHA2-192f: the device identity (R434). -/
def slh192f : SlhSet := ⟨66, 22, 3, 8, 33, 42⟩

/-- Chains of a WOTS+ key. -/
def wotsLen : Nat := 51

/-- An address: layer, tree, type, key pair, and two more words: chain and hash, or height and index. -/
structure Adrs where
  layer : Nat
  tree : Nat
  type : Nat
  pair : Nat
  hi : Nat
  lo : Nat

/-- The compressed address of the SHA2 sets. -/
def Adrs.bytes (x : Adrs) : List Byte :=
  beBytes 1 x.layer ++ beBytes 8 x.tree ++ beBytes 1 x.type ++ beBytes 4 x.pair ++ beBytes 4 x.hi ++ beBytes 4 x.lo

/-- F and PRF. -/
def slhF (ps : List Byte) (x : Adrs) (m : List Byte) : List Byte :=
  (sha256 (padTo 64 ps ++ x.bytes ++ m)).take 24

/-- H and T of security category 3. -/
def slhH (ps : List Byte) (x : Adrs) (m : List Byte) : List Byte :=
  (sha512 (padTo 128 ps ++ x.bytes ++ m)).take 24

/-- The message digest of `m` bytes. -/
def slhDigest (m : Nat) (r ps root msg : List Byte) : List Byte :=
  let inner := r ++ ps ++ sha512 (r ++ ps ++ root ++ msg)
  ((List.range (m / 64 + 1)).flatMap fun i => sha512 (inner ++ beBytes 4 i)).take m

/-! ### WOTS+ -/

def wotsChain (ps : List Byte) (x : Adrs) : Nat → Nat → List Byte → List Byte
  | 0, _, v => v
  | n + 1, j, v => wotsChain ps x n (j + 1) (slhF ps { x with lo := j } v)

/-- The digits of a message of 24 bytes and of their checksum. -/
def wotsDigits (m : List Byte) : List Nat :=
  let ds := m.flatMap fun b => [b.toNat / 16, b.toNat % 16]
  let c := (ds.map (15 - ·)).sum
  ds ++ [c / 256 % 16, c / 16 % 16, c % 16]

def wotsSecret (ss ps : List Byte) (x : Adrs) (i : Nat) : List Byte :=
  slhF ps { x with type := 5, hi := i, lo := 0 } ss

/-- The key that the ends of the chains stand for. -/
def wotsJoin (ps : List Byte) (x : Adrs) (ends : List (List Byte)) : List Byte :=
  slhH ps { x with type := 1, hi := 0, lo := 0 } ends.flatten

def wotsKey (ss ps : List Byte) (x : Adrs) : List Byte :=
  wotsJoin ps x ((List.range wotsLen).map fun i =>
    wotsChain ps { x with type := 0, hi := i } 15 0 (wotsSecret ss ps x i))

def wotsSign (ss ps : List Byte) (x : Adrs) (m : List Byte) : List (List Byte) :=
  (numbered (wotsDigits m)).map fun (i, n) =>
    wotsChain ps { x with type := 0, hi := i } n 0 (wotsSecret ss ps x i)

def wotsFrom (ps : List Byte) (x : Adrs) (sig : List (List Byte)) (m : List Byte) : List Byte :=
  wotsJoin ps x ((numbered (wotsDigits m)).map fun (i, n) =>
    wotsChain ps { x with type := 0, hi := i } (15 - n) n (sig.getD i []))

/-! ### Trees -/

/-- The siblings on the way from leaf `i` to the root. -/
def authPath (node : Nat → Nat → List Byte) (h i : Nat) : List (List Byte) :=
  (List.range h).map fun j => node j ((i / 2 ^ j) ^^^ 1)

/-- From a node at height `j` up along its siblings. -/
def climb (ps : List Byte) (x : Adrs) : List (List Byte) → Nat → Nat → List Byte → List Byte
  | [], _, _, v => v
  | s :: ss, j, i, v =>
    climb ps x ss (j + 1) (i / 2)
      (slhH ps { x with hi := j + 1, lo := i / 2 } (if i % 2 = 0 then v ++ s else s ++ v))

/-- A node of an XMSS tree: height, then index. -/
def xmssNode (ss ps : List Byte) (x : Adrs) : Nat → Nat → List Byte
  | 0, i => wotsKey ss ps { x with type := 0, pair := i }
  | z + 1, i =>
    slhH ps { x with type := 2, pair := 0, hi := z + 1, lo := i }
      (xmssNode ss ps x z (2 * i) ++ xmssNode ss ps x z (2 * i + 1))

def xmssSign (o : SlhSet) (ss ps : List Byte) (x : Adrs) (i : Nat) (m : List Byte) : List (List Byte) :=
  wotsSign ss ps { x with type := 0, pair := i } m ++ authPath (xmssNode ss ps x) o.hp i

def xmssRoot (ps : List Byte) (x : Adrs) (i : Nat) (sig : List (List Byte)) (m : List Byte) : List Byte :=
  climb ps { x with type := 2, pair := 0 } (sig.drop wotsLen) 0 i
    (wotsFrom ps { x with type := 0, pair := i } (sig.take wotsLen) m)

/-- The layers of the hypertree from layer `j` up. -/
def treeSign (o : SlhSet) (ss ps : List Byte) : Nat → Nat → Nat → Nat → List Byte → List (List Byte)
  | 0, _, _, _, _ => []
  | n + 1, j, tree, leaf, m =>
    let x : Adrs := ⟨j, tree, 0, 0, 0, 0⟩
    let s := xmssSign o ss ps x leaf m
    s ++ treeSign o ss ps n (j + 1) (tree / 2 ^ o.hp) (tree % 2 ^ o.hp) (xmssRoot ps x leaf s m)

/-- The root that a hypertree signature leads to. -/
def treeRoot (o : SlhSet) (ps : List Byte) : Nat → Nat → Nat → Nat → List (List Byte) → List Byte → List Byte
  | 0, _, _, _, _, m => m
  | n + 1, j, tree, leaf, sig, m =>
    let x : Adrs := ⟨j, tree, 0, 0, 0, 0⟩
    treeRoot o ps n (j + 1) (tree / 2 ^ o.hp) (tree % 2 ^ o.hp) (sig.drop (wotsLen + o.hp))
      (xmssRoot ps x leaf (sig.take (wotsLen + o.hp)) m)

/-! ### FORS -/

def forsSecret (ss ps : List Byte) (x : Adrs) (i : Nat) : List Byte :=
  slhF ps { x with type := 6, hi := 0, lo := i } ss

def forsNode (ss ps : List Byte) (x : Adrs) : Nat → Nat → List Byte
  | 0, i => slhF ps { x with type := 3, hi := 0, lo := i } (forsSecret ss ps x i)
  | z + 1, i =>
    slhH ps { x with type := 3, hi := z + 1, lo := i }
      (forsNode ss ps x z (2 * i) ++ forsNode ss ps x z (2 * i + 1))

/-- The leaves that a digest selects, one in each tree, numbered over all trees. -/
def forsLeaves (o : SlhSet) (md : List Byte) : List Nat :=
  (List.range o.k).map fun i => i * 2 ^ o.a + beNat md / 2 ^ (8 * md.length - o.a * (i + 1)) % 2 ^ o.a

def forsSign (o : SlhSet) (ss ps : List Byte) (x : Adrs) (md : List Byte) : List (List Byte) :=
  (forsLeaves o md).flatMap fun i => forsSecret ss ps x i :: authPath (forsNode ss ps x) o.a i

def forsRoot (o : SlhSet) (ps : List Byte) (x : Adrs) (sig : List (List Byte)) (md : List Byte) : List Byte :=
  let roots := (numbered (forsLeaves o md)).map fun (n, i) =>
    let s := (sig.drop (n * (o.a + 1))).take (o.a + 1)
    climb ps { x with type := 3 } s.tail 0 i (slhF ps { x with type := 3, hi := 0, lo := i } (s.headD []))
  slhH ps { x with type := 4, hi := 0, lo := 0 } roots.flatten

/-! ### SLH-DSA -/

/-- The parts of a digest: what FORS signs, the tree and the leaf. -/
def slhSplit (o : SlhSet) (dg : List Byte) : List Byte × Nat × Nat :=
  let n := (o.k * o.a + 7) / 8
  let t := (o.h - o.hp + 7) / 8
  (dg.take n, beNat ((dg.drop n).take t) % 2 ^ (o.h - o.hp),
    beNat ((dg.drop (n + t)).take ((o.hp + 7) / 8)) % 2 ^ o.hp)

/-- The address of the FORS key that signs. -/
def forsAdrs (tree leaf : Nat) : Adrs := ⟨0, tree, 3, leaf, 0, 0⟩

/-- The pure form with an empty context string. -/
def slhPure (msg : List Byte) : List Byte := [0, 0] ++ msg

/-- A secret key of 72 bytes (SK.seed, SK.prf, PK.seed) gives PK.seed and PK.root. -/
def slhPublic (o : SlhSet) (sk : List Byte) : List Byte :=
  let ps := (sk.drop 48).take 24
  ps ++ xmssNode (sk.take 24) ps ⟨o.d - 1, 0, 0, 0, 0, 0⟩ o.hp 0

/-- A signature with the 24 bytes `extra` of randomness. -/
def slhSign (o : SlhSet) (sk msg extra : List Byte) : List Byte :=
  let ss := sk.take 24
  let pk := slhPublic o sk
  let ps := pk.take 24
  let r := (hmac sha512 ((sk.drop 24).take 24) (extra ++ slhPure msg)).take 24
  let (md, tree, leaf) := slhSplit o (slhDigest o.m r ps (pk.drop 24) (slhPure msg))
  let x := forsAdrs tree leaf
  let fs := forsSign o ss ps x md
  r ++ fs.flatten ++ (treeSign o ss ps o.d 0 tree leaf (forsRoot o ps x fs md)).flatten

/-- A signature is valid for a public key of 48 bytes. -/
def slhValid (o : SlhSet) (pk msg sig : List Byte) : Bool :=
  let ps := pk.take 24
  let r := sig.take 24
  let chunks := cut 24 (sig.drop 24)
  let (md, tree, leaf) := slhSplit o (slhDigest o.m r ps (pk.drop 24) (slhPure msg))
  let n := o.k * (1 + o.a)
  sig.length == 24 * (1 + n + o.h + o.d * wotsLen) && pk.length == 48 &&
    treeRoot o ps o.d 0 tree leaf (chunks.drop n) (forsRoot o ps (forsAdrs tree leaf) (chunks.take n) md)
      == pk.drop 24

end Sys2Proof.Machine
end

