-- ==== Sys2Proof/Machine/Boot.lean ====
section
/-!
DEFINITION. The boot sequence, the life cycle, tokens and the commands of the security engine (R425 to
R442).
-/

namespace Sys2Proof.Machine

/-! ### Fuses (R431, R432) -/

/-- SEC_LC_STATUS shows the fused revocations and SVN. -/
def showFuses (d : Dev) (f : Fuses) : Dev :=
  rsetf (rsetf d .secLcStatus 0 0 7 4 f.revokedMask) .secLcStatus 0 0 13 8 (f.svnValue % 64)

/-! ### Signatures under a fused key slot (R430 checks 3, 6 and 7, R438) -/

/-- A key slot is programmed, not revoked, and its key hash is that of the keys given. -/
def keyValid (f : Fuses) (slot : Nat) (modulus pk : List Byte) : Bool :=
  let h := f.keyHash.getD slot 0
  decide (slot < 4) && h != 0 && !f.revokedMask.testBit slot &&
    sha384 (modulus ++ pk) == leBytes 48 h.toNat

/-! ### Boot (R425 to R430) -/

/-- The identity that the fuses give (R434, R435). -/
def Fuses.devId (f : Fuses) : DevId := Machine.devId f.uds f.uid f.pIter.toNat f.qIter.toNat

/-- The fused state has an identity (Table BOT-5). -/
def Fuses.named (f : Fuses) : Bool := f.state == 1 || f.state == 2

/-- ROM_INIT_DONE: the fuses are read, the identity keys are regenerated, and the ROM waits for the link.
`ident` tells whether the device found that the regenerated candidates pass; those that do not are never
found to (R435). -/
def execRomInitDone (ident : Bool) (s : State) : Host.Outcome State Fault Refusal :=
  onDev s fun d =>
    if bootStage d ≠ 0 then d
    else
      let st := s.fuses.state
      let d := showFuses (rsetf d .secLcStatus 0 0 1 0 st) s.fuses
      let d := if s.fuses.named && !(ident && s.fuses.devId.holds) then rsetf d .secBootStatus 0 0 3 3 1 else d
      bootLink s.fuses.uid (setBoot d 1)

/-- BOOT_HELLO: every 100 ms in WAIT_IMAGE. -/
def execBootHello (now : Nat) (s : State) : Host.Outcome State Fault Refusal :=
  onDev s fun d =>
    let d1 := advanceTo d now
    if bootStage d1 = 2 ∧ linkUp d1 ∧ d1.boot.helloAt + 100000000 ≤ d1.clock then sendHello s.fuses.uid d1 else d

/-- BOOT_OFFER: in WAIT_IMAGE the device begins to fetch the image of `len` bytes at window offset `addr`,
a multiple of 64 (log 164);
in any other stage the offer is ignored. -/
def execBootOffer (addr len : Nat) (s : State) : Host.Outcome State Fault Refusal :=
  onDev s fun d =>
    if linkUp d ∧ bootStage d = 2 then
      setBoot { d with boot.offerAddr := addr / 64 * 64, boot.offerLen := len, boot.store := [] } 3
    else d

/-- Bytes of the hub store (R427). -/
def hubStore : Nat := 16777216

/-- Fetches up to `n` more lines of the image; `none` when a line has yet to come. -/
def fetchLines (pa : Nat) : Nat → Act Unit
  | 0 => pure ()
  | n + 1 => do
    let bs ← readWindow pa false
    modify fun d => { d with boot.store := d.boot.store ++ bs }
    fetchLines (pa + 64) n

/-- Directory entry `i` of a body: offset and length, 4 bytes each. -/
def dirEntry (body : List Byte) (i : Nat) : Nat × Nat := (leAt body (16 * i) 4, leAt body (16 * i + 4) 4)

/-- Check 1 of R430 on an image offered with a length. -/
def imageFormatOk (img : List Byte) (len : Nat) : Bool :=
  let n := leAt img 0x10 4
  let body := img.drop 0x4300
  let es := (List.range 4).map (dirEntry body)
  leAt img 0 4 == 0x47414D49 && leAt img 4 4 == 1 && leAt img 0x14 4 == 0xB0 && leAt img 0x1C 4 == 0 &&
    leAt img 0x42E0 32 == 0 && n % 64 == 0 && decide (64 ≤ n ∧ n ≤ 12582912) && len == 0x4300 + n &&
    es.all (fun e => decide (e.1 + e.2 ≤ n)) &&
    (List.range 4).all fun i => (List.range i).all fun j =>
      let a := es.getD i (0, 0)
      let b := es.getD j (0, 0)
      decide (a.2 = 0 ∨ b.2 = 0 ∨ a.1 + a.2 ≤ b.1 ∨ b.1 + b.2 ≤ a.1)

/-- The checks of R430 in order; 0 when all pass. -/
def imageStatus (f : Fuses) (state : Nat) (img : List Byte) (len : Nat) : Nat :=
  let head := img.take 0x200
  let slot := leAt img 8 4
  let modulus := (img.drop 0x50).take 384
  let pk := (img.drop 0x1D0).take 48
  if imageFormatOk img len = false then stImageFormat
  else if bit (leAt img 0x18 4) state = false then stLcNotAllowed
  else if keyValid f slot modulus pk = false then stKeyInvalid
  else if leAt img 0x0C 4 < f.svnValue then stImageRollback
  else if sha384 ((img.drop 0x4300).take (leAt img 0x10 4)) ≠ (img.drop 0x20).take 48 then stImageFormat
  else if pssValid modulus head ((img.drop 0x200).take 384) = false then stImageRsa
  else if slhValid slh192s pk head ((img.drop 0x380).take 16224) = false then stImageSlhdsa
  else stOk

/-- BOOT_RESULT (Table BOT-2). -/
def sendResult (d : Dev) (st : Nat) (hash : List Byte) : Dev :=
  sendMgt d (plainMsg 0x1D 0 st 0 0x0102 (hash ++ List.replicate 16 0))

/-- An offer is refused: the device waits for another image (R428). -/
def refuseImage (d : Dev) (st : Nat) (hash : List Byte) : Dev :=
  let d := setBoot { d with boot.store := [], boot.lastStatus := st } 2
  let d := rcount (rsetf d .secBootStatus 0 0 31 16 st) .secBootStatus 0 0 47 32 1
  sendResult d st hash

/-- An image is verified: it is started (R430). -/
def startImage (d : Dev) (img : List Byte) (hash : List Byte) : Dev :=
  let d := setBoot { d with boot.lastStatus := 0 } 5
  let d := rsetf d .secLcStatus 0 0 21 16 (leAt img 0x0C 4)
  let d := rsetf d .secLcStatus 0 0 23 22 (leAt img 8 4)
  let d := (List.range 6).foldl (fun d i => rset d .secImageHash 0 i (toW (leAt hash (8 * i) 8))) d
  sendResult d stOk hash

/-- IMAGE_VERIFY: the image is fetched line by line as the companion answers, and, once whole, verified and
started or refused. A line that cannot be read refuses it with the read's status; what does not fit the
hub store is not fetched. -/
def execImageVerify (s : State) : Host.Outcome State Fault Refusal :=
  onDev s fun d =>
    if bootStage d ≠ 3 then d
    else
      let got := d.boot.store.length
      let want := min d.boot.offerLen hubStore
      let act := fetchLines (0x800000000000 + d.boot.offerAddr + got) ((want - got + 63) / 64)
      match act.go d with
      | (.error (.wait _), d') => d'
      | (.error (.err st _), d') => refuseImage d' st (sha384 (d'.boot.store.take 0x200))
      | (.ok _, d') =>
        let img := d'.boot.store.take d'.boot.offerLen
        let hash := sha384 (img.take 0x200)
        let st := imageStatus s.fuses (rfield d' .secLcStatus 0 0 1 0) img d'.boot.offerLen
        if st = stOk then startImage d' img hash else refuseImage d' st hash

/-- FIRMWARE_RUNNING: firmware is in control; a pending debug scope comes into force, and partitions whose
wipe is done raise READY with their closed bands set (R426, R442). -/
def execFirmwareRunning (now : Nat) (s : State) : Host.Outcome State Fault Refusal :=
  onDev s fun d =>
    if bootStage d ≠ 5 then d
    else
      let d := rcount (setBoot (advanceTo d now) 6) .secBootStatus 0 0 63 48 1
      let pend := rfield d .secLcStatus 0 0 29 27
      let d := if pend = 0 then d
        else rsetf (rsetf d .secLcStatus 0 0 26 24 pend) .secLcStatus 0 0 29 27 0
      (List.range (partCount d)).foldl raiseReady d

/-- HUB_STORE_DOUBLE_BIT: a chip reset (R427). -/
def execHubStoreDoubleBit (s : State) : Host.Outcome State Fault Refusal :=
  onDev s fun d => askReset d 4 5

/-! ### Tokens (R438) -/

/-- Length of a token (Table BOT-6). -/
def tokenBytes : Nat := 17168

/-- A token is valid for a command that wants one of a kind. -/
def tokenValid (d : Dev) (f : Fuses) (kind : Nat) (t : List Byte) : Bool :=
  let head := t.take 0x80
  let slot := leAt t 6 2
  let modulus := (t.drop 0x4160).take 384
  let pk := (t.drop 0x42E0).take 48
  leAt t 0 4 == 0x4E4B4F54 && leAt t 4 2 == kind && leAt t 8 16 == f.uid.toNat &&
    d.boot.challenge == some ((t.drop 0x18).take 48) && keyValid f slot modulus pk &&
    pssValid modulus head ((t.drop 0x80).take 384) &&
    slhValid slh192s pk head ((t.drop 0x200).take 16224) &&
    !(kind == 4 && bit (leAt t 0x48 4) slot && decide (slot < 4))

/-- The outstanding challenge is used up. -/
def useChallenge (d : Dev) : Dev :=
  rsetf { d with boot.challenge := none } .secLcStatus 0 0 30 30 0

/-- A command's token at a virtual address: `none` when the command goes on with it later or has ended. -/
def withToken (d : Dev) (f : Fuses) (q k va kind : Nat) (ok : List Byte → Dev → Dev × Fuses) : Dev × Fuses :=
  if d.boot.challenge.isNone then (finishFree d q k stNoChallenge, f)
  else
    match (vread (spaceOf d q) va tokenBytes).go { d with rnl.fresh := [] } with
    | (.error (.wait n), d') => (waitDev d d' n, f)
    | (.error (.err st _), d') => (finishFree d' q k st, f)
    | (.ok t, d') =>
      if tokenValid d' f kind t then ok t (useChallenge d')
      else (finishFree (rcount (useChallenge d') .secErr 0 0 15 0 1) q k stTokenInvalid, f)

/-! ### Security commands (R437, R440 to R442) -/

/-- A meaning that may burn fuses. -/
def onFuses (s : State) (f : Dev → Fuses → Dev × Fuses) : Host.Outcome State Fault Refusal :=
  .next (if s.dev.live then { s with dev := (f s.dev s.fuses).1, fuses := (f s.dev s.fuses).2 } else s)

/-- A started security command for its engine to work on; a life-cycle transition in progress makes every
other one end with SECURITY_BUSY (R437). -/
def onSecurity (d : Dev) (f : Fuses) (q k opcode : Nat) (act : Cmd → Dev × Fuses) : Dev × Fuses :=
  match cmdAt d q k with
  | some y =>
    if y.st = .started ∧ y.opcode = opcode ∧ isSuspect d q k = false ∧ y.step ≠ visibleStep then
      if d.boot.moving ∧ opcode ≠ 0x0905 then (finishFree d q k stSecurityBusy, f) else act y
    else (onStarted d q k opcode fun _ => d, f)
  | none => (d, f)

/-- There is an identity to attest with (R435, Table BOT-5). -/
def hasIdentity (d : Dev) : Bool :=
  let st := rfield d .secLcStatus 0 0 1 0
  (st == 1 || st == 2) && rfield d .secBootStatus 0 0 3 3 == 0

/-- The 256 bytes of an attestation report (R441). -/
def attestReport (d : Dev) (f : Fuses) (p : Nat) (request : List Byte) : List Byte :=
  let lc := rget d .secLcStatus
  let hash := (List.range 6).flatMap fun i => leBytes 8 (rget d .secImageHash 0 i).toNat
  leBytes 4 0x54544153 ++ leBytes 4 1 ++ leBytes 16 f.uid.toNat ++
    leBytes 1 (wbits lc 1 0) ++ leBytes 1 (wbits lc 13 8) ++ leBytes 1 (wbits lc 21 16) ++
    leBytes 1 (wbits lc 23 22) ++ leBytes 4 (debugScope d) ++ hash ++ leBytes 4 Config.romVersion.toNat ++
    leBytes 1 (layout d) ++ leBytes 1 p ++ leBytes 2 0 ++
    leBytes 8 (d.ns % 2 ^ 63 + (if timeIn d .locked then 0 else 2 ^ 63)) ++ request ++ leBytes 64 0

/-- `n` free words as bytes: what the entropy source of the device gives. -/
def freeBytes (d : Dev) (n : Nat) : List Byte × Dev :=
  ((List.range n).flatMap fun i => leBytes 8 (Config.freeValue (d.free + i)).toNat, { d with free := d.free + n })

/-- The two signatures of a report, with a random salt and the randomness of FIPS 205 (R441). -/
def attestSign (f : Fuses) (report salt extra : List Byte) : List Byte :=
  f.devId.pssSign report salt ++ slhSign slh192f f.devId.seed report extra

/-- ATTEST. -/
def execAttest (q k : Nat) (s : State) : Host.Outcome State Fault Refusal :=
  onFuses s fun d f => onSecurity d f q k 0x0901 fun y =>
    if hasIdentity d = false then (finishFree d q k stNoIdentity, f)
    else if y.param 1 % 64 ≠ 0 ∨ y.param 2 < 36304 then (finishFree d q k stParamReserved, f)
    else
      let (salt, d1) := freeBytes d 6
      let (extra, d1) := freeBytes d1 3
      let act : Act Unit := do
        let request ← vread (spaceOf d1 q) (y.param 0) 96
        let report := attestReport d1 f (partOfQueue d1 q) request
        vwrite (spaceOf d1 q) (y.param 1) (report ++ attestSign f report salt extra)
      (cmdAct d1 act (fun st _ d => finishFree d q k st) fun _ d => finishVisible d q k stOk 36304, f)

/-- DEBUG_CHALLENGE: a fresh nonce (R438, R440). -/
def execDebugChallenge (q k : Nat) (s : State) : Host.Outcome State Fault Refusal :=
  onFuses s fun d f => onSecurity d f q k 0x0902 fun y =>
    if y.param 0 % 64 ≠ 0 then (finishFree d q k stParamReserved, f)
    else
      let (nonce, d1) := freeBytes d 6
      (cmdAct d1 (vwrite (spaceOf d1 q) (y.param 0) nonce) (fun st _ d => finishFree d q k st) fun _ d =>
        finishVisible (rsetf { d with boot.challenge := some nonce } .secLcStatus 0 0 30 30 1) q k stOk 0, f)

/-- DEBUG_UNLOCK: a scope from a token of kind 1 (R442). -/
def execDebugUnlock (q k : Nat) (s : State) : Host.Outcome State Fault Refusal :=
  onFuses s fun d f => onSecurity d f q k 0x0903 fun y =>
    let st := rfield d .secLcStatus 0 0 1 0
    if st = 0 ∨ st = 3 then (finishCmd d q k stOk 0, f)
    else withToken d f q k (y.param 0) 1 fun t d =>
      let scope := leAt t 0x48 4 % 8
      if st = 1 then (finishCmd (updCmd d q k fun y => { y with aux2 := [1] }) q k stOk (toW scope), f)
      else (askReset (finishCmd (rsetf d .secLcStatus 0 0 29 27 scope) q k stOk (toW scope)) 4 4, f)

/-- DEBUG_LOCK. -/
def execDebugLock (q k : Nat) (s : State) : Host.Outcome State Fault Refusal :=
  onFuses s fun d f => onSecurity d f q k 0x0904 fun _ =>
    (finishCmd (closeDebug (rsetf (rsetf d .secLcStatus 0 0 26 24 0) .secLcStatus 0 0 29 27 0)) q k stOk 0, f)

/-- A life-cycle transition that ends without effect is no longer in progress. -/
def endMove (d : Dev) (q k st : Nat) : Dev := finishFree { d with boot.moving := false } q k st

/-- The target flag is burnt, the command ends, and a chip reset that wipes everything follows; a pending
debug unlock is cancelled (R437). -/
def moved (d : Dev) (q k target : Nat) : Dev :=
  let d := rsetf { d with boot.moving := true } .secLcStatus 0 0 29 27 0
  askReset (finishVisible d q k stOk (toW target)) 4 4

/-- The public DevID keys: the RSA modulus, then the SLH-DSA key (R437). -/
def Fuses.publicKeys (f : Fuses) : List Byte :=
  leBytes 384 f.devId.modulus ++ slhPublic slh192f f.devId.seed

/-- To PROVISIONED: the device secret is drawn, the candidates are searched, both are fused, and the public
keys written (R434, R435, R437); `before` is the device while the write has to wait. -/
def provision (before d : Dev) (f : Fuses) (q k va : Nat) : Dev × Fuses :=
  let (secret, d1) := freeBytes d 4
  let uds := BitVec.ofNat 256 (leNat secret)
  let (i, j) := searchPrimes (devIdSeed uds f.uid)
  let f' : Fuses :=
    { f with
      uds := uds
      pIter := BitVec.ofNat 16 i
      qIter := BitVec.ofNat 16 j
      prov := BitVec.allOnes 32 }
  match (vwrite (spaceOf d1 q) va f'.publicKeys).go { d1 with rnl.fresh := [] } with
  | (.error (.wait n), d') => (waitDev before d' n, f)
  | (.error (.err st _), d') => (endMove d' q k st, f)
  | (.ok _, d') => (moved d' q k 1, f')

/-- LC_TRANSITION. -/
def execLcTransition (q k : Nat) (s : State) : Host.Outcome State Fault Refusal :=
  onFuses s fun d f => onSecurity d f q k 0x0905 fun y =>
    let target := y.param 0 % 4
    let after (p : Dev × Fuses) : Dev × Fuses :=
      match cmdAt p.1 q k with
      | some z => if z.st = .finished ∧ z.status ≠ stOk then ({ p.1 with boot.moving := false }, p.2) else p
      | none => p
    match f.state, target with
    | 0, 1 => after (withToken d f q k (y.param 1) 2 fun _ d1 => provision d d1 f q k (y.param 2))
    | 1, 2 => (moved d q k 2, { f with depl := BitVec.allOnes 32 })
    | 1, 3 | 2, 3 => after (withToken d f q k (y.param 1) 3 fun _ d =>
        (moved d q k 3, { f with ret := BitVec.allOnes 32, uds := BitVec.allOnes 256 }))
    | _, _ => (endMove d q k stLcNotAllowed, f)

/-- SVN_ADVANCE: the fused SVN rises to that of the running image, never falls (R440). -/
def execSvnAdvance (q k : Nat) (s : State) : Host.Outcome State Fault Refusal :=
  onFuses s fun d f => onSecurity d f q k 0x0906 fun _ =>
    let n := rfield d .secLcStatus 0 0 21 16
    let f' : Fuses := if f.svnValue < n then { f with svn := f.svn ||| BitVec.ofNat 64 (2 ^ n - 1) } else f
    (finishCmd (showFuses d f') q k stOk (toW f'.svnValue), f')

/-- KEY_REVOKE: slots named by a token of kind 4 (R438, R440). -/
def execKeyRevoke (q k : Nat) (s : State) : Host.Outcome State Fault Refusal :=
  onFuses s fun d f => onSecurity d f q k 0x0907 fun y =>
    withToken d f q k (y.param 0) 4 fun t d =>
      let m := leAt t 0x48 4
      let f' : Fuses := { f with revoked := (List.range 4).map fun i =>
        if (bit m i) then BitVec.allOnes 32 else f.revoked.getD i 0 }
      (finishCmd (showFuses d f') q k stOk (toW f'.revokedMask), f')

end Sys2Proof.Machine
end

