-- ==== Sys2Proof/Machine/Snapshot.lean ====
section
/-!
DEFINITION. Taking a snapshot: SNAP_BEGIN, its windows and deadline, SNAP_COMMIT, and the replica traffic
of a source (R384 to R386, R391 to R395). The wire form of control records is the model's (log 48).
-/

namespace Sys2Proof.Machine

/-! ### The staging area of a buddy (R394) -/

def snapAt (d : Dev) (p : Nat) : Option Snap := (d.snp.snaps.find? fun e => e.1 == p).map (·.2)
def putSnap (d : Dev) (p : Nat) (x : Snap) : Dev := { d with snp.snaps := mput d.snp.snaps p x }
def dropSnap (d : Dev) (p : Nat) : Dev := { d with snp.snaps := merase d.snp.snaps p }

def replAt (d : Dev) (p i : Nat) : Repl := mget Repl.reset d.snp.repls (4 * p + i)

def putRepl (d : Dev) (p i : Nat) (r : Repl) : Dev :=
  { d with snp.repls := mset Repl.reset d.snp.repls (4 * p + i) r }

/-- The staging area and first semaphore a partition is set to; a peer is taken to be set alike. -/
def stageBase (d : Dev) (p : Nat) : Nat := rfield d .snpReplCtl 0 p 47 16 * 2 ^ 16
def semBase (d : Dev) (p : Nat) : Nat := rfield d .snpReplSrc 0 p 56 40

/-- Offset of frame `j` and of control record `i` in the area. -/
def frameOff (j : Nat) : Nat := 65536 + snapChunk * j
def recordOff_ (i : Nat) : Nat := 4096 * i

/-- A range of the area, a data range of CORRECT bands, as runs of at most 1 MiB: address, place, length. -/
def stageRuns (base : Nat) : Nat → Nat → Nat → Nat → List (Nat × Nat × Nat)
  | 0, _, _, _ => []
  | fuel + 1, o, done, len =>
    if len = 0 then []
    else
      let x := base % bandBytes + o
      let n := min len (min snapChunk (dataLen true - x % dataLen true))
      ((bandOf base + x / dataLen true) * bandBytes + x % dataLen true, done, n) ::
        stageRuns base fuel (o + n) (done + n) (len - n)

def stageRunsOf (base o len : Nat) : List (Nat × Nat × Nat) := stageRuns base (len / 65536 + 4) o 0 len

/-- Amounts of the signals: one chunk, one request answered, a request refused. -/
def sigChunk : Nat := 1
def sigAnswer : Nat := 2 ^ 24
def sigRefusal : Nat := 2 ^ 28

/-- What a chip has acknowledged since its count was last cleared. -/
def ackOf (d : Dev) (p chip : Nat) : Nat := mget 0 d.snp.acks (p * 2 ^ 20 + chip)
def acksOf (d : Dev) (p chip : Nat) : Nat := ackOf d p chip % 2 ^ 24
def answersOf (d : Dev) (p chip : Nat) : Nat := ackOf d p chip / 2 ^ 24 % 16
def refusedBy (d : Dev) (p chip : Nat) : Bool := decide (2 ^ 28 ≤ ackOf d p chip)

def clearAcks (d : Dev) (p chip : Nat) : Dev :=
  { d with snp.acks := mset 0 d.snp.acks (p * 2 ^ 20 + chip) 0 }

/-- Writes bytes into a peer's area at offset `o` and signals its semaphore; none while no transaction is
free. -/
def sendStage (d : Dev) (p chip : Nat) (who : XWho) (note : Dev → Nat → Dev) (o : Nat) (bs : List Byte)
    (sem amount : Nat) : Option Dev :=
  let runs := stageRunsOf (stageBase d p) o bs.length
  match startXact d p chip who 0 0 0 note (fun t =>
      (runs.flatMap fun r => writeFrames 0 0 r.1 ((bs.drop r.2.1).take r.2.2) t) ++ [semFrame sem amount]) with
  | .wait => none
  | .ok d _ => some d

/-- A control record. -/
structure Control where
  chip : Nat
  code : Nat
  step : Nat
  gen : Nat
  ack : Nat
  slot : Nat
  nchunk : Nat
  nregion : Nat
  streamLen : Nat
  time : Nat
  quarters : Nat
  chunk : Nat
  loss : List Byte
  wanted : Nat
  entries : List Byte
deriving DecidableEq, Repr

/-- A request that names nothing but its sender and the snapshot of a chip. -/
def Control.plain (chip code gen ack wanted chunk : Nat) : Control :=
  ⟨chip, code, 0, gen, ack, 0, 0, 0, 0, 0, 0, chunk, [], wanted, []⟩

def Control.bytes (x : Control) : List Byte :=
  padTo 2048
    (leBytes 4 x.chip ++ leBytes 4 x.code ++ leBytes 8 x.step ++ leBytes 8 x.gen ++ leBytes 4 x.ack ++
      leBytes 4 x.slot ++ leBytes 4 x.nchunk ++ leBytes 4 x.nregion ++ leBytes 8 x.streamLen ++
      leBytes 8 x.time ++ leBytes 4 x.quarters ++ leBytes 4 x.chunk ++ padTo 64 x.loss ++ leBytes 4 x.wanted) ++
    padTo 2048 x.entries

def Control.of (b : List Byte) : Control :=
  ⟨leAt b 0 4 % 2 ^ 20, leAt b 4 4, leAt b 8 8, leAt b 16 8, leAt b 24 4 % 2 ^ 17, leAt b 28 4 % 2,
    leAt b 32 4, leAt b 36 4, leAt b 40 8, leAt b 48 8, leAt b 56 4, leAt b 60 4, (b.drop 64).take 64,
    leAt b 128 4 % 2 ^ 20, (b.drop 2048).take 2048⟩

/-! ### Headers and directories of a snapshot -/

/-- A header (Table SNP-3). -/
def makeHead (kind mask index source : Nat) (x : Control) (dir : List Byte) : List Byte :=
  let h := leBytes 4 0x58424F53 ++ leBytes 4 1 ++ leBytes 1 kind ++ leBytes 1 mask ++ leBytes 1 index ++
    leBytes 5 0 ++ leBytes 4 source ++ leBytes 4 x.quarters ++ leBytes 8 x.step ++ leBytes 8 x.gen ++
    leBytes 8 x.time ++ leBytes 4 x.nchunk ++ leBytes 4 x.nregion ++ leBytes 8 x.streamLen ++ sha384 dir ++
    padTo 64 x.loss ++ leBytes 288 0
  padTo 4096 (h ++ sha384 h)

/-- Region entries of a snapshot (Table SNP-4): its runtime regions, then the device section. -/
def snapEntries (regions : List (Nat × Nat)) (dl : Nat) : List Byte :=
  let one (p : List Byte × Nat) (r : Nat × Nat) : List Byte × Nat :=
    (p.1 ++ leBytes 8 r.1 ++ leBytes 8 r.2 ++ leBytes 8 p.2 ++ leBytes 8 0, p.2 + r.2)
  let (bs, off) := regions.foldl one ([], 0)
  bs ++ leBytes 8 0 ++ leBytes 8 dl ++ leBytes 8 off ++ leBytes 8 1

def streamLen (regions : List (Nat × Nat)) (dl : Nat) : Nat := (regions.map (·.2)).sum + dl

/-- What a source tells its buddies of its snapshot. -/
def Snap.control (d : Dev) (p code : Nat) (x : Snap) (loss : List Byte) : Control where
  chip := chipId d p
  code := code
  step := x.step
  gen := x.gen
  ack := semBase d p + 3
  slot := x.slot
  nchunk := x.nchunk
  nregion := x.regions.length + 1
  streamLen := streamLen x.regions x.devSection.length
  time := x.commitAt.getD 0
  quarters := (quartersOf d p).length
  chunk := 0
  loss := loss
  wanted := 0
  entries := snapEntries x.regions x.devSection.length

/-! ### The device section (R391) -/

/-- A record: head, body, padding to 16 bytes. -/
def devRecord (type id : Nat) (body : List Byte) : List Byte :=
  leBytes 4 type ++ leBytes 4 body.length ++ leBytes 4 id ++ leBytes 4 0 ++ padTo (alignUp 16 body.length) body

/-- A group's record: the image as it stands, every entry written. -/
def groupRecord (gnum : Nat) (g : Group) : Act (List Byte) := do
  let d ← get
  if editsOf d g then throw (.wait .nothing)
  else
    let parts ← g.runs.mapM fun r => readPhys r.1 r.2
    pure (devRecord 1 gnum (leBytes 8 g.va ++ parts.flatten))

/-- A tally context's record: its parameters, its step, and the sets of its last finished step (R266). -/
def tallyRecord (d : Dev) (p gnum : Nat) (x : TallyCtx) (g : Group) : List Byte :=
  let sets := padTo (x.cpm * 2 * setBytes g) x.sets
  let first := homeQuarter d p * quarterBytes
  devRecord 2 gnum
    (leBytes 8 (gnum + x.late.toNat * 2 ^ 16 + x.carry.toNat * 2 ^ 17) ++ leBytes 8 x.cpm ++ leBytes 8 x.s0 ++
      leBytes 4 x.closeOff ++ leBytes 4 x.expLead ++ leBytes 8 (x.base - first) ++ leBytes 4 x.c ++ sets)

/-- The device section of a partition, padded to a multiple of 64 bytes (R385). -/
def devSectionOf (p : Nat) : Act (List Byte) := do
  let d ← get
  let gs := d.fab.groups.filter fun e => partOfGroup d e.1 == p
  let groups ← gs.mapM fun e => groupRecord e.1 e.2
  let ts := (d.tally.ctxs.filter fun e => partOfGroup d e.1 == p).map fun e =>
    match groupAt d e.1 with
    | some g => tallyRecord d p e.1 e.2 g
    | none => []
  let bs := groups.flatten ++ ts.flatten ++ devRecord 0 0 []
  pure (padTo (alignUp 64 bs.length) bs)

/-! ### SNAP_BEGIN (R385, R392, R393) -/

def snapMask (y : Cmd) : Nat := bits (y.param 1) 35 32

/-- The mask names namespaces of the partition's quarters, at least one. -/
def maskOk (d : Dev) (p m : Nat) : Bool := m != 0 && (maskList m).all (quartersOf d p).contains

/-- The fields of SNAP_BEGIN are in range. -/
def snapParamOk (d : Dev) (p : Nat) (y : Cmd) : Bool :=
  maskOk d p (snapMask y) && partOfSem d (bits (y.param 4) 16 0) == p &&
    decide (1 ≤ bits (y.param 4) 47 32 ∧ bits (y.param 4) 47 32 ≤ 120) &&
    !chipBad' (bits (y.param 3) 19 0) && !chipBad' (bits (y.param 3) 39 20)
where
  /-- No chip ID, where 0 stands for none. -/
  chipBad' (c : Nat) : Bool := c != 0 && chipBad c

/-- A range reads from data of CORRECT bands of the partition. -/
def rangeCorrect (p : Nat) (sp : Space) (va n : Nat) : Act Bool := do
  let runs ← physRuns sp va n false
  let d ← get
  pure (imagePlaced d p runs)

/-- The regions of a manifest; none where it breaks R385. -/
def snapRegions (p : Nat) (sp : Space) (va : Nat) : Act (Option (List (Nat × Nat))) := do
  if va % 64 ≠ 0 then pure none
  else
    let runs ← physRuns sp va 64 false
    let head ← vread sp va 64
    let n := leAt head 4 4
    if leAt head 0 4 ≠ 1 ∨ n = 0 ∨ 63 < n ∨ (nonZero head 8 56).isSome ∨
        runs.any (fun r => regionOf r.1 == .window) then pure none
    else
      let bs ← vread sp (va + 64) (16 * n)
      let rs := (List.range n).map fun i => (leAt bs (16 * i) 8, leAt bs (16 * i + 8) 8)
      let ok ← rs.mapM fun r =>
        if r.1 % 64 = 0 ∧ r.2 % 64 = 0 ∧ 64 ≤ r.2 ∧ r.1 + r.2 ≤ 2 ^ 48 then
          tryCatch (rangeCorrect p sp r.1 r.2) fun stop => match stop with
            | .err _ _ => pure false
            | .wait n => throw (.wait n)
        else pure false
      pure (if ok.all id then some rs else none)

/-- SNP_STATE of a partition. -/
def setSnpState (d : Dev) (p st : Nat) : Dev := rsetf d .snpState 0 p 2 0 st

def setSnpBits (d : Dev) (p : Nat) (x : Snap) : Dev :=
  let d := rsetf (rsetf d .snpState 0 p 3 3 x.forced.toNat) .snpState 0 p 4 4 x.window.toNat
  rsetf (rsetf d .snpState 0 p 5 5 x.slot) .snpState 0 p 11 8 x.nsmask

/-- A snapshot command fails (SNP_ERR_LAST). -/
def snapEnds (d : Dev) (q k st : Nat) : Dev :=
  let p := partOfQueue d q
  let d := { d with snp.nvme := d.snp.nvme.map fun (v : NvCmd) =>
    if (v.who == .cmd q k) then { v with who := .none } else v }
  let d := rsetf (rsetf d .snpErrLast 0 0 15 0 st) .snpErrLast 0 0 17 16 p
  setSnpState d p (match snapAt d p with
    | some x => if x.done then 3 else 0
    | none => 0)

def snapFails (d : Dev) (q k st : Nat) : Dev := finishFree (snapEnds d q k st) q k st

/-- SNAP_BEGIN fails: nothing is kept of it. -/
def beginFails (d : Dev) (q k st : Nat) : Dev := snapFails (dropSnap d (partOfQueue d q)) q k st

def toStep (d : Dev) (q k n : Nat) : Dev := updCmd d q k fun y => { y with step := n }

/-- A partition has a SNAP_BEGIN other than command `k` of queue `q` that is not committed. -/
def snapOpen (d : Dev) (p q k : Nat) : Bool :=
  match snapAt d p with
  | some x => x.queue != q || x.seq != k
  | none => false

/-- The namespaces whose headers decide over the own slots: those of the mask and the partition's other
usable ones. -/
def probeSpaces (d : Dev) (p m : Nat) : List Nat :=
  (quartersOf d p).filter fun n => m.testBit n || nsUsable d n

/-- The snapshot that a SNAP_BEGIN opens, its target not yet chosen. -/
def snapOf (q : Nat) (y : Cmd) (regions : List (Nat × Nat)) (dev : List Byte) : Snap where
  queue := q
  seq := y.seq
  step := bits (y.param 1) 31 0
  nsmask := snapMask y
  gen := 0
  slot := 0
  regions := regions
  devSection := dev
  nchunk := (streamLen regions dev.length + snapChunk - 1) / snapChunk
  next := 0
  hashes := []
  offset := bits (y.param 2) 31 0 * 1000
  length := bits (y.param 2) 63 32 * 1000
  deadline := y.param 5
  sem := bits (y.param 4) 16 0
  forced := false
  window := false
  drained := false
  done := false
  commitAt := none
  buddies := [bits (y.param 3) 19 0, bits (y.param 3) 39 20].map fun c => ⟨c, c != 0⟩

/-- Sends a request to every buddy whose replica goes on; none while a transaction is missing. -/
def askBuddies (d : Dev) (p code : Nat) (x : Snap) (loss : List Byte) : Option Dev :=
  ((List.range x.buddies.length).zip x.buddies).foldl (fun od (e : Nat × Buddy) =>
    od.bind fun d =>
      if e.2.live then
        sendStage (clearAcks d p e.2.chip) p e.2.chip (.snap p e.2.chip) (fun d _ => d) (recordOff_ e.1)
          (x.control d p code loss).bytes (semBase d p + e.1) sigAnswer
      else some d) (some d)

/-- A buddy that is fenced or has refused ends its replica. -/
def Snap.heard (d : Dev) (p : Nat) (x : Snap) : Snap :=
  { x with buddies := x.buddies.map fun (b : Buddy) =>
      { b with live := b.live && !fenced d p b.chip && !refusedBy d p b.chip } }

/-- The whole stream has been read: DRAINED rises, once for a snapshot. -/
def raiseDrained (d : Dev) (p : Nat) (x : Snap) : Dev :=
  if x.drained then putSnap d p x
  else semAdd (putSnap d p { x with drained := true }) x.sem 1

/-- Bytes of the stream from offset `off`. -/
def streamRead (sp : Space) (x : Snap) (off len : Nat) : Act (List Byte) := do
  let parts ← (piecesOf x.regions x.devSection.length off len).mapM fun e =>
    match e with
    | .mem va n => vread sp va n
    | .dev o n => pure ((x.devSection.drop o).take n)
    | .pad n => pure (List.replicate n 0)
  pure parts.flatten

/-- Sends a chunk to every buddy whose replica goes on. -/
def chunkToBuddies (d : Dev) (p : Nat) (x : Snap) (bs : List Byte) : Option Dev :=
  ((List.range x.buddies.length).zip x.buddies).foldl (fun od (e : Nat × Buddy) =>
    od.bind fun d =>
      if e.2.live then
        sendStage d p e.2.chip (.snap p e.2.chip) (fun d _ => d) (frameOff (32 * e.1 + x.next % 32)) bs
          (semBase d p + e.1) sigChunk
      else some d) (some d)

/-- One turn of the drain: its next chunk, or the end of SNAP_BEGIN. -/
def drainTurn (d : Dev) (q k p : Nat) (x0 : Snap) : Dev :=
  let x := x0.heard d p
  let x := { x with forced := x.forced || (fabPart d p).bell.isNone }
  let d := setSnpBits (putSnap d p x) p x
  if x.next = x.nchunk then
    if nvBusy d (.cmd q k) then d
    else if x.buddies.all fun b => !b.live || acksOf d p b.chip == x.nchunk then
      finishFree (setSnpState (putSnap d p { x with done := true }) p 3) q k stOk
    else d
  else
    let (ns, blk) := chunkPlace (maskList x.nsmask) x.nchunk x.next
    let ready : Bool := (x.window || x.forced) && nvRoom d ns &&
      x.buddies.all fun b => !b.live || decide (x.next < acksOf d p b.chip + 32)
    if ready = false then d
    else cmdAct d (streamRead (spaceOf d q) x (snapChunk * x.next) snapChunk)
      (fun st _ d => beginFails (rsetf d .snpErrLast 0 0 52 21 x.next) q k st) fun bs d' =>
        match chunkToBuddies d' p x bs with
        | none => d
        | some d' =>
          let d' := nvIssue d' (.cmd q k) ns (.write (regionStart d' ns x.slot + blk) bs) 0
          let x := { x with next := x.next + 1, hashes := x.hashes ++ [sha384 bs] }
          let d' := rset d' .snpProg 0 p (toW (x.next + x.nchunk * 2 ^ 32))
          if x.next = x.nchunk then raiseDrained d' p x else putSnap d' p x

/-- The target of a SNAP_BEGIN is chosen and its header goes. A replay keeps what it first chose
(R404). -/
def chooseTarget (d : Dev) (q k p : Nat) (y : Cmd) (x : Snap) : Dev :=
  let nss := probeSpaces d p x.nsmask
  let gens := [0, 1].map fun a => ((slotValid y.buf nss a).map fun v => headGen v.1).getD 0
  let x := if x.gen ≠ 0 then { x with next := 0, hashes := [], done := false }
    else { x with
      gen := gens.foldl max 0 + 1
      slot := if newestSlot y.buf nss = some 0 then 1 else 0 }
  match askBuddies d p 1 x [] with
  | none => d
  | some d =>
    let d := (maskList x.nsmask).foldl (fun d n =>
      nvIssue d (.cmd q k) n (.write (regionStart d n x.slot) zeroBlock) 0) d
    toStep (setSnpBits (setSnpState (putSnap d p x) p 1) p x) q k 3

/-- The first turn of SNAP_BEGIN: its checks. -/
def beginChecks (d : Dev) (q k p : Nat) (y : Cmd) : Dev :=
  if snapParamOk d p y = false then snapFails d q k stSnapParam
  else if snapOpen d p q k then snapFails d q k stSnapState
  else if !(maskList (snapMask y)).all (nsUsable d) then beginFails d q k stDriveAbsent
  else
    let act : Act (Option (List (Nat × Nat)) × List Byte) := do
      let rs ← snapRegions p (spaceOf d q) (y.param 0)
      let dev ← if rs.isSome then devSectionOf p else pure []
      pure (rs, dev)
    cmdAct d act (fun st _ d => beginFails d q k st) fun (rs, dev) d =>
      match rs with
      | none => beginFails d q k stSnapRegion
      | some rs =>
        let x := match snapAt d p with
          | some x => x
          | none => snapOf q y rs dev
        let nss := maskList x.nsmask
        if nss.any fun n => regionBlocks d n < slotBlocks x.nchunk nss.length then
          beginFails d q k stSlotTooSmall
        else
          let d := rsetf (setSnpState (putSnap d p x) p 1) .snpState 0 p 63 32 x.step
          let d := rset d .snpProg 0 p (toW (x.nchunk * 2 ^ 32))
          toStep (probeHeads d (.cmd q k) (probeSpaces d p x.nsmask) 0) q k 1

/-- SNAP_BEGIN: one turn of its work. -/
def execSnapBegin (q k : Nat) (s : State) : Host.Outcome State Fault Refusal :=
  onDev s fun d => onStarted d q k 0x0601 fun y =>
    let p := partOfQueue d q
    let busy := nvBusy d (.cmd q k)
    if y.status ≠ stOk then beginFails d q k y.status
    else if y.step = 0 then beginChecks d q k p y
    else
      match snapAt d p with
      | none => d
      | some x =>
        let nss := probeSpaces d p x.nsmask
        match y.step with
        | 1 => if busy then d else toStep (probeDirs d (.cmd q k) y.buf nss 0) q k 2
        | 2 => if busy then d else chooseTarget d q k p y x
        | 3 =>
          let x := x.heard d p
          if busy ∨ x.buddies.any (fun b => b.live && answersOf d p b.chip == 0) then putSnap d p x
          else toStep ((maskList x.nsmask).foldl (fun d n => nvIssue d (.cmd q k) n .flush 0) (putSnap d p x)) q k 4
        | 4 => if busy then d else toStep (setSnpState d p 2) q k 5
        | _ => drainTurn d q k p x

/-- DRAIN_WINDOW: a window of a partition's drain opens or closes. -/
def execDrainWindow (p now : Nat) (s : State) : Host.Outcome State Fault Refusal :=
  onDev s fun d =>
    match snapAt d p with
    | none => d
    | some x =>
      let d1 := advanceTo d now
      if windowOpen d1 p x = x.window ∨ inTurnAt d1 (drainAt d1 p x) .drain then
        let x := { x with window := windowOpen d1 p x }
        setSnpBits (putSnap d1 p x) p x
      else d

/-- DRAIN_DEADLINE: the deadline has passed with the drain unfinished. -/
def execDrainDeadline (p now : Nat) (s : State) : Host.Outcome State Fault Refusal :=
  onDev s fun d =>
    let d1 := advanceTo d now
    match snapAt d1 p with
    | none => d
    | some x =>
      if x.deadline ≠ 0 ∧ x.deadline ≤ d1.ns ∧ x.drained = false then
        let x := { x with forced := true }
        setSnpBits (putSnap d1 p x) p x
      else d

/-! ### SNAP_COMMIT (R395) -/

/-- The directory of a snapshot. -/
def Snap.dir (x : Snap) : List Byte := makeDir (snapEntries x.regions x.devSection.length) x.hashes

/-- The first turn of SNAP_COMMIT: checks, the loss record, and the directories. -/
def commitStarts (d : Dev) (q k p : Nat) (y : Cmd) : Dev :=
  match snapAt d p with
  | none => snapFails d q k stSnapState
  | some x =>
    if x.done = false ∨ bits (y.param 0) 31 0 ≠ x.step then snapFails d q k stSnapState
    else if y.param 1 % 64 ≠ 0 then snapFails d q k stSnapParam
    else if !(maskList x.nsmask).all (nsUsable d) then snapFails d q k stDriveAbsent
    else cmdAct d (vread (spaceOf d q) (y.param 1) 64) (fun st _ d => snapFails d q k st) fun loss d' =>
      let x := { x.heard d' p with commitAt := some (x.commitAt.getD d'.ns) }
      match askBuddies d' p 2 x loss with
      | none => d
      | some d' =>
        let d' := (maskList x.nsmask).foldl (fun d n =>
          nvIssue d (.cmd q k) n (.write (regionStart d n x.slot + 1) x.dir) 0) d'
        updCmd (setSnpState (putSnap d' p x) p 4) q k fun y => { y with step := 1, buf := loss }

/-- The result word: bit 0 for the own copy, bits 1 and 2 for the buddies that committed. -/
def commitResult (d : Dev) (p : Nat) (x : Snap) : Nat × Bool :=
  let did (b : Buddy) : Bool := b.live && decide (1 ≤ answersOf d p b.chip)
  (1 + (((List.range x.buddies.length).zip x.buddies).map fun (e : Nat × Buddy) =>
      if (did e.2) then 2 ^ (e.1 + 1) else 0).sum, x.buddies.all fun b => b.chip == 0 || did b)

/-- SNAP_COMMIT: one turn of its work. -/
def execSnapCommit (q k : Nat) (s : State) : Host.Outcome State Fault Refusal :=
  onDev s fun d => onStarted d q k 0x0602 fun y =>
    let p := partOfQueue d q
    if y.status ≠ stOk then snapFails d q k y.status
    else if y.step = 0 then commitStarts d q k p y
    else
      match snapAt d p with
      | none => d
      | some x0 =>
        let x := x0.heard d p
        let nss := maskList x.nsmask
        let flush (d : Dev) : Dev := nss.foldl (fun d n => nvIssue d (.cmd q k) n .flush 0) d
        if nvBusy d (.cmd q k) then putSnap d p x
        else
          match y.step with
          | 1 => toStep (flush d) q k 2
          | 2 =>
            let c := x.control d p 2 y.buf
            toStep (nss.foldl (fun d n =>
              nvIssue d (.cmd q k) n
                (.write (regionStart d n x.slot) (makeHead 0 x.nsmask n (chipId d p) c x.dir)) 0) d) q k 3
          | 3 => toStep (flush d) q k 4
          | _ =>
            if x.buddies.any fun b => b.live && answersOf d p b.chip == 0 then putSnap d p x
            else
              let (w, all) := commitResult d p x
              let st := if all then stOk else stReplicaIncomplete
              let d := dropSnap d p
              let d := if all then setSnpState d p 0 else snapEnds d q k st
              finishCmd d q k st (toW w)

end Sys2Proof.Machine
end

