-- ==== Sys2Proof/Machine/Replica.lean ====
section
/-!
DEFINITION. The replica service of a buddy (R394, R395, R398, R400): staged chunks and the requests that
come with a control record. `i` is 0 for source A, 1 for source B, 2 for fills.
-/

namespace Sys2Proof.Machine

/-- The two sources a partition serves. -/
def replSource (d : Dev) (p i : Nat) : Nat :=
  if i = 0 then rfield d .snpReplSrc 0 p 19 0 else rfield d .snpReplSrc 0 p 39 20

def stageOn (d : Dev) (p : Nat) : Bool := wbit (rget d .snpReplCtl 0 p) 0

/-- Sends a signal back; none while no transaction is free. -/
def signalBack (d : Dev) (p chip sem amount : Nat) : Option Dev :=
  match startXact d p chip .none 0 0 0 (fun d _ => d) fun _ => [semFrame sem amount] with
  | .wait => none
  | .ok d _ => some d

/-- The signal in hand is served: its answer goes out and the next one is taken. -/
def replDone (d : Dev) (p i chip sem amount : Nat) : Dev :=
  match signalBack d p chip sem amount with
  | none => d
  | some d =>
    let r := replAt d p i
    putRepl d p i { r with todo := r.todo.tail, step := 0, buf := [], bad := false }

def replRefuse (d : Dev) (p i chip : Nat) : Dev := replDone d p i chip (semBase d p + 3) sigRefusal

def replStep (d : Dev) (p i n : Nat) : Dev := putRepl d p i { replAt d p i with step := n }

/-- A read of the staging area by the device itself. -/
def stageRead (d : Dev) (p o len : Nat) (bad : Dev → Dev) (ok : List Byte → Dev → Dev) : Dev :=
  match (dread (stageBase d p) o len).go { d with rnl.fresh := [] } with
  | (.ok bs, d') => ok bs d'
  | (.error (.err _ _), d') => bad d'
  | (.error (.wait n), d') => waitDev d d' n

def stageWrite (d : Dev) (p o : Nat) (bs : List Byte) (bad : Dev → Dev) (ok : Dev → Dev) : Dev :=
  match (dwrite (stageBase d p) o bs).go { d with rnl.fresh := [] } with
  | (.ok _, d') => ok d'
  | (.error (.err _ _), d') => bad d'
  | (.error (.wait n), d') => waitDev d d' n

/-- The region of a replica slot of source `i`. -/
def replRegion (i slot : Nat) : Nat := 2 + 2 * i + slot

/-- A staged chunk is hashed, written to the replica slot, and acknowledged once it is on the drive. -/
def serveChunk (d : Dev) (p i src amount : Nat) : Dev :=
  let r := replAt d p i
  let x := Control.of r.record
  let who : NvWho := .repl p i
  let nss := ownSpaces d p
  if r.bad ∨ nss.isEmpty ∨ x.nchunk ≤ r.next then replRefuse d p i src
  else if r.step = 0 then
    stageRead d p (frameOff (32 * i + r.next % 32)) snapChunk (fun d => replRefuse d p i src) fun bs d =>
      let (ns, blk) := chunkPlace nss x.nchunk r.next
      let d := putRepl d p i { r with step := 1, hashes := r.hashes ++ [sha384 bs] }
      nvIssue d who ns (.write (regionStart d ns (replRegion i x.slot) + blk) bs) 0
  else if nvBusy d who then d
  else
    match signalBack d p src x.ack sigChunk with
    | none => d
    | some d => putRepl d p i { r with
        next := r.next + 1
        step := 0
        todo := if 1 < amount then (src, amount - 1) :: r.todo.tail else r.todo.tail }

/-- The replica slot's header goes (R393 step 2). -/
def serveInvalidate (d : Dev) (p i src : Nat) (x : Control) : Dev :=
  let who : NvWho := .repl p i
  let nss := ownSpaces d p
  let r := replAt d p i
  let each (d : Dev) (f : Nat → NvOp) : Dev := nss.foldl (fun d n => nvIssue d who n (f n) 0) d
  if nss.isEmpty ∨ nss.any fun n => regionBlocks d n < slotBlocks x.nchunk nss.length then replRefuse d p i src
  else
    match r.step with
    | 1 => replStep (each (putRepl d p i { r with next := 0, hashes := [] })
        fun n => .write (regionStart d n (replRegion i x.slot)) zeroBlock) p i 2
    | 2 => replStep (each d fun _ => .flush) p i 3
    | _ => replDone d p i src x.ack sigAnswer

/-- Directory, flush, header, flush (R395). -/
def serveCommit (d : Dev) (p i src : Nat) (x : Control) : Dev :=
  let who : NvWho := .repl p i
  let nss := ownSpaces d p
  let r := replAt d p i
  let each (d : Dev) (f : Nat → NvOp) : Dev := nss.foldl (fun d n => nvIssue d who n (f n) 0) d
  let dir := makeDir x.entries r.hashes
  let mask := (nss.map (2 ^ ·)).sum
  if nss.isEmpty ∨ r.hashes.length ≠ x.nchunk then replRefuse d p i src
  else
    match r.step with
    | 1 => replStep (each d fun n => .write (regionStart d n (replRegion i x.slot) + 1) dir) p i 2
    | 2 => replStep (each d fun _ => .flush) p i 3
    | 3 => replStep (each d fun n =>
        .write (regionStart d n (replRegion i x.slot)) (makeHead 1 mask n x.chip x dir)) p i 4
    | 4 => replStep (each d fun _ => .flush) p i 5
    | _ => replDone d p i src x.ack sigAnswer

/-- The header and region this service found last. -/
def foundHead (r : Repl) : List Byte := r.hashes.headD []

/-- What was found last is what a request wants: the snapshot of a chip, of a GEN or the newest. -/
def foundIs (r : Repl) (x : Control) : Bool :=
  headSource (foundHead r) == x.wanted && (x.gen == 0 || headGen (foundHead r) == x.gen)

/-- Keeps a slot that was found: its header, its directory, its region. -/
def keepFound (d : Dev) (p : Nat) (v : List Byte × List Byte) (region step : Nat) : Dev :=
  putRepl d p 2 { replAt d p 2 with hashes := [v.1, v.2], next := region, step := step, buf := [] }

/-- Looks for the replica a request wants among the slots of source `j`: steps 1 to 3; then goes on at step
8. -/
def serveFind (d : Dev) (p j src : Nat) (x : Control) : Dev :=
  let r := replAt d p 2
  let nss := ownSpaces d p
  let who : NvWho := .repl p 2
  match r.step with
  | 1 => replStep (probeHeads d who nss (replRegion j 0)) p 2 2
  | 2 => replStep (probeDirs d who r.buf nss (replRegion j 0)) p 2 3
  | _ =>
    let slot := if x.gen = 0 then newestSlot r.buf nss
      else [0, 1].find? fun a => ((slotValid r.buf nss a).map fun v => headGen v.1 == x.gen).getD false
    match slot.bind fun a => (slotValid r.buf nss a).map fun v => (a, v) with
    | none => replRefuse d p 2 src
    | some (a, v) =>
      if headSource v.1 = x.wanted then keepFound d p v (replRegion j a) 8 else replRefuse d p 2 src

/-- Stages what a fill or restore asks for, in frames 64 on: code 5 the header and directory, code 6 a
chunk. -/
def serveFill (d : Dev) (p src : Nat) (x : Control) : Dev :=
  let r := replAt d p 2
  let who : NvWho := .repl p 2
  let h := foundHead r
  match [0, 1].find? fun j => replSource d p j == x.wanted with
  | none => replRefuse d p 2 src
  | some j =>
    if r.step < 8 then
      if r.step = 1 ∧ x.code = 6 ∧ foundIs r x then replStep d p 2 8 else serveFind d p j src x
    else if x.code = 5 then
      stageWrite d p (frameOff 64) (r.hashes.flatten) (fun d => replRefuse d p 2 src) fun d =>
        replDone d p 2 src x.ack sigAnswer
    else if headChunks h ≤ x.chunk then replRefuse d p 2 src
    else if r.step = 8 then
      let (ns, blk) := chunkPlace (maskList (headMask h)) (headChunks h) x.chunk
      replStep (nvIssue d who ns (.read (regionStart d ns r.next + blk) 256) 0) p 2 9
    else
      stageWrite d p (frameOff (64 + x.chunk % 32)) (padTo snapChunk r.buf) (fun d => replRefuse d p 2 src)
        fun d => replDone d p 2 src x.ack sigAnswer

/-- A request: its control record is read, then served. -/
def serveRequest (d : Dev) (p i src : Nat) : Dev :=
  let r := replAt d p i
  let x := Control.of r.record
  if r.bad then replRefuse d p i src
  else if r.step = 0 then
    stageRead d p (recordOff_ i) 4096 (fun d => replRefuse d p i src) fun bs d =>
      putRepl d p i { r with record := bs, step := 1 }
  else if nvBusy d (.repl p i) then d
  else if x.chip ≠ src then replRefuse d p i src
  else
    match i, x.code with
    | 2, 5 | 2, 6 => serveFill d p src x
    | 2, _ => replRefuse d p i src
    | _, 1 => serveInvalidate d p i src x
    | _, 2 => serveCommit d p i src x
    | _, _ => replRefuse d p i src

/-- REPLICA_CHUNK: one turn of the service of a partition for a source or for fills. Only the two sources
are accepted (R394). -/
def execReplicaChunk (p i now : Nat) (s : State) : Host.Outcome State Fault Refusal :=
  onDev s fun d =>
    let d1 := advanceTo d now
    match (replAt d1 p i).todo with
    | [] => d
    | (src, amount) :: _ =>
      if i < 3 ∧ p < 4 then
        if stageOn d1 p = false ∨ (i < 2 ∧ (src = 0 ∨ replSource d1 p i ≠ src)) then replRefuse d1 p i src
        else if sigAnswer ≤ amount then serveRequest d1 p i src
        else serveChunk d1 p i src amount
      else d

end Sys2Proof.Machine
end

