-- ==== Sys2Proof/Machine/Restore.lean ====
section
/-!
DEFINITION. RESTORE, SPARE_FILL and SPARE_ADMIT (R397 to R403). A command works in turns: `step` is 16 ×
its phase plus how far a request to a holder has come; `aux2` holds the slot (or none), the chunk in hand
and the holder asked; `buf` holds, from 0 on, header and directory, then the replica's, then the chunk, then
the device section.
-/

namespace Sys2Proof.Machine

/-! ### The working buffer -/

def auxN (y : Cmd) (i : Nat) : Nat := y.aux2.getD i 0

def setAux (d : Dev) (q k i v : Nat) : Dev :=
  updCmd d q k fun y => { y with aux2 := setAt (y.aux2 ++ List.replicate (3 - y.aux2.length) 0) i v }

/-- Bytes of header and directory of a snapshot of `n` chunks. -/
def headDirBytes (n : Nat) : Nat := 4096 * (1 + dirBlocks n)

def rHead (y : Cmd) : List Byte := padTo 4096 (y.buf.take 4096)
def rChunks (y : Cmd) : Nat := headChunks (rHead y)
def rDirBytes (y : Cmd) : Nat := headDirBytes (rChunks y)
def rDir (y : Cmd) : List Byte := (y.buf.drop 4096).take (rDirBytes y - 4096)
def rOther (y : Cmd) : Nat := rDirBytes y
def rChunkOff (y : Cmd) : Nat := 2 * rDirBytes y
def rChunk (y : Cmd) : List Byte := padTo snapChunk ((y.buf.drop (rChunkOff y)).take snapChunk)
def rDevOff (y : Cmd) : Nat := rChunkOff y + snapChunk

/-- Runtime regions, and the length of the device section. -/
def rRegions (y : Cmd) : List (Nat × Nat) :=
  ((dirEntries (rDir y)).filter fun e => e.2.2.2 == 0).map fun e => (e.1, e.2.1)
def rDevLen (y : Cmd) : Nat :=
  (((dirEntries (rDir y)).filter fun e => e.2.2.2 == 1).map fun e => e.2.1).sum
def rDev (y : Cmd) : List Byte := padTo (rDevLen y) ((y.buf.drop (rDevOff y)).take (rDevLen y))

/-- The chunk holds bytes of the device section. -/
def holdsDev (y : Cmd) (k : Nat) : Bool :=
  let start := (rRegions y).map (·.2) |>.sum
  decide (start < snapChunk * (k + 1)) && decide (snapChunk * k < start + rDevLen y)

/-- A chunk's bytes hash to the directory's entry. -/
def chunkGood (y : Cmd) (k : Nat) : Bool := sha384 (rChunk y) == dirHash (rDir y) k

/-! ### Asking a replica holder -/

/-- How a request to a holder stands. -/
inductive Asked
  | going (d : Dev)
  | failed (d : Dev) (status : Nat)
  | got (d : Dev)

/-- The command goes on at a phase, with no failure noted. -/
def atPhase (d : Dev) (q k phase : Nat) : Dev :=
  updCmd d q k fun y => { y with step := 16 * phase, status := stOk, aux := [] }

/-- Starts the READs of `len` bytes at offset `o` of a holder's area into the buffer at `off`. -/
def startReads (d : Dev) (q k p chip o len off : Nat) : Option Dev :=
  (stageRunsOf (stageBase d p) o len).foldl (fun od r =>
    od.bind fun d =>
      match startXact d p chip (.cmd q k) 0 (off + r.2.1) ((r.2.2 + 4095) / 4096) (noteCmd q k)
          (fun t => readFrames r.1 r.2.2 t) with
      | .wait => none
      | .ok d _ => some d) (some d)

/-- One turn of a request to a holder: the control record and its signal, the answer, the READs. -/
def askHolder (d : Dev) (q k p : Nat) (y : Cmd) (chip code gen wanted chunk o len off : Nat) : Asked :=
  let sub := y.step % 16
  if y.status ≠ stOk then
    if y.aux.isEmpty then .failed d y.status else .going d
  else if sub = 0 then
    let x := Control.plain (chipId d p) code gen (semBase d p + 3) wanted chunk
    let d1 := toStep (clearAcks d p chip) q k (y.step + 1)
    match sendStage d1 p chip (.cmd q k) (noteCmd q k) (recordOff_ 2) x.bytes (semBase d p + 2) sigAnswer with
    | none => .going d
    | some d => .going d
  else if sub = 1 then
    if refusedBy d p chip then .failed d stTargetRefused
    else if answersOf d p chip = 0 ∨ y.aux ≠ [] then .going d
    else
      match startReads (toStep d q k (y.step + 1)) q k p chip o len off with
      | none => .going d
      | some d => .going d
  else if y.aux.isEmpty then .got d
  else .going d

/-! ### Writing a chunk -/

/-- The pieces of a chunk, with their places in it. -/
def placed : Nat → List SnapPiece → List (Nat × SnapPiece)
  | _, [] => []
  | o, e :: rest =>
    let n := match e with
      | .mem _ n => n
      | .dev _ n => n
      | .pad n => n
    (o, e) :: placed (o + n) rest

/-- A buffer that has taken the device section's bytes of a chunk. -/
def takeDev (off : Nat) (bs : List Byte) (ps : List (Nat × SnapPiece)) (buf : List Byte) : List Byte :=
  ps.foldl (fun b e =>
    match e.2 with
    | .dev o n => putBytesAt b (off + o) ((bs.drop e.1).take n)
    | _ => b) buf

/-- Writes a chunk that is good to its regions, which must lie in CORRECT bands; bytes of the device section
stay in the buffer. -/
def placeChunk (d : Dev) (q k : Nat) (y : Cmd) (c : Nat) (bad : Nat → Dev → Dev) (ok : Dev → Dev) : Dev :=
  let bs := rChunk y
  let ps := placed 0 (piecesOf (rRegions y) (rDevLen y) (snapChunk * c) snapChunk)
  let act : Act Unit := ps.forM fun e =>
    match e.2 with
    | .mem va n => do
      let runs ← physRuns (spaceOf d q) va n true
      if imagePlaced (← get) (partOfQueue d q) runs then vwrite (spaceOf d q) va ((bs.drop e.1).take n)
      else Act.fail stSnapRegion va
    | _ => pure ()
  cmdAct d act (fun st _ d => bad st d) fun _ d =>
    ok (updCmd d q k fun y => { y with buf := takeDev (rDevOff y) bs ps y.buf })

/-! ### Applying the device section (R398, R400) -/

/-- A replacement: old ID, new ID, new tray. -/
abbrev Replacement := Nat × Nat × Nat

def readReplacements (sp : Space) (va n : Nat) : Act (List Replacement) := do
  let bs ← vread sp va (8 * n)
  pure ((List.range n).map fun i =>
    let w := leAt bs (8 * i) 8
    (bits w 19 0, bits w 39 20, bits w 59 40))

/-- A member's entry after the replacements; with `spare` set, the entry SELF is that chip's and
FILLING. -/
def newMember (d : Dev) (p : Nat) (reps : List Replacement) (spare : Option Nat) (isSelf : Bool) (w : Nat) : Nat :=
  let w := match reps.find? fun r => r.1 == memberChip w with
    | some r => r.2.1 + r.2.2 * 2 ^ 20
    | none => w
  let w := match spare, isSelf with
    | some c, true => withState 2 (setBits w 19 0 c)
    | _, _ => w
  if fenced d p (memberChip w) then withState 1 w else w

/-- Sets a group from its recorded image. -/
def restoreGroup (p : Nat) (sp : Space) (gnum : Nat) (reps : List Replacement) (spare : Option Nat) (body : List Byte) : Act Nat := do
  let va := leAt body 0 8
  let img := body.drop 8
  let n := leAt img 4 4
  let self := leAt img 8 4
  let d ← get
  let img := (List.range n).foldl (fun b j =>
    putBytesAt b (0x40 + 8 * j) (leBytes 8 (newMember d p reps spare (j == self) (leAt b (0x40 + 8 * j) 8)))) img
  vwrite sp va img
  let runs ← physRuns sp va img.length true
  let d ← get
  if groupImageOk d p img && imagePlaced d p runs && partOfGroup d gnum == p then
    set { d with fab.groups := mput d.fab.groups gnum (⟨va, runs, n, self, leAt img 0x10 8⟩ : Group) }
    pure stOk
  else pure stGroupParam

/-- Opens a tally context at its recorded step, with zeroed slots (R266). -/
def restoreTally (p gnum : Nat) (body : List Byte) : Act Nat := do
  let d ← get
  let x : TallyCtx :=
    { late := bit (leAt body 0 8) 16
      carry := bit (leAt body 0 8) 17
      base := homeQuarter d p * quarterBytes + leAt body 32 8
      cpm := leAt body 8 8
      s0 := leAt body 16 8
      closeOff := leAt body 24 4
      expLead := leAt body 28 4
      c := leAt body 40 4
      waits := []
      sets := body.drop 44
      fired := [] }
  match groupAt d gnum with
  | none => pure stTallyParam
  | some g =>
    if tallyOpenOk d p x g then
      dclear x.base 0 (tallyRegion x g)
      modify fun d => { d with tally.ctxs := mput d.tally.ctxs gnum x }
      pure stOk
    else pure stTallyParam

/-- The records of a device section: type, ID, body. -/
def devRecords : Nat → List Byte → List (Nat × Nat × List Byte)
  | 0, _ => []
  | fuel + 1, bs =>
    let type := leAt bs 0 4
    let len := leAt bs 4 4
    if type = 0 then []
    else (type, leAt bs 8 4, (bs.drop 16).take len) :: devRecords fuel (bs.drop (16 + alignUp 16 len))

/-- Applies the device section: the old IDs join the fence list, groups are set, tally contexts open. The
first status that is not OK ends it. -/
def applySection (p : Nat) (sp : Space) (reps : List Replacement) (spare : Option Nat) (sec : List Byte) : Act Nat := do
  modify fun d => reps.foldl (fun d r => if fenced d p r.1 then d else fenceChip d p r.1) d
  (devRecords (sec.length / 16 + 1) sec).foldlM (fun st r =>
    if st ≠ stOk then pure st
    else
      match r.1 with
      | 1 => restoreGroup p sp r.2.1 reps spare r.2.2
      | _ => restoreTally p r.2.1 r.2.2) stOk

/-- A group is set or a tally context is open in the partition. -/
def restoreBusy (d : Dev) (p : Nat) : Bool :=
  d.fab.groups.any (fun e => partOfGroup d e.1 == p) || d.tally.ctxs.any fun e => partOfGroup d e.1 == p

/-- The checks of R397 on a header: the status of the first that fails. A replay (`again`) may find what its
first run has set (R404). -/
def headChecks (d : Dev) (p want : Nat) (again : Bool) (h : List Byte) : Nat :=
  if want ≠ 0xFFFFFFFF ∧ headStep h ≠ want then stNoValidSlot
  else if headQuarters h ≠ (quartersOf d p).length then stLayoutMismatch
  else if !again && restoreBusy d p then stRestoreBusy
  else stOk

/-- Shows how far a restore or fill has come. -/
def showProg (d : Dev) (p done total : Nat) : Dev := rset d .snpProg 0 p (toW (done + total * 2 ^ 32))

def noteChunk (d : Dev) (c : Nat) : Dev := rsetf d .snpErrLast 0 0 52 21 c

/-! ### RESTORE (R397, R398) -/

def restoreHolders (y : Cmd) : List Nat := [bits (y.param 1) 19 0, bits (y.param 1) 39 20].filter (· != 0)
def restoreMask (y : Cmd) : Nat := bits (y.param 0) 11 8

/-- The fields of RESTORE are in range. -/
def restoreParamOk (d : Dev) (p : Nat) (y : Cmd) : Bool :=
  y.param 0 % 4 != 3 && maskOk d p (restoreMask y) && decide (y.param 4 % 32 ≤ 16)

/-- Phase 0: the checks that need no drive, then the headers. -/
def restoreStarts (d : Dev) (q k p : Nat) (y : Cmd) : Dev :=
  if restoreParamOk d p y = false then snapFails d q k stSnapParam
  else if snapOpen d p q k then snapFails d q k stSnapState
  else if !(maskList (restoreMask y)).all (nsUsable d) then snapFails d q k stDriveAbsent
  else atPhase (setSnpState (probeHeads d (.cmd q k) (probeSpaces d p (restoreMask y)) 0) p 5) q k 1

/-- Phase 2: the slot is chosen and its header checked; the buffer holds it from then on. -/
def restoreChooses (d : Dev) (q k p : Nat) (y : Cmd) : Dev :=
  let nss := probeSpaces d p (restoreMask y)
  let slot := match y.param 0 % 4 with
    | 0 => newestSlot y.buf nss
    | n => some (n - 1)
  match slot.bind fun a => (slotValid y.buf nss a).map fun v => (a, v) with
  | none => snapFails d q k stNoValidSlot
  | some (a, h, dir) =>
    let st := headChecks d p (bits (y.param 2) 31 0) y.replayed h
    if st ≠ stOk then snapFails d q k st
    else
      let d := rsetf (rsetf d .snpState 0 p 63 32 (headStep h % 2 ^ 32)) .snpState 0 p 11 8 (headMask h)
      let d := rsetf (showProg d p 0 (headChunks h)) .snpState 0 p 5 5 a
      let d := updCmd d q k fun y => { y with buf := h ++ dir, aux2 := [a, 0, 0] }
      atPhase d q k (if bit (y.param 0) 4 then 3 else 4)

/-- Phase 3: the replica's header, from H0 or, if that fails, H1. -/
def restoreCompares (d : Dev) (q k p : Nat) (y : Cmd) : Dev :=
  match (restoreHolders y)[auxN y 2]? with
  | none => snapFails d q k stReplicaMismatch
  | some chip =>
    match askHolder d q k p y chip 5 (headGen (rHead y)) (headSource (rHead y)) 0 (frameOff 64) 4096 (rOther y) with
    | .going d => d
    | .failed d _ => atPhase (setAux d q k 2 (auxN y 2 + 1)) q k 3
    | .got d =>
      let h := padTo 4096 ((y.buf.drop (rOther y)).take 4096)
      if headValid h && headSame h (rHead y) then atPhase (setAux d q k 2 0) q k 4
      else snapFails d q k stReplicaMismatch

/-- A chunk is good: it is written, and the next one is taken. -/
def chunkTaken (d : Dev) (q k p : Nat) (y : Cmd) : Dev :=
  let c := auxN y 1
  placeChunk d q k y c (fun st d => snapFails (noteChunk d c) q k st) fun d =>
    atPhase (setAux (setAux (showProg d p (c + 1) (rChunks y)) q k 1 (c + 1)) q k 2 0) q k 4

/-- Phase 6: a chunk that failed comes from a replica holder. -/
def restoreFetches (d : Dev) (q k p : Nat) (y : Cmd) : Dev :=
  let c := auxN y 1
  match (restoreHolders y)[auxN y 2]? with
  | none => snapFails (noteChunk d c) q k stChunkHashMismatch
  | some chip =>
    match askHolder d q k p y chip 6 (headGen (rHead y)) (headSource (rHead y)) c (frameOff (64 + c % 32)) snapChunk
        (rChunkOff y) with
    | .going d => d
    | .failed d _ => atPhase (setAux d q k 2 (auxN y 2 + 1)) q k 6
    | .got d =>
      if chunkGood y c then chunkTaken d q k p y
      else atPhase (setAux d q k 2 (auxN y 2 + 1)) q k 6

/-- Phase 7: the device section, the header copy, and the end. -/
def restoreEnds (d : Dev) (q k p : Nat) (y : Cmd) : Dev :=
  let sp := spaceOf d q
  let act : Act Nat := do
    let reps ← readReplacements sp (y.param 3) (y.param 4 % 32)
    let st ← applySection p sp reps none (rDev y)
    vwrite sp (y.param 5) ((rHead y).take 512)
    pure st
  cmdAct d act (fun st _ d => snapFails d q k st) fun st d =>
    if st ≠ stOk then snapFails d q k st
    else finishVisible (setSnpState d p 0) q k (if bit (y.param 0) 4 then stOk else stRestoreUncompared)
      (toW (headStep (rHead y)))

/-- RESTORE: one turn of its work. -/
def execRestore (q k : Nat) (s : State) : Host.Outcome State Fault Refusal :=
  onDev s fun d => onStarted d q k 0x0603 fun y =>
    let p := partOfQueue d q
    let who : NvWho := .cmd q k
    let phase := y.step / 16
    if phase ≠ 3 ∧ phase ≠ 6 ∧ y.status ≠ stOk then snapFails d q k y.status
    else
      match phase with
      | 0 => restoreStarts d q k p y
      | 1 =>
        if nvBusy d who then d
        else atPhase (probeDirs d who y.buf (probeSpaces d p (restoreMask y)) 0) q k 2
      | 2 => if nvBusy d who then d else restoreChooses d q k p y
      | 3 => restoreCompares d q k p y
      | 4 =>
        if rChunks y ≤ auxN y 1 then atPhase d q k 7
        else
          let (ns, blk) := chunkPlace (maskList (headMask (rHead y))) (rChunks y) (auxN y 1)
          atPhase (nvIssue d who ns (.read (regionStart d ns (auxN y 0) + blk) 256) (rChunkOff y)) q k 5
      | 5 =>
        if nvBusy d who then d
        else if chunkGood y (auxN y 1) then chunkTaken d q k p y
        else atPhase (setAux d q k 2 0) q k 6
      | 6 => restoreFetches d q k p y
      | _ => restoreEnds d q k p y

/-! ### SPARE_FILL (R400, R401, R403) -/

def fillLost (y : Cmd) : Nat := bits (y.param 1) 19 0
def fillSources (y : Cmd) : List Nat := [bits (y.param 1) 39 20, bits (y.param 1) 59 40].filter (· != 0)

/-- Bytes of the fill area's bitmap of `n` chunks. -/
def fillBitmap (n : Nat) : Nat := alignUp 64 ((n + 7) / 8)

def verified (d : Dev) (p : Nat) : Nat := rfield d .snpFill 0 p 63 32

def fillParamOk (y : Cmd) : Bool :=
  y.param 0 % 4 == 0 && !chipBad (fillLost y) && !chipBad (bits (y.param 1) 39 20) &&
    (bits (y.param 1) 59 40 == 0 || !chipBad (bits (y.param 1) 59 40)) && decide (y.param 4 % 32 ≤ 16) &&
    y.param 5 % 64 == 0

def fillStarts (d : Dev) (q k p : Nat) (y : Cmd) : Dev :=
  if fillParamOk y = false then snapFails d q k stSnapParam
  else if snapOpen d p q k then snapFails d q k stSnapState
  else atPhase (setSnpState d p 6) q k 1

/-- The header and directory of source `n` into the buffer at `off`; a source that fails ends the command
with its status. -/
def fillAsks (d : Dev) (q k p : Nat) (y : Cmd) (n len off : Nat) (ok : Dev → Dev) : Dev :=
  let chip := (fillSources y).getD n 0
  match askHolder d q k p y chip 5 0 (fillLost y) 0 (frameOff 64) len off with
  | .going d => d
  | .failed d st => snapFails d q k st
  | .got d => ok d

/-- Phase 4: the fill area: a matching header keeps its bitmap, any other is replaced. -/
def fillArea (d : Dev) (q k p : Nat) (y : Cmd) : Dev :=
  let sp := spaceOf d q
  let h := rHead y
  let n := rChunks y
  if bits (y.param 4) 63 32 < 512 + fillBitmap n then snapFails d q k stSnapParam
  else
    let act : Act (Bool × Nat) := do
      let ok ← rangeCorrect p sp (y.param 5) (512 + fillBitmap n)
      let old ← vread sp (y.param 5) (512 + fillBitmap n)
      if !ok then pure (false, 0)
      else if headValid old && headSource old == headSource h && headSame old h then
        pure (true, ((List.range n).filter fun i => bit (leNat ((old.drop (512 + i / 8)).take 1)) (i % 8)).length)
      else
        vwrite sp (y.param 5) (h.take 512 ++ List.replicate (fillBitmap n) 0)
        pure (true, 0)
    cmdAct d act (fun st _ d => snapFails d q k st) fun (ok, got) d =>
      if ok = false then snapFails d q k stSnapRegion
      else
        let d := rsetf d .snpFill 0 p 63 32 got
        let d := rsetf (showProg d p got n) .snpState 0 p 63 32 (headStep h % 2 ^ 32)
        atPhase (setAux (setAux d q k 1 0) q k 2 0) q k 5

/-- Chunk `c` of the fill is to be read: its bit is 0, or it holds the device section. -/
def fillNext (d : Dev) (q k : Nat) (y : Cmd) (ok : Option Nat → Dev → Dev) : Dev :=
  let n := rChunks y
  let act : Act (List Byte) := vread (spaceOf d q) (y.param 5 + 512) (fillBitmap n)
  cmdAct d act (fun st _ d => snapFails d q k st) fun map d =>
    ok ((List.range n).find? fun c => decide (auxN y 1 ≤ c) &&
      (!bit (leNat ((map.drop (c / 8)).take 1)) (c % 8) || holdsDev y c)) d

/-- A good chunk of a fill is written and its bit set. -/
def fillTakes (d : Dev) (q k p : Nat) (y : Cmd) : Dev :=
  let c := auxN y 1
  let sp := spaceOf d q
  placeChunk d q k y c (fun st d => snapFails (noteChunk d c) q k st) fun d1 =>
    let act : Act Bool := do
      let b ← vread sp (y.param 5 + 512 + c / 8) 1
      vwrite sp (y.param 5 + 512 + c / 8) [BitVec.ofNat 8 (setBits (leNat b) (c % 8) (c % 8) 1)]
      pure (bit (leNat b) (c % 8))
    match act.go d1 with
    | (.error (.wait n), d') => waitDev d d' n
    | (.error (.err st _), d') => snapFails (noteChunk d' c) q k st
    | (.ok old, d') =>
      let d' := if old then d' else rcount d' .snpFill 0 p 63 32 1
      atPhase (setAux (setAux (showProg d' p (verified d' p) (rChunks y)) q k 1 (c + 1)) q k 2 0) q k 5

/-- Phase 6: chunk `c` from SOURCE0, or from SOURCE1 when that copy is bad. -/
def fillFetches (d : Dev) (q k p : Nat) (y : Cmd) : Dev :=
  let c := auxN y 1
  match (fillSources y)[auxN y 2]? with
  | none => snapFails (noteChunk d c) q k stChunkHashMismatch
  | some chip =>
    match askHolder d q k p y chip 6 (headGen (rHead y)) (fillLost y) c (frameOff (64 + c % 32)) snapChunk
        (rChunkOff y) with
    | .going d => d
    | .failed d st => snapFails (noteChunk d c) q k st
    | .got d =>
      if chunkGood y c then fillTakes d q k p y
      else atPhase (setAux d q k 2 (auxN y 2 + 1)) q k 6

/-- Phase 7: the device section under the spare's own ID. -/
def fillEnds (d : Dev) (q k p : Nat) (y : Cmd) : Dev :=
  let sp := spaceOf d q
  let act : Act Nat := do
    let reps ← readReplacements sp (y.param 3) (y.param 4 % 32)
    applySection p sp reps (some (chipId d p)) (rDev y)
  cmdAct d act (fun st _ d => snapFails d q k st) fun st d =>
    if st ≠ stOk then snapFails d q k st
    else
      let (v, d) := freeW d
      finishVisible (setSnpState d p 0) q k stOk v

/-- SPARE_FILL with MODE FILL: one turn of its work. The loss of a source ends it (R403). -/
def execSpareFill (q k : Nat) (s : State) : Host.Outcome State Fault Refusal :=
  onDev s fun d => onStarted d q k 0x0604 fun y =>
    let p := partOfQueue d q
    let phase := y.step / 16
    if y.param 0 % 4 = 1 then d
    else if phase ≠ 0 ∧ (fillSources y).any (fenced d p) then
      finishCmd (snapEnds d q k stSourceLost) q k stSourceLost (toW (verified d p))
    else
      match phase with
      | 0 => fillStarts d q k p y
      | 1 => fillAsks d q k p y 0 4096 0 fun d =>
          if headValid (rHead y) then atPhase d q k 2 else snapFails d q k stReplicaMismatch
      | 2 => fillAsks d q k p y 0 (rDirBytes y) 0 fun d =>
          if sha384 (rDir y) ≠ headDirHash (rHead y) then snapFails d q k stReplicaMismatch
          else
            let st := headChecks d p (bits (y.param 2) 31 0) y.replayed (rHead y)
            if st ≠ stOk then snapFails d q k st
            else atPhase d q k (if (fillSources y).length = 2 then 3 else 4)
      | 3 => fillAsks d q k p y 1 4096 (rOther y) fun d =>
          let h := padTo 4096 ((y.buf.drop (rOther y)).take 4096)
          if headValid h && headSame h (rHead y) then atPhase d q k 4 else snapFails d q k stReplicaMismatch
      | 4 => fillArea d q k p y
      | 5 => fillNext d q k y fun c d =>
          match c with
          | some c => atPhase (setAux (setAux d q k 1 c) q k 2 0) q k 6
          | none => atPhase d q k 7
      | 6 => fillFetches d q k p y
      | _ => fillEnds d q k p y

/-! ### SPARE_ADMIT (R402) -/

/-- Groups of a partition that have a chip as a member. -/
def groupsWith (d : Dev) (p chip : Nat) : Nat :=
  (d.fab.groups.filter fun e => partOfGroup d e.1 == p && holdsChip d e.1 chip).length

/-- SPARE_FILL with MODE ADMIT: the spare's own entries become ACTIVE. A replay finds them so (R404). -/
def execSpareAdmit (q k : Nat) (s : State) : Host.Outcome State Fault Refusal :=
  onDev s fun d => onStarted d q k 0x0604 fun y =>
    let p := partOfQueue d q
    if y.param 0 % 4 ≠ 1 then d
    else if snapOpen d p q k then snapFails d q k stSnapState
    else if rfield d .snpFill 0 p 1 0 ≠ 2 ∧ y.replayed = false then snapFails d q k stNotHashed
    else
      let n := groupsWith d p (chipId d p)
      finishCmd (rsetf (editMembers d p (chipId d p) (withState 0)) .snpFill 0 p 1 0 0) q k stOk (toW n)

end Sys2Proof.Machine
end

