-- ==== Sys2Proof/Machine/Power.lean ====
section
/-!
DEFINITION. The cap loop, limits, droop and soft start, power hints, and the device's power states (R406 to
R418).
-/

namespace Sys2Proof.Machine

/-! ### Fields of PWR_STATUS -/

def capLimit (d : Dev) : Nat := rfield d .pwrStatus 0 0 18 12
def clockTarget (d : Dev) : Nat := rfield d .pwrStatus 0 0 31 20
def setLoop (d : Dev) (l clk : Nat) : Dev := rsetf (rsetf d .pwrStatus 0 0 18 12 l) .pwrStatus 0 0 31 20 clk
def boostEn (d : Dev) : Bool := wbit (rget d .pwrCapCtl) 8

/-- The lower of the two cap codes, and the cap it means in W (R406). -/
def capCode (d : Dev) : Nat := min (rfield d .pwrCapCtl 0 0 6 0) d.np.trayCap
def capWatts (code : Nat) : Nat := 1200 + 25 * code

/-! ### The limits of a tile (R408, R410, R411, Tables MEM-1 and PWR-2) -/

/-- Local tiles below a local stack (Table MEM-1). -/
def tilesBelow : Nat → List Nat
  | 0 => [0, 1, 4, 5]
  | 1 => [1, 2, 5, 6]
  | 2 => [2, 3, 6, 7]
  | 3 => [8, 9, 12, 13]
  | 4 => [9, 10, 13, 14]
  | _ => [10, 11, 14, 15]

/-- Issue limit of a row of Table MEM-5, 0 for none. -/
def stackLimit : Nat → Nat
  | 0 => 64
  | 1 => 48
  | 2 => 40
  | 3 => 32
  | 4 => 24
  | 5 => 16
  | _ => 4

/-- The lowest limit among the stacks above a tile. -/
def tileStackLimit (d : Dev) (t : Nat) : Nat :=
  ((List.range 6).map fun s =>
    if (tilesBelow s).contains (t % 16) then stackLimit (rfield d .mcStatus (6 * (t / 16) + s) 0 50 48) else 64).foldl
      min 64

def tileTempLimit (d : Dev) (t : Nat) : Nat := rfield d .pwrTileLim 0 t 22 16
def tileDroop (d : Dev) (t : Nat) : Nat := mget 64 d.pwr.droop t

/-- The effective issue limit (R408): the lowest of the four, and 1 while the Night Porter holds the tile
(decision 0x02, R422). -/
def effectiveLimit (d : Dev) (t : Nat) : Nat :=
  if d.pwr.failHold ∨ d.pwr.held.contains (t / 16) then 1
  else min (min (capLimit d) (tileStackLimit d t)) (min (tileTempLimit d t) (tileDroop d t))

/-- The tile is at 100 °C or above (Table PWR-2): its mark among the Night Porter's. -/
def tileHotMark (t : Nat) : Nat := 16 * 1024 + t

/-- A tile's clock in MHz (R410); one without a filtered temperature has no boost (R419). -/
def tileClock (d : Dev) (t : Nat) : Nat :=
  if d.np.taken.contains (tileHotMark t) ∨ (mget [] d.np.samples t).length ≠ 5 then 2000
  else min (clockTarget d) (2000 + Config.fmaxTile t % 401)

/-- PWR_TILE_LIM as it reads. -/
def readTileLim (d : Dev) (t : Nat) : Word :=
  let v := rget d .pwrTileLim 0 t
  let v := wsetBits (wsetBits v 6 0 (effectiveLimit d t)) 14 8 (tileStackLimit d t)
  wsetBits (wsetBits v 23 23 (decide (tileDroop d t < 64)).toNat) 51 40 (tileClock d t)

/-- DROOP: the supply has fallen below 93 % of nominal. -/
def execDroop (tile : Nat) (s : State) : Host.Outcome State Fault Refusal :=
  onDev s fun d =>
    if tile < 64 then
      let e := max 1 (effectiveLimit d tile / 2)
      rcount { d with pwr.droop := mset 64 d.pwr.droop tile e } .pwrTileLim 0 tile 39 24 1
    else d

/-- DROOP_RELEASE: the supply has stayed above 95 % for 256 cycles. -/
def execDroopRelease (tile : Nat) (s : State) : Host.Outcome State Fault Refusal :=
  onDev s fun d => { d with pwr.droop := mset 64 d.pwr.droop tile 64 }

/-! ### Hints in force (R413 to R415) -/

/-- A hint of class MATRIX or FULL is in force: no soft start. -/
def noSoftStart (d : Dev) : Bool := d.pwr.hints.any fun h => h.inForce && decide (2 ≤ h.cls)

/-- SOFT_START: an array idle for 1 µs restarts at 16/64, and, 250 ns after each rise, rises again until
the effective limit is reached. -/
def execSoftStart (tile now : Nat) (s : State) : Host.Outcome State Fault Refusal :=
  onDev s fun d =>
    let d1 := advanceTo d now
    if 64 ≤ tile ∨ tilesRun d1 = false then d
    else
      match d1.pwr.soft.find? fun e => e.1 == tile with
      | none =>
        if noSoftStart d1 then d
        else { d1 with pwr.soft := mput d1.pwr.soft tile (16, d1.clock) }
      | some (_, l, t) =>
        if d1.clock < t + 250 then d
        else if effectiveLimit d1 tile ≤ l + 16 then { d1 with pwr.soft := merase d1.pwr.soft tile }
        else { d1 with pwr.soft := mput d1.pwr.soft tile (l + 16, d1.clock) }

/-! ### The cap loop (R407, R409) -/

/-- The rule of R407 on L and the clock target. -/
def loopRule (l clk p pc c : Nat) (boost : Bool) : Nat × Nat :=
  if c < p then
    if 2000 < clk then (l, 2000)
    else
      let x : Int := (l : Int) * ((pc : Int) - ((p : Int) - c)) / pc
      (max 1 (min l x.toNat), clk)
  else if p + 25 < c ∧ l < 64 then (min 64 (l + 2), clk)
  else if p + 50 < c ∧ l = 64 ∧ boost then (l, min 2400 (clk + 25))
  else (l, clk)

/-- The loop may boost: BOOST_EN and no power failure (R407, R422). -/
def mayBoost (d : Dev) : Bool := boostEn d && !d.pwr.failHold

/-- CAP_LOOP_PERIOD: package power `power` and compute-rail power `compute` over the last 10 µs. -/
def execCapLoopPeriod (power compute now : Nat) (s : State) : Host.Outcome State Fault Refusal :=
  onDev s fun d =>
    let d := advanceTo d now
    let code := capCode d
    let c := capWatts code
    let hist := (power :: d.pwr.history).take 100
    let d := rwrap d .pwrEnergy 0 0 (10 * power)
    let d := match classInForce d with
      | none => d
      | some k =>
        let x := mget (0, 0) d.pwr.interval k
        { d with pwr.interval := mput d.pwr.interval k (x.1 + power, x.2 + 1) }
    let (l, clk) := loopRule (capLimit d) (clockTarget d) power compute c (mayBoost d)
    let d := setLoop d l clk
    let d := rsetf (rsetf d .pwrStatus 0 0 11 0 (hist.sum / hist.length)) .pwrStatus 0 0 39 33 code
    let d := if power < c then rsetf d .pwrStatus 0 0 32 32 0 else d
    let since := if l = 1 ∧ c < power then some (d.pwr.oneSince.getD d.clock) else none
    { d with pwr.history := hist, pwr.compute := compute, pwr.oneSince := since }

/-- CAP_UNMET: L has been 1 for 10 ms with power above the cap; each rise is decision 0x08. -/
def execCapUnmet (now : Nat) (s : State) : Host.Outcome State Fault Refusal :=
  onDev s fun d =>
    let d1 := advanceTo d now
    match d1.pwr.oneSince with
    | none => d
    | some t =>
      if t + 10000000 ≤ d1.clock ∧ wbit (rget d1 .pwrStatus) 32 = false then
        let d1 := rsetf d1 .pwrStatus 0 0 32 32 1
        if d1.np.on then
          npDecide d1 8 248 (rfield d1 .pwrStatus 0 0 11 0) (capWatts (capCode d1)) 3
        else d1
      else d

/-- TRAY_CAP_WRITE: an I3C write of TRAY_CAP; codes above 64 are ignored. -/
def execTrayCapWrite (code : Nat) (s : State) : Host.Outcome State Fault Refusal :=
  onNp s fun d => if d.np.on ∧ code ≤ 64 then { d with np.trayCap := code } else d

/-! ### Power hints -/

def Hint.stop (h : Hint) : Nat := h.start + 1000 * h.dur

/-- Predicted power of a class (R414, R415). -/
def predicted (d : Dev) (k : Nat) : Nat :=
  match mget [] d.pwr.predictor k with
  | [] =>
    match k with
    | 0 => 1200
    | 1 => 1600
    | 2 => 2600
    | _ => 2800
  | xs => xs.sum / xs.length

/-- START of a hint: L is set to what the predicted power of the class in force allows. -/
def enterHint (d : Dev) (h : Hint) : Dev :=
  let d' := hintsChanged d { d with pwr.hints := d.pwr.hints.map fun x =>
    if x = h then { x with fired := true, inForce := true } else x }
  let d' := if 2 ≤ h.cls then { d' with pwr.soft := [] } else d'
  match classInForce d' with
  | none => d'
  | some k =>
    let (l, clk) := loopRule (capLimit d') (clockTarget d') (predicted d' k) d'.pwr.compute
      (capWatts (capCode d')) (mayBoost d')
    setLoop d' l clk

/-- POWER_HINT: enters a hint. -/
def execPowerHint (q k : Nat) (s : State) : Host.Outcome State Fault Refusal :=
  onDev s fun d => onStarted d q k 0x0701 fun y =>
    let p := partOfQueue d q
    let dur := bits (y.param 1) 31 0
    let h : Hint := ⟨p, y.param 0, dur, bits (y.param 2) 1 0, false, false⟩
    if dur = 0 ∨ 10000000 < dur then finishFree d q k stHintParam
    else
      let rest := d.pwr.hints.filter fun x =>
        !(x.part == p && decide (x.start < h.stop) && decide (h.start < x.stop))
      if 16 ≤ (rest.filter fun x => x.part == p).length then finishFree d q k stHintTableFull
      else
        let d' := hintsChanged d { d with pwr.hints := rest ++ [h] }
        if h.start < d.ns then
          finishFree (enterHint (rcount d' .pwrStatus 0 0 63 48 1) h) q k stHintLate
        else finishFree d' q k stOk

/-- HINT_FIRE: 50 µs before START the rail setpoint rises for MATRIX and FULL; at START the hint is in
force; each in its turn (R300). -/
def execHintFire (p start now : Nat) (s : State) : Host.Outcome State Fault Refusal :=
  onDev s fun d =>
    let d1 := advanceTo d now
    match d1.pwr.hints.find? fun h => h.part == p && h.start == start && !h.inForce with
    | none => d
    | some h =>
      if h.start ≤ d1.ns ∧ inTurnAt d1 h.start .hint then enterHint d1 h
      else if d1.ns < h.start ∧ h.start ≤ d1.ns + 50000 ∧ h.fired = false ∧
          inTurnAt d1 ((h.start : Int) - 50000) .hint then
        hintsChanged d1 { d1 with pwr.hints := d1.pwr.hints.map fun x =>
          if x = h then { x with fired := true } else x }
      else d

/-- HINT_END: the duration is over; the hint is gone. -/
def execHintEnd (p start now : Nat) (s : State) : Host.Outcome State Fault Refusal :=
  onDev s fun d =>
    let d1 := advanceTo d now
    match d1.pwr.hints.find? fun h => h.part == p && h.start == start && decide (h.stop ≤ d1.ns) with
    | none => d
    | some h => hintsChanged d1 { d1 with pwr.hints := d1.pwr.hints.erase h }

/-! ### Power states (R416 to R418) -/

def Power.code : Power → Nat
  | .active => 0
  | .idle => 1
  | .deep => 2
  | .night => 3

/-- The device is in a state, which PWR_STATE_STATUS shows. -/
def setPower (d : Dev) (w : Power) : Dev := rsetf { d with power := w } .pwrStateStatus 0 0 1 0 w.code

/-- Nothing keeps the device from IDLE, for IDLE_US µs. -/
def mayIdle (d : Dev) : Bool :=
  d.power == .active && d.pwr.nightOff.isNone && workless d &&
    decide (d.pwr.busyAt + 1000 * rfield d .pwrStateCtl 0 0 31 16 ≤ d.clock)

/-- IDLE_ENTRY: IDLE_US has passed without work. -/
def execIdleEntry (now : Nat) (s : State) : Host.Outcome State Fault Refusal :=
  onDev s fun d =>
    let d1 := advanceTo d now
    if mayIdle d1 then setPower d1 .idle else d

/-- WAKE: a doorbell, an ENQ, a fabric arrival for a command or a scheduled event. -/
def execWake (now : Nat) (s : State) : Host.Outcome State Fault Refusal :=
  onDev s fun d =>
    if (d.power = .idle ∨ d.power = .deep) ∧ d.pwr.nightOff.isNone then setPower (advanceTo d now) .active
    else d

/-- Every queue is OFF. -/
def queuesOff (d : Dev) : Bool := d.hub.queues.all fun e => e.2.state == .off

/-- Asks the companion to give up every line it holds. -/
def emptyFilter (d : Dev) : Dev :=
  d.rnl.filter.foldl (fun d x =>
    (List.range 16).foldl (fun d i =>
      if x.s.testBit i ∨ x.m.testBit i then sendSnoop d (x.num * 1024 + 64 * i) true else d) d) d

/-- Nothing is outstanding on the link, and the companion holds no line. -/
def linkQuiet (d : Dev) : Bool :=
  d.rnl.filter.isEmpty && d.rnl.snoops.isEmpty && d.rnl.reqs.isEmpty && d.rnl.rspQ.isEmpty &&
    d.rnl.devReqs.isEmpty && d.rnl.reqQ.isEmpty && d.rnl.mgtQ.isEmpty

/-- The device wakes from NIGHT into its boot sequence (R417); with DRAM kept a scrub that lags is FORCED
(R187). PWR_STATE_STATUS shows NIGHT, as last entered. -/
def nightWake (d : Dev) : Dev :=
  let off := wbit (rget d .pwrStateStatus) 2
  let d := restartChip { d with rnl.wasUp := false } (!off) (rget d .chipPartCfg)
  let late (c : Nat) : Bool := mget 0 d.mem.scrubPeriod c != 0 && decide (0x3000000 < scrubLag d c)
  let d := if off then d
    else (List.range 24).foldl showForced
      { d with mem.chanWiped := List.range 384, mem.scrubForced := (List.range 384).filter fun c =>
        d.mem.scrubForced.contains c || late c }
  rsetf (rsetf d .pwrStateStatus 0 0 1 0 3) .pwrStateStatus 0 0 2 2 off.toNat

/-- The device enters NIGHT: L2, ports DOWN, DRAM kept or off. -/
def enterNight (d : Dev) (off : Bool) : Dev :=
  let d := if linkState d = 4 ∨ linkState d = 6 then setLink d 7 else d
  let d := (List.range 32).foldl (fun d i => portDown d i .down) (qcDrain d)
  let d := setPower (rsetf d .pwrStateStatus 0 0 2 2 off.toNat) .night
  let d := { d with
    np.timeHeld := d.np.on
    pwr.nightOff := none
    mem.bytes := if off then [] else d.mem.bytes }
  if d.pwr.wakeHeld then nightWake d else d

/-- Goes on towards NIGHT, or waits for the link. -/
def nightStep (d : Dev) : Dev :=
  match d.pwr.nightOff with
  | none => d
  | some off =>
    if linkKept d ∧ linkQuiet d = false then emptyFilter d
    else if linkKept d ∧ linkUp d = false ∧ linkState d ≠ 6 then d
    else enterNight d off

/-- A request for NIGHT (R417); one already accepted goes on. -/
def requestNight (d : Dev) (off : Bool) : Dev :=
  if d.pwr.nightOff.isSome then nightStep d
  else if queuesOff d then nightStep { d with pwr.nightOff := some off }
  else rcount d .pwrStateStatus 0 0 23 8 1

/-- The device enters DEEP: Quarter Caches are written back, and what the tiles' power gate does not keep, their
L1 caches and translation buffers, is lost (Table PWR-4). -/
def enterDeep (d : Dev) : Dev :=
  let d := qcDrain d
  setPower { d with tiles.l1 := [], mem.tlb := mkeep (fun k => decide (64 ≤ k / 2 ^ 44)) d.mem.tlb } .deep

/-- A write of PWR_STATE_CTL. During the entry to NIGHT a request waits until that has ended; there ACTIVE and
DEEP have no effect (R418, Table PWR-4). -/
def writeStateCtl (d : Dev) (v : Word) : Dev :=
  let n := wbits v 31 16
  let d := if n = 0 then d else rsetf d .pwrStateCtl 0 0 31 16 n
  match wbits v 1 0 with
  | 1 => if d.power = .deep ∧ d.pwr.nightOff.isNone then setPower d .active else d
  | 2 => if d.power = .idle ∧ d.pwr.nightOff.isNone then enterDeep d else d
  | 3 => requestNight d (wbit v 2)
  | _ => d

def execStateReqActive (v : Word) (s : State) : Host.Outcome State Fault Refusal :=
  onDev s fun d => if wbits v 1 0 = 1 then writeStateCtl d v else d

def execStateReqDeep (v : Word) (s : State) : Host.Outcome State Fault Refusal :=
  onDev s fun d => if wbits v 1 0 = 2 then writeStateCtl d v else d

def execStateReqNight (v : Word) (now : Nat) (s : State) : Host.Outcome State Fault Refusal :=
  onDev s fun d => if wbits v 1 0 = 3 then writeStateCtl (advanceTo d now) v else d

/-- I3C_STATE_REQ_NIGHT: STATE_REQ 1 (KEEP) or 2 (OFF). -/
def execI3cStateReqNight (off : Bool) (now : Nat) (s : State) : Host.Outcome State Fault Refusal :=
  onDev s fun d => if d.np.on then requestNight (advanceTo d now) off else d

/-- A wake source: during entry it is held until NIGHT is reached. -/
def wakeSource (d : Dev) : Dev :=
  if d.power = .night then nightWake d
  else if d.pwr.nightOff.isSome then { d with pwr.wakeHeld := true }
  else d

/-- I3C_STATE_REQ_WAKE: STATE_REQ 3. -/
def execI3cStateReqWake (now : Nat) (s : State) : Host.Outcome State Fault Refusal :=
  onNp s fun d => if d.np.on then wakeSource (advanceTo d now) else d

/-- NIGHT_WAKE: campus time has reached NP_WAKE_TIME. -/
def execNightWake (now : Nat) (s : State) : Host.Outcome State Fault Refusal :=
  onNp s fun d =>
    let d1 := advanceTo d now
    let t := (rget d .npWakeTime).toNat
    if d.np.on ∧ t ≠ 0 ∧ t ≤ d1.ns ∧ d.tripped = false then wakeSource d1 else d

/-- TELEMETRY_SAMPLE: the counters and registers are sampled where they stand, in turn (R300). -/
def execTelemetrySample (now : Nat) (s : State) : Host.Outcome State Fault Refusal :=
  onDev s fun d =>
    let d1 := advanceTo d now
    if inTurnAt d1 d1.ns .telemetry then d1 else d

end Sys2Proof.Machine
end

