-- ==== Sys2Proof/Machine/NightPorter.lean ====
section
/-!
DEFINITION. The Night Porter and the package's control pins (R183, R184, R419 to R423, R451 to R459).
-/

namespace Sys2Proof.Machine

/-! ### Sensors (R419) -/

/-- Puts a value into its place among rising ones. -/
def insertInt (x : Int) : List Int → List Int
  | [] => [x]
  | y :: ys => if x ≤ y then x :: y :: ys else y :: insertInt x ys

/-- The median of five samples. -/
def median5 (xs : List Int) : Option Int :=
  if xs.length = 5 then (xs.foldr insertInt [])[2]? else none

/-- The filtered value of a sensor. -/
def filtered (d : Dev) (i : Nat) : Option Int := median5 (mget [] d.np.samples i)

/-- Takes one sample of each sensor; a sensor that is silent loses its history. -/
def takeSamples (d : Dev) (rs : List (Option Int)) : Dev :=
  (List.range 249).foldl (fun d i =>
    let xs := match (rs.getD i none) with
      | some v => (v :: mget [] d.np.samples i).take 5
      | none => []
    { d with np.samples := mset [] d.np.samples i xs }) d

def stackSensors (s : Nat) : List Nat := (List.range 4).map (64 + 4 * s + ·)

/-- The highest of some values. -/
def maxInt : List Int → Option Int
  | [] => none
  | x :: xs => some (xs.foldl max x)

/-- The temperature of a stack in 1/16 °C (R183): with every sensor silent, 95 °C (R184). -/
def stackTemp (d : Dev) (s : Nat) (silent : Bool) : Option Int :=
  if silent then some 1520 else maxInt ((stackSensors s).filterMap (filtered d))

/-! ### Marks of decisions and conditions in force -/

def npMark (code i : Nat) : Nat := code * 1024 + i
def marked (d : Dev) (m : Nat) : Bool := d.np.taken.contains m

/-- Sets or clears a mark. -/
def setMark (d : Dev) (m : Nat) (on : Bool) : Dev :=
  { d with np.taken := if on then (if (d.np.taken.contains m) then d.np.taken else d.np.taken ++ [m])
      else d.np.taken.filter (· ≠ m) }

/-- A decision taken when its condition begins to hold. -/
def onEdge (d : Dev) (m : Nat) (holds : Bool) (act : Dev → Dev) : Dev :=
  if holds ∧ marked d m = false then act (setMark d m true)
  else if holds then d else setMark d m false

/-- Since when a condition has held. -/
def holdSince (d : Dev) (m : Nat) (holds : Bool) : Dev :=
  if holds then
    match d.np.since.find? fun e => e.1 == m with
    | some _ => d
    | none => { d with np.since := mput d.np.since m d.clock }
  else { d with np.since := merase d.np.since m }

/-- A condition has held for `t` ns. -/
def heldFor (d : Dev) (m t : Nat) : Bool :=
  match d.np.since.find? fun e => e.1 == m with
  | some (_, s) => decide (s + t ≤ d.clock)
  | none => false

/-! ### Stacks (R183, R184, Table MEM-5) -/

/-- The row of Table MEM-5 from 90 °C on, with 1 °C of hysteresis. -/
def throttleRow (prev : Nat) (t : Int) : Nat :=
  ((List.range 6).map fun (i : Nat) =>
    let at_ : Int := 16 * (90 + (i : Int))
    if at_ ≤ t ∨ (i + 1 ≤ prev ∧ at_ - 16 < t) then i + 1 else 0).foldl max 0

/-- What a stack's temperature does: refresh, throttle row, and decisions 0x01, 0x02 and 0x09. -/
def stackActs (rs : List (Option Int)) (d : Dev) (s : Nat) : Dev :=
  let silent := (stackSensors s).all fun i => (rs.getD i none).isNone
  match stackTemp d s silent with
  | none => if d.live then rsetf (rsetf d .mcStatus s 0 18 18 1) .mcStatus s 0 50 48 0 else d
  | some t =>
    let row := throttleRow (rfield d .mcStatus s 0 50 48) t
    let hot : Bool := decide (1360 < t) || (wbit (rget d .mcStatus s) 18 && decide (1328 < t))
    let d := if d.live then
        rsetf (rsetf (rsetf d .mcStatus s 0 18 18 hot.toNat) .mcStatus s 0 50 48 row) .mcStatus s 0 47 32 (wrapN 16 t)
      else d
    let i := 64 + 4 * s
    let d := onEdge d (npMark 9 s) silent fun d => npDecide d 9 i t 1520 3
    let d := onEdge d (npMark 1 s) (decide (1520 ≤ t) || (marked d (npMark 1 s) && decide (1504 < t))) fun d =>
      npDecide d 1 i t 1520 0
    let d := holdSince d (npMark 2 s) (decide (1520 ≤ t))
    onEdge d (npMark 2 s) (heldFor d (npMark 2 s) 1000000000 || (marked d (npMark 2 s) && decide (1504 ≤ t)))
      fun d => npDecide d 2 i t 1520 3

/-- Quarters whose tiles are held by decision 0x02. -/
def heldQuarters (d : Dev) : List Nat :=
  (List.range 4).filter fun q => (List.range 6).any fun s => marked d (npMark 2 (6 * q + s))

/-! ### Tiles (R410, Table PWR-2) -/

/-- Thermal limit of a tile, with 2 °C of hysteresis. -/
def tileLimit (prev : Nat) (t : Int) : Nat :=
  if 1728 ≤ t ∨ (prev ≤ 8 ∧ 1696 < t) then 8
  else if 1680 ≤ t ∨ (prev ≤ 32 ∧ 1648 < t) then 32
  else 64

def tileActs (d : Dev) (t : Nat) : Dev :=
  match filtered d t with
  | none => d
  | some v =>
    let hot : Bool := decide (1600 ≤ v) || (marked d (tileHotMark t) && decide (1568 < v))
    let d := setMark d (tileHotMark t) hot
    if d.live then rsetf d .pwrTileLim 0 t 22 16 (tileLimit (tileTempLimit d t) v) else d

/-- Decision 0x03: every clock stops and THERMTRIP_N goes low. -/
def thermalTrip (d : Dev) (rs : List (Option Int)) : Dev :=
  let tile := (List.range 64).find? fun t => ((filtered d t).map fun v => decide (1760 ≤ v)).getD false
  let stack := (List.range 24).find? fun s =>
    let silent := (stackSensors s).all fun i => (rs.getD i none).isNone
    ((stackTemp d s silent).map fun v => decide (1568 ≤ v)).getD false
  let trip (d : Dev) (i : Nat) (v limit : Int) : Dev :=
    { npDecide (setMark d (npMark 3 0) true) 3 i v limit 2 with tripped := true, pins.thermtripN := false }
  if marked d (npMark 3 0) then d
  else
    match tile, stack with
    | some t, _ => trip d t ((filtered d t).getD 0) 1760
    | none, some s => trip d (64 + 4 * s) ((stackTemp d s false).getD 0) 1568
    | none, none => d

/-! ### Rails and lasers -/

/-- Nominal voltage in mV of the core and DRAM rails by monitor number (Table PKG-1). -/
def railNominal (m : Nat) : Int :=
  if m < 4 ∨ m = 16 then 750 else if m < 8 then 800 else if m < 12 then 1100 else 1800

/-- Decision 0x04: a core or DRAM rail outside ±5 % for 3 samples. -/
def railActs (d : Dev) (m : Nat) : Dev :=
  match filtered d (160 + m) with
  | none => d
  | some v =>
    let out : Bool := decide (railNominal m < 20 * (v - railNominal m).natAbs)
    let k := npMark 4 m
    let n := if out then mget 0 d.np.since k + 1 else 0
    let d := { d with np.since := if n = 0 then merase d.np.since k else mput d.np.since k n }
    onEdge d k (decide (3 ≤ n)) fun d =>
      npDecide d 4 (160 + m) v (if v < railNominal m then railNominal m * 95 / 100 else railNominal m * 105 / 100) 1

/-- Decision 0x05: a laser input within 1 dB of its minimum for 10 s. -/
def laserActs (d : Dev) (n : Nat) : Dev :=
  match filtered d (184 + n) with
  | none => d
  | some v =>
    let low := laserMin d (n / 8) + 4
    let k := npMark 5 n
    let d := holdSince d k (decide (v < low))
    onEdge d k (heldFor d k 10000000000) fun d => npDecide d 5 (184 + n) v low 0

/-- NP_SAMPLE: one sample of the 249 sensors, `none` for one that is silent, and the decisions that
follow. -/
def execNpSample (readings : List (Option Int)) (now : Nat) (s : State) : Host.Outcome State Fault Refusal :=
  onNp s fun d =>
    if d.np.on = false then d
    else
      let d := takeSamples (advanceTo d now) readings
      let d := (List.range 24).foldl (stackActs readings) d
      let d := (List.range 64).foldl tileActs d
      let d := { d with pwr.held := heldQuarters d }
      let d := (List.range 17).foldl railActs d
      let d := (List.range 64).foldl laserActs d
      let top (xs : List Int) : Nat := wrapN 16 ((maxInt xs).getD 0)
      let hotS := top ((List.range 96).filterMap fun i => filtered d (64 + i))
      let hotT := top ((List.range 64).filterMap (filtered d))
      let d := rsetf (rsetf d .npStatus 0 0 47 32 hotS) .npStatus 0 0 63 48 hotT
      thermalTrip d readings

/-! ### The Night Porter's own start and end (R184, R423, R451, R454, R457) -/

/-- Registers of the NP block at their reset values. -/
def clearNpRegs (d : Dev) : Dev :=
  { d with regs := d.regs.filter fun e => ((regOf e.1).map fun r => r.info.blk != .np).getD true }

/-- NP_START: VDD_NP is in range. TRAY_POS is read; refresh runs at 6/128 until a stack has a filtered
sample. -/
def execNpStart (pos now : Nat) (s : State) : Host.Outcome State Fault Refusal :=
  onNp s fun d =>
    if d.np.on then d
    else
      let d := clearNpRegs (advanceTo d now)
      let d := { d with np := { Np.reset with pos := pos % 4 } }
      if d.live then (List.range 24).foldl (fun d i => rsetf d .mcStatus i 0 18 18 1) d else d

/-- VDD_NP_LOST: the Night Porter's state, alarms, TRAY_CAP, HB and held campus time are gone, and
THERMTRIP_N is released. -/
def execVddNpLost (now : Nat) (s : State) : Host.Outcome State Fault Refusal :=
  onNp s fun d =>
    let d := clearNpRegs (advanceTo d now)
    { d with
      np := { Np.reset with on := false }
      pins.thermtripN := true
      tripped := d.tripped && d.pins.railGood }

/-- The device power state that the Night Porter shows: NIGHT while RAIL_GOOD is low (Tables PWR-5, PKG-5). -/
def npState (d : Dev) : Nat := if d.pins.railGood then d.power.code else 3

/-- What private reads return from offset 0x00 on; reserved offsets, and STATE_REQ, read 0 (Table PWR-5,
log 163). -/
def i3cBytes (d : Dev) : List Byte :=
  leBytes 4 (rfield d .npStatus 0 0 31 0) ++ leBytes 1 (npState d) ++ leBytes 1 d.np.lastIbi ++
    leBytes 2 (wbits (rget d .npAlarm) 15 0) ++ leBytes 2 d.np.trayCap ++
    leBytes 2 (rfield d .npStatus 0 0 47 32) ++ leBytes 2 (rfield d .npStatus 0 0 63 48) ++
    leBytes 2 (wrapN 16 ((filtered d 248).getD 0))

/-- The 48-bit provisional ID (R457). -/
def daaPid (d : Dev) : Nat := 0x5A31 * 2 ^ 33 + 0x4824 * 2 ^ 16 + d.np.pos * 2 ^ 12

/-- ENTDAA: the tray controller assigns a dynamic address. -/
def execEntdaa (addr : Nat) (s : State) : Host.Outcome State Fault Refusal :=
  onNp s fun d =>
    if d.np.on then emit { d with np.addr := some addr } (.daa (daaPid d) addr) else d

/-- No core or optical rail has a filtered value outside its operating range of ±3 % (R422, Table PKG-1). -/
def railsWithin (d : Dev) : Bool :=
  (List.range 19).all fun m =>
    let nominal : Int := if m = 17 then 900 else railNominal m
    (decide (8 ≤ m) && decide (m < 16)) ||
      ((filtered d (160 + m)).map fun v => decide (100 * (v - nominal).natAbs ≤ 3 * nominal.natAbs)).getD true

/-- PWR_FAIL_N: every tile is held at 1/64, boost is removed, and, with the core and optical rails within
limits, LAST_GASP leaves on every UP port; with no port UP it is only recorded (R422, R453). -/
def execPwrFailN (now : Nat) (s : State) : Host.Outcome State Fault Refusal :=
  onNp s fun d =>
    if d.np.on = false ∨ d.np.failAsserted then d
    else
      let d := npDecide (advanceTo d now) 7 noSensor 0 0 0
      let d := { d with np.failAsserted := true }
      if d.live ∧ (List.range 32).any (portUp d) then
        let d := setLoop { d with pwr.failHold := true } (capLimit d) (min 2000 (clockTarget d))
        if railsWithin d then (List.range (partCount d)).foldl (fun d p => lastGasp d p 1) d else d
      else d

/-! ### RAIL_GOOD, CHIP_RESET_N, the test port (R451 to R453, R459) -/

/-- Everything but the Night Porter loses power: it comes back at its power-up state. A thermal trip stays
until VDD_NP is removed (R454). -/
def railsFall (d : Dev) : Dev :=
  let d := powerUp { d with np.timeHeld := d.np.on, tripped := d.tripped && d.np.on }
  { d with pins.railGood := false, pins.resetHeld := true }

/-- RAIL_GOOD: it rises to end the hold, or falls and stops every clock; `railsOut` tells whether a rail
then lies outside ±5 %. -/
def execRailGood (level railsOut : Bool) (now : Nat) (s : State) : Host.Outcome State Fault Refusal :=
  onNp s fun d =>
    let d := advanceTo d now
    if level then { d with pins.railGood := true }
    else if d.pins.railGood then
      let d := railsFall d
      if railsOut && d.np.on then npDecide d 4 noSensor 0 0 0 else d
    else d

/-- The chip reset that the pin starts: no dump and no hold. Commands in flight complete as in any chip
reset, with the replies that can be written at once. -/
def pinReset (d : Dev) : Dev :=
  let ps := List.range (partCount d)
  let d := if d.live then ps.foldl postReplies (ps.foldl (fun d p => beginPart d p 3) d) else d
  let head := { DumpHead.empty with cause := 4, time := d.ns }
  let off := d.power == .night && wbit (rget d .pwrStateStatus) 2
  let d := chipReset d ⟨4, 4, .due, d.clock, head, rget d .chipPartCfg⟩
  if off then rsetf d .pwrStateStatus 0 0 2 2 1 else d

/-- CHIP_RESET_N: `low` is the level now. Low for `held` ns, 10 µs or more, it starts a chip reset, which
lasts while the pin is low; the rising edge starts the boot. A pulse below 1 µs is ignored; one between 1 and
10 µs resets the chip or not. -/
def execChipResetN (low : Bool) (held now : Nat) (s : State) : Host.Outcome State Fault Refusal :=
  onNp s fun d =>
    let d := advanceTo d now
    if d.pins.railGood = false then d
    else if low then
      if 10000 ≤ held ∧ d.pins.resetHeld = false then
        let d := pinReset d
        { d with pins.resetHeld := true }
      else d
    else if d.pins.resetHeld then { d with pins.resetHeld := false }
    else if held < 1000 then d
    else
      let (b, d') := if 10000 ≤ held then (true, d) else freeBit d
      if b then pinReset d' else d'

/-- An instruction of the test port; every code but those of R459 is BYPASS (log 10). -/
def Jtag.of : Nat → Jtag
  | 1 => .idcode
  | 2 => .sample
  | 3 => .extest
  | 4 => .clamp
  | 5 => .highz
  | _ => .bypass

/-- JTAG_INSTRUCTION: in DEPLOYED without scope SCAN only BYPASS and IDCODE act (Table BOT-5). A
new state takes effect at the boot that follows its burn (R437). -/
def execJtagInstruction (code : Nat) (s : State) : Host.Outcome State Fault Refusal :=
  onNp s fun d =>
    let i := Jtag.of code
    let st := if bootStage d = 0 then s.fuses.state else rfield d .secLcStatus 0 0 1 0
    let open_ : Bool := st != 2 || (rfield d .secLcStatus 0 0 26 24).testBit 1
    { d with pins.jtag := if open_ || i == .idcode then i else .bypass }

/-- IDCODE (R459). -/
def idCode : Nat := 0x148241A7

end Sys2Proof.Machine
end

