-- ==== Sys2Proof/Machine/Scrub.lean ====
section
/-!
DEFINITION. The background scrub (R185 to R187). While the hub sleeps in NIGHT its commands are turned
away, so the scrub pauses and its period runs on (R187).
-/

namespace Sys2Proof.Machine

/-- Physical address of granule `g` of a channel (R26). -/
def granulePa (chan g : Nat) : Nat := chan / 96 * quarterBytes + (g * 96 + chan % 96) * 1024

/-- A pass runs on the channel: it is in service and its wipe is done (R185, R188). -/
def scrubRuns (d : Dev) (chan : Nat) : Bool :=
  mget 0 d.mem.scrubPeriod chan != 0 && d.mem.chanTrained.contains chan && d.mem.chanWiped.contains chan &&
    !d.mem.chanFailed.contains chan

/-- An error pattern after the decoder has corrected one symbol of the word. -/
def LineErr.fix (e : LineErr) (i v : Nat) : LineErr :=
  if i < 32 then { e with data := e.data ^^^ BitVec.ofNat 512 (v * 2 ^ (16 * i)) }
  else { e with chk := e.chk ^^^ BitVec.ofNat 64 (v * 2 ^ (16 * (i - 32))) }

/-- Checks one data line at its controller (R185, Table MEM-3): a single symbol is corrected in place, any
other error is counted and reported and the line left as it is. -/
def scrubLine (d : Dev) (pa : Nat) : Dev :=
  let f := (findLine d pa).1
  let d := reportLine d pa f true
  match f with
  | .corrected _ =>
    let e := mget noErr d.mem.lineErr pa
    match rsDecode e.symbols with
    | .fixed i v => { d with mem.lineErr := mset noErr d.mem.lineErr pa (e.fix i v) }
    | _ => d
  | _ => d

/-- The 16 lines of a granule: those that hold data of a band that is not busy. -/
def granuleLines (d : Dev) (pa : Nat) : List Nat :=
  if isBusy d (bandOf pa) ∨ dataLen (isCorrect d (bandOf pa)) ≤ pa % bandBytes then []
  else (List.range 16).map (pa + 64 * ·)

/-- Passes completed by every channel of a stack. -/
def stackPasses (d : Dev) (stack : Nat) : Nat :=
  (List.range 16).foldl (fun n c => min n (mget 0 d.mem.scrubPasses (16 * stack + c)))
    (mget 0 d.mem.scrubPasses (16 * stack))

/-- The pass of a channel ends and the next one begins (R185); the counts of its lines start anew
(R181). -/
def nextPass (d : Dev) (chan : Nat) : Dev :=
  let stack := chan / 16
  let before := stackPasses d stack
  let d := { d with
    mem.scrubPasses := mset 0 d.mem.scrubPasses chan (mget 0 d.mem.scrubPasses chan + 1)
    mem.corrCnt := d.mem.corrCnt.filter fun e => (channelOf e.1).1 != chan }
  let d := if before < stackPasses d stack then rset d .mcScrubLast stack 0 (toW d.ns) else d
  beginScrub d [chan]

/-- SCRUB_GRANULE: the channel's scrub reads and checks its next granule (R185, R186). -/
def execScrubGranule (chan now : Nat) (s : State) : Host.Outcome State Fault Refusal :=
  onDev s fun d =>
    let d := advanceTo d now
    if scrubRuns d chan then
      let g := mget 0 d.mem.scrubPos chan
      let d := (granuleLines d (granulePa chan g)).foldl scrubLine d
      let d :=
        if g + 1 = scrubGranules then nextPass d chan
        else { d with mem.scrubPos := mset 0 d.mem.scrubPos chan (g + 1) }
      let d :=
        if scrubLag d chan ≤ 0x1000000 then
          { d with mem.scrubForced := d.mem.scrubForced.filter (· ≠ chan) }
        else d
      showForced d (chan / 16)
    else d

/-- SCRUB_FORCED: the scrub lags its target by more than 48 MiB (R186). -/
def execScrubForced (chan now : Nat) (s : State) : Host.Outcome State Fault Refusal :=
  onDev s fun d =>
    let d := advanceTo d now
    if scrubRuns d chan = true ∧ 0x3000000 < scrubLag d chan ∧ d.mem.scrubForced.contains chan = false then
      showForced { d with mem.scrubForced := d.mem.scrubForced ++ [chan] } (chan / 16)
    else d

end Sys2Proof.Machine
end

