-- ==== Sys2Proof/Machine/Accept.lean ====
section
/-!
DEFINITION. How the hub takes a command from its ring and hands it to its engine: the acceptance checks of
Table CMD-5 (R21, R336, R337, R349), the effects of acceptance (R223, R401, R437), and arbitration
(R340, R346, R352, R370, R392).
-/

namespace Sys2Proof.Machine

/-! ### The opcode list (Tables CMD-8 and BOT-7) -/

/-- High byte of ENGINE (Table CMD-7), and the status of a command that carries REPLAYABLE where the opcode
does not permit it; `none` for a reserved opcode. -/
def opcodeInfo (op : Nat) : Option (Nat × Option Nat) :=
  match op with
  | 0x0001 | 0x0203 | 0x0205 | 0x0207 | 0x0301 | 0x0302 | 0x0303 | 0x0304 | 0x0A01 | 0x0A02 => some (0, none)
  | 0x0002 | 0x0206 => some (0, some stCommandNotReplayable)
  | 0x0101 | 0x0102 | 0x0108 => some (1, none)
  | 0x0110 | 0x0111 => some (5, none)
  | 0x0201 => some (2, none)
  | 0x0401 | 0x0402 | 0x0403 => some (3, some stPageNotReplayable)
  | 0x0404 => some (0x0A, some stPageNotReplayable)
  | 0x0501 | 0x0502 => some (4, none)
  | 0x0503 => some (4, some stCommandNotReplayable)
  | 0x0601 | 0x0602 | 0x0603 | 0x0604 => some (6, none)
  | 0x0701 | 0x0702 => some (7, none)
  | 0x0801 => some (8, none)
  | 0x0901 => some (9, none)
  | 0x0902 | 0x0903 | 0x0904 | 0x0905 | 0x0906 | 0x0907 => some (9, some stCommandNotReplayable)
  | 0x0A03 | 0x0A04 => some (0x0A, some stCommandNotReplayable)
  | _ => none

/-- A SEM_SIGNAL that leaves the chip (R343). -/
def remoteSignal (y : Cmd) : Bool := y.opcode == 0x0301 && y.param 2 % 2 ^ 20 != 0

/-- Check 5 of Table CMD-5: REPLAYABLE is permitted. -/
def replayCheck (y : Cmd) : Nat :=
  if y.replayable = false then stOk
  else if remoteSignal y then stCommandNotReplayable
  else
    match opcodeInfo y.opcode with
    | some (_, some st) => st
    | _ => stOk

/-! ### Ownership (R21) -/

/-- The owner of a physical address: a DRAM address belongs to its quarter's partition, any other address is
no partition's for this check. -/
def partOfPa (d : Dev) (p pa : Nat) : Nat :=
  match regionOf pa with
  | .dram q => partOfQuarter d q
  | _ => p

/-- The owners of a run of frames, as far as the frames exist. -/
def partsOfFrames (d : Dev) (p first n : Nat) : List Nat :=
  if n = 0 then []
  else [first, min (first + n - 1) 524287].map fun f => if f < 524288 then partOfFrame d f else p

/-- The frame list that a command names, once it is read: address and count, for a count that a list of
distinct frames can have (Table ATT-8). -/
def frameList (y : Cmd) : Option (Nat × Nat) :=
  let n := if y.opcode = 0x0404 then y.param 1 else y.param 2
  if (y.opcode = 0x0404 ∨ (y.opcode = 0x0401 ∧ y.param 1 % 4 = 3)) ∧ 0 < n ∧ n ≤ 524288 then some (y.param 0, n)
  else none

/-- The owners of the frames of a list; frames that do not exist are no partition's. -/
def partsOfList (d : Dev) (p : Nat) (fs : List Nat) : List Nat :=
  fs.map fun f => if f < 524288 then partOfFrame d f else p

/-- The owner of an engine that DUMP names (R369). -/
def partOfEngine (d : Dev) (p e : Nat) : Nat :=
  match e / 256 with
  | 1 | 5 => if e % 256 < 4 then partOfQuarter d (e % 256) else p
  | 2 => if e % 256 < 64 then partOfTile d (e % 256) else p
  | _ => p

/-- The partitions that own what a command of partition `p` names; the frames of a list are kept in the
command as they were read (R21, R206). -/
def namedParts (d : Dev) (p : Nat) (y : Cmd) : List Nat :=
  let group (w : Nat) : Nat := partOfGroup d (w % 4096)
  let sem (w : Nat) : Nat := partOfSem d (w % 131072)
  match y.opcode with
  | 0x0002 => [partOfQueue d (y.param 0 % 262144)]
  | 0x0108 => [partOfPa d p (y.param 0), partOfPa d p (y.param 0 + (y.param 1 - 1) * bandBytes)]
  | 0x0110 | 0x0111 => (y.tracked.map fun n => partOfQuarter d (n / 1024)).toList
  | 0x0201 => [partOfTile d (launchTile y)]
  | 0x0205 => [partOfAsid d (y.param 0 % 4096)]
  | 0x0206 => [partOfQuarter d (y.param 0 % 4096 / 1024)]
  | 0x0301 => if remoteSignal y then [] else [sem (y.param 0)]
  | 0x0302 | 0x0304 => [sem (y.param 0)]
  | 0x0401 =>
    match y.param 1 % 4 with
    | 0 => [partOfQuarter d (bits (y.param 1) 3 2)]
    | 1 => []
    | 2 => partsOfFrames d p (y.param 0) (y.param 2) ++ [partOfPa d p (y.param 3), partOfPa d p (y.param 4)]
    | _ => [group (y.param 3), sem (y.param 4)] ++ partsOfList d p y.aux2
  | 0x0403 =>
    match y.param 1 % 4 with
    | 0 => []
    | 1 | 2 => [group (y.param 3)]
    | _ => partsOfFrames d p (y.param 0) (y.param 2)
  | 0x0404 => group (y.param 2) :: partsOfList d p y.aux2
  | 0x0501 => [group (y.param 0)]
  | 0x0502 => [group (y.param 0), partOfPa d p (y.param 2), partOfPa d p (y.param 3)]
  | 0x0503 => group (y.param 0) :: if bit (y.param 0) 18 then [] else [partOfPa d p (y.param 1)]
  | 0x0601 => [sem (y.param 4)]
  | 0x0702 => [sem (y.param 3)]
  | 0x0801 => if y.param 0 % 4 = 0 then [partOfEngine d p (y.param 1 % 65536)] else []
  | 0x0A01 => [group (y.param 0)]
  | 0x0A03 =>
    [partOfPa d p (y.param 0), partOfPa d p (y.param 1), group (y.param 3), group (y.param 3 / 65536),
      sem (y.param 4), sem (y.param 4 / 2 ^ 32)]
  | _ => []

/-! ### Reserved fields -/

def allBits : Nat := 2 ^ 64 - 1

/-- The bits of parameters 0 to 5 that an opcode defines; a parameter that is left out is reserved. -/
def paramMasks (y : Cmd) : List Nat :=
  let mode := y.param 1 % 4
  match y.opcode with
  | 0x0001 => [allBits]
  | 0x0002 => [0x3FFFF, 0x7]
  | 0x0101 | 0x0102 => [allBits, allBits, allBits]
  | 0x0108 => [allBits, allBits, 0x1]
  | 0x0110 => [allBits, allBits, allBits, 0x37, 0x1FFF, allBits]
  | 0x0111 => [allBits, allBits, allBits, 0x1, 0x1FFF]
  | 0x0201 => [allBits, allBits, allBits, allBits, allBits, 0x3FF]
  | 0x0203 => [0xFF, allBits, allBits]
  | 0x0205 => [0xFFF, allBits, allBits]
  | 0x0206 => if mode = 0 then [0xFFF, 0x73, allBits, 0xFFFFFFFF] else [0xFFF, 0x3]
  | 0x0207 => [allBits, allBits, allBits]
  | 0x0301 => [0x1FFFF, allBits, 0xFFFFF]
  | 0x0302 | 0x0304 => [0x1FFFF, allBits]
  | 0x0303 => [0xFFF3F]
  | 0x0401 =>
    match mode with
    | 0 => [allBits, 0x1F]
    | 1 => [allBits, 0x3]
    | 2 => [allBits, 0x3, allBits, allBits, allBits]
    | _ => [allBits, 0x3, allBits, 0x1FFF, 0x1FFFF, 0x1FFFF]
  | 0x0402 => [allBits, allBits, allBits]
  | 0x0403 =>
    match mode with
    | 0 | 3 => [allBits, 0x3, allBits]
    | _ => [0, 0x3, 0, 0x1FFF]
  | 0x0404 => [allBits, allBits, 0x7FFF00001FFF]
  | 0x0501 => [0xFFF, 0xFFFFFFFF, allBits, allBits]
  | 0x0502 => [0xFFF, 0xFFFFFFFF, allBits, allBits]
  | 0x0503 =>
    if bit (y.param 0) 18 then [allBits, allBits, allBits, allBits, allBits, allBits]
    else [0x30FFF, 0xFFFFFFFFFFFF, 0xFFFFFFFF, 0xFFFFFFFF, allBits]
  | 0x0601 => [allBits, 0xFFFFFFFFF, allBits, 0xFFFFFFFFFF, 0xFFFF0001FFFF, allBits]
  | 0x0602 => [0xFFFFFFFF, allBits]
  | 0x0603 => [0xF13, 0xFFFFFFFFFF, 0xFFFFFFFF, allBits, 0x1F, allBits]
  | 0x0604 =>
    if y.param 0 % 4 = 1 then [0x3]
    else [0x3, 0xFFFFFFFFFFFFFFF, 0xFFFFFFFF, allBits, 0xFFFFFFFF0000001F, allBits]
  | 0x0701 => [allBits, 0xFFFFFFFF, 0x3]
  | 0x0702 => [allBits, 0xFFFFFFFF, allBits, 0x1FFFF, 0x1]
  | 0x0801 => if y.param 0 % 4 = 0 then [0x3, 0xFFFFF] else [0x3]
  | 0x0901 => [allBits, allBits, allBits]
  | 0x0902 | 0x0903 | 0x0907 => [allBits]
  | 0x0905 => [0x3, allBits, allBits]
  | 0x0A01 => [0x10FFF, allBits]
  | 0x0A02 => [allBits, allBits]
  | 0x0A03 => [allBits, allBits, allBits, 0xFFF0FFF, 0x1FFFF0001FFFF, allBits]
  | 0x0A04 => [allBits, allBits, 0xFFFFFFFFFFFFF, allBits, allBits]
  | _ => []

/-- Some reserved bit of a parameter is set. -/
def paramReserved (y : Cmd) : Bool :=
  (List.range 6).any fun i => y.param i &&& (allBits - (paramMasks y).getD i 0) != 0

/-- The status of a set reserved bit: PARAM_RESERVED unless the chapter names another (R206, R224, R231,
R336). -/
def reservedStatus (op : Nat) : Nat :=
  match op with
  | 0x0401 | 0x0402 | 0x0403 | 0x0404 => stPageModeInvalid
  | 0x0110 | 0x0111 | 0x0206 => stSatchelParam
  | _ => stParamReserved

/-! ### Parameter checks (check 7 of Table CMD-5) -/

/-- COPY and FILL (R351). -/
def moveCheck (src : Option Nat) (dst len : Nat) : Nat :=
  if len % 64 ≠ 0 ∨ len < 64 ∨ 2 ^ 40 < len ∨ dst % 64 ≠ 0 ∨ (src.getD 0) % 64 ≠ 0 then stAddrRange
  else
    match src with
    | some a => if a < dst + len ∧ dst < a + len then stCopyOverlap else stOk
    | none => stOk

/-- BAND_SET (R175, R365, R426). -/
def bandCheck (pa n : Nat) : Nat :=
  let first := pa / bandBytes
  if pa % bandBytes ≠ 0 ∨ n = 0 ∨ 4 * bandsPerQuarter < first + n ∨
      (first + n - 1) / bandsPerQuarter ≠ first / bandsPerQuarter ∨
      bandsPerQuarter - 17 ≤ (first + n - 1) % bandsPerQuarter then stBandRange
  else stOk

/-- SATCHEL_STORE and SATCHEL_RESTORE (R227, R231), the capacity of a STORE (R232), and the state of a tracked set (R223, Table TRN-2). -/
def satchelCheck (d : Dev) (y : Cmd) : Nat :=
  let store := y.opcode == 0x0110
  let coding := bits (y.param 3) 2 1
  let width := bits (y.param 3) 5 4
  let badStore : Bool :=
    y.param 2 % 64 != 0 || decide (y.param 1 < 64) || decide (2 ^ 36 < y.param 1) || decide (2 ≤ coding) ||
      width == 3 || (coding == 1 && width == 0)
  if y.param 0 % 64 ≠ 0 ∨ y.param 1 % 64 ≠ 0 ∨ (store = true ∧ badStore = true) then stSatchelParam
  else if store = true ∧ y.param 5 < streamBound (y.param 1) then stSatchelCapacity
  else
    match y.tracked with
    | none => stOk
    | some n =>
      match (setAt_ d n).state, store with
      | .hot, true | .storing, true | .offloaded, false | .restoring, false => stOk
      | _, _ => stActSetState

/-- ADDR_INVALIDATE (R36). -/
def invalidateCheck (base len : Nat) : Nat :=
  if 2 ^ 48 ≤ base ∨ len = 0 ∨ 2 ^ 48 < len ∨ 2 ^ 48 < alignUp 65536 (base + len) then stAddrRange else stOk

/-- ACT_SET (R224). -/
def actSetCheck (y : Cmd) : Nat :=
  if 2 ≤ y.param 1 % 4 ∨ (y.param 1 % 4 = 0 ∧ (y.param 2 = 0 ∨ 2 ^ 48 ≤ y.param 2)) then stSatchelParam else stOk

/-- Page commands (Table ATT-8). -/
def pageCheck (y : Cmd) : Nat :=
  let op := y.opcode
  let mode := y.param 1 % 4
  let bad : Bool :=
    if op = 0x0401 then decide (mode < 2 ∧ y.param 0 % 4 ≠ 0)
    else if op = 0x0402 then
      decide (y.param 0 % 4 ≠ 0 ∨ y.param 1 % 4 ≠ 0 ∨ y.param 2 = 0 ∨ 65536 < y.param 2)
    else if op = 0x0403 then decide (mode = 0 ∧ y.param 0 % 4 ≠ 0)
    else decide (y.param 1 = 0 ∨ 4096 < y.param 1)
  if bad then stPageModeInvalid else stOk

/-- DUMP: a scope, and an engine of Table CMD-7 (R369). -/
def dumpCheck (y : Cmd) : Nat :=
  let e := y.param 1 % 65536
  let top := match e / 256 with
    | 1 | 5 => 4
    | 2 => 64
    | _ => 1
  if y.param 0 % 4 = 1 then stOk
  else if y.param 0 % 4 = 0 ∧ e / 256 ≤ 0x0A ∧ e % 256 < top ∧ bits (y.param 1) 19 16 ≤ 8 then stOk
  else stDumpParam

/-- A class 9 command: who may issue it, and whether a transition is in progress (R437, R440). -/
def securityCheck (d : Dev) (q : Nat) (y : Cmd) : Nat :=
  if y.opcode ≠ 0x0901 ∧ (partOfQueue d q ≠ 0 ∨ (queueAt d q).asid ≠ 0) then stNotPrivileged
  else if d.boot.moving then stSecurityBusy
  else stOk

/-- Snapshot commands (R392, R397, R400). -/
def snapCheck (d : Dev) (q : Nat) (y : Cmd) : Nat :=
  let p := partOfQueue d q
  let ok : Bool :=
    match y.opcode with
    | 0x0601 => snapParamOk d p y
    | 0x0602 => y.param 1 % 64 == 0
    | 0x0603 => restoreParamOk d p y
    | _ => y.param 0 % 4 == 1 || fillParamOk y
  if ok = true then stOk else stSnapParam

/-- The opcode's own checks, once no reserved bit is set: the fields of its parameters. Checks that depend on
an image, a group, a context or a table belong to the engine (log 156). -/
def paramCheck (d : Dev) (q : Nat) (y : Cmd) : Nat :=
  match y.opcode with
  | 0x0002 =>
    if y.param 1 = 0 ∨ 6 ≤ y.param 1 then stParamReserved
    else if y.param 0 = q then stQueueState
    else stOk
  | 0x0101 => moveCheck (some (y.param 0)) (y.param 1) (y.param 2)
  | 0x0102 => moveCheck none (y.param 0) (y.param 1)
  | 0x0108 => bandCheck (y.param 0) (y.param 1)
  | 0x0110 | 0x0111 => satchelCheck d y
  | 0x0201 => if launchAny y = true ∧ launchSlot y ≠ 0 then stParamReserved else stOk
  | 0x0203 =>
    if y.param 0 ≠ 1 ∧ y.param 0 ≠ 2 then stTableKindUnknown
    else if y.param 1 % 64 ≠ 0 then stParamReserved
    else stOk
  | 0x0205 => invalidateCheck (y.param 1) (y.param 2)
  | 0x0206 => actSetCheck y
  | 0x0207 =>
    if y.param 0 % 256 ≠ 0 ∨ y.param 1 = 0 ∨ 65536 < y.param 1 then stParamReserved else stOk
  | 0x0401 | 0x0402 | 0x0403 | 0x0404 => pageCheck y
  | 0x0601 | 0x0602 | 0x0603 | 0x0604 => snapCheck d q y
  | 0x0701 => if bits (y.param 1) 31 0 = 0 ∨ 10000000 < bits (y.param 1) 31 0 then stHintParam else stOk
  | 0x0801 => dumpCheck y
  | 0x0A02 => if y.param 0 % 64 ≠ 0 then stParamReserved else stOk
  | 0x0501 => if y.contribOk then stOk else stTallyParam
  | 0x0502 => if y.areasOk then stOk else stTallyParam
  | 0x0503 => if bit (y.param 0) 18 || (tallyOf y).fieldsOk then stOk else stTallyParam
  | 0x0702 => if bit (y.param 4) 0 || y.bellOk then stOk else stBellParam
  | 0x0A01 => if bit (y.param 0) 16 || y.param 1 % 64 == 0 then stOk else stGroupParam
  | 0x0A03 => if y.param 2 ≠ 0 ∧ y.param 2 % 64 = 0 then stOk else stGatherParam
  | 0x0A04 => if y.dispOk then stOk else stDispatchParam
  | _ => stOk

/-- Checks 3 to 7 of Table CMD-5, in order: the status of the first that fails. A class 9 command is checked
for its privilege before its parameters. -/
def acceptCheck (d : Dev) (q : Nat) (y : Cmd) : Nat :=
  let p := partOfQueue d q
  if (opcodeInfo y.opcode).isNone then stOpcodeReserved
  else if 16 ≤ leAt y.data 2 2 ∨ bits (leAt y.data 8 4) 15 4 ≠ 0 ∨ leAt y.data 12 4 ≠ 0 then stHeaderReserved
  else if replayCheck y ≠ stOk then replayCheck y
  else if (namedParts d p y).any (· != p) then stPartitionViolation
  else if y.opcode / 256 = 9 ∧ securityCheck d q y ≠ stOk then securityCheck d q y
  else if paramReserved y then reservedStatus y.opcode
  else paramCheck d q y

/-! ### Acceptance (R336) -/

/-- A command as it is read; `st` is the status of a check it has failed. -/
def newCmd (d : Dev) (k : Nat) (data : List Byte) (gate : Bool) (st : Nat) (v : Word) : Cmd where
  seq := k
  acc := d.hub.accepted
  data := data
  st := if st = stOk then .accepted else .finished
  gateFail := gate
  status := st
  result := v
  engine := 0
  start := d.ns
  finish := d.ns
  startClock := d.clock
  readyAt := none
  began := false
  replayed := false
  opcode := leAt data 0 2
  step := 0
  aux := []
  aux2 := []
  buf := []

/-- Puts a command at the end of those of its queue. -/
def enterCmd (d : Dev) (q : Nat) (y : Cmd) : Dev :=
  let x := queueAt d q
  setQueue { d with hub.accepted := d.hub.accepted + 1 } q ({ x with cmds := x.cmds ++ [y] }.noteHead d.clock)

/-- A command that fails a check finishes at once; the checks that have a counter of their own count it
(CHIP_PART_STATUS.VIOL_COUNT, QTR_DB_STAT.SEQ, SEC_ERR.PRIV), and a page command is recorded
(LDG_ERR_LAST). -/
def rejectCmd (d : Dev) (q k : Nat) (data : List Byte) (gate : Bool) (st : Nat) : Dev :=
  let d :=
    if st = stPartitionViolation then rcount d .chipPartStatus 0 0 31 24 1
    else if st = stSequenceMismatch then rcount d .qtrDbStat (quarterOfQueue q) 0 63 48 1
    else if st = stNotPrivileged then rcount d .secErr 0 0 31 16 1
    else d
  let op := leAt data 0 2
  let d := if gate = false ∧ op / 256 = 4 ∧ op ≤ 0x0404 then noteLedger d q st 0 else d
  let (v, d) := freeW d
  enterCmd d q (newCmd d k data gate st v)

/-- The quarter whose engine runs a copy or Satchel command: that of the DRAM byte that decides it, whatever
its page permits, else the queue's (R226, R351). -/
def dramQuarter (sp : Space) (va q : Nat) : Act Nat :=
  tryCatch (do
    if 2 ^ 48 ≤ va then pure (quarterOfQueue q)
    else
      let l ← leafFor sp va
      match regionOf (l.at_ va) with
      | .dram n => pure n
      | _ => pure (quarterOfQueue q))
    fun stop => match stop with
      | .err _ _ => pure (quarterOfQueue q)
      | .wait w => throw (.wait w)

/-- ENGINE of a command (Table CMD-7). -/
def cmdEngine (d : Dev) (q : Nat) (y : Cmd) : Act Nat := do
  let sp := spaceOf d q
  let hi := ((opcodeInfo y.opcode).map (·.1)).getD 0
  let lo ← match y.opcode with
    | 0x0101 => dramQuarter sp (y.param 1) q
    | 0x0102 => dramQuarter sp (y.param 0) q
    | 0x0108 => pure (y.param 0 / quarterBytes)
    | 0x0110 => dramQuarter sp (y.param 0) q
    | 0x0111 => dramQuarter sp (y.param 1) q
    | 0x0201 => pure (launchTile y)
    | _ => pure 0
  pure (hi * 256 + lo)

/-- What acceptance itself does: a tracked set starts to move (Table TRN-2), a FILL takes the fill state
(R401), a life-cycle transition shuts out other security commands (R437). -/
def acceptEffect (d : Dev) (q : Nat) (y : Cmd) : Dev :=
  match y.opcode with
  | 0x0110 =>
    match y.tracked with
    | some n =>
      let x := setAt_ d n
      if x.state = .hot then putSet d n { x with state := .storing, stored := 0 } else d
    | none => d
  | 0x0111 =>
    match y.tracked with
    | some n => putSet d n { setAt_ d n with state := .restoring }
    | none => d
  | 0x0604 =>
    if y.param 0 % 4 = 0 then
      let p := partOfQueue d q
      rsetf (rsetf d .snpFill 0 p 1 0 1) .snpFill 0 p 27 8 (bits (y.param 1) 19 0)
    else d
  | 0x0905 => { d with boot.moving := true }
  | _ => d

/-- Reads the frame list that a command names, so that R21 can judge its frames at acceptance; a list that
does not read is left to the Ledger. -/
def readList (sp : Space) (y : Cmd) : Act (List Nat) :=
  match frameList y with
  | none => pure []
  | some (va, n) =>
    tryCatch (do
      let bs ← vread sp va (4 * n)
      pure ((List.range n).map fun i => leAt bs (4 * i) 4))
      fun stop => match stop with
        | .err _ _ => pure []
        | .wait w => throw (.wait w)

/-- Accepts the next packet of a queue in RUN. -/
def acceptNext (d : Dev) (q : Nat) : Dev :=
  let x := queueAt d q
  let k := (x.retire + x.cmds.length) % 2 ^ 32
  if x.state = .run ∧ k ≠ x.tail ∧ isReady d (partOfQueue d q) = true then
    match (readPhys (x.ringPa + k % x.size * 64) 64).go { d with rnl.fresh := [] } with
    | (.error (.wait n), d') => waitDev d d' n
    | (.error (.err st _), d') => rejectCmd d' q k (leBytes 2 0xFFFF) true st
    | (.ok data, d1) =>
      let y := newCmd d1 k data false stOk 0
      if leAt data 4 4 ≠ k then rejectCmd d1 q k data true stSequenceMismatch
      else
        match (readList (spaceOf d1 q) y).go d1 with
        | (.error (.wait n), d') => waitDev d d' n
        | (.error (.err _ _), d') => d'
        | (.ok fs, d2) =>
          let y := { y with aux2 := fs }
          let st := acceptCheck d2 q y
          if st ≠ stOk then rejectCmd d2 q k data false st
          else
            match (cmdEngine d2 q y).go d2 with
            | (.error (.wait n), d') => waitDev d d' n
            | (.error (.err _ _), d') => d'
            | (.ok e, d') => enterCmd (acceptEffect d' q y) q { y with engine := e }
  else d

/-- COMMAND_ACCEPT: the hub reads and checks the next packet of a queue. -/
def execCommandAccept (q now : Nat) (s : State) : Host.Outcome State Fault Refusal :=
  onDev s fun d => if q < 262144 then acceptNext (advanceTo d now) q else d

/-! ### Arbitration (R346) -/

/-- The engine can take a command of partition `p` now: it is not in recovery (R370) and has a place: a copy
engine and a Satchel pipe run one command at a time (R226, R351), the snapshot engine one of a partition
(R392), and a LAUNCH with ANYSLOT needs an IDLE slot (R352). -/
def canTake (d : Dev) (p : Nat) (y : Cmd) : Bool :=
  let running (f : Nat → Cmd → Bool) : Bool :=
    d.hub.queues.any fun e => e.2.cmds.any fun z => z.st == .started && f e.1 z
  let held := d.recov.engines.any fun r =>
    r.engine == y.engine || (y.engine == 0 && decide (2 ^ 16 ≤ r.engine) && r.part == p)
  let place : Bool :=
    match y.engine / 256 with
    | 1 => !running fun _ z => z.engine == y.engine
    | 5 => !running fun _ z => z.engine == y.engine && z.opcode == y.opcode
    | 6 => !running fun q z => z.engine / 256 == 6 && partOfQueue d q == p
    | 2 => !launchAny y || (idleSlot d (launchTile y)).isSome
    | _ => true
  !held && place

/-- An eligible queue and its head. -/
structure Bid where
  q : Nat
  x : Queue
  y : Cmd
deriving DecidableEq, Repr

/-- The queues of a partition that are eligible for an engine. -/
def bids (d : Dev) (p engine : Nat) : List Bid :=
  d.hub.queues.filterMap fun e =>
    match e.2.ready with
    | some y =>
      if partOfQueue d e.1 = p ∧ y.engine = engine ∧ canTake d p y = true then some ⟨e.1, e.2, y⟩ else none
    | none => none

/-- A command's cost (R346). -/
def Cmd.cost (y : Cmd) : Nat := if y.hinted then max y.hint 1 else 1

def Bid.since (b : Bid) : Nat := b.y.readyAt.getD 0

/-- The oldest head, if it has waited longer than AGE_MS. -/
def agedBid (d : Dev) (bs : List Bid) : Option Bid :=
  match bs.foldl (fun (m : Option Bid) b =>
      match m with
      | none => some b
      | some a => if b.since < a.since then some b else m) none with
  | none => none
  | some b =>
    if rfield d .qtrQarb (quarterOfQueue b.q) 0 15 0 * 1000000 < d.clock - b.since then some b else none

/-- The first element after a round-robin position, else the first of all. -/
def afterPos (last : Nat) (xs : List Nat) : Nat := ((xs.find? (last < ·)).orElse fun _ => xs.head?).getD 0

/-- Passes after which a queue's deficit covers its head's cost. -/
def Bid.passes (b : Bid) : Nat :=
  max 1 ((b.y.cost - b.x.deficit + b.x.quantum - 1) / b.x.quantum)

/-- The deficit round robin of one visit: `order` is the round-robin order of the queues. Every queue taken
gains QUANTUM; the one that starts pays its head's cost. -/
def visit (d : Dev) (order : List Bid) : Dev × Option Bid :=
  match order.foldl (fun (m : Option Bid) b =>
      match m with
      | none => some b
      | some a => if b.passes < a.passes then some b else m) none with
  | none => (d, none)
  | some w =>
    let n := w.passes
    let upTo := order.takeWhile (fun b => b.q != w.q)
    let d := order.foldl (fun d b =>
      let gain := if b.q = w.q ∨ upTo.contains b then n else n - 1
      let paid := if b.q = w.q then b.y.cost else 0
      setQueue d b.q { queueAt d b.q with deficit := b.x.deficit + gain * b.x.quantum - paid }) d
    (d, some w)

/-- The head that was accepted first. -/
def firstBid (bs : List Bid) : Option Bid :=
  bs.foldl (fun (m : Option Bid) b =>
    match m with
    | none => some b
    | some a => if b.y.acc < a.y.acc then some b else m) none

/-- Engines that take their commands in acceptance order: the Satchel pipes and the snapshot engine (R226,
R392). -/
def inOrderEngine (engine : Nat) : Bool := engine / 256 == 5 || engine / 256 == 6

/-- The queue that starts its head: by acceptance where its engine asks for it (log 101), else by R346. -/
def arbitrate (d : Dev) (p engine : Nat) : Dev × Option Bid :=
  let bs := bids d p engine
  match if inOrderEngine engine then firstBid bs else agedBid d bs with
  | some b => (d, some b)
  | none =>
    let cls := (bs.map fun b => b.x.prio).foldl min 3
    let cs := bs.filter fun b => b.x.prio == cls
    if cs.isEmpty then (d, none)
    else
      let key := p * 2 ^ 20 + engine * 4 + cls
      let asids := (cs.map fun b => b.x.asid).mergeSort
      let asid := match d.hub.rrAsid.lookup key with
        | none => asids.headD 0
        | some a => afterPos a asids
      let qkey := p * 2 ^ 32 + asid * 2 ^ 20 + engine * 4 + cls
      let mine := cs.filter fun b => b.x.asid == asid
      let start := match d.hub.rrQueue.lookup qkey with
        | none => 0
        | some n => n + 1
      let order := (mine.filter fun b => decide (start ≤ b.q)) ++ mine.filter fun b => decide (b.q < start)
      match visit d order with
      | (d, none) => (d, none)
      | (d, some w) =>
        ({ d with
          hub.rrAsid := mput d.hub.rrAsid key asid
          hub.rrQueue := mput d.hub.rrQueue qkey w.q }, some w)

/-- Engines that all partitions share: the snapshot port controller, the power and time controller, and those
that the management cores run (R20). -/
def sharedEngine (engine : Nat) : Bool := [6, 7, 8, 9].contains (engine / 256)

/-- The device may start commands of a partition: it is ACTIVE, the partition READY and not in the hold before a
reset (R368, R416). -/
def startsIn (d : Dev) (p : Nat) : Bool :=
  d.power == .active && decide (p < partCount d) && isReady d p && !partHeld d p

/-- Partition `p` may have the shared engine now: where several partitions have work for it, deficit round robin
with a quantum of 1 shares it equally by cost (R20, log 157). Answers the device with the shares counted. -/
def takeShare (d : Dev) (p engine cost : Nat) : Dev × Bool :=
  let last := mget 3 d.hub.rrPart engine
  let order := (List.range 4).map fun i => (last + 1 + i) % 4
  let asks (o : Nat) : Option (Nat × Nat) :=
    if o = p then some (o, cost)
    else if startsIn d o then ((arbitrate d o engine).2).map fun b => (o, b.y.cost)
    else none
  let bidders := order.filterMap asks
  if sharedEngine engine = false ∨ bidders.length < 2 then (d, true)
  else
    let had (o : Nat) : Nat := mget 0 d.hub.shares (4 * engine + o)
    let passes (b : Nat × Nat) : Nat := max 1 (b.2 - had b.1)
    let first := bidders.foldl (fun m b => min m (passes b)) (passes (p, cost))
    match bidders.find? fun b => passes b == first with
    | none => (d, true)
    | some w =>
      if w.1 ≠ p then (d, false)
      else
        let upTo := bidders.takeWhile fun b => b.1 != p
        let gain (o : Nat) : Nat := if o = p ∨ upTo.any (fun b => b.1 == o) then first else first - 1
        let shares := order.foldl (fun m o =>
          mset 0 m (4 * engine + o)
            (if bidders.any fun b => b.1 == o then had o + gain o - (if o = p then cost else 0) else 0)) d.hub.shares
        ({ d with hub.rrPart := mset 3 d.hub.rrPart engine p, hub.shares := shares }, true)

/-- A head starts: it is handed to its engine, a LAUNCH as its context enters CHECKING (R340). One that names a
slot which is not IDLE is left to the launch checker (R352). -/
def startHead (d : Dev) (q : Nat) (y : Cmd) : Dev :=
  let d := updCmd d q y.seq fun y => { y with st := .started, began := true, start := d.ns, startClock := d.clock }
  let d := setQueue d q ((queueAt d q).noteHead d.clock)
  match if y.opcode = 0x0201 then launchCtx d y else none with
  | some c => if (ctxAt d c).state = .idle then enterChecking d q y c else d
  | none => d

/-- COMMAND_START: the dispatcher hands an engine of a partition the head that arbitration chooses. -/
def execCommandStart (p engine now : Nat) (s : State) : Host.Outcome State Fault Refusal :=
  onDev s fun d0 =>
    let d := advanceTo d0 now
    if startsIn d p then
      match arbitrate d p engine with
      | (_, none) => d
      | (d1, some b) =>
        match takeShare d1 p engine b.y.cost with
        | (_, false) => d
        | (d2, true) => startHead d2 b.q b.y
    else d

end Sys2Proof.Machine
end

