-- ==== Sys2Proof/Machine/Regs.lean ====
section
/-!
DEFINITION. Accesses to the MMIO register blocks (R10 to R14, R27, R28, R462, Table SCP-6): what each
register reads as, what a read clears, and what a write does. A write whose register has a command of its own
does what that command does.
-/

namespace Sys2Proof.Machine

/-! ### Addresses (Table HIE-5) -/

/-- The block of an MMIO address, which copy of it, and the offset in the copy. -/
def blockAt (pa : Nat) : Option (Blk × Nat × Nat) :=
  Blk.all.findSome? fun b =>
    let (base, dist, n) := b.range
    if base ≤ pa ∧ pa < base + dist * n then some (b, (pa - base) / dist, (pa - base) % dist) else none

/-- The register at an MMIO address: its number of block copy, and its index where it is an array. -/
def registerAt (pa : Nat) : Option (Reg × Nat × Nat) :=
  match blockAt pa with
  | none => none
  | some (b, inst, off) =>
    b.regs.findSome? fun r =>
      let k := (off - r.info.off) / r.info.stride
      if r.info.off ≤ off ∧ (off - r.info.off) % r.info.stride = 0 ∧ k < r.info.count then some (r, inst, k)
      else none

/-! ### What registers read as -/

def CtxState.code : CtxState → Nat
  | .idle => 0
  | .checking => 1
  | .ready => 2
  | .running => 3
  | .waiting => 4
  | .draining => 5
  | .faulted => 6
  | .halted => 7

/-- The registers of context `c` (TILE_CTX_STATE to TILE_CTX_SEQ, TILE_CTX_NUM). -/
def ctxStateWord (x : Ctx) : Nat := x.state.code + x.asid % 4096 * 2 ^ 4 + x.queue * 2 ^ 16
def ctxNumWord (x : Ctx) : Nat :=
  x.subn.toNat + x.flags.flush.toNat * 2 ^ 8 + x.flags.ovf.toNat * 2 ^ 9 + x.flags.nangen.toNat * 2 ^ 10

/-- TILE_STR_STATE. -/
def slotWord (s : Slot) : Nat :=
  s.state.code + slotOf s.owner % 8 * 2 ^ 3 + s.store.toNat * 2 ^ 6 + s.ring % 32 * 2 ^ 7 + s.itin % 16 * 2 ^ 12 +
    s.heldStatus % 65536 * 2 ^ 16 + s.heldElem * 2 ^ 32

/-- TILE_ME_STATUS.SRFOLD: the accumulator tiles whose K count exceeds 65,536 (R62). -/
def srFold (d : Dev) (t : Nat) : Nat :=
  ((List.range 8).map fun a => (decide (65536 < (accInfo d t a).k)).toNat * 2 ^ a).sum

/-- A count of 32 bits below another. -/
def twoCounts (lo hi : Nat) : Nat := lo % 2 ^ 32 + hi % 2 ^ 32 * 2 ^ 32

/-- QTR_SFU_GEN, QTR_SB_GEN and FAB_DSP_GEN. -/
def genWord (g : Gen) : Nat :=
  g.active + g.pending.toNat * 2 ^ 16 + g.loading.isSome.toNat * 2 ^ 17 + g.deferred * 2 ^ 32

/-- The attribute a band shows; a busy band shows its new one (QTR_BAND_MAP). -/
def shownBand (d : Dev) (n : Nat) : Bool :=
  let running (y : Cmd) : Bool :=
    y.st == .started && y.opcode == 0x0108 && y.step == 1 && decide (y.param 0 / bandBytes ≤ n) &&
      decide (n < y.param 0 / bandBytes + y.param 1)
  match (if isBusy d n then d.hub.queues.findSome? fun e => e.2.cmds.find? running else none) with
  | some y => bit (y.param 2) 0
  | none => isCorrect d n

/-- Frames of a quarter in one of two states (LDG_FREE). -/
def frameCount (d : Dev) (quarter : Nat) (a b : FrameState) : Nat :=
  (d.ledger.frames.filter fun e => e.1 / 131072 == quarter && (e.2.state == a || e.2.state == b)).length

/-- Partitions with a page command in progress (LDG_STATUS.BUSY). -/
def ledgerBusy (d : Dev) : Nat :=
  ((List.range 4).filter fun p => d.hub.queues.any fun e =>
    partOfQueue d e.1 == p && e.2.cmds.any fun y => y.st == .started && y.opcode / 256 == 4).foldl
      (fun n p => n + 2 ^ p) 0

/-- Some started command of an opcode runs on an engine. -/
def engineRuns (d : Dev) (engine opcode : Nat) : Bool :=
  d.hub.queues.any fun e => e.2.cmds.any fun y =>
    y.st == .started && y.engine == engine && y.opcode == opcode

/-- Stored bytes of a stage's sets by destination class (QTR_STAGE_OFF_*). -/
def offBytes (d : Dev) (p v cls : Nat) : Nat :=
  (((setsOf d p v).filter fun x => x.isOff && x.cls == cls).map (·.stored)).sum

/-- QTR_STAGE_SETS. -/
def stageSetsWord (d : Dev) (p v : Nat) : Nat :=
  let xs := setsOf d p v
  (xs.filter ActSet.isHot).length + (xs.filter ActSet.isOff).length * 2 ^ 16 +
    (xs.filter fun x => x.state == .lost).length * 2 ^ 32

/-- FAB_XACT. -/
def xactWord (d : Dev) (p : Nat) : Nat :=
  (d.fab.xacts.filter fun e => e.2.part == p).length + (d.fab.tx.filter fun x => x.part == p).length * 2 ^ 16 +
    (d.fab.rx.filter fun x => x.part == p).length * 2 ^ 33

/-- The rule that FAB_RULE_SEL selects: its range and value. -/
def selectedRule (d : Dev) : Option (Nat × Nat × Nat) :=
  let w := rget d .fabRuleSel
  let x := fabPart d (wbits w 1 0)
  if wbit w 2 then (x.wraps[wbits w 8 3]?).map fun r => (r.lo, r.hi, r.ceiling) else x.routes[wbits w 8 3]?

/-- FAB_BELL_NEXT and FAB_BELL_STEP; with no Bell armed they read 0. -/
def bellNextWord (d : Dev) (p : Nat) : Nat :=
  match (fabPart d p).bell with
  | some b => (b.time b.next).toNat
  | none => 0
def bellStepWord (d : Dev) (p : Nat) : Nat :=
  match (fabPart d p).bell with
  | some b => b.next % 2 ^ 32 + wrapN 32 (b.shift b.next / 1000) * 2 ^ 32
  | none => 0

/-- MC_SCRUB_STAT: the slowest channel has the fewest passes, and of those the lowest position. -/
def scrubWord (d : Dev) (stack : Nat) : Nat :=
  let n := stackPasses d stack
  let slow := (List.range 16).filter fun c => mget 0 d.mem.scrubPasses (16 * stack + c) == n
  slow.foldl (fun m c => min m (mget 0 d.mem.scrubPos (16 * stack + c))) (scrubGranules - 1) +
    n % 65536 * 2 ^ 32

/-- A domain is in its hold. -/
def holding (d : Dev) (dom : Nat) : Bool := d.recov.resets.any fun r => r.stage == .holding && r.dom == dom

/-- DBG_DUMP_STATUS. -/
def dumpStatusWord (d : Dev) : Nat :=
  (!d.recov.dumps.isEmpty).toNat + ((List.range 4).map fun p => (holding d p).toNat * 2 ^ (p + 1)).sum +
    (holding d 4 || holding d 5).toNat * 2 ^ 5 + d.recov.nextDump * 2 ^ 16

/-- DBG_RECOVERY_STATE: a reset of the partition is shown before a recovery in it. -/
def recoveryWord (d : Dev) (p : Nat) : Nat :=
  let r := d.recov.engines.find? fun r => r.part == p
  let state : Nat :=
    match d.recov.resets.find? fun x => x.dom == p || decide (4 ≤ x.dom) with
    | some x =>
      match x.stage with
      | .dumping => 1
      | .holding => 2
      | _ => 3
    | none =>
      match r with
      | some r =>
        match r.stage with
        | .dumping => 1
        | .dumped => 3
        | .settling => 4
      | none => if d.recov.suspended.contains p then 5 else 0
  match r with
  | some r =>
    state + min 255 r.suspects.length * 2 ^ 4 + (if r.engine < 65536 then r.engine else 0) * 2 ^ 12 + r.tileEng * 2 ^ 28
  | none => state

/-- NP_SENSOR_VAL of the sensor that NP_SENSOR_SEL selects. -/
def sensorWord (d : Dev) : Nat :=
  let i := rfield d .npSensorSel 0 0 7 0
  match (if i < 249 then filtered d i else none) with
  | some v => wrapN 32 v + 2 ^ 32
  | none => 0

/-- What a register returns to a read: the bits held for it, with those that show other state. -/
def readReg (d : Dev) (f : Fuses) (r : Reg) (inst i : Nat) : Word :=
  let w := rget d r inst i
  let part := partOfQuarter d inst
  let ctx := ctxAt d (8 * inst + i)
  let slot := slotAt d inst i
  match r with
  | .tileCtxState => toW (ctxStateWord ctx)
  | .tileCtxPc => toW (alignDown 8 ctx.pc)
  | .tileCtxFault => toW (ctx.fStatus + ctx.fEngine * 2 ^ 16)
  | .tileCtxFaddr => toW ctx.fAddr
  | .tileCtxSeq => toW ctx.seq
  | .tileCtxNum => toW (ctxNumWord ctx)
  | .tileMeStatus => wsetBits w 15 8 (srFold d inst)
  | .tileInfo => toW (inst + (2000 + Config.fmaxTile inst % 401) * 2 ^ 8)
  | .tileStrState => toW (slotWord slot)
  | .tileStrElem => toW (twoCounts slot.delivered slot.consumed)
  | .tileStrTime => toW (twoCounts slot.late slot.ahead)
  | .tileStrDisc => toW (slot.discarded % 2 ^ 32 + min 65535 slot.refetched * 2 ^ 32)
  | .mcScrubStat => toW (scrubWord d inst)
  | .qtrBandMap =>
    toW ((List.range 64).foldl (fun n b =>
      n + (shownBand d (bandsPerQuarter * inst + 64 * i + b)).toNat * 2 ^ b) 0)
  | .qtrSfuGen => toW (genWord (genAt d .sfu part))
  | .qtrSbGen => toW (genWord (genAt d .signboard part))
  | .qtrStageHot => toW (hotBytes d part i)
  | .qtrStagePeak => rget d .qtrStagePeak (homeQuarter d part) i
  | .qtrStageOffLocal => toW (offBytes d part i 0)
  | .qtrStageOffComp => toW (offBytes d part i 1)
  | .qtrStageOffPeer => toW (offBytes d part i 2)
  | .qtrStageSets => toW (stageSetsWord d part i)
  | .qtrSatStat =>
    wsetBits w 1 0 ((engineRuns d (0x500 + inst) 0x0110).toNat + 2 * (engineRuns d (0x500 + inst) 0x0111).toNat)
  | .qtrScaleStat => rget d .qtrScaleStat (homeQuarter d part) 0
  | .ldgStatus => wsetBits w 3 0 (ledgerBusy d)
  | .ldgFree => toW (frameCount d i .free .free + frameCount d i .active .copying * 2 ^ 32)
  | .fabXact => toW (xactWord d i)
  | .fabRuleRange =>
    match selectedRule d with
    | some (lo, hi, _) => toW (lo + hi * 2 ^ 20 + 2 ^ 40)
    | none => 0
  | .fabRuleVal =>
    match selectedRule d with
    | some (_, _, v) => toW v
    | none => 0
  | .fabTimeNs => toW d.ns
  | .fabBellStat => wsetBits w 0 0 (fabPart d i).bell.isSome.toNat
  | .fabBellNext => toW (bellNextWord d i)
  | .fabBellStep => toW (bellStepWord d i)
  | .fabFence => wsetBits (wsetBits w 12 0 (fabPart d i).fence.length) 48 48 (fabPart d i).overflow.toNat
  | .fabDspGen => toW (genWord (genAt d .dispatch i))
  | .rnlSfStatus => wsetBits w 18 0 d.rnl.filter.length
  | .rnlEvtStatus => wsetBits w 12 0 d.rnl.evtQ.length
  | .dbgDumpStatus => toW (dumpStatusWord d)
  | .dbgRecoveryState => toW (recoveryWord d i)
  | .pwrTileLim => readTileLim d i
  | .npSensorVal => toW (sensorWord d)
  | .secLcStatus =>
    if bootStage d = 0 then
      wsetBits (wsetBits (wsetBits w 1 0 f.state) 7 4 f.revokedMask) 13 8 (f.svnValue % 64)
    else w
  | .secChipUidLo => f.uid.setWidth 64
  | .secChipUidHi => (f.uid >>> 64).setWidth 64
  | _ => w

/-- What a register shows of the link is as it stands when it is read: training goes on by itself through
TRAIN and EQ, and FEC has corrected some flits since; how far and how many is free (R307, R309, log 155). -/
def beforeRead (d : Dev) (r : Reg) : Dev :=
  match r with
  | .rnlLinkStatus =>
    if training d then
      let (v, d) := freeW d
      setLink d (linkState d + v.toNat % (4 - linkState d))
    else d
  | .rnlErrCnt =>
    if linkKept d then
      let (v, d) := freeW d
      rcount d .rnlErrCnt 0 0 15 0 (wbits v 15 0)
    else d
  | _ => d

/-- What a read changes: RC fields are cleared (Table SCP-6), and FAB_TIME_NS latches its fraction. -/
def afterRead (d : Dev) (r : Reg) (inst i : Nat) : Dev :=
  let part := partOfQuarter d inst
  let undefer (k : TableKind) (p : Nat) : Dev := setGen d k p { genAt d k p with deferred := 0 }
  match r with
  | .qtrSfuGen => undefer .sfu part
  | .qtrSbGen => undefer .signboard part
  | .fabDspGen => undefer .dispatch i
  | .qtrScaleStat => rset d .qtrScaleStat (homeQuarter d part) 0 0
  | .fabTimeNs => (readCampus d).2
  | r => rset d r inst i (rget d r inst i &&& ~~~ toW r.info.rc)

/-! ### What writes do -/

/-- A write under the types of Table SCP-6: RW, RWS and LCK fields take the value, a 1 clears a W1C bit, every
other bit keeps what it holds. -/
def typedWrite (info : RegInfo) (old v : Word) : Word :=
  let m := toW (info.rw ||| info.rws ||| info.lck)
  (old &&& ~~~ m ||| v &&& m) &&& ~~~ (v &&& toW info.w1c)

/-- The bits of a write that keep their value because the value written to their field is ignored. -/
def ignoredBits (r : Reg) (v : Word) : Nat :=
  match r with
  | .chipPartCfg => if wbits v 1 0 = 3 then 0x3 else 0
  | .mcScrubCtl => if wbits v 4 0 = 0 ∨ 24 < wbits v 4 0 then 0x1F else 0
  | .fabTimeCtl => if wbits v 1 0 = 3 then 0x3 else 0
  | .qtrTclassDef => if wbits v 15 0 = 0 ∨ wbits v 15 14 = 3 then 0xFFFF else 0
  | .qtrQarb => if wbits v 15 0 = 0 then 0xFFFF else 0
  | .dbgDumpCtl => if 1000 < wbits v 9 0 then 0x3FF else 0
  | .dbgRecoveryCtl => if wbits v 15 0 = 0 then 0xFFFF else 0
  | .pwrCapCtl => if 64 < wbits v 6 0 then 0x7F else 0
  | _ => 0

/-- A write of a register without behaviour of its own. -/
def plainWrite (d : Dev) (r : Reg) (inst i : Nat) (v : Word) : Dev :=
  let old := rget d r inst i
  let keep := toW (ignoredBits r v)
  rset d r inst i (typedWrite r.info old (old &&& keep ||| v &&& ~~~ keep))

/-- Every queue of a quarter is OFF. -/
def quarterOff (d : Dev) (quarter : Nat) : Bool :=
  d.hub.queues.all fun e => quarterOfQueue e.1 != quarter || e.2.state == .off

/-- Replica traffic of a partition is in progress (R394). -/
def replicaBusy (d : Dev) (p : Nat) : Bool :=
  d.snp.repls.any fun e => e.1 / 4 == p && (!e.2.todo.isEmpty || e.2.step != 0)

/-- A write of a register. -/
def writeReg (d : Dev) (r : Reg) (inst i : Nat) (v : Word) : Dev :=
  match r with
  | .chipAsidTbl =>
    if d.hub.asidLocked.contains i then rcount d .chipPartStatus 0 0 39 32 1 else plainWrite d r inst i v
  | .tileCtl => writeTileCtl d inst v
  | .ldgEntrySel => selectFrame d v
  | .tlyCtxSel => selectTally d v
  | .qtrStageCtl => resetPeaks d inst v
  | .qtrQsel => selectQueue d inst v
  | .qtrQtbl => if quarterOff d inst then plainWrite d r inst i v else d
  | .qtrQcmd =>
    let code := wbits v 18 16
    let q := 65536 * inst + wbits v 15 0
    if 1 ≤ code ∧ code ≤ 5 then viaQcmd q (queueAction d q code) else d
  | .fabEngineCtl => writeEngineCtl d i v
  | .fabTimeSet => setCampus d v
  | .rnlLinkCtl => writeLinkCtl d v
  | .dbgDumpAck => writeDumpAck d v
  | .dbgRecoveryState => if wbit v 3 then releaseSuspended d i else d
  | .dbgResetReq => writeResetReq d v
  | .snpReplCtl | .snpReplSrc => if replicaBusy d i then d else plainWrite d r inst i v
  | .pwrStateCtl => writeStateCtl d v
  | _ => plainWrite d r inst i v

/-! ### The commands -/

/-- An access that is not one 64-bit access at a multiple of 8 changes nothing (R462). -/
def badAccess (pa width : Nat) : Bool := width != 8 || pa % 8 != 0

/-- REGISTER_WRITE: an Innkeeper or companion write to the MMIO window or a doorbell page. -/
def execRegisterWrite (pa width : Nat) (v : Word) (s : State) : Host.Outcome State Fault Refusal :=
  onDev s fun d =>
    match regionOf pa with
    | .mmio =>
      if badAccess pa width then emit d (.mmio stMmioAccess none)
      else
        match registerAt pa with
        | some (r, inst, i) => writeReg d r inst i v
        | none => d
    | .doorbell q =>
      if badAccess pa width then emit d (.mmio stMmioAccess none)
      else inReadyPart d q (writeDoorbell d pa v)
    | .unmapped => emit d (.mmio stAddressUnmapped none)
    | _ => d

/-- RC_FIELD_READ: an Innkeeper or companion read of the MMIO window or a doorbell page. -/
def execRcFieldRead (pa width : Nat) (s : State) : Host.Outcome State Fault Refusal :=
  onDev s fun d =>
    match regionOf pa with
    | .mmio =>
      if badAccess pa width then emit d (.mmio stMmioAccess none)
      else
        match registerAt pa with
        | some (r, inst, i) =>
          let d := beforeRead d r
          emit (afterRead d r inst i) (.mmio stOk (some (readReg d s.fuses r inst i)))
        | none => emit d (.mmio stOk (some 0))
    | .doorbell q =>
      if badAccess pa width then emit d (.mmio stMmioAccess none)
      else if isReady d (partOfQueue d q) then emit d (.mmio stOk (some (readDoorbell d pa)))
      else emit d (.mmio stPartitionInReset none)
    | .unmapped => emit d (.mmio stAddressUnmapped none)
    | _ => d

end Sys2Proof.Machine
end

