-- ==== Sys2Proof/Machine/Dispatch.lean ====
section
/-!
DEFINITION. What each command does: one arm per constructor, each one direct call of its meaning.
-/

namespace Sys2Proof.Machine

/-- The effect of a command on everything but the queue. -/
def exec (i : Instr) (s : State) : Host.Outcome State Fault Refusal :=
  match i with
  | .nop c w => Sys2Proof.Machine.execNop c w s
  | .add c w => Sys2Proof.Machine.execAdd c w s
  | .sub c w => Sys2Proof.Machine.execSub c w s
  | .mul c w => Sys2Proof.Machine.execMul c w s
  | .and c w => Sys2Proof.Machine.execAnd c w s
  | .or c w => Sys2Proof.Machine.execOr c w s
  | .xor c w => Sys2Proof.Machine.execXor c w s
  | .shl c w => Sys2Proof.Machine.execShl c w s
  | .shr c w => Sys2Proof.Machine.execShr c w s
  | .sra c w => Sys2Proof.Machine.execSra c w s
  | .cmp c w => Sys2Proof.Machine.execCmp c w s
  | .addi c w => Sys2Proof.Machine.execAddi c w s
  | .movi c w => Sys2Proof.Machine.execMovi c w s
  | .cmpi c w => Sys2Proof.Machine.execCmpi c w s
  | .ld c w => Sys2Proof.Machine.execLd c w s
  | .ldu c w => Sys2Proof.Machine.execLdu c w s
  | .st c w => Sys2Proof.Machine.execSt c w s
  | .l1inv c w => Sys2Proof.Machine.execL1inv c w s
  | .lds c w => Sys2Proof.Machine.execLds c w s
  | .sts c w => Sys2Proof.Machine.execSts c w s
  | .aadd c w => Sys2Proof.Machine.execAadd c w s
  | .br c w => Sys2Proof.Machine.execBr c w s
  | .call c w => Sys2Proof.Machine.execCall c w s
  | .ret c w => Sys2Proof.Machine.execRet c w s
  | .loop c w => Sys2Proof.Machine.execLoop c w s
  | .exit c w => Sys2Proof.Machine.execExit c w s
  | .semwait c w => Sys2Proof.Machine.execSemwait c w s
  | .semsig c w => Sys2Proof.Machine.execSemsig c w s
  | .barrier c w => Sys2Proof.Machine.execBarrier c w s
  | .fence c w => Sys2Proof.Machine.execFence c w s
  | .ringwait c w => Sys2Proof.Machine.execRingwait c w s
  | .ringrel c w => Sys2Proof.Machine.execRingrel c w s
  | .itstart c w => Sys2Proof.Machine.execItstart c w s
  | .itstop c w => Sys2Proof.Machine.execItstop c w s
  | .itstat c w => Sys2Proof.Machine.execItstat c w s
  | .mma c w => Sys2Proof.Machine.execMma c w s
  | .mmaStreamStart tile => Sys2Proof.Machine.execMmaStreamStart tile s
  | .mdrain c w => Sys2Proof.Machine.execMdrain c w s
  | .mzero c w => Sys2Proof.Machine.execMzero c w s
  | .mread c w => Sys2Proof.Machine.execMread c w s
  | .mwrite c w => Sys2Proof.Machine.execMwrite c w s
  | .vadd c w => Sys2Proof.Machine.execVadd c w s
  | .vsub c w => Sys2Proof.Machine.execVsub c w s
  | .vmul c w => Sys2Proof.Machine.execVmul c w s
  | .vfma c w => Sys2Proof.Machine.execVfma c w s
  | .vmax c w => Sys2Proof.Machine.execVmax c w s
  | .vmin c w => Sys2Proof.Machine.execVmin c w s
  | .vcmp c w => Sys2Proof.Machine.execVcmp c w s
  | .vsel c w => Sys2Proof.Machine.execVsel c w s
  | .vrsum c w => Sys2Proof.Machine.execVrsum c w s
  | .vrmax c w => Sys2Proof.Machine.execVrmax c w s
  | .vamax c w => Sys2Proof.Machine.execVamax c w s
  | .vld c w => Sys2Proof.Machine.execVld c w s
  | .vst c w => Sys2Proof.Machine.execVst c w s
  | .vbcast c w => Sys2Proof.Machine.execVbcast c w s
  | .vperm c w => Sys2Proof.Machine.execVperm c w s
  | .sexp c w => Sys2Proof.Machine.execSexp c w s
  | .slog c w => Sys2Proof.Machine.execSlog c w s
  | .srcp c w => Sys2Proof.Machine.execSrcp c w s
  | .srsq c w => Sys2Proof.Machine.execSrsq c w s
  | .sprog c w => Sys2Proof.Machine.execSprog c w s
  | .dchain c w => Sys2Proof.Machine.execDchain c w s
  | .cvt c w => Sys2Proof.Machine.execCvt c w s
  | .cvtmx c w => Sys2Proof.Machine.execCvtmx c w s
  | .rput c w sram units target => Sys2Proof.Machine.execRput c w sram units target s
  | .racc c w sram units target op => Sys2Proof.Machine.execRacc c w sram units target op s
  | .rsig c w chip sem amount => Sys2Proof.Machine.execRsig c w chip sem amount s
  | .enq c w => Sys2Proof.Machine.execEnq c w s
  | .signboardScan c w => Sys2Proof.Machine.execSignboardScan c w s
  | .contextSelect c => Sys2Proof.Machine.execContextSelect c s
  | .contextSwitch c => Sys2Proof.Machine.execContextSwitch c s
  | .contextRetire c => Sys2Proof.Machine.execContextRetire c s
  | .parityRefetch tile ring elem => Sys2Proof.Machine.execParityRefetch tile ring elem s
  | .tileCtlWrite tile v => Sys2Proof.Machine.execTileCtlWrite tile v s
  | .itineraryLoop tile n => Sys2Proof.Machine.execItineraryLoop tile n s
  | .stride tile n => Sys2Proof.Machine.execStride tile n s
  | .seta tile n => Sys2Proof.Machine.execSeta tile n s
  | .itineraryFetch tile n => Sys2Proof.Machine.execItineraryFetch tile n s
  | .gather tile n => Sys2Proof.Machine.execGather tile n s
  | .waitsem tile n => Sys2Proof.Machine.execWaitsem tile n s
  | .sigsem tile n => Sys2Proof.Machine.execSigsem tile n s
  | .itineraryEnd tile n => Sys2Proof.Machine.execItineraryEnd tile n s
  | .elementDelivery tile n e => Sys2Proof.Machine.execElementDelivery tile n e s
  | .elementWritten tile n e => Sys2Proof.Machine.execElementWritten tile n e s
  | .mcastBind tile ring => Sys2Proof.Machine.execMcastBind tile ring s
  | .overwriteEvent pa => Sys2Proof.Machine.execOverwriteEvent pa s
  | .dbTailWrite q width v companion => Sys2Proof.Machine.execDbTailWrite q width v companion s
  | .dbCqheadWrite q width v companion => Sys2Proof.Machine.execDbCqheadWrite q width v companion s
  | .commandAccept q now => Sys2Proof.Machine.execCommandAccept q now s
  | .commandStart p engine now => Sys2Proof.Machine.execCommandStart p engine now s
  | .commandRetire q => Sys2Proof.Machine.execCommandRetire q s
  | .notifyUsExpiry q now => Sys2Proof.Machine.execNotifyUsExpiry q now s
  | .commandTimeout q k held now => Sys2Proof.Machine.execCommandTimeout q k held now s
  | .queueEnable q => Sys2Proof.Machine.execQueueEnable q s
  | .queueStop q => Sys2Proof.Machine.execQueueStop q s
  | .queueResume q => Sys2Proof.Machine.execQueueResume q s
  | .queueFlush q => Sys2Proof.Machine.execQueueFlush q s
  | .queueDisable q => Sys2Proof.Machine.execQueueDisable q s
  | .qtrQselWrite quarter v => Sys2Proof.Machine.execQtrQselWrite quarter v s
  | .nopCommand q k => Sys2Proof.Machine.execNopCommand q k s
  | .queueCtl q k => Sys2Proof.Machine.execQueueCtl q k s
  | .copy q k => Sys2Proof.Machine.execCopy q k s
  | .fill q k => Sys2Proof.Machine.execFill q k s
  | .bandSet q k => Sys2Proof.Machine.execBandSet q k s
  | .satchelStore q k => Sys2Proof.Machine.execSatchelStore q k s
  | .satchelRestore q k => Sys2Proof.Machine.execSatchelRestore q k s
  | .launch q k => Sys2Proof.Machine.execLaunch q k s
  | .launchCheckDone c => Sys2Proof.Machine.execLaunchCheckDone c s
  | .tableLoadSfu q k => Sys2Proof.Machine.execTableLoadSfu q k s
  | .tableLoadSignboard q k => Sys2Proof.Machine.execTableLoadSignboard q k s
  | .addrInvalidate q k => Sys2Proof.Machine.execAddrInvalidate q k s
  | .actSetDefine q k => Sys2Proof.Machine.execActSetDefine q k s
  | .actSetRelease q k => Sys2Proof.Machine.execActSetRelease q k s
  | .scaleStep q k => Sys2Proof.Machine.execScaleStep q k s
  | .semSignal q k => Sys2Proof.Machine.execSemSignal q k s
  | .semWait q k => Sys2Proof.Machine.execSemWait q k s
  | .barrierCommand q k => Sys2Proof.Machine.execBarrierCommand q k s
  | .semSet q k => Sys2Proof.Machine.execSemSet q k s
  | .pageMapAlloc q k => Sys2Proof.Machine.execPageMapAlloc q k s
  | .pageMapWrite q k => Sys2Proof.Machine.execPageMapWrite q k s
  | .pageCopyDone q k => Sys2Proof.Machine.execPageCopyDone q k s
  | .pageMapDefine q k => Sys2Proof.Machine.execPageMapDefine q k s
  | .pageMapBank q k => Sys2Proof.Machine.execPageMapBank q k s
  | .pageShare q k => Sys2Proof.Machine.execPageShare q k s
  | .pageReleaseEntries q k => Sys2Proof.Machine.execPageReleaseEntries q k s
  | .pageReleaseReturn q k => Sys2Proof.Machine.execPageReleaseReturn q k s
  | .pageReleaseUnbank q k => Sys2Proof.Machine.execPageReleaseUnbank q k s
  | .pageReleaseUndefine q k => Sys2Proof.Machine.execPageReleaseUndefine q k s
  | .kvPass q k => Sys2Proof.Machine.execKvPass q k s
  | .tallyContribute q k => Sys2Proof.Machine.execTallyContribute q k s
  | .tallyFinish q k => Sys2Proof.Machine.execTallyFinish q k s
  | .tallyOpen q k => Sys2Proof.Machine.execTallyOpen q k s
  | .tallyClose q k => Sys2Proof.Machine.execTallyClose q k s
  | .snapBegin q k => Sys2Proof.Machine.execSnapBegin q k s
  | .snapCommit q k => Sys2Proof.Machine.execSnapCommit q k s
  | .restore q k => Sys2Proof.Machine.execRestore q k s
  | .spareFill q k => Sys2Proof.Machine.execSpareFill q k s
  | .spareAdmit q k => Sys2Proof.Machine.execSpareAdmit q k s
  | .powerHint q k => Sys2Proof.Machine.execPowerHint q k s
  | .bellArm q k => Sys2Proof.Machine.execBellArm q k s
  | .bellDisarm q k => Sys2Proof.Machine.execBellDisarm q k s
  | .dump q k => Sys2Proof.Machine.execDump q k s
  | .groupSet q k => Sys2Proof.Machine.execGroupSet q k s
  | .groupClear q k => Sys2Proof.Machine.execGroupClear q k s
  | .dispatchTableLoad q k => Sys2Proof.Machine.execDispatchTableLoad q k s
  | .paramGather q k => Sys2Proof.Machine.execParamGather q k s
  | .dispatch q k => Sys2Proof.Machine.execDispatch q k s
  | .attest q k => Sys2Proof.Machine.execAttest q k s
  | .debugChallenge q k => Sys2Proof.Machine.execDebugChallenge q k s
  | .debugUnlock q k => Sys2Proof.Machine.execDebugUnlock q k s
  | .debugLock q k => Sys2Proof.Machine.execDebugLock q k s
  | .lcTransition q k => Sys2Proof.Machine.execLcTransition q k s
  | .svnAdvance q k => Sys2Proof.Machine.execSvnAdvance q k s
  | .keyRevoke q k => Sys2Proof.Machine.execKeyRevoke q k s
  | .ldgEntrySelWrite v => Sys2Proof.Machine.execLdgEntrySelWrite v s
  | .tlyCtxSelWrite v => Sys2Proof.Machine.execTlyCtxSelWrite v s
  | .peakReset quarter v => Sys2Proof.Machine.execPeakReset quarter v s
  | .registerWrite pa width v => Sys2Proof.Machine.execRegisterWrite pa width v s
  | .rcFieldRead pa width => Sys2Proof.Machine.execRcFieldRead pa width s
  | .scrubGranule chan now => Sys2Proof.Machine.execScrubGranule chan now s
  | .scrubForced chan now => Sys2Proof.Machine.execScrubForced chan now s
  | .channelTrain chan ok => Sys2Proof.Machine.execChannelTrain chan ok s
  | .wipeDone p now => Sys2Proof.Machine.execWipeDone p now s
  | .transferParityError kind nth => Sys2Proof.Machine.execTransferParityError kind nth s
  | .hangPath engine tileEng now => Sys2Proof.Machine.execHangPath engine tileEng now s
  | .suspectProbeExpiry engine tileEng hung now => Sys2Proof.Machine.execSuspectProbeExpiry engine tileEng hung now s
  | .suspendRelease p => Sys2Proof.Machine.execSuspendRelease p s
  | .firmwareHeartbeat agent now => Sys2Proof.Machine.execFirmwareHeartbeat agent now s
  | .heartbeatLoss agent now => Sys2Proof.Machine.execHeartbeatLoss agent now s
  | .npHeartbeat => Sys2Proof.Machine.execNpHeartbeat s
  | .crashDump now => Sys2Proof.Machine.execCrashDump now s
  | .scanReadTimeout unit index => Sys2Proof.Machine.execScanReadTimeout unit index s
  | .holdEnd dom now => Sys2Proof.Machine.execHoldEnd dom now s
  | .dumpAck v => Sys2Proof.Machine.execDumpAck v s
  | .resetReqPartition v => Sys2Proof.Machine.execResetReqPartition v s
  | .resetReqChip v => Sys2Proof.Machine.execResetReqChip v s
  | .resetReqPowerCycle v => Sys2Proof.Machine.execResetReqPowerCycle v s
  | .escalation level a b now => Sys2Proof.Machine.execEscalation level a b now s
  | .contextReset c => Sys2Proof.Machine.execContextReset c s
  | .engineReset engine tileEng => Sys2Proof.Machine.execEngineReset engine tileEng s
  | .partitionReset p now => Sys2Proof.Machine.execPartitionReset p now s
  | .chipReset now => Sys2Proof.Machine.execChipReset now s
  | .powerCycle => Sys2Proof.Machine.execPowerCycle s
  | .laserInputLow engine fibre level now => Sys2Proof.Machine.execLaserInputLow engine fibre level now s
  | .laserInputRestored engine fibre level now => Sys2Proof.Machine.execLaserInputRestored engine fibre level now s
  | .portBringup port now => Sys2Proof.Machine.execPortBringup port now s
  | .portUp port now => Sys2Proof.Machine.execPortUp port now s
  | .portFault port now => Sys2Proof.Machine.execPortFault port now s
  | .portDown port corr uncorr now => Sys2Proof.Machine.execPortDown port corr uncorr now s
  | .retrain engine v => Sys2Proof.Machine.execRetrain engine v s
  | .calWindow port now => Sys2Proof.Machine.execCalWindow port now s
  | .calForced port now => Sys2Proof.Machine.execCalForced port now s
  | .calDone port now => Sys2Proof.Machine.execCalDone port now s
  | .caravanWrite now port trailer f => Sys2Proof.Machine.execCaravanWrite now port trailer f s
  | .caravanRead now port trailer f => Sys2Proof.Machine.execCaravanRead now port trailer f s
  | .caravanReadResponse now port trailer f => Sys2Proof.Machine.execCaravanReadResponse now port trailer f s
  | .caravanAccumulate now port trailer f => Sys2Proof.Machine.execCaravanAccumulate now port trailer f s
  | .caravanTallyExp now port trailer f => Sys2Proof.Machine.execCaravanTallyExp now port trailer f s
  | .caravanTallyMant now port trailer f => Sys2Proof.Machine.execCaravanTallyMant now port trailer f s
  | .caravanTallyPublish now port trailer f => Sys2Proof.Machine.execCaravanTallyPublish now port trailer f s
  | .expDeadline gnum step now => Sys2Proof.Machine.execExpDeadline gnum step now s
  | .closeDeadline gnum step now => Sys2Proof.Machine.execCloseDeadline gnum step now s
  | .partialWaitExpiry gnum chunk step now => Sys2Proof.Machine.execPartialWaitExpiry gnum chunk step now s
  | .caravanSemSignal now port trailer f => Sys2Proof.Machine.execCaravanSemSignal now port trailer f s
  | .caravanKvPass now port trailer f => Sys2Proof.Machine.execCaravanKvPass now port trailer f s
  | .caravanDispatch now port trailer f => Sys2Proof.Machine.execCaravanDispatch now port trailer f s
  | .linkInit now port trailer f c0 c1 c2 => Sys2Proof.Machine.execLinkInit now port trailer f c0 c1 c2 s
  | .caravanCredit now port trailer f c0 c1 c2 => Sys2Proof.Machine.execCaravanCredit now port trailer f c0 c1 c2 s
  | .linkAck now port trailer f => Sys2Proof.Machine.execLinkAck now port trailer f s
  | .flowOpen now port trailer f => Sys2Proof.Machine.execFlowOpen now port trailer f s
  | .flowAccept now port trailer f => Sys2Proof.Machine.execFlowAccept now port trailer f s
  | .ack now port trailer f => Sys2Proof.Machine.execAck now port trailer f s
  | .status now port trailer f => Sys2Proof.Machine.execStatus now port trailer f s
  | .ptp now port trailer f kind domain seq time corr twoStep interval => Sys2Proof.Machine.execPtp now port trailer f kind domain seq time corr twoStep interval s
  | .idAssign now port trailer f chip tag => Sys2Proof.Machine.execIdAssign now port trailer f chip tag s
  | .memberLost now port trailer f chip => Sys2Proof.Machine.execMemberLost now port trailer f chip s
  | .memberReplace now port trailer f old new tray => Sys2Proof.Machine.execMemberReplace now port trailer f old new tray s
  | .fenceClear now port trailer f chip => Sys2Proof.Machine.execFenceClear now port trailer f chip s
  | .shareSet now port trailer f ceilings wraps => Sys2Proof.Machine.execShareSet now port trailer f ceilings wraps s
  | .routeSet now port trailer f rules => Sys2Proof.Machine.execRouteSet now port trailer f rules s
  | .bellShift now port trailer f step shift => Sys2Proof.Machine.execBellShift now port trailer f step shift s
  | .retransmitTimeout p dst fseq now => Sys2Proof.Machine.execRetransmitTimeout p dst fseq now s
  | .noRoute p dst now => Sys2Proof.Machine.execNoRoute p dst now s
  | .flowRetire p peer tx now => Sys2Proof.Machine.execFlowRetire p peer tx now s
  | .timeHoldover now => Sys2Proof.Machine.execTimeHoldover now s
  | .ppsInEdge now => Sys2Proof.Machine.execPpsInEdge now s
  | .ppsOutPulse now => Sys2Proof.Machine.execPpsOutPulse now s
  | .fabTimeSet v => Sys2Proof.Machine.execFabTimeSet v s
  | .fabTimeNsRead => Sys2Proof.Machine.execFabTimeNsRead s
  | .departureBell p now => Sys2Proof.Machine.execDepartureBell p now s
  | .telemetrySample now => Sys2Proof.Machine.execTelemetrySample now s
  | .drainWindow p now => Sys2Proof.Machine.execDrainWindow p now s
  | .drainDeadline p now => Sys2Proof.Machine.execDrainDeadline p now s
  | .hintFire p start now => Sys2Proof.Machine.execHintFire p start now s
  | .hintEnd p start now => Sys2Proof.Machine.execHintEnd p start now s
  | .mrd tag addr rlen => Sys2Proof.Machine.execMrd tag addr rlen s
  | .mrdS tag addr => Sys2Proof.Machine.execMrdS tag addr s
  | .mrdM tag addr => Sys2Proof.Machine.execMrdM tag addr s
  | .mwr tag addr ack data => Sys2Proof.Machine.execMwr tag addr ack data s
  | .wb addr data => Sys2Proof.Machine.execWb addr data s
  | .evict addr => Sys2Proof.Machine.execEvict addr s
  | .cpl tag status => Sys2Proof.Machine.execCpl tag status s
  | .cplData tag status data => Sys2Proof.Machine.execCplData tag status data s
  | .wrDone tag => Sys2Proof.Machine.execWrDone tag s
  | .snpRsp line data wb => Sys2Proof.Machine.execSnpRsp line data wb s
  | .credit req rsp snp srsp evt => Sys2Proof.Machine.execCredit req rsp snp srsp evt s
  | .snoopTimeout line now => Sys2Proof.Machine.execSnoopTimeout line now s
  | .linkDown now => Sys2Proof.Machine.execLinkDown now s
  | .linkTrainingStart now => Sys2Proof.Machine.execLinkTrainingStart now s
  | .linkActive width reversed req rsp snp srsp evt now => Sys2Proof.Machine.execLinkActive width reversed req rsp snp srsp evt now s
  | .linkTrainingTimeout now => Sys2Proof.Machine.execLinkTrainingTimeout now s
  | .flitNak rx seq resent => Sys2Proof.Machine.execFlitNak rx seq resent s
  | .linkRecovery now => Sys2Proof.Machine.execLinkRecovery now s
  | .recoveryTimeout now => Sys2Proof.Machine.execRecoveryTimeout now s
  | .linkRetrain v => Sys2Proof.Machine.execLinkRetrain v s
  | .l1Entry now => Sys2Proof.Machine.execL1Entry now s
  | .l1Exit now => Sys2Proof.Machine.execL1Exit now s
  | .bootOffer addr len => Sys2Proof.Machine.execBootOffer addr len s
  | .bootHello now => Sys2Proof.Machine.execBootHello now s
  | .romInitDone ident => Sys2Proof.Machine.execRomInitDone ident s
  | .imageVerify => Sys2Proof.Machine.execImageVerify s
  | .firmwareRunning now => Sys2Proof.Machine.execFirmwareRunning now s
  | .nvmeCompletion id sct sc now => Sys2Proof.Machine.execNvmeCompletion id sct sc now s
  | .nvmeTimeout id aborted now => Sys2Proof.Machine.execNvmeTimeout id aborted now s
  | .snapshotPortTrain speed width spaces now => Sys2Proof.Machine.execSnapshotPortTrain speed width spaces now s
  | .replicaChunk p k now => Sys2Proof.Machine.execReplicaChunk p k now s
  | .capLoopPeriod power compute now => Sys2Proof.Machine.execCapLoopPeriod power compute now s
  | .capUnmet now => Sys2Proof.Machine.execCapUnmet now s
  | .trayCapWrite code => Sys2Proof.Machine.execTrayCapWrite code s
  | .droop tile => Sys2Proof.Machine.execDroop tile s
  | .droopRelease tile => Sys2Proof.Machine.execDroopRelease tile s
  | .softStart tile now => Sys2Proof.Machine.execSoftStart tile now s
  | .idleEntry now => Sys2Proof.Machine.execIdleEntry now s
  | .wake now => Sys2Proof.Machine.execWake now s
  | .stateReqActive v => Sys2Proof.Machine.execStateReqActive v s
  | .stateReqDeep v => Sys2Proof.Machine.execStateReqDeep v s
  | .stateReqNight v now => Sys2Proof.Machine.execStateReqNight v now s
  | .i3cStateReqNight off now => Sys2Proof.Machine.execI3cStateReqNight off now s
  | .i3cStateReqWake now => Sys2Proof.Machine.execI3cStateReqWake now s
  | .nightWake now => Sys2Proof.Machine.execNightWake now s
  | .npSample readings now => Sys2Proof.Machine.execNpSample readings now s
  | .entdaa addr => Sys2Proof.Machine.execEntdaa addr s
  | .pwrFailN now => Sys2Proof.Machine.execPwrFailN now s
  | .npStart pos now => Sys2Proof.Machine.execNpStart pos now s
  | .railGood level railsOut now => Sys2Proof.Machine.execRailGood level railsOut now s
  | .chipResetN low held now => Sys2Proof.Machine.execChipResetN low held now s
  | .jtagInstruction code => Sys2Proof.Machine.execJtagInstruction code s
  | .vddNpLost now => Sys2Proof.Machine.execVddNpLost now s
  | .snapshotLinkDown now => Sys2Proof.Machine.execSnapshotLinkDown now s
  | .wipeFailed chan pct => Sys2Proof.Machine.execWipeFailed chan pct s
  | .recoveryDone now => Sys2Proof.Machine.execRecoveryDone now s
  | .controlIgnored now port trailer f => Sys2Proof.Machine.execControlIgnored now port trailer f s
  | .messageDropped type => Sys2Proof.Machine.execMessageDropped type s
  | .hubStoreDoubleBit => Sys2Proof.Machine.execHubStoreDoubleBit s

end Sys2Proof.Machine
end

