-- ==== Sys2Proof/Machine/Step.lean ====
section
/-!
DEFINITION. One step: the command at the front of the queue runs; on an empty queue the reference clock
advances by 1 ns, and campus time with it (log 2).
-/

namespace Sys2Proof.Machine

/-- The machine with the command that a table word spells put at the front of its queue. -/
def State.withFetchWord (s : State) (nbits w : Nat) : State :=
  match Sys2Proof.decodeTableWord nbits w with
  | some i => { s with pending := i :: s.pending }
  | none => s

/-- One step of the block. -/
def step (s : State) : Host.Outcome State Fault Refusal :=
  match s.pending with
  | [] => .next { s with dev := advanceTo s.dev (s.dev.clock + 1) }
  | i :: rest => exec i { s with pending := rest }

end Sys2Proof.Machine
end

