-- ==== Sys2Proof/WellFormed.lean ====
section
/-!
DEFINITION. Which operands a command may have: the number of bits or the number of units the spec gives
each of them. A meaning is total on any operand; a command outside these bounds is one that the hardware
never sends.
-/

namespace Sys2Proof

/-- A number below 2^n. -/
def okBits (n x : Nat) : Bool := decide (x < 2 ^ n)
def okU4 : Nat → Bool := okBits 4
def okU8 : Nat → Bool := okBits 8
def okU16 : Nat → Bool := okBits 16
def okU32 : Nat → Bool := okBits 32
def okU80 : Nat → Bool := okBits 80
/-- 64 tiles of 8 contexts (R10). -/
def okCtx (c : Nat) : Bool := decide (c < 512)
def okTile (t : Nat) : Bool := decide (t < 64)
/-- 16 itinerary slots and 32 rings a tile (R129, R130). -/
def okSlot (n : Nat) : Bool := decide (n < 16)
def okRing (r : Nat) : Bool := decide (r < 32)
def okSram (a : Nat) : Bool := decide (a < 0xC00000)
def okQuarter (q : Nat) : Bool := decide (q < 4)
def okPart (p : Nat) : Bool := decide (p < 4)
/-- 65,536 queues a quarter (R327). -/
def okQueue (q : Nat) : Bool := decide (q < 262144)
def okSeq (k : Nat) : Bool := okBits 32 k
/-- Campus time is a 64-bit number of nanoseconds (R297). -/
def okTime (t : Nat) : Bool := okBits 64 t
def okPa (a : Nat) : Bool := okBits 48 a
def okLine (a : Nat) : Bool := okBits 48 a && decide (a % 64 = 0)
/-- An access has at least one byte; what one that is not of 8 bytes does is R462. -/
def okWidth (w : Nat) : Bool := decide (0 < w)
def okChannel (c : Nat) : Bool := decide (c < 384)
def okPort (p : Nat) : Bool := decide (p < 32)
def okFabEngine (e : Nat) : Bool := decide (e < 8)
def okFibre (f : Nat) : Bool := decide (f < 8)
def okChip (n : Nat) : Bool := okBits 20 n
def okFseq (n : Nat) : Bool := okBits 24 n
def okSem (n : Nat) : Bool := decide (n < 131072)
def okGroup (g : Nat) : Bool := decide (g < 4096)
/-- The fields of Table FAB-3 and the payload of whole 64-byte units, at most 64 (R275). -/
def okFrame (f : Frame) : Bool :=
  okBits 3 f.type && okBits 2 f.vc && okU16 f.tag && okChip f.dst && okChip f.src && okFseq f.fseq &&
    okBits 160 f.area && decide (f.payload.length % 64 = 0 ∧ f.payload.length ≤ 4096)
/-- Engines of Table CMD-7, by tile or quarter in the low byte. -/
def okEngine (e : Nat) : Bool := okU16 e
/-- An engine of Table CMD-7, or 2^16 and an Innkeeper core (R361). -/
def okHungEngine (e : Nat) : Bool := decide (e < 2 ^ 16 + 4)
def okTileEngine (e : Nat) : Bool := decide (e < 9)
def okAgent (a : Nat) : Bool := decide (a < 6)
/-- A partition, 4 for the chip, 5 for a power cycle (R368). -/
def okDomain (d : Nat) : Bool := decide (d < 6)
def okLevel (l : Nat) : Bool := decide (l < 4)
def okParityKind (k : Nat) : Bool := decide (k < 3)
def okResend (n : Nat) : Bool := decide (n ≤ 8)
/-- The 4-bit messageType of PTP (R298). -/
def okPtpKind (k : Nat) : Bool := decide (k < 16)
def okRlen (n : Nat) : Bool := decide (1 ≤ n ∧ n ≤ 64)
def okBurst (bs : List Byte) : Bool := decide (64 ≤ bs.length ∧ bs.length ≤ 4096 ∧ bs.length % 64 = 0)
def okLineData (bs : List Byte) : Bool := decide (bs.length = 64)
def okData (bs : List Byte) : Bool := decide (bs.length ≤ 4096 ∧ bs.length % 64 = 0)
def okRnlWidth (w : Nat) : Bool := decide (1 ≤ w ∧ w ≤ 3)
def okFlitSeq (n : Nat) : Bool := okBits 10 n
def okSct (n : Nat) : Bool := okBits 3 n
def okSnpSpeed (n : Nat) : Bool := decide (1 ≤ n ∧ n ≤ 4)
def okReplica (i : Nat) : Bool := decide (i < 3)
/-- One reading for each sensor (R419). -/
def okReadings (rs : List (Option Int)) : Bool := decide (rs.length = 249)
def okDaa (a : Nat) : Bool := okBits 7 a
def okTrayPos (n : Nat) : Bool := okBits 2 n
def okIr (n : Nat) : Bool := okBits 8 n
def okMsgType (n : Nat) : Bool := okBits 5 n

/-- The operands are within the widths and counts of the spec. -/
def wellFormed : Instr → Bool
  | .nop c w => okCtx c && (w.toNat / 2 ^ 56 == 0 || reservedOpcode (w.toNat / 2 ^ 56))
  | .add c _ => okCtx c
  | .sub c _ => okCtx c
  | .mul c _ => okCtx c
  | .and c _ => okCtx c
  | .or c _ => okCtx c
  | .xor c _ => okCtx c
  | .shl c _ => okCtx c
  | .shr c _ => okCtx c
  | .sra c _ => okCtx c
  | .cmp c _ => okCtx c
  | .addi c _ => okCtx c
  | .movi c _ => okCtx c
  | .cmpi c _ => okCtx c
  | .ld c _ => okCtx c
  | .ldu c _ => okCtx c
  | .st c _ => okCtx c
  | .l1inv c _ => okCtx c
  | .lds c _ => okCtx c
  | .sts c _ => okCtx c
  | .aadd c _ => okCtx c
  | .br c _ => okCtx c
  | .call c _ => okCtx c
  | .ret c _ => okCtx c
  | .loop c _ => okCtx c
  | .exit c _ => okCtx c
  | .semwait c _ => okCtx c
  | .semsig c _ => okCtx c
  | .barrier c _ => okCtx c
  | .fence c _ => okCtx c
  | .ringwait c _ => okCtx c
  | .ringrel c _ => okCtx c
  | .itstart c _ => okCtx c
  | .itstop c _ => okCtx c
  | .itstat c _ => okCtx c
  | .mma c _ => okCtx c
  | .mmaStreamStart tile => okTile tile
  | .mdrain c _ => okCtx c
  | .mzero c _ => okCtx c
  | .mread c _ => okCtx c
  | .mwrite c _ => okCtx c
  | .vadd c _ => okCtx c
  | .vsub c _ => okCtx c
  | .vmul c _ => okCtx c
  | .vfma c _ => okCtx c
  | .vmax c _ => okCtx c
  | .vmin c _ => okCtx c
  | .vcmp c _ => okCtx c
  | .vsel c _ => okCtx c
  | .vrsum c _ => okCtx c
  | .vrmax c _ => okCtx c
  | .vamax c _ => okCtx c
  | .vld c _ => okCtx c
  | .vst c _ => okCtx c
  | .vbcast c _ => okCtx c
  | .vperm c _ => okCtx c
  | .sexp c _ => okCtx c
  | .slog c _ => okCtx c
  | .srcp c _ => okCtx c
  | .srsq c _ => okCtx c
  | .sprog c _ => okCtx c
  | .dchain c _ => okCtx c
  | .cvt c _ => okCtx c
  | .cvtmx c _ => okCtx c
  | .rput c _ sram units _ => okCtx c && okSram sram && okU16 units
  | .racc c _ sram units _ op => okCtx c && okSram sram && okU16 units && okU4 op
  | .rsig c _ chip sem _ => okCtx c && okChip chip && okSem sem
  | .enq c _ => okCtx c
  | .signboardScan c _ => okCtx c
  | .contextSelect c => okCtx c
  | .contextSwitch c => okCtx c
  | .contextRetire c => okCtx c
  | .parityRefetch tile ring elem => okTile tile && okRing ring && okU32 elem
  | .tileCtlWrite tile _ => okTile tile
  | .itineraryLoop tile n => okTile tile && okSlot n
  | .stride tile n => okTile tile && okSlot n
  | .seta tile n => okTile tile && okSlot n
  | .itineraryFetch tile n => okTile tile && okSlot n
  | .gather tile n => okTile tile && okSlot n
  | .waitsem tile n => okTile tile && okSlot n
  | .sigsem tile n => okTile tile && okSlot n
  | .itineraryEnd tile n => okTile tile && okSlot n
  | .elementDelivery tile n _ => okTile tile && okSlot n
  | .elementWritten tile n _ => okTile tile && okSlot n
  | .mcastBind tile ring => okTile tile && okRing ring
  | .overwriteEvent pa => okPa pa
  | .dbTailWrite q width _ _ => okQueue q && okWidth width
  | .dbCqheadWrite q width _ _ => okQueue q && okWidth width
  | .commandAccept q now => okQueue q && okTime now
  | .commandStart p engine now => okPart p && okEngine engine && okTime now
  | .commandRetire q => okQueue q
  | .notifyUsExpiry q now => okQueue q && okTime now
  | .commandTimeout q k held now => okQueue q && okSeq k && okTileEngine held && okTime now
  | .queueEnable q => okQueue q
  | .queueStop q => okQueue q
  | .queueResume q => okQueue q
  | .queueFlush q => okQueue q
  | .queueDisable q => okQueue q
  | .qtrQselWrite quarter _ => okQuarter quarter
  | .nopCommand q k => okQueue q && okSeq k
  | .queueCtl q k => okQueue q && okSeq k
  | .copy q k => okQueue q && okSeq k
  | .fill q k => okQueue q && okSeq k
  | .bandSet q k => okQueue q && okSeq k
  | .satchelStore q k => okQueue q && okSeq k
  | .satchelRestore q k => okQueue q && okSeq k
  | .launch q k => okQueue q && okSeq k
  | .launchCheckDone c => okCtx c
  | .tableLoadSfu q k => okQueue q && okSeq k
  | .tableLoadSignboard q k => okQueue q && okSeq k
  | .addrInvalidate q k => okQueue q && okSeq k
  | .actSetDefine q k => okQueue q && okSeq k
  | .actSetRelease q k => okQueue q && okSeq k
  | .scaleStep q k => okQueue q && okSeq k
  | .semSignal q k => okQueue q && okSeq k
  | .semWait q k => okQueue q && okSeq k
  | .barrierCommand q k => okQueue q && okSeq k
  | .semSet q k => okQueue q && okSeq k
  | .pageMapAlloc q k => okQueue q && okSeq k
  | .pageMapWrite q k => okQueue q && okSeq k
  | .pageCopyDone q k => okQueue q && okSeq k
  | .pageMapDefine q k => okQueue q && okSeq k
  | .pageMapBank q k => okQueue q && okSeq k
  | .pageShare q k => okQueue q && okSeq k
  | .pageReleaseEntries q k => okQueue q && okSeq k
  | .pageReleaseReturn q k => okQueue q && okSeq k
  | .pageReleaseUnbank q k => okQueue q && okSeq k
  | .pageReleaseUndefine q k => okQueue q && okSeq k
  | .kvPass q k => okQueue q && okSeq k
  | .tallyContribute q k => okQueue q && okSeq k
  | .tallyFinish q k => okQueue q && okSeq k
  | .tallyOpen q k => okQueue q && okSeq k
  | .tallyClose q k => okQueue q && okSeq k
  | .snapBegin q k => okQueue q && okSeq k
  | .snapCommit q k => okQueue q && okSeq k
  | .restore q k => okQueue q && okSeq k
  | .spareFill q k => okQueue q && okSeq k
  | .spareAdmit q k => okQueue q && okSeq k
  | .powerHint q k => okQueue q && okSeq k
  | .bellArm q k => okQueue q && okSeq k
  | .bellDisarm q k => okQueue q && okSeq k
  | .dump q k => okQueue q && okSeq k
  | .groupSet q k => okQueue q && okSeq k
  | .groupClear q k => okQueue q && okSeq k
  | .dispatchTableLoad q k => okQueue q && okSeq k
  | .paramGather q k => okQueue q && okSeq k
  | .dispatch q k => okQueue q && okSeq k
  | .attest q k => okQueue q && okSeq k
  | .debugChallenge q k => okQueue q && okSeq k
  | .debugUnlock q k => okQueue q && okSeq k
  | .debugLock q k => okQueue q && okSeq k
  | .lcTransition q k => okQueue q && okSeq k
  | .svnAdvance q k => okQueue q && okSeq k
  | .keyRevoke q k => okQueue q && okSeq k
  | .ldgEntrySelWrite _ => true
  | .tlyCtxSelWrite _ => true
  | .peakReset quarter _ => okQuarter quarter
  | .registerWrite pa width _ => okPa pa && okWidth width
  | .rcFieldRead pa width => okPa pa && okWidth width
  | .scrubGranule chan now => okChannel chan && okTime now
  | .scrubForced chan now => okChannel chan && okTime now
  | .channelTrain chan _ => okChannel chan
  | .wipeDone p now => okPart p && okTime now
  | .transferParityError kind nth => okParityKind kind && okResend nth
  | .hangPath engine tileEng now => okHungEngine engine && okTileEngine tileEng && okTime now
  | .suspectProbeExpiry engine tileEng _ now => okHungEngine engine && okTileEngine tileEng && okTime now
  | .suspendRelease p => okPart p
  | .firmwareHeartbeat agent now => okAgent agent && okTime now
  | .heartbeatLoss agent now => okAgent agent && okTime now
  | .npHeartbeat => true
  | .crashDump now => okTime now
  | .scanReadTimeout _ _ => true
  | .holdEnd dom now => okDomain dom && okTime now
  | .dumpAck _ => true
  | .resetReqPartition _ => true
  | .resetReqChip _ => true
  | .resetReqPowerCycle _ => true
  | .escalation level _ _ now => okLevel level && okTime now
  | .contextReset c => okCtx c
  | .engineReset engine tileEng => okHungEngine engine && okTileEngine tileEng
  | .partitionReset p now => okPart p && okTime now
  | .chipReset now => okTime now
  | .powerCycle => true
  | .laserInputLow engine fibre level now => okFabEngine engine && okFibre fibre && okU8 level && okTime now
  | .laserInputRestored engine fibre level now => okFabEngine engine && okFibre fibre && okU8 level && okTime now
  | .portBringup port now => okPort port && okTime now
  | .portUp port now => okPort port && okTime now
  | .portFault port now => okPort port && okTime now
  | .portDown port _ _ now => okPort port && okTime now
  | .retrain engine _ => okFabEngine engine
  | .calWindow port now => okPort port && okTime now
  | .calForced port now => okPort port && okTime now
  | .calDone port now => okPort port && okTime now
  | .caravanWrite now port _ f => okTime now && okPort port && okFrame f
  | .caravanRead now port _ f => okTime now && okPort port && okFrame f
  | .caravanReadResponse now port _ f => okTime now && okPort port && okFrame f
  | .caravanAccumulate now port _ f => okTime now && okPort port && okFrame f
  | .caravanTallyExp now port _ f => okTime now && okPort port && okFrame f
  | .caravanTallyMant now port _ f => okTime now && okPort port && okFrame f
  | .caravanTallyPublish now port _ f => okTime now && okPort port && okFrame f
  | .expDeadline gnum step now => okGroup gnum && okU32 step && okTime now
  | .closeDeadline gnum step now => okGroup gnum && okU32 step && okTime now
  | .partialWaitExpiry gnum chunk step now => okGroup gnum && okU32 chunk && okU32 step && okTime now
  | .caravanSemSignal now port _ f => okTime now && okPort port && okFrame f
  | .caravanKvPass now port _ f => okTime now && okPort port && okFrame f
  | .caravanDispatch now port _ f => okTime now && okPort port && okFrame f
  | .linkInit now port _ f _ _ _ => okTime now && okPort port && okFrame f
  | .caravanCredit now port _ f _ _ _ => okTime now && okPort port && okFrame f
  | .linkAck now port _ f => okTime now && okPort port && okFrame f
  | .flowOpen now port _ f => okTime now && okPort port && okFrame f
  | .flowAccept now port _ f => okTime now && okPort port && okFrame f
  | .ack now port _ f => okTime now && okPort port && okFrame f
  | .status now port _ f => okTime now && okPort port && okFrame f
  | .ptp now port _ f kind domain seq time _ _ _ => okTime now && okPort port && okFrame f && okPtpKind kind && okU8 domain && okU16 seq && okU80 time
  | .idAssign now port _ f chip tag => okTime now && okPort port && okFrame f && okChip chip && okU16 tag
  | .memberLost now port _ f chip => okTime now && okPort port && okFrame f && okChip chip
  | .memberReplace now port _ f old new tray => okTime now && okPort port && okFrame f && okChip old && okChip new && okU32 tray
  | .fenceClear now port _ f chip => okTime now && okPort port && okFrame f && okChip chip
  | .shareSet now port _ f _ _ => okTime now && okPort port && okFrame f
  | .routeSet now port _ f _ => okTime now && okPort port && okFrame f
  | .bellShift now port _ f step _ => okTime now && okPort port && okFrame f && okU32 step
  | .retransmitTimeout p dst fseq now => okPart p && okChip dst && okFseq fseq && okTime now
  | .noRoute p dst now => okPart p && okChip dst && okTime now
  | .flowRetire p peer _ now => okPart p && okChip peer && okTime now
  | .timeHoldover now => okTime now
  | .ppsInEdge now => okTime now
  | .ppsOutPulse now => okTime now
  | .fabTimeSet _ => true
  | .fabTimeNsRead => true
  | .departureBell p now => okPart p && okTime now
  | .telemetrySample now => okTime now
  | .drainWindow p now => okPart p && okTime now
  | .drainDeadline p now => okPart p && okTime now
  | .hintFire p start now => okPart p && okTime start && okTime now
  | .hintEnd p start now => okPart p && okTime start && okTime now
  | .mrd tag addr rlen => okU16 tag && okLine addr && okRlen rlen
  | .mrdS tag addr => okU16 tag && okLine addr
  | .mrdM tag addr => okU16 tag && okLine addr
  | .mwr tag addr _ data => okU16 tag && okLine addr && okBurst data
  | .wb addr data => okLine addr && okLineData data
  | .evict addr => okLine addr
  | .cpl tag status => okU16 tag && okU16 status
  | .cplData tag status data => okU16 tag && okU16 status && okData data
  | .wrDone tag => okU16 tag
  | .snpRsp line data _ => okLine line && okData data
  | .credit _ _ _ _ _ => true
  | .snoopTimeout line now => okLine line && okTime now
  | .linkDown now => okTime now
  | .linkTrainingStart now => okTime now
  | .linkActive width _ _ _ _ _ _ now => okRnlWidth width && okTime now
  | .linkTrainingTimeout now => okTime now
  | .flitNak _ seq _ => okFlitSeq seq
  | .linkRecovery now => okTime now
  | .recoveryTimeout now => okTime now
  | .linkRetrain _ => true
  | .l1Entry now => okTime now
  | .l1Exit now => okTime now
  | .bootOffer addr len => okPa addr && okU32 len
  | .bootHello now => okTime now
  | .romInitDone _ => true
  | .imageVerify => true
  | .firmwareRunning now => okTime now
  | .nvmeCompletion _ sct sc now => okSct sct && okU8 sc && okTime now
  | .nvmeTimeout _ _ now => okTime now
  | .snapshotPortTrain speed width _ now => okSnpSpeed speed && okRnlWidth width && okTime now
  | .replicaChunk p i now => okPart p && okReplica i && okTime now
  | .capLoopPeriod _ _ now => okTime now
  | .capUnmet now => okTime now
  | .trayCapWrite code => okU8 code
  | .droop tile => okTile tile
  | .droopRelease tile => okTile tile
  | .softStart tile now => okTile tile && okTime now
  | .idleEntry now => okTime now
  | .wake now => okTime now
  | .stateReqActive _ => true
  | .stateReqDeep _ => true
  | .stateReqNight _ now => okTime now
  | .i3cStateReqNight _ now => okTime now
  | .i3cStateReqWake now => okTime now
  | .nightWake now => okTime now
  | .npSample readings now => okReadings readings && okTime now
  | .entdaa addr => okDaa addr
  | .pwrFailN now => okTime now
  | .npStart pos now => okTrayPos pos && okTime now
  | .railGood _ _ now => okTime now
  | .chipResetN _ _ now => okTime now
  | .jtagInstruction code => okIr code
  | .vddNpLost now => okTime now
  | .snapshotLinkDown now => okTime now
  | .wipeFailed chan pct => okChannel chan && okU8 pct
  | .recoveryDone now => okTime now
  | .controlIgnored now port _ f => okTime now && okPort port && okFrame f
  | .messageDropped type => okMsgType type
  | .hubStoreDoubleBit => true

end Sys2Proof
end

