-- ==== Sys2Proof/Safety.lean ====
section
/-!
DEFINITION. The terms in which claims are stated: a command that completes, a tile instruction that
issues, a started hub command, and what a command may change.
-/

namespace Sys2Proof.Machine

/-- The command runs from `s` to a next state whose device satisfies `P`; the commands that wait and the
fuses stay. -/
def Completes (i : Instr) (s : State) (P : Dev → Prop) : Prop :=
  ∃ t, exec i s = .next t ∧ t.pending = s.pending ∧ t.fuses = s.fuses ∧ P t.dev

/-- The same, for a command that may burn fuses. -/
def CompletesF (i : Instr) (s : State) (P : Dev → Fuses → Prop) : Prop :=
  ∃ t, exec i s = .next t ∧ t.pending = s.pending ∧ P t.dev t.fuses

/-- The hub's clocks run (R416, R420, R452, R453). -/
def Live (s : State) : Prop := s.dev.live = true

/-- The commands of the Night Porter, of the pins and of the test port act whether or not the hub runs; every
other one needs the hub. -/
def needsHub : Instr → Bool
  | .trayCapWrite _ | .i3cStateReqWake _ | .nightWake _ | .npHeartbeat | .powerCycle | .npSample _ _ | .npStart _ _
  | .vddNpLost _ | .entdaa _ | .pwrFailN _ | .railGood _ _ _ | .chipResetN _ _ _ | .jtagInstruction _ => false
  | _ => true

/-- The commands that may burn fuses (R431). -/
def burnsFuses : Instr → Bool
  | .lcTransition _ _ | .svnAdvance _ _ | .keyRevoke _ _ => true
  | _ => false

/-- An instruction of context `c` issues to engine `e`: the context runs and is not held back (R44, R368,
R371), the predicate is true (R53) and the engine is not in recovery (R370). -/
def Issues (s : State) (c : Nat) (w : TWord) (e : Eng) : Prop :=
  Live s ∧ canIssue s.dev c = true ∧ (ctxAt s.dev c).executes w = true ∧ engineTakes s.dev c e = true

/-- Nothing but context `c` changes: no other context, no register, no memory. -/
def OnlyCtx (d d' : Dev) (c : Nat) : Prop := d' = setCtx d c (ctxAt d' c)

/-- The PC moves on by one instruction; at the end of a loop body R55's LOOP decides. -/
def NextPc (x x' : Ctx) : Prop :=
  (x'.pc, x'.loops) = loopNext ((x.pc + 8) % 2 ^ 48) x.loops ∧ x'.wait = .none

/-- The instruction writes `v` to scalar register `i`, S0 excepted (R45), and nothing else of the
machine. -/
def SetsSreg (d d' : Dev) (c i : Nat) (v : Word) : Prop :=
  OnlyCtx d d' c ∧ NextPc (ctxAt d c) (ctxAt d' c) ∧
    (∀ j, (ctxAt d' c).sreg j = if j = i ∧ j ≠ 0 then v else (ctxAt d c).sreg j) ∧
    ctxAt d' c = { ctxAt d c with
      sregs := (ctxAt d' c).sregs, pc := (ctxAt d' c).pc, loops := (ctxAt d' c).loops, wait := .none }

/-- The instruction writes `b` to predicate `i`, P0 excepted (R45), and nothing else of the machine. -/
def SetsPred (d d' : Dev) (c i : Nat) (b : Bool) : Prop :=
  OnlyCtx d d' c ∧ NextPc (ctxAt d c) (ctxAt d' c) ∧
    (∀ j, (ctxAt d' c).pred j = if j = i ∧ j ≠ 0 then b else (ctxAt d c).pred j) ∧
    ctxAt d' c = { ctxAt d c with
      preds := (ctxAt d' c).preds, pc := (ctxAt d' c).pc, loops := (ctxAt d' c).loops, wait := .none }

/-- The instruction writes `v` to vector register `i`, ORs `fl` into the sticky flags (R91), and changes
nothing else of the machine. -/
def SetsVreg (d d' : Dev) (c i : Nat) (v : VReg) (fl : Flags) : Prop :=
  OnlyCtx d d' c ∧ NextPc (ctxAt d c) (ctxAt d' c) ∧ (ctxAt d' c).vreg i = v ∧
    (∀ j, j ≠ i → (ctxAt d' c).vreg j = (ctxAt d c).vreg j) ∧
    ctxAt d' c = { ctxAt d c with
      vregs := (ctxAt d' c).vregs, flags := (ctxAt d c).flags.or fl, pc := (ctxAt d' c).pc,
      loops := (ctxAt d' c).loops, wait := .none }

/-- Nothing that context `c` issued earlier is on its way, no MMA of it is queued, and no fault of it is
pending. -/
def Settled (d : Dev) (c : Nat) : Prop :=
  (ctxAt d c).writesOut = [] ∧ (ctxAt d c).remoteOut = [] ∧ (ctxAt d c).pend = none ∧ mmaBusy d c = false

/-- The instruction at the PC faults with a status at an engine: the context is FAULTED, its PC, registers and
loops stay, and of the rest of the device only TILE_NUM_FLAGS of its tile changes (R51, R91). -/
def FaultsAt (d d' : Dev) (c st : Nat) (e : Eng) (addr : Nat) : Prop :=
  d' = { setCtx d c (ctxAt d' c) with regs := d'.regs } ∧
    (∀ key, key ≠ Reg.tileNumFlags.key (tileOf c) 0 → mget 0 d'.regs key = mget 0 d.regs key) ∧
    ctxAt d' c = { ctxAt d c with
      state := .faulted, wait := .none, fStatus := st, fEngine := e.code, fAddr := addr % 2 ^ 64,
      ops := [], pend := none, faultAt := d.clock }

/-- The instruction waits for nothing more and the PC moves on; of the device only the context has changed,
besides what `d` has already. -/
def MovesOn (d d' : Dev) (c : Nat) : Prop := SetsSreg d d' c 0 0

/-- Engine `e` of context `c` stores bytes at SRAM address `a`: they lie there with good parity, every other
byte of the SRAM is as before, the PC moves on, and nothing else changes but the record of what readers on
other engines may still see (R47, R72, R73). -/
def StoresSram (d d' : Dev) (c : Nat) (a : Nat) (bs : List Byte) : Prop :=
  let t := tileOf c
  sramGet d' t a bs.length = bs ∧
    (∀ k, k < sramKey t a ∨ sramKey t a + bs.length ≤ k → mget 0 d'.tiles.sram k = mget 0 d.tiles.sram k) ∧
    parityOf d' t [(a, bs.length)] = .ok ∧ (∀ k, 4 * k + 4 ≤ sramKey t a ∨ sramKey t a + bs.length ≤ 4 * k →
      (k ∈ d'.tiles.sramBad ↔ k ∈ d.tiles.sramBad)) ∧
    d' = { setCtx d c (ctxAt d' c) with tiles.sram := d'.tiles.sram, tiles.sramBad := d'.tiles.sramBad } ∧
    NextPc (ctxAt d c) (ctxAt d' c) ∧
    ctxAt d' c = { ctxAt d c with
      unfenced := (ctxAt d' c).unfenced, pc := (ctxAt d' c).pc, loops := (ctxAt d' c).loops, wait := .none }

/-- `bs` is what engine `e` of the context may read at SRAM address `a`: each byte is the one there or, where
another engine wrote it and nothing has ordered the write, one from before it (R47). -/
def MayRead (d : Dev) (c : Nat) (e : Eng) (a : Nat) (bs : List Byte) : Prop :=
  ∀ i, i < bs.length → bs.getD i 0 = mget 0 d.tiles.sram (sramKey (tileOf c) a + i) ∨
    ∃ u ∈ (ctxAt d c).unfenced, u.eng ≠ e.code ∧ u.addr ≤ a + i ∧ a + i < u.addr + u.old.length ∧
      bs.getD i 0 = u.old.getD (a + i - u.addr) 0

/-- Command `k` of queue `q`, with opcode `op`, is started, no unsettled suspect (R371), and its engine
works on it. -/
def CmdRuns (s : State) (q k op : Nat) (y : Cmd) : Prop :=
  Live s ∧ cmdAt s.dev q k = some y ∧ y.st = .started ∧ y.opcode = op ∧ isSuspect s.dev q k = false ∧
    y.step < 2 ^ 32

/-- The device in which an access of a command begins: with no window write of its own outstanding. -/
def clean (s : State) : Dev := { s.dev with rnl := { s.dev.rnl with fresh := [] } }

/-- Command `k` of queue `q` has finished with a status and a result word (R338). -/
def EndsWith (d : Dev) (q k st : Nat) (v : Word) : Prop :=
  ∃ z, cmdAt d q k = some z ∧ z.st = .finished ∧ z.status = st ∧ z.result = v

/-- Of queue `q` only command `k` changes, beside how long others have been ready (R346), and nothing else
of the device. -/
def OnlyCmd (d d' : Dev) (q k : Nat) : Prop :=
  d' = { d with hub := { d.hub with queues := d'.hub.queues } } ∧
    (∀ p, p ≠ q → queueAt d' p = queueAt d p) ∧
    queueAt d' q = { queueAt d q with cmds := (queueAt d' q).cmds, deficit := (queueAt d' q).deficit } ∧
    ∀ j, j ≠ k → (cmdAt d' q j).map (fun z => { z with readyAt := none }) =
      (cmdAt d q j).map fun z => { z with readyAt := none }

/-- Command `k` of queue `q` finishes, and nothing else of the device changes. -/
def Finishes (d d' : Dev) (q k st : Nat) (v : Word) : Prop := OnlyCmd d d' q k ∧ EndsWith d' q k st v

/-- The same, with a result word that the spec does not state. -/
def FinishesFree (d d' : Dev) (q k st : Nat) : Prop :=
  ∃ v, Finishes { d with free := d.free + 1 } d' q k st v

/-- `d` is what a turn of an engine leaves that makes an access in `d0`: what `ok` says of its answer, what `bad` says of
a status, and where the access must wait for the companion, `before` with what the wait sends (R320). -/
def Turn {α : Type} (before d0 d : Dev) (act : Act α) (ok : α → Dev → Prop) (bad : Nat → Dev → Prop) : Prop :=
  match act.go { d0 with rnl.fresh := [] } with
  | (.ok a, d1) => ok a d1
  | (.error (.err st _), d1) => bad st d1
  | (.error (.wait n), d1) => d = waitDev before d1 n

/-- The same for a turn that begins with a group's image read in place (R290): `ok` says what follows, `bad` what a
status leaves, NOT_ADMITTED on a chip whose own entry is FILLING among them (R291). -/
def GroupTurn (d0 d : Dev) (g : Group) (ok : Dev → Prop) (bad : Nat → Dev → Prop) : Prop :=
  Turn d0 d0 d (readGroup g) (fun _ d1 => if selfFilling d1 g = true then bad 0x0642 d1 else ok d1) bad

/-- Command `k` of queue `q` becomes `z`, and nothing else of the device changes. -/
def Becomes (d d' : Dev) (q k : Nat) (z : Cmd) : Prop := OnlyCmd d d' q k ∧ cmdAt d' q k = some z

/-! ### Frames -/

/-- A good frame is the next in order on an UP port; `d1` is the device with it taken by the link level
(R277). -/
def Taken (s : State) (now port : Nat) (trailer : Word) (f : Frame) (d1 : Dev) : Prop :=
  Live s ∧ port < 32 ∧ portIn s.dev port .up = true ∧
    linkIn (advanceTo s.dev now) port trailer f = (true, d1)

/-- A packet taken in `d1` is for its partition, of an open flow of a source not shut out, and new in its
turn on a flow with nothing waiting (R280, R281); `d2` is the device in which it is applied. -/
def Fresh (d1 : Dev) (port : Nat) (f : Frame) (d2 : Dev) : Prop :=
  let p := partOfPort d1 port
  chipIdValid d1 p = true ∧ f.dst = chipId d1 p ∧ sourceShut d1 p f.src = false ∧ f.tag = jobTag d1 p ∧
    ∃ x, findRx d1 p f.src = some x ∧ x.seen f.fseq = false ∧ x.waiting = [] ∧ inTurn x f = true ∧
      d2 = updRx d1 p f.src fun y => { y with waiting := y.waiting ++ [(port, f)], usedAt := d1.clock }

/-- Nothing waits for the companion: no request of its own and no packet. -/
def Quiet (d : Dev) : Prop := d.rnl.reqs = [] ∧ ∀ x ∈ d.fab.rx, x.waiting = []

/-- The packet is answered with a status in `d3` and waits no more. -/
def answeredIn (d3 : Dev) (p : Nat) (f : Frame) (status : Nat) : Dev :=
  updRx (answerPkt d3 p f.src f.fseq status) p f.src fun y =>
    { y with waiting := y.waiting.filter fun e => e.2.fseq ≠ f.fseq }

end Sys2Proof.Machine
end

