-- ==== Sys2Proof/Certificates/Slice0/Obligations.lean ====
section
/-!
DEFINITION. The statements for the provers, family by family. Each docstring says what its statement
claims and cites the rules it rests on; a clause that rests on a choice of the model names its log entry.
-/

open Sys2Proof
open Sys2Proof.Machine

/-- The scalar ALU writes its result to D and nothing else. For every state, context and word whose
instruction issues to the scalar ALU with its reserved bits 0: D becomes S1 op S2 in 64 bits, unless D
is S0, the PC moves on, and nothing else changes. For every state, context and word whose shift issues
with its reserved bits 0: for an amount below 64, D becomes S1 shifted left, right, or right with the
sign; for an amount of 64 or more, for which the spec states no result, D becomes some value (log 14).
Either way the PC moves on and nothing else changes, but the count of free values in the second case.
For every state, context and word whose instruction issues to the scalar ALU: NOP with its reserved bits
0 and an opcode that is not reserved moves on and changes nothing else; ADDI writes S1 + IMM to D; MOVI
writes IMM to D, or with MOD[0] = 1 only D[63:32], from IMM[31:0]. For every state, context and word
whose comparison issues: with one of the six conditions, P[D[2:0]] becomes the truth of S1 cond S2
(CMPI: S1 cond IMM), unless it is P0, the PC moves on, and nothing else changes; with any other
condition code the context faults with ILLEGAL_INSTRUCTION. (R45, R53, R55, Table TIL-4, R54) -/
def Obligations.ScalarAluResults : Prop :=
  -- ADD, SUB, MUL, AND, OR and XOR write S1 op S2 and nothing else.
  (∀ (s : State) (c : Nat) (w : TWord), Issues s c w .scalar → aPlain w = true →
    let x := ctxAt s.dev c
    ∀ r ∈ ([(Instr.add, (· + ·)), (Instr.sub, (· - ·)), (Instr.mul, (· * ·)), (Instr.and, (· &&& ·)),
        (Instr.or, (· ||| ·)), (Instr.xor, (· ^^^ ·))] :
        List ((Nat → TWord → Instr) × (Word → Word → Word))),
      Completes (r.1 c w) s fun d => SetsSreg s.dev d c w.aD (r.2 (x.sreg w.aS1) (x.sreg w.aS2))) ∧
  -- SHL, SHR and SRA write S1 shifted by S2 and nothing else.
  (∀ (s : State) (c : Nat) (w : TWord), Issues s c w .scalar → aPlain w = true →
    let x := ctxAt s.dev c
    let n := (x.sreg w.aS2).toNat
    ∀ r ∈ ([(Instr.shl, fun a n => a <<< n), (Instr.shr, fun a n => a >>> n),
        (Instr.sra, fun a n => BitVec.sshiftRight a n)] :
        List ((Nat → TWord → Instr) × (Word → Nat → Word))),
      (n < 64 → Completes (r.1 c w) s fun d => SetsSreg s.dev d c w.aD (r.2 (x.sreg w.aS1) n)) ∧
      (64 ≤ n → Completes (r.1 c w) s fun d =>
        ∃ v, SetsSreg { s.dev with free := s.dev.free + 1 } d c w.aD v)) ∧
  -- NOP changes nothing but the PC; ADDI and MOVI write D and nothing else.
  (∀ (s : State) (c : Nat) (w : TWord), Issues s c w .scalar →
    let x := ctxAt s.dev c
    (∀ u : BitVec 64, u.setWidth 56 = w → reservedOpcode (bits u.toNat 63 56) = false → aPlain w = true →
      Completes (.nop c u) s fun d => MovesOn s.dev d c) ∧
    Completes (.addi c w) s (fun d => SetsSreg s.dev d c w.bD (x.sreg w.bS1 + w.bImm)) ∧
    Completes (.movi c w) s (fun d =>
      if w.bMod % 2 = 0 then SetsSreg s.dev d c w.bD w.bImm
      else ∃ v : Word, SetsSreg s.dev d c w.bD v ∧ wbits v 63 32 = w.bImmRaw ∧
        wbits v 31 0 = wbits (x.sreg w.bD) 31 0)) ∧
  -- CMP and CMPI write the predicate D[2:0] and nothing else.
  (∀ (s : State) (c : Nat) (w : TWord), Issues s c w .scalar →
    let x := ctxAt s.dev c
    let cond (a b : Word) : List Bool :=
      [a == b, a != b, decide (a.toInt < b.toInt), decide (b.toInt ≤ a.toInt), decide (a.toNat < b.toNat),
        decide (b.toNat ≤ a.toNat)]
    (w.aRes = true → w.aRnd ≤ 4 → Completes (.cmp c w) s fun d =>
      match (cond (x.sreg w.aS1) (x.sreg w.aS2))[w.aFmt]? with
      | some b => SetsPred s.dev d c (w.aD % 8) b
      | none => Settled s.dev c → FaultsAt s.dev d c 0x0401 .scalar 0) ∧
    Completes (.cmpi c w) s (fun d =>
      match (cond (x.sreg w.bS1) w.bImm)[w.bMod % 16]? with
      | some b => SetsPred s.dev d c (w.bD % 8) b
      | none => Settled s.dev c → FaultsAt s.dev d c 0x0401 .scalar 0))

/-- BR, CALL, RET and LOOP set the PC, S31 and the loops and nothing else; a loop body repeats until its
passes are done. For every state, context and word whose instruction issues, outside the end of any loop
body that the target meets: BR goes to PC + 8 × OFF; CALL does so and writes PC + 8 to S31; RET goes to
S31. LOOP with OFF of at least 1 and fewer than two loops active begins a loop of the next OFF
instructions, S1 passes, or, for S1 = 0, goes past them. Nothing outside the context changes. For every
state in which an instruction that ends the innermost loop body issues (NOP stands for it): with more
than one pass left, the PC returns to the start of the body and one pass fewer is left; with the last
pass done, the loop is dropped and the PC goes on after the body, unless an outer body ends there too.
(R45, R53, R55, Table TIL-4) -/
def Obligations.ControlFlowResults : Prop :=
  -- BR, CALL, RET and LOOP set the PC, S31 and the loops and nothing else.
  (∀ (s : State) (c : Nat) (w : TWord), Issues s c w .scalar →
    let x := ctxAt s.dev c
    let target := wrapN 48 ((x.pc : Int) + 8 * w.cOff)
    ((∀ l ∈ x.loops, l.stop ≠ target) →
      Completes (.br c w) s (fun d => OnlyCtx s.dev d c ∧
        ctxAt d c = { x with pc := target, wait := .none }) ∧
      Completes (.call c w) s (fun d => OnlyCtx s.dev d c ∧
        (∀ j, (ctxAt d c).sreg j = if j = 31 then toW (x.pc + 8) else x.sreg j) ∧
        ctxAt d c = { x with sregs := (ctxAt d c).sregs, pc := target, wait := .none })) ∧
    ((∀ l ∈ x.loops, l.stop ≠ (x.sreg 31).toNat / 8 * 8 % 2 ^ 48) →
      Completes (.ret c w) s (fun d => OnlyCtx s.dev d c ∧
        ctxAt d c = { x with pc := (x.sreg 31).toNat / 8 * 8 % 2 ^ 48, wait := .none })) ∧
    (1 ≤ w.cOff → x.loops.length < 2 →
      let stop := wrapN 48 ((x.pc : Int) + 8 + 8 * w.cOff)
      let n := (x.sreg w.cS1).toNat
      (n = 0 → (∀ l ∈ x.loops, l.stop ≠ stop) →
        Completes (.loop c w) s (fun d => OnlyCtx s.dev d c ∧ ctxAt d c = { x with pc := stop, wait := .none })) ∧
      (n ≠ 0 → Completes (.loop c w) s (fun d => OnlyCtx s.dev d c ∧
        ctxAt d c = { x with
          pc := (x.pc + 8) % 2 ^ 48, loops := ⟨x.pc + 8, stop, n⟩ :: x.loops, wait := .none })))) ∧
  -- At the end of a loop body the next pass starts until none is left.
  (∀ (s : State) (c : Nat) (w : TWord) (l : Loop) (ls : List Loop), Issues s c w .scalar → aPlain w = true →
    let x := ctxAt s.dev c
    let nop : Instr := .nop c (w.setWidth 64)
    x.loops = l :: ls → l.stop = (x.pc + 8) % 2 ^ 48 →
    (1 < l.left → Completes nop s fun d => OnlyCtx s.dev d c ∧
      ctxAt d c = { x with pc := l.start, loops := { l with left := l.left - 1 } :: ls, wait := .none }) ∧
    (l.left ≤ 1 → (∀ m ∈ ls, m.stop ≠ l.stop) → Completes nop s fun d => OnlyCtx s.dev d c ∧
      ctxAt d c = { x with pc := l.stop, loops := ls, wait := .none }))

/-- An instruction whose predicate is false only moves the PC on. For every tile instruction, every state
and context, and whatever its other operands are: while the context can issue and P[PSEL] XOR PNEG is 0,
the instruction changes nothing but the PC; while the context cannot issue, nothing changes at all.
(R53) -/
def Obligations.NotExecutedHasNoEffect : Prop :=
  ∀ (s : State) (c : Nat) (w : TWord), Live s →
    ∀ (sram units op chip sem : Nat) (target amount : Word),
    ∀ i ∈ ([fun c w => Instr.nop c (w.setWidth 64), .add, .sub, .mul, .and, .or, .xor, .shl, .shr, .sra, .cmp, .addi, .movi, .cmpi, .ld, .ldu,
        .st, .l1inv, .lds, .sts, .aadd, .br, .call, .ret, .loop, .exit, .semwait, .semsig, .barrier, .fence,
        .ringwait, .ringrel, .itstart, .itstop, .itstat, .mma, .mdrain, .mzero, .mread, .mwrite, .vadd, .vsub,
        .vmul, .vfma, .vmax, .vmin, .vcmp, .vsel, .vrsum, .vrmax, .vamax, .vld, .vst, .vbcast, .vperm, .sexp,
        .slog, .srcp, .srsq, .sprog, .dchain, .cvt, .cvtmx, .enq, .signboardScan,
        fun c w => .rput c w sram units target, fun c w => .racc c w sram units target op,
        fun c w => .rsig c w chip sem amount] :
        List (Nat → TWord → Instr)),
      (canIssue s.dev c = true → (ctxAt s.dev c).executes w = false →
        Completes (i c w) s fun d => MovesOn s.dev d c) ∧
      (canIssue s.dev c = false → exec (i c w) s = .next s)

/-- LD, LDU, ST and AADD access the 8 bytes of their address through translation, and L1INV drops the lines
of its ASID. For every state, context and word of a load that issues, with address S1 + IMM: an address
that is not a multiple of 8 faults the context with MISALIGNED at that address. Where the address
translates to DRAM or the companion window and its line is readable (through L1 for LD of DRAM, directly
otherwise), the 8 bytes at the address go to D, and where it translates to a doorbell page of a queue
open to the ASID, what the page shows; the PC moves on, and nothing changes besides what the translation
and the line read changed. For every state, context and word of ST or AADD that issues, with an address
S1 + IMM that is a multiple of 8 and translates to DRAM or, for ST, to the companion window or an open
doorbell page: where the access succeeds, ST has written the 8 bytes of S2 and AADD has written old +
S2, with the old value in D; the line L1 holds of the address, if any, takes the new bytes; and nothing
else changes besides what the access itself changed. For every state, context and word whose L1INV
issues: no L1 line of the context's ASID is left on its tile, every other line stays, the PC moves on,
and nothing else changes. (R52, R464, Table TIL-4) -/
def Obligations.ScalarMemoryResults : Prop :=
  -- LD and LDU write the 8 bytes of the address they translate to D, or fault on a misaligned one.
  (∀ (s : State) (c : Nat) (w : TWord), Issues s c w .mem →
    let x := ctxAt s.dev c
    let a := (x.sreg w.bS1 + w.bImm).toNat
    (a % 8 ≠ 0 → Settled s.dev c → ∀ i ∈ [Instr.ld c w, .ldu c w, .st c w, .aadd c w, .lds c w, .sts c w],
      Completes i s fun d => FaultsAt s.dev d c 0x0415 .mem a) ∧
    (a % 8 = 0 → ∀ (pa q : Nat) (coh : Bool) (d1 : Dev),
      (translate (ctxSpace s.dev c) a false).go s.dev = (.ok (pa, coh), d1) →
      (∀ (d2 : Dev) (bs : List Byte),
        (regionOf pa = .dram q → (l1Read (tileOf c) x.asid a pa).go d1 = (.ok bs, d2) →
          Completes (.ld c w) s fun d => SetsSreg d2 d c w.bD (toW (leAt bs (a % 64) 8))) ∧
        ((atVirtual a (readLine (alignDown 64 pa) coh)).go d1 = (.ok bs, d2) →
          (regionOf pa = .dram q ∨ regionOf pa = .window →
            Completes (.ldu c w) s fun d => SetsSreg d2 d c w.bD (toW (leAt bs (a % 64) 8))) ∧
          (regionOf pa = .window →
            Completes (.ld c w) s fun d => SetsSreg d2 d c w.bD (toW (leAt bs (a % 64) 8))))) ∧
      (regionOf pa = .doorbell q → doorbellDenied d1 x.asid pa = false → ∀ i ∈ [Instr.ld c w, .ldu c w],
        Completes i s fun d => SetsSreg d1 d c w.bD (readDoorbell d1 pa)))) ∧
  -- ST stores S2 in 8 bytes and AADD adds it there and returns the old value.
  (∀ (s : State) (c : Nat) (w : TWord), Issues s c w .mem →
    let x := ctxAt s.dev c
    let a := (x.sreg w.bS1 + w.bImm).toNat
    let v := x.sreg w.bD
    a % 8 = 0 → ∀ (pa q : Nat) (coh : Bool) (d1 d2 : Dev),
      (translate (ctxSpace s.dev c) a true).go s.dev = (.ok (pa, coh), d1) →
      (regionOf pa = .dram q ∨ regionOf pa = .window →
        (atVirtual a (writePhys .software pa (leBytes 8 v.toNat) coh)).go d1 = (.ok (), d2) →
        Completes (.st c w) s fun d =>
          MovesOn (l1Update (ownWrites d2 c a) (tileOf c) x.asid a (leBytes 8 v.toNat)) d c) ∧
      (regionOf pa = .doorbell q → doorbellDenied d1 x.asid pa = false →
        Completes (.st c w) s fun d => MovesOn (writeDoorbell d1 pa v) d c) ∧
      (regionOf pa = .dram q → ∀ (bs : List Byte) (dr : Dev), (readPhys pa 8).go d1 = (.ok bs, dr) →
        (writePhys .software pa (leBytes 8 (leNat bs + v.toNat))).go dr = (.ok (), d2) →
        Completes (.aadd c w) s fun d =>
          SetsSreg (l1Update d2 (tileOf c) x.asid a (leBytes 8 (leNat bs + v.toNat))) d c w.bD (toW (leNat bs)))) ∧
  -- L1INV drops the L1 lines of the ASID on the tile and no others.
  (∀ (s : State) (c : Nat) (w : TWord), Issues s c w .mem →
    let x := ctxAt s.dev c
    Completes (.l1inv c w) s fun d => ∃ l : List (Nat × Nat × Nat × List Byte),
      MovesOn { s.dev with tiles.l1 := l } d c ∧
      (∀ e, e ∈ d.tiles.l1 ↔ e ∈ s.dev.tiles.l1 ∧ ¬ (e.1 = tileOf c ∧ e.2.1 = x.asid)))

/-- LDS, STS, VLD and VST move bytes between registers and the SRAM that the context owns. For every state,
context and word of LDS or STS that issues, with an address S1 + IMM that is a multiple of 8 and lies in
the SRAM that the context owns: STS has stored the 8 bytes of S2 there, every other SRAM byte reads as
before, the PC moves on and nothing else changes but the record of what other engines may still see. LDS
of good parity writes to D bytes that the context may read there, changes nothing else but the count of
free values, and writes the 8 bytes of SRAM and leaves that count where no other engine wrote the
granule without a fence. A word of bad parity is counted; where it lies in an element that can be
fetched again the context waits for that, and otherwise faults with SRAM_PARITY. An address outside what
the context owns is an OPERAND_FAULT there. For every state, context and word of VLD or VST that issues
with MOD 0 and an address S1 + IMM that is a multiple of 64 with 1 KiB in the SRAM that the context
owns: VST leaves the 1,024 bytes of its register there, every other SRAM byte as it was, and changes
nothing else but the record of what other engines may still see. VLD of good parity leaves in D bytes
that the context may read there and changes nothing else but the count of free values; where no other
engine wrote a granule of them without a fence, they are the bytes of SRAM and that count stays. A
misaligned address is an OPERAND_FAULT. (R47, R51, R72, R73, R464, Table TIL-4, R463, Table TIL-12) -/
def Obligations.TileSramAccesses : Prop :=
  -- LDS reads and STS writes 8 bytes of the SRAM the context owns.
  (∀ (s : State) (c : Nat) (w : TWord), Issues s c w .mem →
    let x := ctxAt s.dev c
    let a := (x.sreg w.bS1 + w.bImm).toNat
    a % 8 = 0 →
    (x.ownsSram a 8 = true →
      Completes (.sts c w) s (fun d => StoresSram s.dev d c a (leBytes 8 (x.sreg w.bD).toNat)) ∧
      (parityOf s.dev (tileOf c) [(a, 8)] = .ok →
        Completes (.lds c w) s (fun d => ∃ bs n, bs.length = 8 ∧ MayRead s.dev c .mem a bs ∧
          SetsSreg { s.dev with free := n } d c w.bD (toW (leNat bs))) ∧
        ((∀ u ∈ x.unfenced, u.addr / 64 = a / 64 → u.eng = Eng.mem.code) →
          Completes (.lds c w) s fun d => SetsSreg s.dev d c w.bD (toW (leNat (sramGet s.dev (tileOf c) a 8))))) ∧
      (∀ b, parityOf s.dev (tileOf c) [(a, 8)] = .bad b → Settled s.dev c →
        Completes (.lds c w) s fun d => FaultsAt (noteParity s.dev (tileOf c) b true) d c 0x0420 .mem b) ∧
      (∀ ring el b, parityOf s.dev (tileOf c) [(a, 8)] = .refetch ring el b → x.wait = .none →
        Completes (.lds c w) s fun d => let d0 := noteParity s.dev (tileOf c) b false
          OnlyCtx d0 d c ∧ ctxAt d c = { x with wait := .refetch ring el Eng.mem.code })) ∧
    (x.ownsSram a 8 = false → Settled s.dev c → ∀ i ∈ [Instr.lds c w, Instr.sts c w], Completes i s fun d =>
      FaultsAt s.dev d c 0x0402 .mem a)) ∧
  -- VLD and VST move 1 KiB between Tile SRAM and a vector register.
  (∀ (s : State) (c : Nat) (w : TWord), Issues s c w .vector → w.bMod = 0 →
    let x := ctxAt s.dev c
    let a := (x.sreg w.bS1 + w.bImm).toNat
    let reg (bs : List Byte) : VReg := BitVec.ofNat 8192 (leNat bs)
    (a % 64 = 0 → x.ownsSram a 1024 = true →
      Completes (.vst c w) s (fun d => StoresSram s.dev d c a (leBytes 1024 (x.vreg w.bD).toNat)) ∧
      (parityOf s.dev (tileOf c) [(a, 1024)] = .ok →
        Completes (.vld c w) s (fun d => ∃ bs n, bs.length = 1024 ∧ MayRead s.dev c .vector a bs ∧
          SetsVreg { s.dev with free := n } d c w.bD (reg bs) {}) ∧
        ((∀ u ∈ x.unfenced, u.eng = Eng.vector.code ∨ u.addr / 64 < a / 64 ∨ a / 64 + 16 ≤ u.addr / 64) →
          Completes (.vld c w) s fun d =>
            SetsVreg s.dev d c w.bD (reg (sramGet s.dev (tileOf c) a 1024)) {}))) ∧
    (a % 64 ≠ 0 ∨ x.ownsSram a 1024 = false → Settled s.dev c → ∀ i ∈ [Instr.vld c w, Instr.vst c w],
      Completes i s fun d => FaultsAt s.dev d c 0x0402 .vector a))

/-- A fault leaves the PC at the instruction and everything but the context and its flags as it was. For
every state and context with a scalar instruction that has a reserved bit set or a reserved opcode:
where nothing that the context issued before is on its way and no MMA of it is queued, the instruction
makes it FAULTED with status 0x0401 ILLEGAL_INSTRUCTION and the engine, keeps its PC, its scalar, vector
and predicate registers and its loops, and changes nothing of the device besides TILE_NUM_FLAGS of its
tile. While a window write or a fabric transaction of it is on its way, the context issues nothing more
and keeps the fault, with its PC, until that has its end. (R51, R54, R91) -/
def Obligations.FaultIsPrecise : Prop :=
  ∀ (s : State) (c : Nat) (w : TWord) (u : BitVec 64), Issues s c w .scalar → u.setWidth 56 = w →
    let x := ctxAt s.dev c
    ∀ i ∈ [Instr.nop c u, .add c w, .sub c w, .mul c w, .and c w, .or c w, .xor c w, .shl c w, .shr c w, .sra c w],
      aPlain w = false ∨ i = .nop c u ∧ reservedOpcode (bits u.toNat 63 56) = true →
      (Settled s.dev c → Completes i s fun d => FaultsAt s.dev d c 0x0401 .scalar 0) ∧
      (x.writesOut ≠ [] ∨ x.remoteOut ≠ [] → x.pend = none → mmaBusy s.dev c = false →
        Completes i s fun d => OnlyCtx s.dev d c ∧
          ctxAt d c = { x with wait := .fault, pend := some ⟨none, 0x0401, x.pc, 0, Eng.code .scalar⟩ })

/-- The vector engine works lane by lane, and its reductions leave one scalar in lane 0. For every state,
context and word of a lane-wise instruction that issues with FMT FP32, BF16 or INT32 and its reserved
fields 0: each lane of D is the operation on that lane of the operands (INT32 modulo 2^32; a float lane
rounded once), the flags the lanes raised are kept, the PC moves on, and nothing else changes. With any
other FMT the context faults. For every state, context and word that issues with its reserved fields 0:
VCMP gives a lane all ones where its condition holds and all zeros elsewhere, on FP32, BF16 and INT32
lanes; VSEL takes S2 where the lane of S1 is not 0 and S3 elsewhere; VBCAST gives every lane the low
bits of S1; VPERM gives lane i the lane of S1 that lane i of the index register names, modulo the number
of lanes. The PC moves on and nothing else changes. For every state, context and word of a reduction
that issues with FMT FP32, BF16 or INT32 and its reserved fields 0: every lane of D but lane 0 is 0, the
flags raised are kept, the PC moves on, and nothing else changes; lane 0 is the value of the reduction
tree of R463 over the lanes of S1. (R54, R91, R463, Table TIL-12, R88, R68) -/
def Obligations.VectorLaneResults : Prop :=
  -- VADD, VSUB, VMUL, VFMA, VMAX and VMIN work lane by lane.
  (∀ (s : State) (c : Nat) (w : TWord), Issues s c w .vector →
    let x := ctxAt s.dev c
    let a := x.vreg w.aS1
    let b := x.vreg w.aS2
    let z := x.vreg w.aS3
    ∀ r ∈ ([(Instr.vadd, VecOp.add), (Instr.vsub, .sub), (Instr.vmul, .mul), (Instr.vfma, .fma),
        (Instr.vmax, .max), (Instr.vmin, .min)] : List ((Nat → TWord → Instr) × VecOp)),
      (∀ lf m, vecForm w = some (lf, m) → w.aRes = true → (r.2 = .fma ∨ w.aS3 = 0) →
        let lane (j : Nat) : Nat × Flags :=
          let e (v : VReg) : Nat := elemAt v.toNat lf.width j
          let third := if r.2 = .fma then e z else 0
          match lf with
          | .f fmt => laneF x.numMode fmt m j (r.2.exact m) (e a) (e b) third
          | .int32 => (r.2.int (e a) (e b) third, {})
        Completes (r.1 c w) s fun d => ∃ v, SetsVreg s.dev d c w.aD v (joinFlags ((List.range lf.count).map lane)) ∧
          ∀ j, j < lf.count → elemAt v.toNat lf.width j = (lane j).1 % 2 ^ lf.width) ∧
      (vecForm w = none → Settled s.dev c → Completes (r.1 c w) s fun d => FaultsAt s.dev d c 0x0401 .vector 0)) ∧
  -- VCMP and VSEL work lane by lane, VBCAST and VPERM move lanes.
  (∀ (s : State) (c : Nat) (w : TWord), Issues s c w .vector →
    let x := ctxAt s.dev c
    let a := x.vreg w.aS1
    let b := x.vreg w.aS2
    (∀ lf, laneFmt w.aFmt = some lf → w.aRes = true → w.aS3 = 0 → w.aRnd ≠ 7 →
      Completes (.vcmp c w) s fun d => ∃ v,
        let e (v : VReg) (j : Nat) : Nat := elemAt v.toNat lf.width j
        let flushed (j : Nat) : Bool := match lf with
          | .f fmt => (readF x.subn fmt (e a j)).2 || (readF x.subn fmt (e b j)).2
          | .int32 => false
        SetsVreg s.dev d c w.aD v { flush := (List.range lf.count).any flushed } ∧
        ∀ j, j < lf.count → e v j =
          let holds := match lf with
            | .f fmt => condHolds w.aRnd (cmpX (readF x.subn fmt (e a j)).1 (readF x.subn fmt (e b j)).1)
            | .int32 => condHolds w.aRnd (some (compare (sext 32 (e a j)) (sext 32 (e b j))))
          if holds then 2 ^ lf.width - 1 else 0) ∧
    (∀ lf m, vecForm w = some (lf, m) → w.aRes = true →
      Completes (.vsel c w) s fun d => ∃ v, SetsVreg s.dev d c w.aD v {} ∧
        ∀ j, j < lf.count → elemAt v.toNat lf.width j =
          if elemAt a.toNat lf.width j ≠ 0 then elemAt b.toNat lf.width j
          else elemAt (x.vreg w.aS3).toNat lf.width j) ∧
    (w.bMod / 2 = 0 → w.bImmRaw = 0 →
      Completes (.vbcast c w) s fun d => ∃ v, SetsVreg s.dev d c w.bD v {} ∧
        ∀ j, if bit w.bMod 0 then j < 512 → elemAt v.toNat 16 j = (x.sreg w.bS1).toNat % 2 ^ 16
          else j < 256 → elemAt v.toNat 32 j = (x.sreg w.bS1).toNat % 2 ^ 32) ∧
    (w.bMod / 64 = 0 → w.bImmRaw = 0 →
      let i := x.vreg (w.bMod % 32)
      let src := x.vreg w.bS1
      Completes (.vperm c w) s fun d => ∃ v, SetsVreg s.dev d c w.bD v {} ∧
        ∀ j, if bit w.bMod 5 then j < 512 → elemAt v.toNat 16 j = elemAt src.toNat 16 (elemAt i.toNat 16 j % 512)
          else j < 256 → elemAt v.toNat 32 j = elemAt src.toNat 32 (elemAt i.toNat 32 j % 256))) ∧
  -- VRSUM, VRMAX and VAMAX leave one scalar in lane 0 and zeros elsewhere.
  (∀ (s : State) (c : Nat) (w : TWord), Issues s c w .vector →
    let x := ctxAt s.dev c
    ∀ r ∈ ([(Instr.vrsum, RedOp.sum), (Instr.vrmax, .max), (Instr.vamax, .amax)] :
        List ((Nat → TWord → Instr) × RedOp)),
      ∀ lf m, vecForm w = some (lf, m) → w.aRes = true → w.aS2 = 0 → w.aS3 = 0 →
        Completes (r.1 c w) s fun d =>
          let res := vecReduce x.numMode lf m r.2 (x.vreg w.aS1)
          SetsVreg s.dev d c w.aD res.1 res.2 ∧
            (∀ j, 0 < j → elemAt ((ctxAt d c).vreg w.aD).toNat lf.width j = 0))

/-- The SFU applies one function to every lane; CVT and CVTMX write the converted elements and nothing else.
For every state, context and word of an SFU instruction that issues with FMT FP32 or BF16 and its
reserved fields 0: each lane of D is the function of that lane of S1, the flags raised are kept, the PC
moves on, and nothing else changes. SPROG applies the program of the table in force whose number is in
S2's field; a program that is not in the table faults with SFU_PROGRAM_EMPTY. The coefficients of the
built-in functions, which the spec does not print, are free values (log 11). For every state, context
and word that issues: CVT of a listed pair with its reserved fields 0 writes to D the elements of S1
read in the source format and rounded once to the destination; to MW48, the sum of the element and the
FP32 lane of S2, rounded once, to the pair D, D + 1. CVTMX with OP 0b10 expands the elements of S1 under
the scales of S2; with OP 0b00 it writes the elements to D and the block scales to S2, and with OP 0b01
the elements under the scales of S2 to D. OP 0b00 faults when both are the same register, and OP 0b11
always. The PC moves on and nothing else changes. (R104, R106, R118, R126, R98, R99, R100, R101) -/
def Obligations.SfuAndConversionResults : Prop :=
  -- SEXP, SLOG, SRCP, SRSQ and SPROG apply one function to every lane.
  (∀ (s : State) (c : Nat) (w : TWord), Issues s c w .sfu → sfuForm w = true →
    let x := ctxAt s.dev c
    let img := sfuImage s.dev (tileOf c)
    let half := w.aFmt = 1
    let width := if half then 16 else 32
    let fn (f : SfuFn) : Nat → Nat × Flags := if half then sfuBf16 x.subn f else sfuFp32 x.subn f
    let rows : List ((Nat → TWord → Instr) × (Nat → Nat × Flags)) :=
      [(.sexp, fn .exp), (.slog, fn .log), (.srcp, fn .rcp), (.srsq, fn .rsqrt)] ++
      (if imgPresent img w.aS2 then
        [(.sprog, if half then progBf16 x.subn img w.aS2 else progFp32 x.subn img w.aS2)] else [])
    (∀ r ∈ rows, Completes (r.1 c w) s fun d =>
      let lane (j : Nat) : Nat × Flags := r.2 (elemAt (x.vreg w.aS1).toNat width j)
      ∃ v, SetsVreg s.dev d c w.aD v (joinFlags ((List.range (8192 / width)).map lane)) ∧
        ∀ j, j < 8192 / width → elemAt v.toNat width j = (lane j).1 % 2 ^ width) ∧
    (imgPresent img w.aS2 = false → Settled s.dev c →
      Completes (.sprog c w) s fun d => FaultsAt s.dev d c 0x0403 .sfu 0)) ∧
  -- CVT and CVTMX write the converted elements and nothing else.
  (∀ (s : State) (c : Nat) (w : TWord), Issues s c w .vector → w.aRes = true →
    let x := ctxAt s.dev c
    let hi := x.vreg w.aS1
    let lo := x.vreg ((w.aS1 + 1) % 32)
    let two (d : Dev) (i j : Nat) (a b : VReg) (fl : Flags) : Prop :=
      OnlyCtx s.dev d c ∧ NextPc x (ctxAt d c) ∧ (ctxAt d c).vreg i = a ∧ (ctxAt d c).vreg j = b ∧
        (∀ k, k ≠ i → k ≠ j → (ctxAt d c).vreg k = x.vreg k) ∧
        ctxAt d c = { x with
          vregs := (ctxAt d c).vregs, flags := x.flags.or fl, pc := (ctxAt d c).pc, loops := (ctxAt d c).loops,
          wait := .none }
    ∀ m, Rnd.ofCode w.aRnd = some m →
    (cvtForm w = true →
      (w.aFmt ≠ 0xC → Completes (.cvt c w) s fun d =>
        let r := vecCvt x.numMode (cvtSrc w) w.aFmt m hi lo
        SetsVreg s.dev d c w.aD r.1 r.2) ∧
      (w.aFmt = 0xC → Completes (.cvt c w) s fun d =>
        let r := vecCvtMw x.numMode (cvtSrc w) m hi lo (x.vreg w.aS2)
        two d w.aD (w.aD + 1) r.1 r.2.1 r.2.2)) ∧
    (∀ f, w.aS3 / 8 = 0 → fmtMx w.aFmt = true → fmtOf w.aFmt = some f →
      let pack := vecMxPack x.numMode w.aFmt f (cvtmxHalf w) m
      (cvtmxOp w = 2 → Completes (.cvtmx c w) s fun d =>
        let r := vecMxUnpack x.numMode w.aFmt f (cvtmxHalf w) m hi (x.vreg w.aS2)
        SetsVreg s.dev d c w.aD r.1 r.2) ∧
      (cvtmxOp w = 0 → w.aD ≠ w.aS2 → Completes (.cvtmx c w) s fun d =>
        let r := pack none hi
        two d w.aD w.aS2 r.1 r.2.1 r.2.2) ∧
      (cvtmxOp w = 1 → Completes (.cvtmx c w) s fun d =>
        let r := pack (some (x.vreg w.aS2)) hi
        SetsVreg s.dev d c w.aD r.1 r.2.2) ∧
      (cvtmxOp w = 3 ∨ cvtmxOp w = 0 ∧ w.aD = w.aS2 → Settled s.dev c →
        Completes (.cvtmx c w) s fun d => FaultsAt s.dev d c 0x0401 .vector 0)))

/-- MZERO, MREAD and MWRITE access their accumulator tile, and an MMA that passes its checks joins the queue
of the array. For every state, context and word that issues, with an accumulator tile that the context
owns and no queued MMA of it writes: MZERO makes every row 0 and forgets the type and the K count; MREAD
with IMM below 64 writes rows 2·IMM and 2·IMM + 1 to the low and the high half of D; MWRITE writes those
rows from its register. Every other row of every tile stays, the PC moves on and nothing else changes.
On a tile that a queued MMA of the context writes the instruction is held back; a tile that the context
does not own is an OPERAND_FAULT. For every state, context and word of an MMA that issues with its
reserved bits 0, in a rate class of Table TIL-7, dense, 2:4 or masked, with or without BKEEP, with
accumulator tiles, descriptors, mask and operand ranges that pass the checks of R59 to R61 and R63 and
SRAM of good parity: the tile's queue ends with a request of this context for the accumulator tile, M,
formats, ZERO, BKEEP and mask that the word and its descriptors name, with the row scales and the
rounding key as they are now, behind those already queued; the PC moves on; and nothing else changes but
the count of free values, which stays too where every SRAM write of another engine is fenced. (R46, R60,
R67, Table TIL-4, R58, R59, R61) -/
def Obligations.MatrixInstructions : Prop :=
  -- MZERO clears, MREAD reads and MWRITE writes the accumulator tile of MOD[2:0].
  (∀ (s : State) (c : Nat) (w : TWord), Issues s c w .matrix →
    let x := ctxAt s.dev c
    let t := tileOf c
    let a := w.bMod % 8
    let p := w.bImmRaw
    let writes (d : Dev) (row : Nat → BitVec 4096) (written : Nat → Bool) : Prop :=
      (∀ t' b r, b < 8 → r < 128 → accRow d t' b r =
        if t' = t ∧ b = a ∧ written r = true then row r else accRow s.dev t' b r) ∧
      (∀ t' b, b < 8 → t' ≠ t ∨ b ≠ a → accInfo d t' b = accInfo s.dev t' b) ∧
      MovesOn { s.dev with tiles.acc := d.tiles.acc, tiles.accRows := d.tiles.accRows } d c
    (bit x.acc a = true → accBusy s.dev c a = false →
      Completes (.mzero c w) s (fun d =>
        writes d (fun _ => 0) (fun _ => true) ∧ accInfo d t a = AccInfo.reset) ∧
      (p < 64 →
        Completes (.mread c w) s (fun d =>
          SetsVreg s.dev d c w.bD (accRow s.dev t a (2 * p + 1) ++ accRow s.dev t a (2 * p)) {}) ∧
        Completes (.mwrite c w) s (fun d =>
          writes d (fun r => if r = 2 * p then (x.vreg w.bD).extractLsb' 0 4096
            else (x.vreg w.bD).extractLsb' 4096 4096) (fun r => r == 2 * p || r == 2 * p + 1) ∧
          accInfo d t a = accInfo s.dev t a))) ∧
    (∀ i ∈ [Instr.mzero c w, .mread c w, .mwrite c w],
      (bit x.acc a = true → accBusy s.dev c a = true → Completes i s fun d => OnlyCtx s.dev d c ∧
        ctxAt d c = { x with wait := .retry false Eng.matrix.code }) ∧
      (bit x.acc a = false → Settled s.dev c → Completes i s fun d => FaultsAt s.dev d c 0x0402 .matrix 0))) ∧
  -- An MMA that passes its checks joins the queue of the array with its operands read.
  (∀ (s : State) (c : Nat) (w : TWord) (cls : MmaClass) (sel : List Nat), Issues s c w .matrix →
    let x := ctxAt s.dev c
    let t := tileOf c
    let rows := selRows cls w.dSparse (x.sreg w.dSX).toNat
    let o := mmaOperands x w cls sel
    mmaClass w.dFmtA w.dFmtB = some cls → w.dRes = true →
    accOk s.dev c w cls = true → descAligned (x.sreg w.dSA).toNat w.dFmtA = true →
    (if w.dBkeep then w.dSparse = 0 ∧ lastBlock s.dev t = some (c, w.dFmtB, true)
      else descAligned (x.sreg w.dSB).toNat w.dFmtB = true) →
    (w.dSparse = 0 ∧ sel = [] ∨
      (w.dSparse = 1 ∨ w.dSparse = 2) ∧ cls ≠ .fp32 ∧ selOk w.dSparse (x.sreg w.dSX).toNat = true ∧
        outside x (pieceRanges rows) = none ∧ parityOf s.dev t (pieceRanges rows) = .ok ∧
        sel = selOf w.dSparse (x.sreg w.dSX).toNat (readRows c rows s.dev).1) →
    outside x o.ranges = none → parityOf s.dev t o.ranges = .ok →
    Completes (.mma c w) s fun d => ∃ r n, mmaQueue d t = mmaQueue s.dev t ++ [r] ∧
      r.ctx = c ∧ r.acc = w.dAt ∧ r.m = w.dM ∧ r.fmtA = w.dFmtA ∧ r.fmtB = w.dFmtB ∧ r.zero = w.dZero ∧
      r.sparse = w.dSparse ∧ r.bkeep = w.dBkeep ∧ r.sel = sel ∧ r.rowScales = rowScales x w ∧ r.key = x.srKey ∧
      r.b.owner = c ∧ r.b.fmt = w.dFmtB ∧ r.aRows.length = w.dM ∧
      MovesOn { s.dev with tiles.mmaQ := d.tiles.mmaQ, free := n } d c ∧
      ((∀ u ∈ x.unfenced, u.eng = Eng.matrix.code) → n = s.dev.free))

/-- A dense INT8 MMA adds the exact sums of products to its accumulator rows. For every state whose tile has
an MMA at the head of its queue: once it has streamed, the queue has lost its head, every accumulator
tile that it does not name is as before, and SRAM, DRAM and the hub stay. For a dense INT8 MMA of M
rows, from B of its own or, with BKEEP, the block in the array: element n of row i < M of its
accumulator tiles is the old element, or 0 with ZERO, plus the sum over k < 256 of A[i][k] × B[k][n], in
32-bit two's complement; rows from M on are as before, or 0 with ZERO. (R58, R60, R61, Table TIL-7) -/
def Obligations.MmaInt8Result : Prop :=
  ∀ (s : State) (t : Nat) (r : MmaReq) (rest : List MmaReq), Live s → tilesRun s.dev = true →
    mmaQueue s.dev t = r :: rest → tileOf r.ctx = t →
    let named := accTiles r.acc r.m
    let old (b i : Nat) : BitVec 4096 := if r.zero ∧ b ∈ named then 0 else accRow s.dev t b i
    Completes (.mmaStreamStart t) s fun d =>
      mmaQueue d t = rest ∧
      (∀ t' b i, b < 8 → i < 128 → t' ≠ t ∨ b ∉ named → (∀ a ∈ named, a < 8) →
        accRow d t' b i = accRow s.dev t' b i) ∧
      d.mem = s.dev.mem ∧ d.tiles.sram = s.dev.tiles.sram ∧ d.hub = s.dev.hub ∧
      (∀ (b : BBlock), r.fmtA = 0xA → r.fmtB = 0xA → r.sparse = 0 → r.m ≤ 256 → (∀ a ∈ named, a < 8) →
        (r.bkeep = false ∧ b = r.b ∨ r.bkeep = true ∧ mget none s.dev.tiles.array t = some b) → b.fmt = 0xA →
        (∀ i n, i < r.m → n < 128 →
          elemAt (accRow d t (r.acc + i / 128) (i % 128)).toNat 32 n =
            wrapN 32 (sext 32 (elemAt (old (r.acc + i / 128) (i % 128)).toNat 32 n) +
              ((List.range 256).map fun k =>
                sext 8 (elemAt (r.aRows.getD i 0) 8 k) * sext 8 (elemAt (b.rows.getD k 0) 8 n)).sum)) ∧
        (∀ a ∈ named, ∀ i, i < 128 → r.m ≤ 128 * (a - r.acc) + i → accRow d t a i = old a i))

/-- DCHAIN keeps a checked chain and MDRAIN writes the raw tile through an empty one. For every state,
context and word that issues: DCHAIN at a 64-byte aligned descriptor of 128 owned bytes, of good parity
and fenced, that passes the checks of R157, keeps it as the chain in force and changes nothing else; one
that is misaligned, not owned or fails its checks is DRAIN_CHAIN_INVALID. MDRAIN with no chain in force
is DRAIN_CHAIN_INVALID. With a chain in force, of an accumulator tile that is owned and not busy, paired
with one of FP32 where it takes its gate there, with its program in the table and its operands of good
parity: SRAM outside the output area, the scales and the word of AMAX, the accumulators, the scalar and
vector registers, DRAM and the hub are as they were, and the PC moves on; with no steps, into SRAM with
a STRIDE of at least a row, row i of the tile lies as 512 bytes at OUT + i × STRIDE. A drain of a tile
that is not owned is an OPERAND_FAULT. (R67, R113, R155, R157, R158) -/
def Obligations.DrainResult : Prop :=
  ∀ (s : State) (c : Nat) (w : TWord), Issues s c w .drain →
    let x := ctxAt s.dev c
    let t := tileOf c
    let a := (x.sreg w.bS1).toNat
    let ch := sramGet s.dev t a 128
    let at_ := w.bMod % 8
    (a % 64 = 0 → x.ownsSram a 128 = true → parityOf s.dev t [(a, 128)] = .ok →
      (∀ u ∈ x.unfenced, u.eng = Eng.drain.code ∨ u.addr / 64 < a / 64 ∨ a / 64 + 2 ≤ u.addr / 64) →
      (chainOk s.dev c ch = true → Completes (.dchain c w) s fun d =>
        OnlyCtx s.dev d c ∧ NextPc x (ctxAt d c) ∧
          ctxAt d c = { x with chain := some ch, pc := (ctxAt d c).pc, loops := (ctxAt d c).loops, wait := .none }) ∧
      (chainOk s.dev c ch = false → Settled s.dev c →
        Completes (.dchain c w) s fun d => FaultsAt s.dev d c 0x0404 .drain 0)) ∧
    (a % 64 ≠ 0 ∨ x.ownsSram a 128 = false → Settled s.dev c →
      Completes (.dchain c w) s fun d => FaultsAt s.dev d c 0x0404 .drain 0) ∧
    (x.chain = none → Settled s.dev c → Completes (.mdrain c w) s fun d => FaultsAt s.dev d c 0x0404 .drain 0) ∧
    (∀ ch, x.chain = some ch → bit x.acc at_ = false → Settled s.dev c →
      Completes (.mdrain c w) s fun d => FaultsAt s.dev d c 0x0402 .drain 0) ∧
    (∀ ch, x.chain = some ch → chainRing ch = false → bit x.acc at_ = true → accBusy s.dev c at_ = false →
      (chainPairs ch = true → bit x.acc (at_ ^^^ 1) = true ∧ accBusy s.dev c (at_ ^^^ 1) = false ∧
        (accInfo s.dev t (at_ ^^^ 1)).ty = .fp32) →
      (∀ p, chainUser ch = some p → imgPresent (sfuImage s.dev t) p = true) →
      parityOf s.dev t (chainReads ch) = .ok →
      Completes (.mdrain c w) s fun d =>
        let apart (k b n : Nat) : Prop := k < sramKey t b ∨ sramKey t b + n ≤ k
        (∀ k, apart k (chainOut ch) (127 * chainStride ch + chainRowLen ch) →
          (chainScaleLen ch ≠ 0 → apart k (chainScale ch) 512) →
          (∀ e ∈ chainList ch, e.kind = 6 → apart k e.addr 4) →
          mget 0 d.tiles.sram k = mget 0 s.dev.tiles.sram k) ∧
        NextPc x (ctxAt d c) ∧ (ctxAt d c).sregs = x.sregs ∧ (ctxAt d c).vregs = x.vregs ∧
        d = { setCtx s.dev c (ctxAt d c) with
          free := d.free, tiles.sram := d.tiles.sram, tiles.sramBad := d.tiles.sramBad } ∧
        (chainSteps ch = 0 → 512 ≤ chainStride ch → ∀ i, i < 128 →
          sramGet d t (chainOut ch + i * chainStride ch) 512 = leBytes 512 (accRow s.dev t at_ i).toNat))

/-- FENCE, rings, semaphores, the barrier and EXIT act as R48 to R50, R132, R133, R152 and R342 say. For
every state, context and word that issues: FENCE with MOD[9:7] 0, else illegal, moves on, forgetting the
unfenced writes of the engines it names, when no MMA is queued (MOD[0]) and no window write (MOD[5]) or
remote operation (MOD[6]) is outstanding; else it waits. RINGWAIT and RINGREL of 0 elements move on.
RINGWAIT for S2 elements moves on when the ring holds that many (consumer), handing over those
published, or when that many places are free (producer), and otherwise waits; a held element among them
faults the context with its status. RINGREL releases or publishes that many; a release after queued MMAs
waits for them. An undeclared ring, a count above its depth, a view it does not give, a release or
publication past PUB or the depth is RING_FAULT; a fault a STORE slot holds faults the context. Nothing
else changes. With reserved fields 0 and a semaphore that the manifest declares: SEMWAIT moves on when
the semaphore is at least S2, else registers its wait; SEMSIG waits while a write or a remote operation
is outstanding or a published STORE element is not written, and otherwise adds modulo 2^64 what of S2
its ledger has not signalled before (all, in a context not replayed) to that semaphore and no other;
registers and memory stay, and where no waiter is let go, all else. An undeclared semaphore faults with
SEMAPHORE_UNDECLARED. BARRIER with reserved fields 0 waits while an MMA is queued or something
outstanding; then it opens an episode of its count, or joins the open one of the same count, and waits;
the arrival that completes the count closes it, lets every participant go on, finishes the BARRIER
commands among them and swaps pending tables; a count that differs from the open episode's faults with
BARRIER_MISMATCH. EXIT faults with what a STORE slot holds; else it makes the context DRAINING, stops
its LOAD slots, asks its STORE slots to stop and ends those not started; nothing else changes but those
slots' waits. (R48, R132, R133, R145, R342, R344, R374, R50, R125, R146, R152, R153) -/
def Obligations.SynchronizationResults : Prop :=
  -- FENCE lets the PC on once the engines it names are done; RINGWAIT and RINGREL count elements.
  (∀ (s : State) (c : Nat) (w : TWord), Issues s c w .sync →
    let x := ctxAt s.dev c
    let t := tileOf c
    let waits (d : Dev) (long : Bool) : Prop :=
      OnlyCtx s.dev d c ∧ ctxAt d c = { x with wait := .retry long Eng.sync.code }
    let forgets (d : Dev) (un : List Unfenced) : Prop :=
      OnlyCtx s.dev d c ∧ NextPc x (ctxAt d c) ∧
        ctxAt d c = { x with unfenced := un, pc := (ctxAt d c).pc, loops := (ctxAt d c).loops, wait := .none }
    let mmas := bit w.bMod 0 && mmaBusy s.dev c
    let writes := bit w.bMod 5 && decide (x.writesOut ≠ [])
    let remote := bit w.bMod 6 && decide (x.remoteOut ≠ [])
    let named := ((List.range 7).filter (bit w.bMod)).map fun i => [2, 3, 4, 5, 6, 1, 8].getD i 0
    (w.bMod < 128 → Completes (.fence c w) s fun d =>
      if mmas || writes then waits d false else if remote then waits d true
      else forgets d (x.unfenced.filter fun u => !named.contains u.eng)) ∧
    (128 ≤ w.bMod → Settled s.dev c → Completes (.fence c w) s fun d => FaultsAt s.dev d c 0x0401 .sync 0) ∧
    (let n := (x.sreg w.bD).toNat
      let producer := bit w.bMod 0
      let faults (st : Nat) (e : Eng) (a : Nat) (i : Instr) : Prop :=
        Settled s.dev c → Completes i s fun d => FaultsAt s.dev d c st e a
      w.bMod < 2 → w.bImmRaw = 0 →
      (n = 0 → ∀ i ∈ [Instr.ringwait c w, .ringrel c w], Completes i s fun d => MovesOn s.dev d c) ∧
      (n ≠ 0 → x.ringNum (x.sreg w.bS1).toNat = none →
        ∀ i ∈ [Instr.ringwait c w, .ringrel c w], faults 0x0408 .sync 0 i) ∧
      (∀ (rn : Nat) (r : Ring), n ≠ 0 → x.ringNum (x.sreg w.bS1).toNat = some rn → ringAt s.dev t rn = some r →
        (∀ e, storeFault s.dev t rn = some e →
          ∀ i ∈ [Instr.ringwait c w, .ringrel c w], faults e.1 .stream e.2 i) ∧
        (storeFault s.dev t rn = none → r.depth < n ∨ viewOk r.kind producer = false →
          ∀ i ∈ [Instr.ringwait c w, .ringrel c w], faults 0x0408 .sync 0 i) ∧
        (storeFault s.dev t rn = none → n ≤ r.depth → viewOk r.kind producer = true →
          let sets (d : Dev) (r' : Ring) : Prop := ringAt d t rn = some r' ∧
            ∀ u m, 32 * u + m ≠ 32 * t + rn → ringAt d u m = ringAt s.dev u m
          (producer = false →
            (∀ e, heldIn r n = some e → faults e.1 .stream e.2 (.ringwait c w)) ∧
            (heldIn r n = none → Completes (.ringwait c w) s fun d =>
              if r.rel + n ≤ r.pub then
                forgets d (x.unfenced.filter fun u => !(u.handed && r.holds r.rel n u.addr))
              else waits d true) ∧
            (r.pub < r.rel + x.dueOn rn + n → faults 0x0408 .sync 0 (.ringrel c w)) ∧
            (r.rel + x.dueOn rn + n ≤ r.pub → mmaBusy s.dev c = true → Completes (.ringrel c w) s fun d =>
              OnlyCtx s.dev d c ∧ NextPc x (ctxAt d c) ∧ ctxAt d c = { x with
                relDue := x.relDue ++ [(rn, mmaLeft s.dev c, n)]
                pc := (ctxAt d c).pc, loops := (ctxAt d c).loops, wait := .none }) ∧
            (r.rel + x.dueOn rn + n ≤ r.pub → mmaBusy s.dev c = false → Completes (.ringrel c w) s fun d =>
              sets d { r with
                rel := r.rel + n, held := r.held.filter fun h => r.rel + n ≤ h.1,
                src := r.src.filter fun e => r.rel + n ≤ e.ringElem } ∧
              (∀ sn, r.slot = some sn → slotAt d t sn =
                { slotAt s.dev t sn with consumed := (slotAt s.dev t sn).consumed + n }) ∧
              MovesOn { s.dev with
                tiles.rings := d.tiles.rings, tiles.slots := d.tiles.slots, tiles.watch := d.tiles.watch } d c)) ∧
          (producer = true →
            (Completes (.ringwait c w) s fun d =>
              if r.pub + n ≤ r.rel + r.depth then MovesOn s.dev d c else waits d true) ∧
            (r.rel + r.depth < r.pub + n → faults 0x0408 .sync 0 (.ringrel c w)) ∧
            (r.pub + n ≤ r.rel + r.depth → Completes (.ringrel c w) s fun d =>
              sets d { r with pub := r.pub + n } ∧
              (∀ sn, r.slot = some sn → slotAt d t sn =
                { slotAt s.dev t sn with delivered := (slotAt s.dev t sn).delivered + n }) ∧
              d = { setCtx s.dev c (ctxAt d c) with
                tiles.rings := d.tiles.rings, tiles.slots := d.tiles.slots } ∧
              NextPc x (ctxAt d c) ∧ ctxAt d c = { x with
                unfenced := x.unfenced.map (Unfenced.handOver r n)
                pc := (ctxAt d c).pc, loops := (ctxAt d c).loops, wait := .none })))))) ∧
  -- SEMWAIT passes once the semaphore reaches the threshold; SEMSIG adds to it.
  (∀ (s : State) (c : Nat) (w : TWord), Issues s c w .sync → semPlain w = true →
    let x := ctxAt s.dev c
    let n := (x.sreg w.bS1).toNat
    let v := (x.sreg w.bD).toNat
    let done := mget 0 x.ledger n
    let total := mget 0 x.replayed n + v
    (x.declares n = true →
      (v ≤ (semAt s.dev n).toNat → Completes (.semwait c w) s fun d => MovesOn s.dev d c) ∧
      ((semAt s.dev n).toNat < v → Completes (.semwait c w) s fun d =>
        d = setCtx { s.dev with hub.waiters := s.dev.hub.waiters ++ [⟨n, v, .ctx c⟩] } c { x with wait := .sem }) ∧
      (x.quiet = false ∨ storesWritten s.dev c = false → Completes (.semsig c w) s fun d =>
        OnlyCtx s.dev d c ∧ ctxAt d c = { x with wait := .retry true Eng.sync.code }) ∧
      (x.quiet = true → storesWritten s.dev c = true → Completes (.semsig c w) s fun d =>
        semAt d n = semAt s.dev n + toW (total - done) ∧ (∀ m, m ≠ n → semAt d m = semAt s.dev m) ∧
        NextPc x (ctxAt d c) ∧ mget 0 (ctxAt d c).ledger n = max done total ∧
        mget 0 (ctxAt d c).replayed n = total ∧
        ctxAt d c = { x with
          ledger := (ctxAt d c).ledger, replayed := (ctxAt d c).replayed, pc := (ctxAt d c).pc,
          loops := (ctxAt d c).loops, wait := .none } ∧
        d.mem = s.dev.mem ∧ d.regs = s.dev.regs ∧ d.tiles.sram = s.dev.tiles.sram ∧
        ((∀ q ∈ s.dev.hub.waiters, q.sem = n → (semAt d n).toNat < q.threshold) →
          d = { setCtx s.dev c (ctxAt d c) with hub.sems := d.hub.sems }))) ∧
    (x.declares n = false → Settled s.dev c → ∀ i ∈ [Instr.semwait c w, .semsig c w], Completes i s fun d =>
      FaultsAt s.dev d c 0x0405 .sync 0)) ∧
  -- BARRIER arrives at its episode; EXIT leaves the context DRAINING.
  (∀ (s : State) (c : Nat) (w : TWord), Live s →
    let x := ctxAt s.dev c
    let t := tileOf c
    let p := partOfCtx s.dev c
    let b := bits w.bImmRaw 5 0
    let n := bits w.bImmRaw 19 8 + 1
    (Issues s c w .sync → w.f 51 32 = 0 → bits w.bImmRaw 7 6 = 0 → bits w.bImmRaw 31 20 = 0 →
      let e := (episodeAt s.dev p b).getD ⟨n, []⟩
      (mmaBusy s.dev c = true ∨ x.quiet = false → Completes (.barrier c w) s fun d =>
        OnlyCtx s.dev d c ∧ ctxAt d c = { x with wait := .retry false Eng.sync.code }) ∧
      (mmaBusy s.dev c = false → x.quiet = true →
        (e.count = n → e.arrived.length + 1 ≠ n → Completes (.barrier c w) s fun d =>
          episodeAt d p b = some ⟨n, e.arrived ++ [.ctx c]⟩ ∧
          (∀ p' b', b' < 64 → p' ≠ p ∨ b' ≠ b → episodeAt d p' b' = episodeAt s.dev p' b') ∧
          d = { setCtx s.dev c { x with wait := .barrier } with hub.barriers := d.hub.barriers }) ∧
        (e.count = n → e.arrived.length + 1 = n → Completes (.barrier c w) s fun d =>
          episodeAt d p b = none ∧ NextPc x (ctxAt d c) ∧
          (∀ o, .ctx o ∈ e.arrived → (ctxAt s.dev o).wait = .barrier → NextPc (ctxAt s.dev o) (ctxAt d o)) ∧
          (∀ q k y, .cmd q k ∈ e.arrived → cmdAt s.dev q k = some y → y.st ≠ .finished →
            ∃ z, cmdAt d q k = some z ∧ z.st = .finished ∧ z.status = 0) ∧
          (∀ k, genAt d k p =
            let g := genAt s.dev k p
            if g.loading.isSome then { g with deferred := min 65535 (g.deferred + 1) }
            else if g.pending then { g with active := genNext g.active, image := g.shadow, pending := false }
            else g) ∧
          d.mem = s.dev.mem ∧ d.regs = s.dev.regs ∧ d.tiles = { s.dev.tiles with ctxs := d.tiles.ctxs }) ∧
        (e.count ≠ n → x.pend = none → Completes (.barrier c w) s fun d => FaultsAt s.dev d c 0x0430 .sync 0))) ∧
    (Issues s c w .scalar →
      (∀ e, exitFault s.dev c = some e → Settled s.dev c →
        Completes (.exit c w) s fun d => FaultsAt s.dev d c e.1 .stream e.2) ∧
      (exitFault s.dev c = none → Completes (.exit c w) s fun d =>
        ctxAt d c = { x with state := .draining, wait := .none } ∧
        d = { setCtx s.dev c (ctxAt d c) with tiles.slots := d.tiles.slots, hub.waiters := d.hub.waiters } ∧
        (∀ k, (∀ m ∈ x.itins, k ≠ 16 * t + m) →
          mget Slot.reset d.tiles.slots k = mget Slot.reset s.dev.tiles.slots k) ∧
        (∀ q, (∀ m ∈ x.itins, q.who ≠ .slot t m) → (q ∈ d.hub.waiters ↔ q ∈ s.dev.hub.waiters)) ∧
        ∀ m ∈ x.itins,
          let a := slotAt s.dev t m
          let z := slotAt d t m
          let active := a.state = .running ∨ a.state = .waitSem ∨ a.state = .held
          (a.state = .loaded → z = { a with state := .ended }) ∧
          (active → a.store = false → z.flight = a.flight ∧ (z.state = .stopping ∨ z.state = .ended) ∧
            (a.flight ≠ [] → z = { a with state := .stopping })) ∧
          (active → a.store = true → z.flight = a.flight ∧
            (z = { a with stopReq := true } ∨ z.state = .stopping ∨ z.state = .ended)) ∧
          (¬ active → a.state ≠ .loaded → z = a))))

/-- Itineraries start, step, fetch, deliver and end as their words say. For every state, context and word
that issues with reserved fields 0: ITSTART of a LOADED or ENDED slot whose spans are within its windows
makes it RUNNING at word 0 with A0, A1 from S1, S2, the other address registers 0, no loop, stride or
count, the ring at its element 0; spans outside the windows fault with ITINERARY_BOUND. ITSTOP of a
RUNNING, WAIT_SEM or HELD slot makes it STOPPING, or ENDED with nothing in flight; a stopped one stays.
ITSTAT writes the state word and the elements delivered to D. A slot in another state or an undeclared
itinerary is ITINERARY_STATE. The PC moves on and nothing else changes. For every state, tile and
running slot that stands at the word: LOOP opens a level with the word's body, count, order and
rotation; STRIDE sets one stride; SETA sets A[D] = A[S] + IMM modulo 2^64; WAITSEM goes on once the
semaphore has reached BASE + INC × j, else waits; SIGSEM with elements in flight keeps its signal for
after them, else, with no signal before it, adds what of its amount the owner's ledger has not
signalled; END stops the slot, ending it with nothing in flight. Words other than LOOP move on by one,
unless a loop body ends. A slot whose context has executed EXIT then stops where R146 has it stop.
Nothing else changes. For a running slot of local memory not asked to stop: FETCH of a LOAD slot, with
room in its ring and in the receivers that its mask names, adds the next element with the bytes read to
those in flight; one outside its windows or unreadable is issued held with its status, and the slot
holds. FETCH of a STORE slot writes the next published element of good parity to memory and has it in
flight. GATHER of a readable index sets A[D] = A[C] + index × 2^SHIFT. When the first element in flight
has arrived, ELEMENT_DELIVERY writes its bytes at the ring's place for PUB and raises PUB there and in
the receivers, or publishes a failed one as held; ELEMENT_WRITTEN raises REL. An element not the first
in flight changes no ring: it waits. (R138, R139, R143, R135, R136, R137, R146, R130, R131, R141, R142,
R145) -/
def Obligations.ItineraryProgress : Prop :=
  -- ITSTART starts, ITSTOP stops and ITSTAT reads the slot of an itinerary.
  (∀ (s : State) (c : Nat) (w : TWord), Issues s c w .stream → w.bMod < 16 → w.bImmRaw = 0 →
    let x := ctxAt s.dev c
    let t := tileOf c
    let faults (st : Nat) (i : Instr) : Prop :=
      Settled s.dev c → Completes i s fun d => FaultsAt s.dev d c st .stream 0
    (x.itins[w.bMod]? = none → ∀ i ∈ [Instr.itstart c w, .itstop c w, .itstat c w], faults 0x0409 i) ∧
    (∀ n, x.itins[w.bMod]? = some n →
      let sl := slotAt s.dev t n
      let a0 := (x.sreg w.bS1).toNat
      let a1 := (x.sreg w.bD).toNat
      ((sl.state = .loaded ∨ sl.state = .ended) → startOk sl t a0 a1 = true →
        Completes (.itstart c w) s fun d =>
          MovesOn (setSlot s.dev t n { sl with
            state := .running, pc := 0, addrs := [a0, a1, 0, 0, 0, 0, 0, 0], strides := [], loops := [],
            entries := [], waits := [], gathered := 0xFC, issued := 0, stopReq := false
            base := match ringAt s.dev t sl.ring with
              | some r => if sl.store then r.rel else r.pub
              | none => 0 }) d c) ∧
      ((sl.state = .loaded ∨ sl.state = .ended) → startOk sl t a0 a1 = false → faults 0x0406 (.itstart c w)) ∧
      (sl.state ≠ .loaded → sl.state ≠ .ended → faults 0x0409 (.itstart c w)) ∧
      ((sl.state = .running ∨ sl.state = .waitSem ∨ sl.state = .held) → Completes (.itstop c w) s fun d =>
        MovesOn { s.dev with
          tiles.slots := d.tiles.slots
          hub.waiters := s.dev.hub.waiters.filter fun q => q.who ≠ .slot t n } d c ∧
        (∀ k, k ≠ 16 * t + n → mget Slot.reset d.tiles.slots k = mget Slot.reset s.dev.tiles.slots k) ∧
        slotAt d t n =
          if sl.flight = [] ∧ sl.signals = [] ∧ (∀ e ∈ sl.side, e.num ≠ 2 ^ 40 ∨ e.xacts = []) then
            { sl with state := .ended, stopReq := false, side := sl.side.filter fun e => e.num ≠ 2 ^ 40 }
          else { sl with state := .stopping }) ∧
      ((sl.state = .stopping ∨ sl.state = .ended) → Completes (.itstop c w) s fun d => MovesOn s.dev d c) ∧
      ((sl.state = .free ∨ sl.state = .loaded) → faults 0x0409 (.itstop c w)) ∧
      (Completes (.itstat c w) s fun d =>
        SetsSreg s.dev d c w.bD (toW (sl.stateWord % 2 ^ 32 + sl.delivered % 2 ^ 32 * 2 ^ 32))))) ∧
  -- LOOP, STRIDE, SETA, WAITSEM, SIGSEM and END do what their words say.
  (∀ (s : State) (t n : Nat), Live s → tilesRun s.dev = true → t < 64 → n < 16 →
    let sl := slotAt s.dev t n
    let w := sl.word
    sl.state = .running →
    let step (i : Instr) (P : Dev → Prop) : Prop := Completes i s fun d =>
      ∃ d1, P d1 ∧ d = exitPoint d1 t n ∧ (sl.stopReq = false → d = d1)
    let sem := bits w 59 43
    (itOp w = 1 → step (.itineraryLoop t n) fun d =>
      let e := mget 0 sl.entries sl.pc
      d = setSlot s.dev t n { sl with
        pc := sl.pc + 1
        entries := mset 0 sl.entries sl.pc (e + 1)
        loops := { first := sl.pc + 1, stop := sl.pc + 1 + bits w 54 48, count := bits w 31 0 + 1,
                   order := bits w 56 55, rot := bits w 47 32, k := 0, odd := e % 2 == 1 } :: sl.loops }) ∧
    (itOp w = 2 → step (.stride t n) fun d =>
      d = setSlot s.dev t n { sl.advance with strides := (slotAt d t n).strides } ∧
      ∀ j, mget 0 (slotAt d t n).strides j =
        if j = 8 * bits w 59 57 + bits w 56 54 then sext 40 (bits w 39 0) else mget 0 sl.strides j) ∧
    (itOp w = 3 → sl.addrs.length = 8 → step (.seta t n) fun d =>
      let z := slotAt d t n
      d = setSlot s.dev t n { sl.advance with addrs := z.addrs, gathered := z.gathered } ∧
      (∀ j, j < 8 → z.addrs.getD j 0 =
        if j = bits w 59 57 then wrapN 64 ((sl.addrs.getD (bits w 56 54) 0 : Int) + sext 40 (bits w 39 0))
        else sl.addrs.getD j 0) ∧
      ∀ j, bit z.gathered j = if j = bits w 59 57 then bit sl.gathered (bits w 56 54) else bit sl.gathered j) ∧
    (itOp w = 6 → let thr := toW (bits w 31 0 + bits w 42 32 * mget 0 sl.waits sl.pc)
      step (.waitsem t n) fun d =>
        if thr.toNat ≤ (semAt s.dev sem).toNat then
          d = setSlot s.dev t n { sl.advance with waits := mset 0 sl.waits sl.pc (mget 0 sl.waits sl.pc + 1) }
        else d = setSlot { s.dev with hub.waiters := s.dev.hub.waiters ++ [⟨sem, thr.toNat, .slot t n⟩] } t n
          { sl with state := .waitSem }) ∧
    (itOp w = 7 →
      (sl.flight = [] → sl.signals = [] → step (.sigsem t n) fun d =>
        let x := ctxAt s.dev sl.owner
        let total := mget 0 x.replayed sem + bits w 31 0
        semAt d sem = semAt s.dev sem + toW (total - mget 0 x.ledger sem) ∧
        (∀ m, m ≠ sem → semAt d m = semAt s.dev m) ∧
        slotAt d t n = { sl.advance with signals := [] } ∧ d.mem = s.dev.mem ∧ d.regs = s.dev.regs) ∧
      (∀ e, sl.flight.head? = some e → e.num < sl.issued → (∀ g ∈ sl.signals, e.num < g.1) →
        step (.sigsem t n) fun d => d = setSlot s.dev t n { sl.advance with
          signals := sl.signals ++ [(sl.issued, sem, bits w 31 0)] })) ∧
    (itOp w = 0 → step (.itineraryEnd t n) fun d =>
      d = { setSlot s.dev t n (slotAt d t n) with
        hub.waiters := s.dev.hub.waiters.filter fun q => q.who ≠ .slot t n } ∧
      slotAt d t n =
        if sl.flight = [] ∧ sl.signals = [] ∧ (∀ e ∈ sl.side, e.num ≠ 2 ^ 40 ∨ e.xacts = []) then
          { sl with state := .ended, stopReq := false, side := sl.side.filter fun e => e.num ≠ 2 ^ 40 }
        else { sl with state := .stopping })) ∧
  -- FETCH issues an element, GATHER forms an address, and delivery publishes in element order.
  (∀ (s : State) (t n : Nat), Live s → tilesRun s.dev = true → t < 64 → n < 16 →
    let sl := slotAt s.dev t n
    let w := sl.word
    let sp := ctxSpace s.dev sl.owner
    (∀ (r : Ring) (x : Shape), sl.state = .running → sl.stopReq = false → sl.remote = false → itOp w = 4 →
      ringAt s.dev t sl.ring = some r → sl.shapes[fetchShape w]? = some x → sl.issued < sl.elements →
      let a := sl.addrOf t (fetchReg w)
      let e : Elem :=
        { num := sl.issued, ringElem := sl.base + sl.issued, addr := a, shape := x, hint := bits w 51 50,
          bytes := [], phys := [], status := 0, faultAddr := 0, xacts := [], done := false, mcast := bits w 47 32 }
      let with_ (y : Elem) : Slot := { sl.advance with issued := sl.issued + 1, flight := sl.flight ++ [y] }
      let held (d : Dev) (st addr : Nat) : Dev := setSlot d t n
        { with_ { e with status := st, faultAddr := addr } with
          state := .held, heldStatus := st, heldElem := sl.issued }
      let allowed := elemAllowed sl (fetchReg w) x a
      (sl.store = false → sl.base + sl.issued < r.rel + r.depth →
        (∀ y ∈ receivers s.dev t sl.ring (bits w 47 32), receiverOpen s.dev sl y = true) →
        (allowed = false → Completes (.itineraryFetch t n) s fun d => d = held s.dev 0x0414 a) ∧
        (allowed = true →
          (∀ bs runs d1, (readElem sp (allocOf (bits w 51 50)) x a).go s.dev = (.ok (bs, runs), d1) →
            Completes (.itineraryFetch t n) s fun d =>
              slotAt d t n = with_ { e with bytes := bs, phys := runs } ∧ d.mem = d1.mem ∧ d.hub = d1.hub ∧
              d.tiles.rings = d1.tiles.rings ∧
              (sl.watch = 0 → d = setSlot d1 t n (with_ { e with bytes := bs, phys := runs }))) ∧
          (∀ st addr d1, (readElem sp (allocOf (bits w 51 50)) x a).go s.dev = (.error (.err st addr), d1) →
            Completes (.itineraryFetch t n) s fun d => d = held d1 st addr))) ∧
      (sl.store = true → sl.base + sl.issued < r.pub →
        let at_ := r.elemAddr (sl.base + sl.issued)
        let len := x.vrows * x.units * 64
        let bs := sramGet s.dev t at_ len
        parityOf s.dev t [(at_, len)] = .ok → allowed = true →
        ∀ d1, (writeElem sp (allocOf (bits w 51 50)) x a bs).go (clean s) = (.ok (), d1) →
          Completes (.itineraryFetch t n) s fun d => d = setSlot { d1 with rnl.fresh := [] } t n
            (with_ { e with bytes := bs, xacts := d1.rnl.fresh.map (· + 2 ^ 20) }))) ∧
    (∀ (bs : List Byte) (d1 : Dev), sl.state = .running → sl.stopReq = false → sl.remote = false → itOp w = 5 →
      (sl.store = false → canIssueElem s.dev t sl (fetchMcast ((sl.nextFetch 1024).getD 0)) = true) →
      (bit sl.gathered (gatherB w) = true → ∃ g ∈ sl.windows,
        g.grants (sl.addrOf t (gatherB w)) (sl.addrOf t (gatherB w) + gatherSize w : Nat) false = true) →
      (vread sp (sl.addrOf t (gatherB w)) (gatherSize w)).go s.dev = (.ok bs, d1) →
      (slotAt d1 t n).stopReq = false → Completes (.gather t n) s fun d =>
        let z := slotAt d1 t n
        d = setSlot d1 t n { z.advance with
          addrs := setAt sl.addrs (gatherD w) ((sl.addrs.getD (gatherC w) 0 + leNat bs * 2 ^ gatherShift w) % 2 ^ 64)
          gathered := setBits sl.gathered (gatherD w) (gatherD w) 1 }) ∧
    (∀ (e : Elem) (rest : List Elem) (r : Ring), sl.flight = e :: rest → e.xacts = [] → e.done = false →
      (∀ y ∈ rest, y.num ≠ e.num) → (∀ y, rest.head? = some y → y.done = false) → sl.signals = [] →
      ringAt s.dev t sl.ring = some r → tileOf r.owner = t →
      (sl.store = false → Completes (.elementDelivery t n e.num) s fun d =>
        (slotAt d t n).flight = rest ∧ (slotAt d t n).delivered = sl.delivered + 1 ∧
        d.mem = s.dev.mem ∧ d.hub = s.dev.hub ∧ d.regs = s.dev.regs ∧
        (∃ r', ringAt d t sl.ring = some r' ∧ r'.pub = r.pub + 1 ∧ r'.rel = r.rel ∧
          r'.held = if e.status = 0 then r.held else r.held ++ [(r.pub, e.status, e.faultAddr)]) ∧
        (e.mcast = 0 → if e.status = 0 then sramGet d t (r.elemAddr r.pub) e.bytes.length = e.bytes
          else d.tiles.sram = s.dev.tiles.sram) ∧
        (∀ y, some y ∈ receivers s.dev t sl.ring e.mcast → ∃ r0 r1, ringAt s.dev y.1 y.2 = some r0 ∧
          ringAt d y.1 y.2 = some r1 ∧ r1.pub = r0.pub + 1)) ∧
      (sl.store = true → e.status = 0 → Completes (.elementWritten t n e.num) s fun d =>
        (slotAt d t n).flight = rest ∧ d.mem = s.dev.mem ∧ d.hub = s.dev.hub ∧ d.regs = s.dev.regs ∧
        d.tiles.sram = s.dev.tiles.sram ∧
        ∃ r', ringAt d t sl.ring = some r' ∧ r'.rel = r.rel + 1 ∧ r'.pub = r.pub)) ∧
    (∀ (e : Elem) (rest : List Elem) (k : Nat), sl.flight = e :: rest → e.done = false → e.num ≠ k →
      (∃ y ∈ rest, y.num = k ∧ y.xacts = [] ∧ y.done = false) →
      Completes (if sl.store then .elementWritten t n k else .elementDelivery t n k) s fun d =>
        d = setSlot s.dev t n { sl with
          flight := sl.flight.map fun y => if y.num = k then { y with done := true } else y }))

/-- RPUT, RACC and RSIG act inside the partition or begin a transaction; ENQ and SIGNBOARD_SCAN report to D.
For every state, context and word that issues, in a partition with a valid chip ID: RPUT and RACC of no
granules move on; a misaligned address or SRAM that the context does not own is an OPERAND_FAULT. Of
whole granules of owned SRAM of good parity, fenced, to a fabric global address that names the own chip:
on a range of the partition's DRAM RPUT writes those bytes and RACC adds them element by element, where
the access succeeds; any other range faults with TARGET_REFUSED. RSIG to the own chip adds the low 32
bits of AMOUNT to a semaphore of the partition. To another chip that may be a target and is not fenced,
with a transaction free, each of up to 1 MiB begins one for the context; with none free it waits. Each
that acts moves the PC on. For every state, context and word that issues with reserved fields 0 and an
aligned, owned descriptor of good parity, fenced: ENQ waits while a write or a remote operation of the
context is outstanding; otherwise, through a virtual address that maps the doorbell page of a queue, it
writes to D the status that the queue answers and, where a slot was assigned, its SEQ. SIGNBOARD_SCAN of
a well-formed descriptor whose ranges are owned, fenced and of good parity, with a parameter set in
force, writes min(K, NBOARDS) to D and so many distinct indices, each below NBOARDS and relative to its
base, to SRAM; a parameter set that is not in force faults with SIGNBOARD_PARAM_EMPTY. A descriptor that
is misaligned or not owned is an OPERAND_FAULT. Each moves the PC on and changes nothing else. (R38,
R39, R48, R281, R286, R211, R212, R331, R333) -/
def Obligations.FabricUnitResults : Prop :=
  -- RPUT, RACC and RSIG act inside the partition when the target is the own chip, and otherwise begin a transaction.
  (∀ (s : State) (c : Nat) (w : TWord) (sram units : Nat) (target : Word), Issues s c w .fabric →
    let x := ctxAt s.dev c
    let t := tileOf c
    let p := partOfCtx s.dev c
    let chip := bits target.toNat 63 44
    let addr := bits target.toNat 43 0
    let bs := sramGet s.dev t sram (64 * units)
    let own := chip = chipId s.dev p
    let both (f : Instr → Prop) : Prop :=
      f (.rput c w sram units target) ∧ ∀ op, accumBits op ≠ none → f (.racc c w sram units target op)
    let begins (chip left addr : Nat) (i : Instr) : Prop :=
      chipBad chip = false → fenced s.dev p chip = false →
        (∀ tid, freeTid s.dev p = some tid → Completes i s fun d => NextPc x (ctxAt d c) ∧
          ctxAt d c = { x with
            remoteOut := x.remoteOut ++ [tid], ops := x.ops ++ [⟨tid, x.pc, addr, Eng.fabric.code⟩]
            pc := (ctxAt d c).pc, loops := (ctxAt d c).loops, wait := .none } ∧
          findXact d tid = some ⟨p, chip, .ctx c, left, 0, 0, addr, 0⟩ ∧ d.mem = s.dev.mem) ∧
        (freeTid s.dev p = none → Completes i s fun d => OnlyCtx s.dev d c ∧
          ctxAt d c = { x with wait := .retry true Eng.fabric.code })
    chipIdValid s.dev p = true →
    (units = 0 → both fun i => Completes i s fun d => MovesOn s.dev d c) ∧
    (0 < units → sram % 64 ≠ 0 ∨ addr % 64 ≠ 0 ∨ x.ownsSram sram (64 * units) = false → Settled s.dev c →
      both fun i => Completes i s fun d => FaultsAt s.dev d c 0x0402 .fabric sram) ∧
    (0 < units → sram % 64 = 0 → addr % 64 = 0 → x.ownsSram sram (64 * units) = true →
      parityOf s.dev t [(sram, 64 * units)] = .ok →
      (∀ u ∈ x.unfenced, u.eng = Eng.fabric.code ∨ u.addr / 64 < sram / 64 ∨ sram / 64 + units ≤ u.addr / 64) →
      (own → inPartDram s.dev p addr (64 * units) = true → ∀ d1,
        ((writePhys .software addr bs).go s.dev = (.ok (), d1) →
          Completes (.rput c w sram units target) s fun d => MovesOn d1 d c) ∧
        (∀ op, accumBits op ≠ none → (accumAt .software addr op bs).go s.dev = (.ok (), d1) →
          Completes (.racc c w sram units target op) s fun d => MovesOn d1 d c)) ∧
      (own → inPartDram s.dev p addr (64 * units) = false → Settled s.dev c →
        both fun i => Completes i s fun d => FaultsAt s.dev d c 0x0602 .fabric target.toNat) ∧
      (¬ own → units ≤ 16384 → both (begins chip ((units + 63) / 64) addr))) ∧
    (∀ (chip sem : Nat) (amount : Word),
      (chip = chipId s.dev p → sem < 131072 → partOfSem s.dev sem = p →
        Completes (.rsig c w chip sem amount) s fun d =>
          semAt d sem = semAt s.dev sem + toW (wbits amount 31 0) ∧
          (∀ m, m ≠ sem → semAt d m = semAt s.dev m) ∧ NextPc x (ctxAt d c) ∧ d.mem = s.dev.mem ∧
          d.regs = s.dev.regs) ∧
      (chip = chipId s.dev p → ¬ (sem < 131072 ∧ partOfSem s.dev sem = p) → Settled s.dev c →
        Completes (.rsig c w chip sem amount) s fun d => FaultsAt s.dev d c 0x0602 .fabric 0) ∧
      (chip ≠ chipId s.dev p → begins chip 1 0 (.rsig c w chip sem amount)))) ∧
  -- ENQ reports the queue's answer and the SEQ of the slot; SIGNBOARD_SCAN reports how many indices it wrote.
  (∀ (s : State) (c : Nat) (w : TWord), w.bMod = 0 → w.bImmRaw = 0 →
    let x := ctxAt s.dev c
    let t := tileOf c
    let fencedFrom (e : Eng) (a n : Nat) : Prop :=
      ∀ u ∈ x.unfenced, u.eng = e.code ∨ u.addr / 64 < a / 64 ∨ a / 64 + n ≤ u.addr / 64
    (Issues s c w .fabric →
      let a := (x.sreg w.bD).toNat
      let va := (x.sreg w.bS1).toNat
      (a % 64 ≠ 0 ∨ x.ownsSram a 64 = false → Settled s.dev c → Completes (.enq c w) s fun d =>
        FaultsAt s.dev d c 0x0402 .fabric a) ∧
      (a % 64 = 0 → x.ownsSram a 64 = true → x.quiet = false → Completes (.enq c w) s fun d =>
        OnlyCtx s.dev d c ∧ ctxAt d c = { x with wait := .retry (decide (x.writesOut = [])) Eng.fabric.code }) ∧
      (a % 64 = 0 → x.ownsSram a 64 = true → x.quiet = true → parityOf s.dev t [(a, 64)] = .ok →
        fencedFrom .fabric a 1 → ∀ pa q coh d1 d2 st,
        (translate (ctxSpace s.dev c) va true).go s.dev = (.ok (pa, coh), d1) → regionOf pa = .doorbell q →
        (∀ seq, enqueue d1 q x.asid (sramGet s.dev t a 64) = .done d2 st (some seq) →
          Completes (.enq c w) s fun d => SetsSreg (ownWrites d2 c va) d c w.bD (toW (st + seq * 2 ^ 32))) ∧
        (enqueue d1 q x.asid (sramGet s.dev t a 64) = .done d2 st none → Completes (.enq c w) s fun d =>
          ∃ v, SetsSreg (ownWrites { d2 with free := d2.free + 1 } c va) d c w.bD (toW (st + v * 2 ^ 32))))) ∧
    (Issues s c w .matrix →
      let a := (x.sreg w.bS1).toNat
      let desc := sramGet s.dev t a 64
      let sc := scanOf desc
      let n := min sc.k sc.boards
      let params := scanParams (genAt s.dev .signboard (partOfCtx s.dev c)).image sc.pset
      (a % 64 ≠ 0 ∨ x.ownsSram a 64 = false → Settled s.dev c → Completes (.signboardScan c w) s fun d =>
        FaultsAt s.dev d c 0x0402 .matrix a) ∧
      (a % 64 = 0 → x.ownsSram a 64 = true → fencedFrom .matrix a 1 → scanOk desc = true →
        x.ownsSram sc.qaddr (256 * sc.rows) = true → x.ownsSram sc.sbaddr (512 * sc.boards) = true →
        x.ownsSram sc.out (4 * n) = true → parityOf s.dev t [(a, 64)] = .ok →
        (params = none → Settled s.dev c → Completes (.signboardScan c w) s fun d =>
          FaultsAt s.dev d c 0x0431 .matrix 0) ∧
        (params ≠ none → (∀ u ∈ x.unfenced, u.eng = Eng.matrix.code) →
          parityOf s.dev t [(sc.qaddr, 256 * sc.rows), (sc.sbaddr, 512 * sc.boards)] = .ok →
          Completes (.signboardScan c w) s fun d => ∃ ps : List Nat, ps.length = n ∧ ps.Nodup ∧
            (∀ p ∈ ps, p < sc.boards) ∧
            sramGet d t sc.out (4 * n) = (ps.map fun p => leBytes 4 (sc.base + p)).flatten ∧
            (∀ k, k < sramKey t sc.out ∨ sramKey t sc.out + 4 * n ≤ k →
              mget 0 d.tiles.sram k = mget 0 s.dev.tiles.sram k) ∧
            (∀ j, (ctxAt d c).sreg j = if j = w.bD ∧ j ≠ 0 then toW n else x.sreg j) ∧
            NextPc x (ctxAt d c) ∧ d = { setCtx s.dev c (ctxAt d c) with
              tiles.sram := d.tiles.sram, tiles.sramBad := d.tiles.sramBad }))))

/-- Contexts are selected, switched, halted, released and retired; a refetch, a multicast binding and an
overwrite report act on their element. For every state and context: the first READY context of a tile
that nothing occupies becomes RUNNING, or HALTED while its HALT bit is set, and in RESIDENT mode its
SRAM is the tile's range; in a THREADED partition a running context that waits for a semaphore, a ring
element or the fabric becomes WAITING and the next ready one of the tile, if any, runs. The LAUNCH of a
drained context finishes; where it is at the head of its queue and asks for no reply and no shadow, it
retires: the context is IDLE with nothing bound, and RETIRE has risen by one. The result word of a
LAUNCH the spec does not state (log 17). For every state and tile: with scope TILE in force, a write of
TILE_CTL sets HALT; a running context whose HALT bit is now 1 is HALTED, a halted one whose bit is 0
runs, and every other context keeps its state; without the scope nothing changes. PARITY_REFETCH of an
element that a context waits for, from a readable local source, writes its bytes at the element's place
and lets every context that waits for it go on; where the source cannot be read the element is held and
a context that waits for it faults with that status. For every state: a receiving ring whose context and
leader are launched binds to a leader ring of equal elements, and its context faults with MCAST_MISMATCH
where they differ. OVERWRITE_EVENT of a granule that was written while watched counts in TILE_STR_OVW,
takes the mark away, and with WATCH = 2 raises event 0x0001. (R40, R49, R50, R72, R73, R78, R145, R149,
R150) -/
def Obligations.ContextsAndStreams : Prop :=
  -- A ready context is selected, a stalled one is switched away, a drained one retires.
  (∀ (s : State) (c : Nat), Live s → c < 512 →
    let x := ctxAt s.dev c
    let entered (o : Nat) (range : Nat) : Ctx := { ctxAt s.dev o with
      state := if wbit (rget s.dev .tileCtl (tileOf o)) (slotOf o) then .halted else .running
      wait := .none
      sramSize := range }
    (tilesRun s.dev = true → tileOpen s.dev (tileOf c) = true → nextReady s.dev c = true →
      Completes (.contextSelect c) s fun d =>
        d = setCtx s.dev c (entered c (if threaded s.dev (partOfCtx s.dev c) then x.sramSize else 0xBC0000))) ∧
    (tilesRun s.dev = true → threaded s.dev (partOfCtx s.dev c) = true → x.state = .running →
      (x.wait = .sem ∨ ∃ e, x.wait = .retry true e) →
      (roundRobin s.dev c = none → Completes (.contextSwitch c) s fun d =>
        d = setCtx s.dev c { x with state := .waiting }) ∧
      (∀ o, roundRobin s.dev c = some o → Completes (.contextSwitch c) s fun d =>
        d = setCtx (setCtx s.dev c { x with state := .waiting }) o (entered o (ctxAt s.dev o).sramSize))) ∧
    (∀ y rest, drained s.dev c = true →
      ((queueAt s.dev x.queue).cmds = y :: rest → y.seq = x.seq → y.st = .started → y.opcode = 0x0201 →
        y.aux = [c] → y.step < 2 ^ 32 → y.wantsReply = false → (queueAt s.dev x.queue).shadowPa = 0 →
        s.dev.rnl.fresh = [] → Completes (.contextRetire c) s fun d =>
          (queueAt d x.queue).retire = ((queueAt s.dev x.queue).retire + 1) % 2 ^ 32 ∧
          (queueAt d x.queue).cmds.map (·.seq) = rest.map (·.seq) ∧
          ctxAt d c = { x with
            state := .idle, wait := .none, rings := [], itins := [], semRanges := [], nShapes := 0, nWins := 0,
            acc := 0, sramBase := 0, sramSize := 0, chain := none, unfenced := [] } ∧
          (∀ m ∈ x.itins, (slotAt d (tileOf c) m).state = .free) ∧
          (∀ rn ∈ x.rings, ringAt d (tileOf c) rn = none) ∧ d.mem = s.dev.mem ∧ d.tiles.sram = s.dev.tiles.sram) ∧
      ((queueAt s.dev x.queue).cmds = y :: rest → y.seq ≠ x.seq →
        (∃ z ∈ rest, z.seq = x.seq ∧ z.st = .started) → Completes (.contextRetire c) s fun d =>
          FinishesFree s.dev d x.queue x.seq 0))) ∧
  -- TILE_CTL halts and releases contexts; a parity refetch writes the element again.
  (∀ (s : State) (t : Nat), Live s → t < 64 →
    (∀ v : Word, debugOpen s.dev = true → Completes (.tileCtlWrite t v) s fun d =>
      (∀ c, ctxAt d c = { ctxAt s.dev c with
        state := if c / 8 = t then
            match (ctxAt s.dev c).state, wbit v (c % 8) with
            | .running, true => .halted
            | .halted, false => .running
            | st, _ => st
          else (ctxAt s.dev c).state }) ∧
      d = { rset s.dev .tileCtl t 0 (toW (wbits v 7 0)) with tiles.ctxs := d.tiles.ctxs }) ∧
    (∀ v : Word, debugOpen s.dev = false → exec (.tileCtlWrite t v) s = .next s) ∧
    (∀ (rn el c : Nat) (r : Ring) (e : Elem),
      ringAt s.dev t rn = some r → (∀ n, r.slot = some n → (slotAt s.dev t n).remote = false) →
      (r.src.find? fun e => e.ringElem == el) = some e → c / 8 = t → (ctxAt s.dev c).wait.onElem rn el = true →
      let from_ := if r.kind = .mcastRecv then r.leaderCtx else r.owner
      let act := readElem (ctxSpace s.dev from_) (allocOf e.hint) e.shape e.addr
      (∀ bs runs d1, act.go s.dev = (.ok (bs, runs), d1) → Completes (.parityRefetch t rn el) s fun d =>
        sramGet d t (r.elemAddr el) bs.length = bs ∧
        (∀ k, k < sramKey t (r.elemAddr el) ∨ sramKey t (r.elemAddr el) + bs.length ≤ k →
          mget 0 d.tiles.sram k = mget 0 d1.tiles.sram k) ∧
        (∀ o, ctxAt d o = if o / 8 = t ∧ (ctxAt d1 o).wait.onElem rn el = true then
          { ctxAt d1 o with wait := .none } else ctxAt d1 o) ∧
        d.tiles.rings = d1.tiles.rings ∧ d.mem = d1.mem ∧ d.hub = d1.hub ∧ d.regs = d1.regs) ∧
      (∀ st addr d1, act.go s.dev = (.error (.err st addr), d1) → Settled d1 c → (ctxAt d1 c).wait.onElem rn el = true →
        ringAt d1 t rn = some r → Completes (.parityRefetch t rn el) s fun d =>
          (ctxAt d c).state = .faulted ∧ (ctxAt d c).fStatus = st ∧ (ctxAt d c).fAddr = addr % 2 ^ 64 ∧
          ringAt d t rn = some { r with held := r.held ++ [(el, st, addr)] }))) ∧
  -- A receiver binds to its leader; an overwrite of a watched granule is counted and reported.
  (∀ (s : State), Live s →
    (∀ (t rn ln : Nat) (r l : Ring), ringAt s.dev t rn = some r → r.kind = .mcastRecv → r.bound = false →
      (ctxAt s.dev r.leaderCtx).state.launched = true → (ctxAt s.dev r.owner).state.launched = true →
      (ctxAt s.dev r.leaderCtx).ringNum r.leaderRing = some ln → ringAt s.dev (tileOf r.leaderCtx) ln = some l →
      (l.elem = r.elem → Completes (.mcastBind t rn) s fun d => d = setRing s.dev t rn { r with bound := true }) ∧
      (l.elem ≠ r.elem → (ctxAt s.dev r.owner).state ≠ .faulted → Settled s.dev r.owner →
        Completes (.mcastBind t rn) s fun d => FaultsAt s.dev d r.owner 0x0407 .stream 0)) ∧
    (∀ pa t n e, (s.dev.mem.overwritten.find? fun w => w.1 == pa / 64 * 64) = some (pa / 64 * 64, t, n, e) →
      Completes (.overwriteEvent pa) s fun d =>
        d.mem = { s.dev.mem with overwritten := s.dev.mem.overwritten.erase (pa / 64 * 64, t, n, e) } ∧
        rfield d .tileStrOvw t 0 31 0 = min (2 ^ 32 - 1) (rfield s.dev .tileStrOvw t 0 31 0 + 1) ∧
        rfield d .tileStrOvw t 0 51 48 = n % 16 ∧ d.tiles = s.dev.tiles ∧ d.hub = s.dev.hub ∧
        ((slotAt s.dev t n).watch ≠ 2 → d.rnl = s.dev.rnl ∧ d.out = s.dev.out) ∧
        ((slotAt s.dev t n).watch = 2 → mget 0 d.rnl.evtSeq (partOfTile s.dev t) =
          (mget 0 s.dev.rnl.evtSeq (partOfTile s.dev t) + 1) % 2 ^ 32)))

/-- Doorbells, queue actions, the queue view and delayed notifications act as Tables CMD-2 and CMD-3 say.
For every state and queue: a 64-bit write of DB_TAIL to a queue of a READY partition that is not OFF, to
a count that does not go back and leaves at most SIZE commands unretired, sets TAIL and status OK; every
other one only sets its status in DB_STATUS and is counted: QUEUE_OFF and DOORBELL_INVALID in INVALID,
RING_FULL in FULL, and one in a partition that is not READY in RESET, answered with PARTITION_IN_RESET.
A write of DB_CQHEAD that does not go back and leaves at most CSIZE replies sets CQHEAD; every other one
is counted in INVALID. Nothing else changes; over the link the same happens after the companion's
earlier requests. An access of another width changes no register and answers MMIO_ACCESS. For every
state and queue: ENABLE of an OFF queue of a READY partition whose descriptor is readable and passes the
checks makes it RUN with every count 0 and its doorbell status kept; STOP makes a running queue STOPPED,
RESUME a stopped one RUN; FLUSH of a stopped queue finishes every unstarted command below TAIL with
COMMAND_FLUSHED, in order, and leaves the others; DISABLE of a stopped queue with nothing started makes
it OFF. Each records its status with the queue in QTR_QCMD_RESULT, an action that the state does not
allow records QUEUE_STATE, a descriptor that fails its check QUEUE_DESCRIPTOR, one that cannot be read
the status of the read, and each of those leaves the queue. Nothing else changes. For every state: a
write of QTR_QSEL leaves the selected queue's state, last status, in-flight count and RETIRE in
QTR_QSTATE and its TAIL and REPLY in QTR_QCOUNT, and nothing else changes. NOTIFY_US_EXPIRY of a queue
with NOTIFY and a delayed event, whose interval has passed, raises one event 0x0006, and no event is due
any more; otherwise only time passes. (R42, R316, R331, R462, R327, R328, R334, Table CMD-3, R323, R339) -/
def Obligations.QueueRegisters : Prop :=
  -- DB_TAIL and DB_CQHEAD take a count that the ring allows and turn any other away.
  (∀ (s : State) (q : Nat) (v : Word), Live s → q < 262144 →
    let x := queueAt s.dev q
    let n := wbits v 31 0
    let qt := q / 65536
    let ready := isReady s.dev (partOfQueue s.dev q)
    let does (i : Bool → Instr) (d0 : Dev) : Prop :=
      let e := if ready then d0 else { d0 with out := d0.out ++ [.mmio 0x0663 none] }
      (Completes (i false) s fun d => d = e) ∧
      (linkUp s.dev = false → Completes (i true) s fun d => d = s.dev) ∧
      (linkUp s.dev = true → s.dev.rnl.reqs = [] → Completes (i true) s fun d =>
        d.hub = e.hub ∧ d.mem = e.mem ∧ rget d .qtrDbStat qt = rget e .qtrDbStat qt)
    let stat (d : Dev) (st : Nat) : Dev := setQueue d q { x with dbStatus := st }
    (ready = false → does (.dbTailWrite q 8 v) (rcount s.dev .qtrDbStat qt 0 15 0 1)) ∧
    (ready = true → x.state = .off →
      does (.dbTailWrite q 8 v) (rcount (stat s.dev 0x0203) .qtrDbStat qt 0 47 32 1)) ∧
    (ready = true → x.state ≠ .off → 2 ^ 31 ≤ cdiff n x.tail →
      does (.dbTailWrite q 8 v) (rcount (stat s.dev 0x0202) .qtrDbStat qt 0 47 32 1)) ∧
    (ready = true → x.state ≠ .off → cdiff n x.tail < 2 ^ 31 → x.size < cdiff n x.retire →
      does (.dbTailWrite q 8 v) (rcount (stat s.dev 0x0201) .qtrDbStat qt 0 31 16 1)) ∧
    (ready = true → x.state ≠ .off → cdiff n x.tail < 2 ^ 31 → cdiff n x.retire ≤ x.size →
      does (.dbTailWrite q 8 v)
        (setQueue { s.dev with pwr.busyAt := s.dev.clock } q { x with tail := n, dbStatus := 0 })) ∧
    (x.state = .off ∨ 2 ^ 31 ≤ cdiff n x.cqhead ∨ x.csize < cdiff x.reply n →
      does (.dbCqheadWrite q 8 v) (rcount s.dev .qtrDbStat qt 0 47 32 1)) ∧
    (x.state ≠ .off → cdiff n x.cqhead < 2 ^ 31 → cdiff x.reply n ≤ x.csize →
      does (.dbCqheadWrite q 8 v) (setQueue s.dev q { x with cqhead := n })) ∧
    (∀ w b, w ≠ 8 → ∀ i ∈ [Instr.dbTailWrite q w v b, .dbCqheadWrite q w v b], Completes i s fun d =>
      d = { s.dev with out := s.dev.out ++ [.mmio 0x0416 none] })) ∧
  -- ENABLE, STOP, RESUME, FLUSH and DISABLE move a queue through the states of Table CMD-3.
  (∀ (s : State) (q : Nat), Live s → q < 262144 →
    let x := queueAt s.dev q
    let bare (z : Cmd) : Cmd := { z with readyAt := none }
    let res (d : Dev) (st : Nat) : Dev := rset d .qtrQcmdResult (q / 65536) 0 (toW (st + q % 65536 * 2 ^ 16))
    let ready := isReady s.dev (partOfQueue s.dev q)
    let tbl := rget s.dev .qtrQtbl (q / 65536)
    let base := wbits tbl 47 16 * 2 ^ 16
    let placed := wbit tbl 0 && ringPlaced s.dev (partOfQueue s.dev q) base 0x400000 && regionOf base != .window
    let fetch := (readPhys (base + q % 65536 * 64) 64).go s.dev
    let next := (x.retire + x.cmds.length) % 2 ^ 32
    (x.state = .off → ready = true → placed = true →
      (∀ desc d1, fetch = (.ok desc, d1) → Completes (.queueEnable q) s fun d =>
        if descOk d1 q desc then
          d = res (setQueue d1 q { Queue.reset with state := .run, desc := desc, dbStatus := x.dbStatus }) 0
        else d = res d1 0x0105) ∧
      (∀ st a d1, fetch = (.error (.err st a), d1) → Completes (.queueEnable q) s fun d => d = res d1 st)) ∧
    (x.state = .off → ready = true → placed = false → Completes (.queueEnable q) s fun d => d = res s.dev 0x0105) ∧
    (x.state ≠ .off ∨ ready = false → Completes (.queueEnable q) s fun d => d = res s.dev 0x0106) ∧
    (x.state = .run → Completes (.queueStop q) s fun d => d = res (setQueue s.dev q { x with
      state := .stopped, deficit := 0
      cmds := x.cmds.map fun y => if y.st = .accepted then bare y else y }) 0) ∧
    (x.state = .stopped →
      (Completes (.queueResume q) s fun d =>
        d = res (setQueue { s.dev with pwr.busyAt := s.dev.clock } q (queueAt d q)) 0 ∧
        (queueAt d q).cmds.map bare = x.cmds.map bare ∧
        queueAt d q = { x with state := .run, cmds := (queueAt d q).cmds, deficit := (queueAt d q).deficit }) ∧
      (Completes (.queueFlush q) s fun d =>
        queueAt d q = { x with cmds := (queueAt d q).cmds } ∧
        (queueAt d q).cmds.map (·.seq) = x.cmds.map (·.seq) ++
          (List.range (cdiff x.tail next)).map (fun i => (next + i) % 2 ^ 32) ∧
        (∀ (i : Nat) (y : Cmd), x.cmds[i]? = some y → ∃ z, (queueAt d q).cmds[i]? = some z ∧
          if y.st = .accepted then
            z = { y with st := .finished, status := 0x0905, result := z.result, start := s.dev.ns, finish := s.dev.ns }
          else z = y) ∧
        (∀ z ∈ (queueAt d q).cmds.drop x.cmds.length, z.st = .finished ∧ z.status = 0x0905) ∧
        (∀ p, p ≠ q → queueAt d p = queueAt s.dev p) ∧ d.mem = s.dev.mem ∧ d.tiles = s.dev.tiles ∧
        rget d .qtrQcmdResult (q / 65536) = toW (q % 65536 * 2 ^ 16) ∧
        ((∀ y ∈ x.cmds, y.opcode ≠ 0x0110 ∧ y.opcode ≠ 0x0111 ∧ y.opcode ≠ 0x0905) →
          d = res { setQueue s.dev q (queueAt d q) with free := d.free } 0)) ∧
      (x.inflight = 0 → Completes (.queueDisable q) s fun d =>
        d = res (setQueue s.dev q { x with state := .off, cmds := [] }) 0) ∧
      (x.inflight ≠ 0 → Completes (.queueDisable q) s fun d => d = res s.dev 0x0106)) ∧
    (∀ i ∈ [Instr.queueResume q, .queueFlush q, .queueDisable q], x.state ≠ .stopped →
      Completes i s fun d => d = res s.dev 0x0106) ∧
    (x.state ≠ .run → Completes (.queueStop q) s fun d => d = res s.dev 0x0106)) ∧
  -- QTR_QSEL takes one snapshot of the queue; a delayed notification is sent when its interval is over.
  (∀ (s : State), Live s →
    (∀ (qt : Nat) (v : Word), qt < 4 → Completes (.qtrQselWrite qt v) s fun d =>
      let x := queueAt s.dev (qt * 65536 + wbits v 15 0)
      d = rset (rset (rset s.dev .qtrQsel qt 0 (toW (wbits v 15 0)))
          .qtrQstate qt 0 (toW (x.state.code + x.lastStatus * 2 ^ 8 + x.inflight * 2 ^ 24 + x.retire * 2 ^ 32)))
        .qtrQcount qt 0 (toW (x.tail + x.reply * 2 ^ 32))) ∧
    (∀ (q now : Nat), let x := queueAt s.dev q
      let d0 := advanceTo s.dev now
      (x.notifyDue = none ∨ x.notify = false ∨ notifyOpen d0 x = false →
        Completes (.notifyUsExpiry q now) s fun d => d = d0) ∧
      (∀ st, x.notifyDue = some st → x.notify = true → notifyOpen d0 x = true →
        Completes (.notifyUsExpiry q now) s fun d =>
          d.hub = (setQueue d0 q { x with notifyDue := none, notified := some (max s.dev.clock now) }).hub ∧
          mget 0 d.rnl.evtSeq (partOfQueue s.dev q) =
            (mget 0 s.dev.rnl.evtSeq (partOfQueue s.dev q) + 1) % 2 ^ 32 ∧
          d.mem = s.dev.mem ∧ d.tiles = s.dev.tiles)))

/-- A packet is accepted with its checks, started when arbitration chooses it, and retired with its effect
and reply. For every state and running queue of a READY partition with a packet below TAIL that can be
read: a packet that carries its own SEQ and passes the checks of Table CMD-5, made once the frame list
that it names has been read, joins its queue as accepted, with its engine, and has its effect of
acceptance; one with another SEQ joins it finished with SEQUENCE_MISMATCH and is counted; one that fails
a later check joins it finished with that status, and one that cannot be read with the status of the
read. The commands before it, the other queues and memory stay. Where a queue is not in RUN, has no
packet below TAIL, or its partition is not READY, only time passes. For every state: where the device is
not ACTIVE, the partition not READY or held before a reset, where arbitration chooses no head for the
engine, or the share of another partition comes first, only time passes. Otherwise the head that
arbitration chooses is started, with the time, no other command changes, and a LAUNCH of an IDLE context
takes it into CHECKING with the queue's ASID and the command's parameters. For every state and queue:
where no head has finished, or its reply has no place, nothing changes. A head that needs no reply, of a
queue without a shadow, retires: RETIRE rises by one and the head is gone; where it ended well, a local
SEM_SIGNAL then adds its AMOUNT to its semaphore and SEM_SET writes its VALUE. One that needs a reply
writes it to memory first and REPLY rises too; a running queue is then STOPPED where the status is of
class 1 or higher and STOP_ON_ERROR is set or the head is a gate. A reply that goes to the companion
window keeps the head until it is visible, and RETIRE stands in the shadow only after that. (R336, R337,
R20, R340, R346, R352, R316, R338, R339, R341, R343) -/
def Obligations.CommandsMoveThroughQueues : Prop :=
  -- The next packet of a running queue is accepted, or finishes at once with the status of its first failing check.
  (∀ (s : State) (q now : Nat), Live s → q < 262144 →
    let d0 := advanceTo s.dev now
    let x := queueAt d0 q
    let k := (x.retire + x.cmds.length) % 2 ^ 32
    let bare (z : Cmd) : Cmd := { z with readyAt := none }
    let act := readPhys (x.ringPa + k % x.size * 64) 64
    let start := { d0 with rnl.fresh := [] }
    let joins (d1 d : Dev) (P : Cmd → Prop) : Prop :=
      (∃ z, (queueAt d q).cmds.getLast? = some z ∧ z.seq = k ∧ P z) ∧
      (queueAt d q).cmds.dropLast.map bare = x.cmds.map bare ∧
      queueAt d q = { queueAt d1 q with cmds := (queueAt d q).cmds, deficit := (queueAt d q).deficit } ∧
      (∀ p, p ≠ q → queueAt d p = queueAt d1 p) ∧ d.mem = d1.mem ∧ d.tiles = d1.tiles
    (x.state ≠ .run ∨ k = x.tail ∨ isReady d0 (partOfQueue d0 q) = false →
      Completes (.commandAccept q now) s fun d => d = d0) ∧
    (x.state = .run → k ≠ x.tail → isReady d0 (partOfQueue d0 q) = true →
      (∀ st a d1, act.go start = (.error (.err st a), d1) → st ≠ 0 → Completes (.commandAccept q now) s fun d =>
        joins d1 d fun z => z.st = .finished ∧ z.status = st ∧ z.gateFail = true) ∧
      (∀ (data : List Byte) (d1 : Dev), act.go start = (.ok data, d1) →
        (leAt data 4 4 ≠ k → Completes (.commandAccept q now) s fun d =>
          (joins d1 d fun z => z.st = .finished ∧ z.status = 0x0103 ∧ z.gateFail = true) ∧
          rfield d .qtrDbStat (q / 65536) 0 63 48 = min 65535 (rfield d1 .qtrDbStat (q / 65536) 0 63 48 + 1)) ∧
        (leAt data 4 4 = k → ∀ fs d2, (readList (spaceOf d1 q) (newCmd d1 k data false 0 0)).go d1 = (.ok fs, d2) →
          let y := { newCmd d1 k data false 0 0 with aux2 := fs }
          (∀ st, acceptCheck d2 q y = st → st ≠ 0 → Completes (.commandAccept q now) s fun d =>
            joins d2 d fun z => z.st = .finished ∧ z.status = st ∧ z.gateFail = false) ∧
          (acceptCheck d2 q y = 0 → ∀ (e : Nat) (d3 : Dev), (cmdEngine d2 q y).go d2 = (.ok e, d3) →
            Completes (.commandAccept q now) s fun d =>
              (joins (acceptEffect d3 q y) d fun z => bare z = bare { y with engine := e }) ∧
              d = setQueue { acceptEffect d3 q y with hub.accepted := d.hub.accepted } q (queueAt d q)))))) ∧
  -- The head that arbitration chooses is handed to its engine.
  (∀ (s : State) (p engine now : Nat), Live s →
    let d0 := advanceTo s.dev now
    let bare (z : Cmd) : Cmd := { z with readyAt := none }
    (startsIn d0 p = false ∨ (arbitrate d0 p engine).2 = none →
      Completes (.commandStart p engine now) s fun d => d = d0) ∧
    (startsIn d0 p = true → ∀ d1 b, arbitrate d0 p engine = (d1, some b) →
      ((takeShare d1 p engine b.y.cost).2 = false → Completes (.commandStart p engine now) s fun d => d = d0) ∧
      (∀ d2 y, takeShare d1 p engine b.y.cost = (d2, true) → cmdAt d2 b.q b.y.seq = some y →
        let z := { y with st := .started, began := true, start := d0.ns, startClock := d0.clock }
        let others (d : Dev) : Prop := ∀ q k, q ≠ b.q ∨ k ≠ b.y.seq →
          (cmdAt d q k).map bare = (cmdAt d2 q k).map bare
        ((b.y.opcode ≠ 0x0201 ∨ ∀ c, launchCtx d2 b.y = some c → (ctxAt d2 c).state ≠ .idle) → Completes (.commandStart p engine now) s fun d =>
          (∃ z', cmdAt d b.q b.y.seq = some z' ∧ bare z' = bare z) ∧ others d ∧
          d = setQueue d2 b.q (queueAt d b.q)) ∧
        (b.y.opcode = 0x0201 → ∀ c, launchCtx d2 b.y = some c → (ctxAt d2 c).state = .idle →
          Completes (.commandStart p engine now) s fun d =>
            (∃ z', cmdAt d b.q b.y.seq = some z' ∧ bare z' = bare { z with aux := [c] }) ∧ others d ∧
            ctxAt d c = { Ctx.reset with
              state := .checking, asid := (queueAt d2 b.q).asid, queue := b.q, seq := b.y.seq,
              order := d2.tiles.launches, ledger := pairsOf b.y.aux2
              params := (List.range 6).map fun i => toW (b.y.param i) } ∧
            (∀ o, o ≠ c → ctxAt d o = ctxAt d2 o) ∧ d.mem = d2.mem)))) ∧
  -- A finished head retires: RETIRE rises, the effect of SEM_SIGNAL and SEM_SET happens, and a failed one may stop its queue.
  (∀ (s : State) (q : Nat), Live s →
    let x := queueAt s.dev q
    let gone (d : Dev) (y : Cmd) (ys : List Cmd) : Prop :=
      let needs := y.status ≠ 0 ∨ y.wantsReply = true
      (queueAt d q).retire = (x.retire + 1) % 2 ^ 32 ∧ (queueAt d q).cmds.map (·.seq) = ys.map (·.seq) ∧
      (queueAt d q).state = (if x.state = .run ∧ 1 ≤ statusClass y.status ∧ (isGate y = true ∨ x.stopOnError = true)
        then .stopped else x.state) ∧
      (queueAt d q).reply = (if needs then (x.reply + 1) % 2 ^ 32 else x.reply) ∧
      (queueAt d q).lastStatus = (if 1 ≤ statusClass y.status then y.status else x.lastStatus)
    (canRetire x = none → Completes (.commandRetire q) s fun d => d = s.dev) ∧
    (∀ (y : Cmd) (ys : List Cmd), x.cmds = y :: ys → y.st = .finished →
      (y.step < 2 ^ 32 → x.shadowPa = 0 → y.status = 0 → y.wantsReply = false →
        Completes (.commandRetire q) s fun d => gone d y ys ∧ d.mem = s.dev.mem ∧
          (∀ n, semAt d n =
            if y.opcode = 0x0301 ∧ y.param 2 % 2 ^ 20 = 0 ∧ n = y.param 0 % 131072 then
              semAt s.dev n + toW (y.param 1)
            else if y.opcode = 0x0304 ∧ n = y.param 0 % 131072 then toW (y.param 1) else semAt s.dev n)) ∧
      (y.step < 2 ^ 32 → cdiff x.reply x.cqhead ≠ x.csize → ∀ d1 y1,
        retireEffect { s.dev with rnl.fresh := [] } q y = (d1, y1) → queueAt d1 q = x →
        (y.status ≠ 0 ∨ y.wantsReply = true) →
        ∀ d2, hubWrite d1 (x.cringPa + x.reply % x.csize * 32) (replyBytes x y1) = some d2 →
        (d2.rnl.fresh = [] → x.shadowPa = 0 → Completes (.commandRetire q) s fun d =>
          gone d y ys ∧ d.mem = d2.mem) ∧
        (d2.rnl.fresh = [] → x.shadowPa ≠ 0 → ∀ d3,
          hubWrite { d2 with rnl.fresh := [] } x.shadowPa (leBytes 4 ((x.retire + 1) % 2 ^ 32)) = some d3 →
          d3.rnl.fresh = [] → queueAt d3 q = queueAt d2 q → Completes (.commandRetire q) s fun d =>
            (queueAt d q).retire = (x.retire + 1) % 2 ^ 32 ∧ d.mem = d3.mem) ∧
        (d2.rnl.fresh ≠ [] → queueAt d2 q = x → (∀ z ∈ ys, z.seq ≠ y.seq) → Completes (.commandRetire q) s fun d =>
          d = setQueue { d2 with rnl.fresh := [] } q { x with
            cmds := { y with step := 2 ^ 32 + 1, aux2 := d2.rnl.fresh, result := y1.result } :: ys })) ∧
      ((y.step = 2 ^ 32 + 1 ∨ y.step = 2 ^ 32 + 2) → y.aux2 ≠ [] →
        Completes (.commandRetire q) s fun d => d = s.dev) ∧
      (y.step = 2 ^ 32 + 1 → cdiff x.reply x.cqhead ≠ x.csize → y.aux2 = [] → x.shadowPa = 0 →
        Completes (.commandRetire q) s fun d => gone d y ys ∧ d.mem = s.dev.mem) ∧
      (y.step = 2 ^ 32 + 2 → cdiff x.reply x.cqhead ≠ x.csize → y.aux2 = [] →
        Completes (.commandRetire q) s fun d => gone d y ys ∧ d.mem = s.dev.mem)))

/-- Arbitration starts an eligible head, of the highest class unless one has aged. For every device,
partition and engine: a queue that arbitration starts is eligible for the engine, and, unless a head has
waited longer than AGE_MS or the engine takes its commands in acceptance order, no eligible queue has a
higher priority class. (R346) -/
def Obligations.ArbitrationKeepsClass : Prop :=
  ∀ (d d' : Dev) (p engine : Nat) (b : Bid), arbitrate d p engine = (d', some b) →
    b ∈ bids d p engine ∧
    (inOrderEngine engine = true → ∀ b' ∈ bids d p engine, b.y.acc ≤ b'.y.acc) ∧
    (inOrderEngine engine = false → agedBid d (bids d p engine) = none →
      ∀ b' ∈ bids d p engine, b.x.prio ≤ b'.x.prio)

/-- NOP, QUEUE_CTL, semaphore commands and the barrier finish with the result the spec gives. For every
state with the command started: NOP finishes with its first parameter as its result; QUEUE_CTL does its
action on the queue it names and finishes with the action's status and the queue's state, a running
queue with STOP being STOPPED; a local SEM_SIGNAL and SEM_SET finish, their effect left to retirement; a
SEM_SIGNAL for another chip waits for the commands before it, sends one transaction with its AMOUNT, and
finishes with its status, and one for the own chip adds then; SEM_WAIT of a semaphore that has reached
its threshold finishes with its value, and otherwise registers its wait; a BARRIER joins the open
episode of its count, opens one where none is open, finishes with the episode where it completes the
count, and with BARRIER_MISMATCH where the counts differ. Nothing else changes, but for tables that a
barrier puts into force and the participants it lets go. (R125, R152, R153, R343, R345, R350) -/
def Obligations.HubCommandsFinish : Prop :=
  ∀ (s : State) (q k : Nat) (y : Cmd),
    let p := partOfQueue s.dev q
    (CmdRuns s q k 0x0001 y → Completes (.nopCommand q k) s fun d => Finishes s.dev d q k 0 (toW (y.param 0))) ∧
    (CmdRuns s q k 0x0002 y → let n := y.param 0 % 262144
      (∀ d1 st, queueAction s.dev n (y.param 1 % 8) = .done d1 st → cmdAt d1 q k = some y →
        Completes (.queueCtl q k) s fun d => Finishes d1 d q k st (toW (queueAt d1 n).state.code)) ∧
      (∀ d1, queueAction s.dev n (y.param 1 % 8) = .wait d1 → Completes (.queueCtl q k) s fun d => d = d1) ∧
      (y.param 1 % 8 = 2 → n ≠ q → (queueAt s.dev n).state = .run → Completes (.queueCtl q k) s fun d =>
        EndsWith d q k 0 2 ∧ (queueAt d n).state = .stopped)) ∧
    (CmdRuns s q k 0x0301 y → let chip := y.param 2 % 2 ^ 20
      let n := y.param 0 % 131072
      (chip = 0 → Completes (.semSignal q k) s fun d => Finishes s.dev d q k 0 0) ∧
      (chip ≠ 0 → y.step = 0 → isHead s.dev q k = false → Completes (.semSignal q k) s fun d => d = s.dev) ∧
      (chip ≠ 0 → y.step = 0 → isHead s.dev q k = true → chipIdValid s.dev p = true → chip = chipId s.dev p →
        (partOfSem s.dev n ≠ p → Completes (.semSignal q k) s fun d => Finishes s.dev d q k 0x0602 0) ∧
        (partOfSem s.dev n = p → s.dev.hub.waiters = [] → Completes (.semSignal q k) s fun d =>
          Finishes { s.dev with hub.sems := d.hub.sems } d q k 0 0 ∧
          semAt d n = semAt s.dev n + toW (y.param 1) ∧ ∀ m, m ≠ n → semAt d m = semAt s.dev m)) ∧
      (chip ≠ 0 → y.step = 0 → isHead s.dev q k = true → chipIdValid s.dev p = true → chip ≠ chipId s.dev p →
        chipBad chip = false → fenced s.dev p chip = false →
        (∀ tid, freeTid s.dev p = some tid → Completes (.semSignal q k) s fun d =>
          findXact d tid = some ⟨p, chip, .cmd q k, 1, 0, 0, 0, 0⟩ ∧ d.mem = s.dev.mem ∧ d.hub.sems = s.dev.hub.sems ∧
          ∃ z, cmdAt d q k = some z ∧ z = { y with step := 1, aux := y.aux ++ [tid], readyAt := z.readyAt }) ∧
        (freeTid s.dev p = none → Completes (.semSignal q k) s fun d => d = s.dev)) ∧
      (chip ≠ 0 → y.step ≠ 0 → Completes (.semSignal q k) s fun d =>
        if y.aux = [] then Finishes s.dev d q k y.status 0 else d = s.dev)) ∧
    (CmdRuns s q k 0x0304 y → Completes (.semSet q k) s fun d => Finishes s.dev d q k 0 0) ∧
    (CmdRuns s q k 0x0302 y → let n := y.param 0 % 131072
      (y.step ≠ 0 → Completes (.semWait q k) s fun d => d = s.dev) ∧
      (y.step = 0 → (toW (y.param 1)).toNat ≤ (semAt s.dev n).toNat → Completes (.semWait q k) s fun d =>
        Finishes s.dev d q k 0 (semAt s.dev n)) ∧
      (y.step = 0 → (semAt s.dev n).toNat < (toW (y.param 1)).toNat → Completes (.semWait q k) s fun d =>
        Becomes { s.dev with hub := { s.dev.hub with
          waiters := s.dev.hub.waiters ++ [⟨n, (toW (y.param 1)).toNat, .cmd q k⟩] } } d q k { y with step := 1 })) ∧
    (CmdRuns s q k 0x0303 y → let b := bits (y.param 0) 5 0
      let n := bits (y.param 0) 19 8 + 1
      let e := (episodeAt s.dev p b).getD ⟨n, []⟩
      (y.step ≠ 0 → Completes (.barrierCommand q k) s fun d => d = s.dev) ∧
      (y.step = 0 → e.count ≠ n → Completes (.barrierCommand q k) s fun d => FinishesFree s.dev d q k 0x0430) ∧
      (y.step = 0 → e.count = n → e.arrived.length + 1 ≠ n → Completes (.barrierCommand q k) s fun d =>
        Becomes { s.dev with hub.barriers := d.hub.barriers } d q k { y with step := 1 } ∧
        episodeAt d p b = some ⟨n, e.arrived ++ [.cmd q k]⟩) ∧
      (y.step = 0 → e.count = n → e.arrived.length + 1 = n → Completes (.barrierCommand q k) s fun d =>
        episodeAt d p b = none ∧ (∃ z, cmdAt d q k = some z ∧ z.st = .finished ∧ z.status = 0) ∧
        (∀ j, genAt d j p =
          let g := genAt s.dev j p
          if g.loading.isSome then { g with deferred := min 65535 (g.deferred + 1) }
          else if g.pending then { g with active := genNext g.active, image := g.shadow, pending := false }
          else g) ∧
        d.mem = s.dev.mem ∧ d.regs = s.dev.regs ∧
        (e.arrived = [] → d = { s.dev with
          hub := { s.dev.hub with barriers := d.hub.barriers, gens := d.hub.gens, queues := d.hub.queues }
          free := d.free })))

/-- COPY, FILL, BAND_SET and ADDR_INVALIDATE change the bytes they name. For every state with the command
started: COPY between readable and writable ranges that share no byte leaves memory as a write of the
bytes read to the destination leaves it, and finishes with LEN, at once or, with writes to the companion
window, once they are visible; FILL leaves it as a write of the repeated pattern does; an access that
fails ends either with its status and LEN, the destination undefined. BAND_SET of bands that are free
and open to software makes them busy in its first step; in its last, once the companion holds no line of
them, it leaves every byte of its bands 0 under the new attribute, every other byte and band as before,
and the bands busy no more. ADDR_INVALIDATE drops the buffered translations of the ASID in the range and
no others, and finishes when no write through them is on its way. Nothing else changes. (R35, R36, R175,
R351) -/
def Obligations.MemoryCommandsFinish : Prop :=
  ∀ (s : State) (q k : Nat) (y : Cmd),
    let sp := spaceOf s.dev q
    let ends (d4 d : Dev) (len : Nat) : Prop :=
      if d4.rnl.fresh = [] then Finishes d4 d q k 0 (toW len)
      else Becomes { d4 with rnl.fresh := [] } d q k
        { y with step := 2 ^ 32, aux2 := d4.rnl.fresh, status := 0, result := toW len }
    let lost (d1 : Dev) (st dst len : Nat) (i : Instr) : Prop :=
      ∀ d2, (junkRange sp dst (len / 64)).go { d1 with rnl.fresh := [] } = (.ok (), d2) →
        Completes i s fun d => Finishes { d2 with rnl.fresh := [] } d q k st (toW len)
    (CmdRuns s q k 0x0101 y →
      let src := y.param 0
      let dst := y.param 1
      let len := y.param 2
      (∀ st a d1, (physRuns sp src len false).go (clean s) = (.error (.err st a), d1) → lost d1 st dst len (.copy q k)) ∧
      (∀ a d1, (physRuns sp src len false).go (clean s) = (.ok a, d1) →
        (∀ st b d2, (physRuns sp dst len true).go d1 = (.error (.err st b), d2) → lost d2 st dst len (.copy q k)) ∧
        (∀ b d2, (physRuns sp dst len true).go d1 = (.ok b, d2) →
          (∀ st e d3, (vread sp src len).go d2 = (.error (.err st e), d3) → lost d3 st dst len (.copy q k)) ∧
          (∀ bs d3 d4, (vread sp src len).go d2 = (.ok bs, d3) → (vwrite sp dst bs).go d3 = (.ok (), d4) →
            (∀ u ∈ a, ∀ v ∈ b, u.1 + u.2 ≤ v.1 ∨ v.1 + v.2 ≤ u.1) →
            Completes (.copy q k) s fun d => ends d4 d len)))) ∧
    (CmdRuns s q k 0x0102 y →
      let dst := y.param 0
      let len := y.param 1
      let act := vwrite sp dst (List.replicate (len / 8) (leBytes 8 (y.param 2))).flatten
      (∀ d1, act.go (clean s) = (.ok (), d1) →
        Completes (.fill q k) s fun d => ends d1 d len) ∧
      (∀ st a d1, act.go (clean s) = (.error (.err st a), d1) → lost d1 st dst len (.fill q k))) ∧
    (CmdRuns s q k 0x0108 y → let first := y.param 0 / bandBytes
      let n := y.param 1
      (y.step = 0 →
        ((∃ i, i < n ∧ (closedStatus (first + i)).isSome = true) → Completes (.bandSet q k) s fun d =>
          FinishesFree s.dev d q k 0x0130) ∧
        ((∀ i, i < n → closedStatus (first + i) = none) → (∃ i, i < n ∧ isBusy s.dev (first + i) = true) →
          Completes (.bandSet q k) s fun d => FinishesFree s.dev d q k 0x0443) ∧
        ((∀ i, i < n → closedStatus (first + i) = none) → (∀ i, i < n → isBusy s.dev (first + i) = false) →
          Completes (.bandSet q k) s fun d => Becomes { s.dev with mem.busy := s.dev.mem.busy ++ [(first, n)] } d q k
            { y with step := 1 })) ∧
      (y.step ≠ 0 →
        (∀ line, heldIn_ s.dev (first * bandBytes) ((first + n) * bandBytes) = some line →
          Completes (.bandSet q k) s fun d => d = sendSnoop s.dev line true) ∧
        (heldIn_ s.dev (first * bandBytes) ((first + n) * bandBytes) = none →
          Completes (.bandSet q k) s fun d => ∃ d3, Finishes d3 d q k 0 (toW n) ∧
            d3 = { s.dev with
              mem := d3.mem, free := d3.free, tiles := { s.dev.tiles with slots := d3.tiles.slots, watch := d3.tiles.watch }
              regs := d3.regs } ∧
            (∀ a, mget 0 d3.mem.bytes a =
              if first * bandBytes ≤ a ∧ a < (first + n) * bandBytes then 0 else mget 0 s.dev.mem.bytes a) ∧
            (∀ b, isCorrect d3 b = if first ≤ b ∧ b < first + n then bit (y.param 2) 0 else isCorrect s.dev b) ∧
            d3.mem.busy = s.dev.mem.busy.erase (first, n)))) ∧
    (CmdRuns s q k 0x0205 y → let asid := y.param 0 % 4096
      let lo := y.param 1 / 65536 * 65536
      let hi := (y.param 1 + y.param 2 + 65535) / 65536 * 65536
      Completes (.addrInvalidate q k) s fun d => ∃ d3,
        (if flightIn s.dev asid lo hi = true ∨ cmdWrites s.dev asid q k = true ∨
            (∃ e ∈ s.dev.tiles.ctxs, e.2.asid = asid ∧ e.2.writesOut ≠ [])
          then d = d3 else Finishes d3 d q k 0 (toW (hi - lo))) ∧
        d3 = { s.dev with mem := { s.dev.mem with tlb := d3.mem.tlb } } ∧
        (∀ buffer a va, a < 4096 → va < 2 ^ 48 → va % 65536 = 0 → mget 0 d3.mem.tlb (tlbKey buffer a va) =
          if a = asid ∧ lo ≤ va ∧ va < lo + (hi - lo) then 0 else mget 0 s.dev.mem.tlb (tlbKey buffer a va)))

/-- LAUNCH puts a context into CHECKING, the checker binds or refuses it, and TABLE_LOAD fills a shadow. For
every state: a started LAUNCH whose context is in CHECKING does no more; of an IDLE context it puts it
into CHECKING with the queue's ASID and the command's parameters; of another it ends with SLOT_BUSY, or
with what the checker finds. The checker's pass makes the context READY at its entry with S1 to S4 from
the parameters and its declared resources bound, its refusal IDLE with the command finished in its
status. A table load waits for its turn; in its second step, of the length and content its kind asks, it
leaves the image in the shadow, pending, and finishes with the next generation; one of another length or
a bad image is TABLE_INVALID, with the length or the offset as its result. (R45, R123, R125, R160, R162,
R163, R352) -/
def Obligations.LaunchAndTables : Prop :=
  ∀ (s : State), Live s →
    (∀ (q k : Nat) (y : Cmd), CmdRuns s q k 0x0201 y →
      (y.aux ≠ [] → Completes (.launch q k) s fun d => d = s.dev) ∧
      (y.aux = [] → launchCtx s.dev y = none → Completes (.launch q k) s fun d => d = s.dev) ∧
      (∀ c, y.aux = [] → launchCtx s.dev y = some c →
        ((ctxAt s.dev c).state = .idle → Completes (.launch q k) s fun d =>
          ctxAt d c = { Ctx.reset with
            state := .checking, asid := (queueAt s.dev q).asid, queue := q, seq := k
            order := s.dev.tiles.launches, ledger := pairsOf y.aux2
            params := (List.range 6).map fun i => toW (y.param i) } ∧
          (∀ o, o ≠ c → ctxAt d o = ctxAt s.dev o) ∧ OnlyCmd { s.dev with
            tiles := d.tiles, hub.asidLocked := d.hub.asidLocked } d q k ∧
          (partOfCtx s.dev c) ∈ d.hub.asidLocked ∧
          d.tiles = { s.dev.tiles with
            ctxs := d.tiles.ctxs, l1 := d.tiles.l1, launches := s.dev.tiles.launches + 1 }) ∧
        ((ctxAt s.dev c).state ≠ .idle →
          (∀ m d1, runChecker s.dev c (queueAt s.dev q).asid (y.param 0) = .pass d1 m →
            Completes (.launch q k) s fun d => Finishes d1 d q k 0x030C 0) ∧
          (∀ st r d1, runChecker s.dev c (queueAt s.dev q).asid (y.param 0) = .fail d1 st r →
            Completes (.launch q k) s fun d => Finishes d1 d q k st (toW r))))) ∧
    (∀ c, c < 512 → (ctxAt s.dev c).state = .checking → let x := ctxAt s.dev c
      (∀ m d1, runChecker s.dev c x.asid (x.params.headD 0).toNat = .pass d1 m →
        Completes (.launchCheckDone c) s fun d => (ctxAt d c).pc = m.entry ∧
          (∀ i, (ctxAt d c).sreg i = if 1 ≤ i ∧ i ≤ 4 then x.params.getD i 0 else 0) ∧
          ctxAt d c = { x with
            state := .ready, pc := m.entry, sregs := (ctxAt d c).sregs, subn := m.numctl == 1
            sramBase := if threaded d1 (partOfCtx d1 c) then m.base else 0
            sramSize := if threaded d1 (partOfCtx d1 c) then m.size else 0
            acc := m.acc, rings := freeRings d1 (tileOf c) m.rings.length
            itins := freeSlots d1 (tileOf c) m.itins.length
            semRanges := m.sems.map fun e => (semFirst e.2, semCount e.2)
            nShapes := m.shapes.length, nWins := m.wins.length } ∧
          d = { setCtx d1 c (ctxAt d c) with tiles.rings := d.tiles.rings, tiles.slots := d.tiles.slots }) ∧
      (∀ st r y d1, runChecker s.dev c x.asid (x.params.headD 0).toNat = .fail d1 st r →
        cmdAt d1 x.queue x.seq = some y → y.st = .started →
        Completes (.launchCheckDone c) s fun d =>
          Finishes (setCtx d1 c { x with state := .idle }) d x.queue x.seq st (toW r))) ∧
    (∀ (q k : Nat) (y : Cmd), CmdRuns s q k 0x0203 y →
      ∀ r ∈ ([(Instr.tableLoadSfu, 1, TableKind.sfu, 17856, sfuImageBad),
          (Instr.tableLoadSignboard, 2, .signboard, 1088, signboardBad)] :
          List ((Nat → Nat → Instr) × Nat × TableKind × Nat × (List Byte → Option Nat))),
        y.param 0 % 256 = r.2.1 → let p := partOfQueue s.dev q
        let g := genAt s.dev r.2.2.1 p
        (y.step = 0 → loadTurn s.dev q y r.2.2.1 = false → Completes (r.1 q k) s fun d => d = s.dev) ∧
        (y.step = 0 → loadTurn s.dev q y r.2.2.1 = true → Completes (r.1 q k) s fun d =>
          Becomes (setGen s.dev r.2.2.1 p { g with loading := some (q, k) }) d q k { y with step := 1 }) ∧
        (y.step ≠ 0 → y.param 2 ≠ r.2.2.2.1 → Completes (r.1 q k) s fun d =>
          Finishes s.dev d q k 0x0120 (toW (y.param 2))) ∧
        (y.step ≠ 0 → y.param 2 = r.2.2.2.1 → ∀ img d1,
          (vread (spaceOf s.dev q) (y.param 1) r.2.2.2.1).go (clean s) = (.ok img, d1) →
          (r.2.2.2.2 img = none → Completes (r.1 q k) s fun d =>
            Finishes (setGen d1 r.2.2.1 p { genAt d1 r.2.2.1 p with shadow := img, pending := true }) d q k 0
              (toW (genNext (genAt d1 r.2.2.1 p).active))) ∧
          (∀ o, r.2.2.2.2 img = some o → Completes (r.1 q k) s fun d => Finishes d1 d q k 0x0120 (toW o))))

/-- ALLOC, WRITE and the copy under it give a page-table entry a frame of its own; DEFINE makes frames. For
every state with the PAGE_MAP started: ALLOC of an ABSENT entry makes the lowest FREE frame of its
quarter ACTIVE with one reference and the FMT asked for, writes its number to the entry and finishes
with it; an entry that is not ABSENT ends it with PAGE_ENTRY_STATE. WRITE of an entry whose ACTIVE frame
has one reference finishes with it and changes nothing; with more, and no pin, it makes the frame
COPYING and takes the lowest FREE frame of the same quarter as the target; a frame that is COPYING,
pinned, or wanted by an earlier command makes it wait, and one in another state, of another partition or
that does not exist ends it. When the copy is done, the target is ACTIVE with one reference and the
entry names it, and the source is ACTIVE with one reference fewer; when the copy or the entry fails, the
command ends in that status and the source is ACTIVE as before. DEFINE of placed frames makes those
before the first that is not ABSENT FREE at their pages and sidecars. An end other than OK is recorded
in LDG_ERR_LAST, and frames not named stay. (R21, R201, R204, R206, R207, R208) -/
def Obligations.PageMapCommands : Prop :=
  ∀ (s : State) (q k : Nat) (y : Cmd), CmdRuns s q k 0x0401 y →
    let sp := spaceOf s.dev q
    let p := partOfQueue s.dev q
    let n := y.param 2
    let ends (d1 d : Dev) (v : Nat) : Prop :=
      if d1.rnl.fresh = [] then Finishes d1 d q k 0 (toW v)
      else Becomes { d1 with rnl.fresh := [] } d q k
        { y with step := 2 ^ 32, aux2 := d1.rnl.fresh, status := 0, result := toW v }
    let fails (d1 d : Dev) (st f v : Nat) : Prop := Finishes (noteLedger d1 q st f) d q k st (toW v)
    (y.param 1 % 4 = 0 →
      (∀ d1 d2 f, (readEntry sp (y.param 0)).go (clean s) = (.ok absentEntry, d1) →
        lowestFree d1 (bits (y.param 1) 3 2) = some f →
        (writeEntry sp (y.param 0) f).go d1 = (.ok (), d2) → Completes (.pageMapAlloc q k) s fun d =>
          ends (setFrame d2 f { frameAt d2 f with
            state := .active, refcnt := 1, fmt := bits (y.param 1) 4 4 }) d f) ∧
      (∀ d1 f, (readEntry sp (y.param 0)).go (clean s) = (.ok f, d1) → f ≠ absentEntry →
        Completes (.pageMapAlloc q k) s fun d => fails d1 d 0x0141 0 0) ∧
      (∀ d1, (readEntry sp (y.param 0)).go (clean s) = (.ok absentEntry, d1) →
        lowestFree d1 (bits (y.param 1) 3 2) = none → Completes (.pageMapAlloc q k) s fun d => fails d1 d 0x0210 0 0)) ∧
    (y.param 1 % 4 = 1 → y.step = 0 → ∀ d1 f, (readEntry sp (y.param 0)).go (clean s) = (.ok f, d1) →
      let x := frameAt d1 f
      let waits := x.state = .copying ∨ entryTurn d1 q k f = false ∨ (x.state = .active ∧ 1 < x.refcnt ∧ x.pins ≠ 0)
      (frameIn d1 p f = false → Completes (.pageMapWrite q k) s fun d =>
        fails d1 d (if f < 524288 then 0x0110 else 0x0141) f 0) ∧
      (frameIn d1 p f = true → waits → Completes (.pageMapWrite q k) s fun d => d = waitEntry d1 q k f) ∧
      (frameIn d1 p f = true → ¬ waits → x.state ≠ .active → Completes (.pageMapWrite q k) s fun d =>
        fails d1 d (if x.state = .circulating then 0x0143 else 0x0141) f 0) ∧
      (frameIn d1 p f = true → ¬ waits → x.state = .active → x.refcnt ≤ 1 →
        Completes (.pageMapWrite q k) s fun d => Finishes d1 d q k 0 (toW f)) ∧
      (frameIn d1 p f = true → ¬ waits → x.state = .active → 1 < x.refcnt →
        (lowestFree d1 (f / 131072) = none → Completes (.pageMapWrite q k) s fun d => fails d1 d 0x0210 f 0) ∧
        (∀ g, lowestFree d1 (f / 131072) = some g → Completes (.pageMapWrite q k) s fun d =>
          Becomes { setFrame d1 f { x with state := .copying } with
            ledger.waits := d1.ledger.waits.filter fun w => w.2 ≠ (q, k)
            ledger.taken := d1.ledger.taken ++ [g] } d q k { y with step := 1, aux := [f, g] }))) ∧
    (y.param 1 % 4 = 1 → y.step ≠ 0 → Completes (.pageMapWrite q k) s fun d => d = s.dev) ∧
    (y.step = 1 → ∀ f g r d2, y.aux = [f, g] → f ≠ g →
      (do copyFrame s.dev p (frameAt s.dev f) (frameAt s.dev g)
          writeEntry sp (y.param 0) g : Act Unit).go (clean s) = (r, d2) →
      (r = .ok () → Completes (.pageCopyDone q k) s fun d => ∃ d3, ends d3 d g ∧
        d3 = { rcount d2 .ldgStatus 0 0 23 8 1 with
          ledger := { d2.ledger with frames := d3.ledger.frames, taken := d2.ledger.taken.erase g } } ∧
        ∀ h, frameAt d3 h =
          if h = g then { frameAt s.dev g with state := .active, refcnt := 1, fmt := (frameAt s.dev f).fmt }
          else if h = f then { frameAt s.dev f with state := .active, refcnt := (frameAt s.dev f).refcnt - 1 }
          else frameAt s.dev h) ∧
      (∀ st a, r = .error (.err st a) → Completes (.pageCopyDone q k) s fun d => ∃ d3, fails d3 d st f 0 ∧
        d3 = { d2 with
          ledger := { d2.ledger with frames := d3.ledger.frames, taken := d2.ledger.taken.erase g } } ∧
        ∀ h, frameAt d3 h =
          if h = f then { frameAt s.dev f with state := .active } else frameAt s.dev h)) ∧
    (y.param 1 % 4 = 2 →
      let placed := (List.range n).all fun i => framePlaced s.dev p (y.param 0 + i)
        (y.param 3 + i * pageSize s.dev p) (y.param 4 + i * sideSize s.dev p)
      (placed = false → Completes (.pageMapDefine q k) s fun d => fails s.dev d 0x0142 (y.param 0) 0) ∧
      (placed = true → y.step = 0 → s.dev.rnl.fresh = [] → ∀ m, m ≤ n →
        (∀ i, i < m → (frameAt s.dev (y.param 0 + i)).state = .absent) →
        (m = n ∨ (frameAt s.dev (y.param 0 + m)).state ≠ .absent) →
        Completes (.pageMapDefine q k) s fun d => ∃ d3,
          (if m = n then Finishes d3 d q k 0 (toW n) else fails d3 d 0x0141 (y.param 0 + m) m) ∧
          d3 = { s.dev with ledger := { s.dev.ledger with frames := d3.ledger.frames } } ∧
          (∀ i, i < m → frameAt d3 (y.param 0 + i) = { KvFrame.reset with
            state := .free, pa := y.param 3 + i * pageSize s.dev p, scPa := y.param 4 + i * sideSize s.dev p }) ∧
          ∀ h, h < y.param 0 ∨ y.param 0 + m ≤ h → frameAt d3 h = frameAt s.dev h))

/-- BANK binds frames, PAGE_SHARE and ENTRIES count references, RETURN, UNBANK and UNDEFINE give frames
back. For every state with the command started: BANK of FREE, different frames of the partition makes
them BANKED slots of the bank in list order (log 28 where it has slots already). PAGE_SHARE writes the
frame of each source entry into its ABSENT destination entry and counts one more reference; ENTRIES
writes ABSENT and counts one fewer, the frame being FREE when none is left, and skips an entry that is
ABSENT already. They go from element to element, wait at one whose frame is COPYING, for ENTRIES pinned,
or wanted by an earlier command, and end at one that has another state; finished, their result is the
number of their elements, at once or once their writes to the companion window are visible. UNDEFINE
makes the frames before the first that is not FREE ABSENT. RETURN, with no frame of the bank pinned,
makes its CIRCULATING frames BANKED, the next slot 0, and signals the predecessor's credit semaphore by
their number; UNBANK makes the BANKED ones FREE and unbinds a bank with none left. (R201, R204, R205,
R207, R217, R291) -/
def Obligations.BanksAndReferences : Prop :=
  ∀ (s : State) (q k : Nat) (y : Cmd),
    let sp := spaceOf s.dev q
    let p := partOfQueue s.dev q
    let n := y.param 2
    let i := y.step
    let key := bankKey (y.param 3)
    let fails (d1 d : Dev) (st f v : Nat) : Prop := Finishes (noteLedger d1 q st f) d q k st (toW v)
    let ends (d3 d : Dev) : Prop :=
      if y.aux2 ++ d3.rnl.fresh = [] then Finishes d3 d q k 0 (toW n)
      else Becomes { d3 with rnl.fresh := [] } d q k
        { y with step := 2 ^ 32, aux2 := y.aux2 ++ d3.rnl.fresh, status := 0, result := toW n }
    let left (d : Dev) : Dev := { d with ledger.waits := d.ledger.waits.filter fun w => w.2 ≠ (q, k) }
    -- The element is done in `d3`: the command ends, or goes on from the next.
    let done (c : Instr) (d3 : Dev) : Prop :=
      (i + 1 = n → Completes c s fun d => ends d3 d) ∧
      (i + 1 < n → exec c s = exec c { s with dev := updCmd { d3 with rnl.fresh := [] } q k fun z =>
        { z with step := i + 1, aux2 := y.aux2 ++ d3.rnl.fresh } })
    let stops (c : Instr) (d1 : Dev) (st f : Nat) : Prop :=
      d1.rnl.fresh = [] → y.aux2 = [] → Completes c s fun d => fails d1 d st f i
    (CmdRuns s q k 0x0401 y → y.param 1 % 4 = 3 → i = 0 → 0 < n → ∀ fs d1,
      (y.aux2 = fs ∧ fs.length = n ∧ d1 = s.dev ∨ y.aux2 = [] ∧
        ∃ bs, (vread sp (y.param 0) (4 * n)).go (clean s) = (.ok bs, d1) ∧
          fs = (List.range n).map fun j => leAt bs (4 * j) 4) →
      (∀ f, y.aux2 = [] → fs.find? (fun f => decide (f < 524288) && !frameIn d1 p f) = some f →
        Completes (.pageMapBank q k) s fun d => fails d1 d 0x0110 f 0) ∧
      (fs.Nodup → (∀ f ∈ fs, frameIn d1 p f = true ∧ (frameAt d1 f).state = .free ∧
        d1.ledger.taken.contains f = false) → d1.rnl.fresh = [] →
        Completes (.pageMapBank q k) s fun d => ∃ d3, Finishes d3 d q k 0 (toW n) ∧
          d3 = { d1 with hub := d3.hub, ledger := d3.ledger } ∧
          bankAt d3 key = (let b := (bankAt d1 key).getD ⟨[], 0, 0, 0, []⟩
            some { b with
              slots := fs ++ b.slots.drop n, sem := bits (y.param 4) 16 0, credit := bits (y.param 5) 16 0, next := 0 }) ∧
          ∀ f, frameAt d3 f =
            if f ∈ fs then { frameAt d1 f with state := .banked, group := key / 2, bank := key % 2, pass := 0 }
            else frameAt d1 f)) ∧
    (CmdRuns s q k 0x0402 y → i < n → y.status = 0 →
      let c := Instr.pageShare q k
      ∀ d1 d2 f e, (readEntry sp (y.param 0 + 4 * i)).go (clean s) = (.ok f, d1) →
      (readEntry sp (y.param 1 + 4 * i)).go d1 = (.ok e, d2) →
      let x := frameAt d2 f
      let waits := x.state = .copying ∨ entryTurn d2 q k f = false
      (e ≠ absentEntry → stops c d2 0x0141 f) ∧
      (e = absentEntry → frameIn d2 p f = false → stops c d2 (if f < 524288 then 0x0110 else 0x0141) f) ∧
      (e = absentEntry → frameIn d2 p f = true → waits → Completes c s fun d => d = waitEntry d2 q k f) ∧
      (e = absentEntry → frameIn d2 p f = true → ¬ waits → x.state ≠ .active →
        stops c d2 (if x.state = .circulating then 0x0143 else 0x0141) f) ∧
      (e = absentEntry → frameIn d2 p f = true → ¬ waits → x.state = .active →
        (x.refcnt = 65535 → stops c d2 0x0211 f) ∧
        (x.refcnt ≠ 65535 → ∀ d3, (writeEntry sp (y.param 1 + 4 * i) f).go { d2 with rnl.fresh := [] } = (.ok (), d3) →
          done c (left (setFrame d3 f { x with refcnt := x.refcnt + 1 }))))) ∧
    (CmdRuns s q k 0x0403 y → y.param 1 % 4 = 0 → i < n → y.status = 0 →
      let c := Instr.pageReleaseEntries q k
      ∀ d1 f, (readEntry sp (y.param 0 + 4 * i)).go (clean s) = (.ok f, d1) →
      let x := frameAt d1 f
      let waits := x.state = .copying ∨ (x.state = .active ∧ x.pins ≠ 0) ∨ entryTurn d1 q k f = false
      (f = absentEntry → done c d1) ∧
      (f ≠ absentEntry → frameIn d1 p f = false → stops c d1 (if f < 524288 then 0x0110 else 0x0141) f) ∧
      (f ≠ absentEntry → frameIn d1 p f = true → waits → Completes c s fun d => d = waitEntry d1 q k f) ∧
      (f ≠ absentEntry → frameIn d1 p f = true → ¬ waits → x.state ≠ .active →
        stops c d1 (if x.state = .circulating then 0x0143 else 0x0141) f) ∧
      (f ≠ absentEntry → frameIn d1 p f = true → ¬ waits → x.state = .active →
        ∀ d2, (writeEntry sp (y.param 0 + 4 * i) absentEntry).go { d1 with rnl.fresh := [] } = (.ok (), d2) →
          done c (left (setFrame d2 f { x with
            refcnt := x.refcnt - 1, state := if x.refcnt - 1 = 0 then .free else .active })))) ∧
    (CmdRuns s q k 0x0403 y → y.param 1 % 4 = 3 → i = 0 → s.dev.rnl.fresh = [] → ∀ m, m ≤ n →
      let free (j : Nat) : Prop := (frameAt s.dev (y.param 0 + j)).state = .free ∧
        s.dev.ledger.taken.contains (y.param 0 + j) = false
      (∀ j, j < m → free j) → (m = n ∨ ¬ free m) → Completes (.pageReleaseUndefine q k) s fun d => ∃ d3,
        (if m = n then Finishes d3 d q k 0 (toW n) else fails d3 d 0x0141 (y.param 0 + m) m) ∧
        d3 = { s.dev with ledger := { s.dev.ledger with frames := d3.ledger.frames } } ∧
        ∀ h, frameAt d3 h = if y.param 0 ≤ h ∧ h < y.param 0 + m then KvFrame.reset else frameAt s.dev h) ∧
    (CmdRuns s q k 0x0403 y → y.param 1 % 4 = 1 →
      (i ≠ 0 → Completes (.pageReleaseReturn q k) s fun d =>
        if y.aux ≠ [] then d = s.dev
        else if y.status = 0 then Finishes s.dev d q k 0 (toW (y.aux2.headD 0))
        else fails s.dev d y.status 0 (y.aux2.headD 0)) ∧
      (i = 0 → ∀ d1 b g, bankAt s.dev key = some b → b.slots.Nodup →
        (g = none ∧ d1 = s.dev ∨ ∃ x u, g = some x ∧ (readGroup x).go (clean s) = (.ok u, d1) ∧
          selfFilling d1 x = false) → groupAt s.dev (key / 2) = g →
        let fs := b.slots.filter fun f => (frameAt s.dev f).state == .circulating
        let back (d3 : Dev) : Prop := d3 = { d1 with ledger := d3.ledger } ∧ bankAt d3 key = some { b with next := 0 } ∧
          ∀ f, frameAt d3 f = if f ∈ b.slots ∧ (frameAt s.dev f).state = .circulating then
            { frameAt s.dev f with state := .banked } else frameAt s.dev f
        let target := g.bind fun x => (predecessor d1 p x x.self).map fun j => memberChip (memberWord d1 x j)
        ((∃ f ∈ fs, (frameAt s.dev f).pins ≠ 0) → Completes (.pageReleaseReturn q k) s fun d => d = d1) ∧
        ((∀ f ∈ fs, (frameAt s.dev f).pins = 0) → target = none ∨ fs = [] →
          Completes (.pageReleaseReturn q k) s fun d => ∃ d3, Finishes d3 d q k 0 (toW fs.length) ∧ back d3) ∧
        (∀ chip, (∀ f ∈ fs, (frameAt s.dev f).pins = 0) → target = some chip → fs ≠ [] →
          chipBad chip = false → fenced s.dev p chip = false →
          (freeTid s.dev p = none → Completes (.pageReleaseReturn q k) s fun d => d = d1) ∧
          (∀ tid, freeTid s.dev p = some tid → Completes (.pageReleaseReturn q k) s fun d =>
            (∃ z, cmdAt d q k = some z ∧
              z = { y with step := 1, aux2 := [fs.length], aux := y.aux ++ [tid], readyAt := z.readyAt }) ∧
            findXact d tid = some ⟨p, chip, .cmd q k, 1, 0, 0, 0, 0⟩ ∧ d.mem = d1.mem ∧
            ∃ d3, back d3 ∧ d.ledger = d3.ledger)))) ∧
    (CmdRuns s q k 0x0403 y → y.param 1 % 4 = 2 → ∀ b, bankAt s.dev key = some b → b.slots.Nodup →
      let fs := b.slots.filter fun f => (frameAt s.dev f).state == .banked
      ((∃ f ∈ fs, (frameAt s.dev f).pins ≠ 0) → Completes (.pageReleaseUnbank q k) s fun d => d = s.dev) ∧
      ((∀ f ∈ fs, (frameAt s.dev f).pins = 0) →
        Completes (.pageReleaseUnbank q k) s fun d => ∃ d3, Finishes d3 d q k 0 (toW fs.length) ∧
          d3 = { s.dev with ledger := d3.ledger } ∧
          bankAt d3 key = (let left := b.slots.map fun f => if f ∈ fs then absentEntry else f
            if ∀ f ∈ left, f = absentEntry then none else some { b with slots := left }) ∧
          ∀ f, frameAt d3 f = if f ∈ fs then
            { frameAt s.dev f with state := .free, group := 0, bank := 0, pass := 0 } else frameAt s.dev f))

/-- ACT_SET defines and releases a set; PEAK keeps the largest HOT of a stage. For every state with the
command started: DEFINE of a FREE set makes it HOT with the stage, tag and size declared and raises its
stage's PEAK to the HOT bytes if they are more; RELEASE of a HOT, OFFLOADED or LOST set makes it FREE.
Each finishes with the declared size, a set in another state gives ACT_SET_STATE, and no other set
changes. PEAK_RESET sets the PEAK of each stage named to its HOT bytes now and keeps the other
registers. A Satchel command that fails takes its STORING set back to HOT and its RESTORING set to LOST,
and no other set. (R223, R224, R225, R235) -/
def Obligations.ActivationSets : Prop :=
  ∀ (s : State),
    (∀ (q k : Nat) (y : Cmd), CmdRuns s q k 0x0206 y →
      let n := y.param 0 % 4096
      let x := setAt_ s.dev n
      (y.param 1 % 4 = 0 →
        let z : ActSet := ⟨.hot, bits (y.param 1) 6 4, y.param 3 % 2 ^ 32, y.param 2, 0, 0⟩
        let p := partOfQuarter s.dev (n / 1024)
        let h := homeQuarter s.dev p
        (x.state = .free → Completes (.actSetDefine q k) s fun d => ∃ d3, Finishes d3 d q k 0 (toW z.declared) ∧
          d3 = { s.dev with sets := d3.sets, regs := d3.regs } ∧
          (∀ m, setAt_ d3 m = if m = n then z else setAt_ s.dev m) ∧
          rget d3 .qtrStagePeak h z.stage =
            toW (max (rget s.dev .qtrStagePeak h z.stage).toNat (hotBytes d3 p z.stage)) ∧
          ∀ key, key ≠ Reg.qtrStagePeak.key h z.stage → mget 0 d3.regs key = mget 0 s.dev.regs key) ∧
        (x.state ≠ .free → Completes (.actSetDefine q k) s fun d => FinishesFree s.dev d q k 0x0150)) ∧
      (y.param 1 % 4 = 1 →
        ((x.state = .hot ∨ x.state = .offloaded ∨ x.state = .lost) →
          Completes (.actSetRelease q k) s fun d => ∃ d3, Finishes d3 d q k 0 (toW x.declared) ∧
            d3 = { s.dev with sets := d3.sets } ∧
            ∀ m, setAt_ d3 m = if m = n then ActSet.reset else setAt_ s.dev m) ∧
        ((x.state = .free ∨ x.state = .storing ∨ x.state = .restoring) →
          Completes (.actSetRelease q k) s fun d => FinishesFree s.dev d q k 0x0150))) ∧
    (∀ (qt : Nat) (v : Word), Live s → Completes (.peakReset qt v) s fun d =>
      let h := homeQuarter s.dev (partOfQuarter s.dev qt)
      d = { s.dev with regs := d.regs } ∧
      (∀ i, qt < 4 → i < 8 → wbit v i = true →
        rget d .qtrStagePeak h i = toW (hotBytes s.dev (partOfQuarter s.dev qt) i)) ∧
      ∀ key, (∀ i, qt < 4 → i < 8 → wbit v i = true → key ≠ Reg.qtrStagePeak.key h i) →
        mget 0 d.regs key = mget 0 s.dev.regs key) ∧
    (∀ (d : Dev) (y : Cmd),
      failSet d y = { d with sets := (failSet d y).sets, regs := (failSet d y).regs } ∧
      (∀ key, (∀ h i, key ≠ Reg.qtrStagePeak.key h i) → mget 0 (failSet d y).regs key = mget 0 d.regs key) ∧
      ∀ n, setAt_ (failSet d y) n =
        let x := setAt_ d n
        if y.tracked = some n ∧ y.opcode = 0x0110 ∧ x.state = .storing then { x with state := .hot }
        else if y.tracked = some n ∧ y.opcode = 0x0111 ∧ x.state = .restoring then { x with state := .lost }
        else x)

/-- SATCHEL_STORE writes the stream of its source, SATCHEL_RESTORE what its stream holds, SCALE_STEP steps
records. For every state with the command started, one turn of its engine completes: a STORE reads its
source, counts once the chunks that fall back, and writes the stream that the source alone determines to
its virtual address, to its own chip, or piece by piece to another; when all of it is visible it
finishes with the length, its STORING set becoming OFFLOADED with the length added. A RESTORE reads the
header, which must pass the checks, then the rest, here or piece by piece from another chip, and writes
what the chunks hold up to the first that fails; visible, it finishes with the destination length and
its RESTORING set is HOT, or in the status of the failure. A status of an access ends either command:
QTR_SAT_LAST records it with the chunk and the set moves as a failure moves it. SCALE_STEP steps its
records one by one, counts them in QTR_SCALE_STAT and finishes with the number of those that had flagged
blocks, once their writes are visible; a record that fails the checks of R243 ends it in SCALE_RECORD
with the record's number. An access that must wait for the companion leaves the command where it stood.
(R226, R229, R233, R234, R235, R242, R243, R315) -/
def Obligations.SatchelCommands : Prop :=
  ∀ (s : State) (q k : Nat) (y : Cmd),
    let sp := spaceOf s.dev q
    let p := partOfQueue s.dev q
    let inStep (op : Nat) : Prop := Live s ∧ cmdAt s.dev q k = some y ∧ y.st = .started ∧ y.opcode = op ∧
      isSuspect s.dev q k = false ∧ y.step = 2 ^ 33
    let fails (st chunk : Nat) (d1 d : Dev) : Prop := FinishesFree
      (failSet (rset d1 .qtrSatLast y.quarter 0 (toW (st + q * 2 ^ 16 + chunk * 2 ^ 34))) y) d q k st
    -- The command's sets after a success.
    let sets (d1 d3 : Dev) (ok : SetState → Prop) (f : ActSet → ActSet) : Prop :=
      (∀ m x, x = setAt_ d1 m → y.tracked = some m → ok x.state → setAt_ d3 m = f x) ∧
      (∀ m x, x = setAt_ d1 m → y.tracked ≠ some m ∨ ¬ ok x.state → setAt_ d3 m = x)
    let stored (len cls : Nat) (d1 d : Dev) : Prop := ∃ d3, Finishes d3 d q k 0 (toW len) ∧
      d3 = { d1 with regs := d3.regs, sets := d3.sets } ∧
      (y.quarter < 64 → (∀ m, y.tracked = some m → (setAt_ d1 m).stage < 1024) →
        rget d3 .qtrSatIn y.quarter = rget d1 .qtrSatIn y.quarter + toW (y.param 1) ∧
        rget d3 .qtrSatOut y.quarter = rget d1 .qtrSatOut y.quarter + toW len) ∧
      sets d1 d3 (fun st => st = .storing ∨ st = .offloaded) fun x =>
        { x with state := .offloaded, stored := x.stored + len, cls := cls }
    let restored (d1 d : Dev) : Prop := ∃ d3, Finishes d3 d q k 0 (toW (y.param 2)) ∧
      d3 = { d1 with regs := d3.regs, sets := d3.sets } ∧
      sets d1 d3 (fun st => st = .restoring) fun x => { x with state := .hot, stored := 0 }
    -- What is written is not visible yet.
    let waits (st : Nat) (keep : List Nat) (d1 d : Dev) : Prop :=
      d = updCmd { d1 with rnl.fresh := [] } q k fun z =>
        { z with step := 2 ^ 33, status := st, aux := d1.rnl.fresh.map (2 ^ 20 + ·), aux2 := keep }
    (CmdRuns s q k 0x0110 y → y.status ≠ 0 → y.aux = [] →
      Completes (.satchelStore q k) s fun d => fails y.status 0 s.dev d) ∧
    (inStep 0x0110 → (y.aux ≠ [] → Completes (.satchelStore q k) s fun d => d = s.dev) ∧
      (y.aux = [] → Completes (.satchelStore q k) s fun d =>
        if y.status = 0 then stored (y.aux2.headD 0) (y.aux2.getD 1 0) s.dev d else fails y.status 0 s.dev d)) ∧
    (CmdRuns s q k 0x0110 y → (y.status = 0 ∨ y.aux ≠ []) → Completes (.satchelStore q k) s fun d =>
      Turn s.dev s.dev d (vread sp (y.param 0) (y.param 1)) (bad := fun st d1 => fails st 0 d1 d) fun src d1 =>
      let (str, fell) := streamOf (bits (y.param 3) 2 1) (bits (y.param 3) 5 4) src
      let len := str.length
      let dst := y.param 2
      let pa := globalLocal dst
      let d2 := if y.aux2 = [] then
          rcount (updCmd d1 q k fun z => { z with aux2 := [fell] }) .qtrSatStat y.quarter 0 31 16 fell
        else d1
      let ps := numbered (chunks1M (len / 2 ^ 20 + 1) 0 str)
      if bit (y.param 3) 0 = false then
        Turn s.dev d2 d (do let r ← translate sp dst true; vwrite sp dst str; pure r.1)
          (fun at_ d3 =>
            let cls := if regionOf at_ = .window then 1 else 0
            if d3.rnl.fresh = [] then stored len cls d3 d else waits 0 [len, cls] d3 d)
          (fun st d3 => Turn s.dev d3 d (junkRange sp dst (len / 64)) (fun _ d4 => fails st 0 d4 d)
            fun _ d4 => fails st 0 d4 d)
      else if ownChip d2 p dst then
        if localOk d2 p pa len then Turn s.dev d2 d (writePhys .software pa str) (fun _ d3 => stored len 2 d3 d)
          fun st d3 => fails st 0 d3 d
        else fails 0x0602 0 d2 d
      else if y.step ≠ ps.length + 1 then d = cmdPieces q k p (globalChip dst) pa (ps.drop (y.step - 1)) d2
      else if y.aux = [] then stored len 2 d2 d
      else d = d2) ∧
    (let src := y.param 0
      let pa := globalLocal src
      let len := y.param 2
      let c := Instr.satchelRestore q k
      let bad (d0 : Dev) (st : Nat) (d : Dev) : Prop := Turn s.dev d0 d (junkRange sp (y.param 1) (len / 64))
        (fun _ d1 => fails st 0 d1 d) fun _ d1 => fails st 0 d1 d
      let body (d0 : Dev) (str : List Byte) (d : Dev) : Prop :=
        let (bs, no) := chunksDecode str (leAt str 0x10 4) 0
        if dirOk str = false then fails 0x0153 0 d0 d
        else Turn s.dev d0 d
          (do
            vwrite sp (y.param 1) bs
            match no with
            | some i => junkRange sp (y.param 1 + 65536 * i) ((len - 65536 * i) / 64)
            | none => pure ())
          (fun _ d1 => match no with
            | some i =>
              let d2 := rcount d1 .qtrSatStat y.quarter 0 47 32 1
              if d2.rnl.fresh ≠ [] then waits 0x0450 [i] d2 d else fails 0x0450 i d2 d
            | none => if d1.rnl.fresh ≠ [] then waits 0 [0] d1 d else restored d1 d)
          fun st d1 => bad d1 st d
      let reads (rd : Nat → Nat → Act (List Byte)) : Prop := Completes c s fun d =>
        Turn s.dev s.dev d (rd 0 64) (bad := fun st d1 => bad d1 st d) fun h d1 =>
          if headOk h len = false then fails 0x0153 0 d1 d
          else Turn s.dev d1 d (rd 64 (leAt h 0x18 8 - 64)) (fun rest d2 => body d2 (h ++ rest) d)
            fun st d2 => bad d2 st d
      (inStep 0x0111 → (y.aux ≠ [] → Completes c s fun d => d = s.dev) ∧
        (y.aux = [] → Completes c s fun d =>
          if y.status = 0 then restored s.dev d else fails y.status (y.aux2.headD 0) s.dev d)) ∧
      (CmdRuns s q k 0x0111 y → bit (y.param 3) 0 = false → reads fun o n => vread sp (src + o) n) ∧
      (CmdRuns s q k 0x0111 y → bit (y.param 3) 0 = true → ownChip s.dev p src = true → reads fun o n =>
        if localOk s.dev p (pa + o) n then readPhys (pa + o) n else Act.fail 0x0602 src) ∧
      (CmdRuns s q k 0x0111 y → bit (y.param 3) 0 = true → ownChip s.dev p src = false → Completes c s fun d =>
        if y.aux ≠ [] then d = s.dev
        else if y.status ≠ 0 then bad s.dev y.status d
        else if y.step = 0 then d = askPieces q k p (globalChip src) pa 64 1 0 s.dev
        else if headOk (y.buf.take 64) len = false then fails 0x0153 0 s.dev d
        else
          let total := leAt y.buf 0x18 8
          if y.step < total then d = askPieces q k p (globalChip src) pa total (total / 2 ^ 20 + 1) y.step s.dev
          else body s.dev y.buf d)) ∧
    (CmdRuns s q k 0x0207 y →
      let c := Instr.scaleStep q k
      (y.step = y.param 1 → Completes c s fun d =>
        if y.aux2 = [] then ∃ d3, Finishes d3 d q k 0 (toW (y.aux.headD 0)) ∧
          d3 = updCmd { s.dev with rnl.fresh := [] } q k fun z => { z with aux := [], aux2 := [] }
        else Becomes { s.dev with rnl.fresh := [] } d q k { y with
          step := 2 ^ 32, aux := [], aux2 := y.aux2, status := 0, result := toW (y.aux.headD 0) }) ∧
      (y.step < y.param 1 →
        let i := y.step
        let h := homeQuarter s.dev p
        let act := scaleRecord sp (y.param 0 + 256 * i) (y.param 2)
        (∀ d1 a st, act.go (clean s) = (.error (.err st a), d1) → Completes c s fun d =>
          FinishesFree { d1 with rnl.fresh := [] } d q k st) ∧
        (∀ d1 n, act.go (clean s) = (.error (.wait n), d1) → Completes c s fun d => d = waitDev s.dev d1 n) ∧
        (∀ d1, act.go (clean s) = (.ok none, d1) → Completes c s fun d =>
          Finishes { d1 with rnl.fresh := [] } d q k 0x0154 (toW i)) ∧
        (∀ d1 fl cur nf, act.go (clean s) = (.ok (some (fl, cur, nf)), d1) →
          ∃ d2, exec c s = exec c { s with dev := updCmd d2 q k fun z => { z with
              step := i + 1, aux := [z.aux.headD 0 + fl.toNat], aux2 := z.aux2 ++ d1.rnl.fresh } } ∧
            d2 = { d1 with regs := d2.regs, rnl := { d1.rnl with fresh := [] } } ∧
            (∀ b hi lo, (b, hi, lo) ∈ [(true, 15, 0), (cur, 31, 16), (fl, 47, 32), (nf, 63, 48)] →
              rfield d2 .qtrScaleStat h 0 hi lo =
                min 65535 (rfield d1 .qtrScaleStat h 0 hi lo + b.toNat)) ∧
            ∀ key, key ≠ Reg.qtrScaleStat.key h 0 → mget 0 d2.regs key = mget 0 d1.regs key)))

/-- TALLY_OPEN opens a zeroed context, TALLY_CONTRIBUTE sends its chunks, TALLY_FINISH ends them, CLOSE ends
the context. For every state with the command started, one turn completes. OPEN of a context that is not
open, of a set group whose image reads, that passes the checks of R249, zeroes the region and opens the
context at its starting step; CLOSE ends the context, its publications and the commands that use it, no
other context changing. A TALLY_CONTRIBUTE sends the exponents of its next chunk in the order of R253,
then the mantissas under the agreed codes of a chunk that is published, counting the clamped ones, at
once to itself and as one transaction to another member; a chunk whose owner is lost counts as
MEMBER_LOST; when all are sent and answered it finishes with the highest status and the number of chunks
not refused, and its publications go. A TALLY_FINISH whose next owned chunk has not closed waits; when
it has, it writes that chunk's result and counts it; after the last it zeroes the slot of step s + 2 and
finishes with the number of chunks that did not fail. Each other form ends in the status of its check,
read or group. A TLY_CTX_SEL write takes one snapshot. (R249, R252, R253, R257, R261, R262, R265, R290,
R291) -/
def Obligations.TallyCommands : Prop :=
  ∀ (s : State),
    (∀ (q k : Nat) (y : Cmd),
      let n := y.param 0 % 4096
      let p := partOfQueue s.dev q
      let ends (st : Nat) (d1 d : Dev) : Prop := FinishesFree d1 d q k st
      (CmdRuns s q k 0x0503 y →
        (bit (y.param 0) 18 = false → Completes (.tallyOpen q k) s fun d =>
          match tallyAt s.dev n, groupAt s.dev n with
          | some _, _ => ends 0x0161 s.dev d
          | none, none => ends 0x0160 s.dev d
          | none, some g =>
            let x := tallyOf y
            GroupTurn s.dev d g (bad := fun st d1 => ends st d1 d) fun d1 =>
              if tallyOpenOk d1 p x g = false then ends 0x0160 d1 d
              else Turn d1 d1 d (dclear x.base 0 (tallyRegion x g)) (bad := fun st d2 => ends st d2 d) fun _ d2 =>
                ∃ d3, ends 0 d3 d ∧ d3 = { d2 with tally := { d2.tally with ctxs := d3.tally.ctxs } } ∧
                  ∀ m, tallyAt d3 m = if m = n then some x else tallyAt d2 m) ∧
        (bit (y.param 0) 18 = true → Completes (.tallyClose q k) s fun d =>
          match tallyAt s.dev n, groupAt s.dev n with
          | some _, some g => GroupTurn s.dev d g (bad := fun st d1 => ends st d1 d) fun d1 =>
            ∃ d3, ends 0 d3 d ∧
              d3 = { d1 with tally := d3.tally, hub := { d1.hub with queues := d3.hub.queues }, free := d3.free } ∧
              d3.tally.pubs = d1.tally.pubs.filter (fun x => x.group ≠ n) ∧
              (∀ m, tallyAt d3 m = if m = n then none else tallyAt d1 m) ∧
              (∀ u v w, cmdAt d1 u v = some w → w.st = .started → (w.opcode = 0x0501 ∨ w.opcode = 0x0502) →
                w.param 0 % 4096 = n → ∃ z, cmdAt d3 u v = some z ∧ z.st = .finished ∧ z.status = 0x0632)
          | _, _ => ends 0x0632 s.dev d)) ∧
      (CmdRuns s q k 0x0501 y → Completes (.tallyContribute q k) s fun d =>
        match tallyAt s.dev n, groupAt s.dev n with
        | some x, some g =>
          let z := contribOf s.dev q y x g
          let told (c st : Nat) : Dev → Dev := fun d =>
            updCmd d q k (Cmd.told (2 ^ 20) st (if st = 0 then [] else [2 * c]))
          let stops (st : Nat) (d1 d : Dev) : Prop :=
            d = updCmd d1 q k fun u => { u with step := 2 ^ 33, status := max u.status st }
          -- Packets of chunk `c` go to member `j`.
          let sends (d1 d2 : Dev) (c j : Nat) (ps : List TPkt) (note : Cmd → Cmd) (d : Dev) : Prop :=
            let w := memberWord d2 g j
            if j = g.self then
              Turn d1 d2 d (ps.foldlM (fun st x => do let r ← tallyArrive p x; pure (max st r)) 0)
                (fun st d3 => d = told c st (updCmd d3 q k note)) fun _ d3 => d = d3
            else if memberState d2 p w = 1 then d = told c 0x0630 (updCmd d2 q k note)
            else d = match startXact (updCmd d2 q k note) p (memberChip w) (.tally q k c) 0 0 0 (noteCmd q k)
                fun _ => ps.map tallyFrame with
              | .ok d3 _ => d3
              | .wait => d1
          let source (c : Nat) (d1 : Dev) : Act (List Byte) :=
            vread (spaceOf d1 q) (y.param 2 + 65536 * (c - z.first)) 65536
          if z.count = 0 ∨ y.param 2 % 64 ≠ 0 ∨ g.members * x.cpm < z.first + z.count then ends 0x0160 s.dev d
          else GroupTurn s.dev d g (bad := fun st d1 => stops st d1 d) fun d1 =>
            match z.order[y.step]? with
            | some (c, j) => Turn d1 d1 d (source c d1) (bad := fun st d2 => stops st d2 d) fun bs d2 =>
              sends d1 d2 c j [⟨0, n, g.self, z.step, c, 0, 0, chipId d1 p, chunkCodes bs⟩]
                (fun u => { u with step := u.step + 1 }) d
            | none => match nextMant d1 y z, lostOwner d1 y z with
              | some (c, j, codes), _ => Turn d1 d1 d (source c d1) (bad := fun st d2 => stops st d2 d) fun bs d2 =>
                let (ms, clamped) := mantissas codes bs fun i => Config.freeValue (d2.free + i)
                sends d1 (rcount { d2 with free := d2.free + (fp32s bs).length } .tlyStat 0 p 63 48 clamped) c j
                  (mantPkts g n z.step c (chipId d1 p) ms) (fun u => { u with aux2 := u.aux2 ++ [2 * c + 1] }) d
              | none, some c => d = told c 0x0630 d1
              | none, none =>
                if y.aux = [] ∧ (∀ e ∈ z.order, isBad y e.1 = true ∨ isSent y e.1 = true) then
                  ∃ d3, d3 = { d1 with tally := { d1.tally with pubs := d3.tally.pubs } } ∧ Finishes d3 d q k y.status
                      (toW (z.count - (z.order.filter fun e => isBad y e.1).length)) ∧
                    ∀ u, u ∈ d3.tally.pubs ↔ u ∈ d1.tally.pubs ∧
                      ¬ (u.group = n ∧ u.step = z.step ∧ z.first ≤ u.chunk ∧ u.chunk < z.first + z.count)
                else d = d1
        | _, _ => ends 0x0632 s.dev d) ∧
      (Live s → cmdAt s.dev q k = some y → y.st = .started → y.opcode = 0x0501 → isSuspect s.dev q k = false →
        y.step = 2 ^ 33 → ∀ x g, tallyAt s.dev n = some x → groupAt s.dev n = some g → y.contribOk = true →
        bits (y.param 3) 31 0 + bits (y.param 3) 63 32 ≤ g.members * x.cpm →
        Completes (.tallyContribute q k) s fun d => if y.aux = [] then ends y.status s.dev d else d = s.dev) ∧
      (CmdRuns s q k 0x0502 y → Completes (.tallyFinish q k) s fun d =>
        match tallyAt s.dev n, groupAt s.dev n with
        | some x, some g =>
          if bits (y.param 1) 31 0 ≠ x.c then ends 0x0161 s.dev d
          else if finishAreasOk s.dev p x g (y.param 2) (y.param 3) = false then ends 0x0160 s.dev d
          else if y.step < x.cpm then GroupTurn s.dev d g (bad := fun st d1 => ends st d1 d) fun d1 =>
            Turn d1 d1 d (finishChunk ⟨p, n, x, g, x.c, y.step⟩ (y.param 2) (y.param 3))
              (bad := fun st d2 => ends st d2 d) fun r d2 =>
              match r with
              | none => d = d2
              | some (st, sets) => d = updCmd d2 q k fun z => { z with
                step := z.step + 1, buf := z.buf ++ sets, status := max z.status st
                aux := [z.aux.headD 0 + (if st = 0 then 0 else 1)] }
          else
            let len := x.cpm * recordBytes x.carry g
            Turn s.dev s.dev d (dclear x.base ((x.c + 2) % 4 * len) len) (bad := fun st d1 => ends st d1 d) fun _ d1 =>
              Finishes (updCmd d1 q k fun z => { z with aux2 := [1] }) d q k y.status (toW (x.cpm - y.aux.headD 0))
        | _, _ => ends 0x0632 s.dev d)) ∧
    (∀ v : Word, Live s → Completes (.tlyCtxSelWrite v) s fun d =>
      let x := tallyAt s.dev (wbits v 11 0)
      d = { s.dev with regs := d.regs } ∧ rget d .tlyCtxSel = toW (wbits v 11 0) ∧
      rget d .tlyCtxState = toW (match x with
        | some x => 1 + x.late.toNat * 2 + x.carry.toNat * 4 + (finishWaits s.dev (wbits v 11 0)).toNat * 8 +
            x.c * 2 ^ 32
        | none => 0) ∧
      ∀ key, key ≠ Reg.tlyCtxSel.key 0 0 → key ≠ Reg.tlyCtxState.key 0 0 → mget 0 d.regs key = mget 0 s.dev.regs key)

/-- The deadlines of R259 and R260 close the records that are due, in their turn among the scheduled events,
and no others. For every state: the exponent deadline of a step that has come, and is next in the order
of R300 or has fired already, closes the exponent round of each record of that step whose Bell and
offset make it due, the close deadline its main accumulation; a record that cannot be read is left, and
a write that must wait for the companion leaves all of them for the next try. Otherwise only time
passes. The end of a 1 ms wait closes the chunk it was for, and before that time nothing but time
changes. (R259, R260, R300) -/
def Obligations.TallyDeadlines : Prop :=
  ∀ (s : State) (n step now : Nat), Live s →
    let d0 := advanceTo s.dev now
    let each (f : TRec → Act Unit) (r : TRec) : Act Unit := tryCatch (f r) fun
      | .err _ _ => pure ()
      | .wait n => throw (.wait n)
    let runs (d1 : Dev) (rs : List TRec) (f : TRec → Act Unit) (d : Dev) : Prop :=
      match (rs.forM (each f)).go d1 with
      | (.ok (), d2) => d = d2
      | (.error (.wait n), d2) => d = waitDev d1 d2 n
      | (.error (.err _ _), d2) => d = d2
    let t := step % 2 ^ 32
    (∀ close, ∀ c ∈ [(if close then Instr.closeDeadline n step now else .expDeadline n step now)],
      let f := if close then deadlineMain else closeExp
      let lead (x : TallyCtx) : Nat := if close then 0 else x.expLead
      let rs := dueRecords d0 n t lead
      (tallyAt d0 n = none ∨ (fabPart d0 (partOfGroup d0 n)).bell = none → Completes c s fun d => d = d0) ∧
      (∀ x b, tallyAt d0 n = some x → (fabPart d0 (partOfGroup d0 n)).bell = some b → Completes c s fun d =>
        if (t, close) ∈ x.fired then runs d0 rs f d
        else if rs = [] ∨ inTurnAt d0 (b.time t + x.closeOff - lead x) .deadline = false then d = d0
        else
          let d1 := updTally d0 n fun x => { x with fired := (t, close) :: x.fired }
          runs d1 (dueRecords d1 n t lead) f d)) ∧
    (∀ x g w, tallyAt d0 n = some x → groupAt d0 n = some g → x.waits = [w] → w.step = step →
      let r : TRec := ⟨partOfGroup d0 n, n, x, g, step, w.idx⟩
      Completes (.partialWaitExpiry n r.chunk step now) s fun d =>
        if w.since + 1000000 ≤ d0.clock then runs d0 [r] (partialEnds w) d else d = d0) ∧
    (∀ chunk, tallyAt d0 n = none ∨ groupAt d0 n = none →
      Completes (.partialWaitExpiry n chunk step now) s fun d => d = d0)

/-- GROUP_SET and CLEAR, BELL_ARM and DISARM, and DISPATCH_TABLE_LOAD set what they name. For every state
with the command started: a GROUP_SET or CLEAR of a group with entries still to be written waits; of a
group in use it ends in GROUP_BUSY; GROUP_SET of an idle group with a valid, placed image that reads
sets the group from the image, any other image ends it in GROUP_PARAM or the status of the read; CLEAR
of an idle group unsets it; other groups stay. BELL_ARM in usable campus time with a PERIOD from 1,000
to 2^40 and a T0 not past arms the partition's Bell at its first step without shifts, in other time it
ends in TIME_NOT_LOCKED and with other values in BELL_PARAM; DISARM disarms it. A DISPATCH_TABLE_LOAD
begins in its turn; its second step with a valid image leaves it in the shadow, pending, and finishes
with the next generation; an image that fails is TABLE_INVALID with the offset of the failing field.
Outside what is named nothing changes. (R125, R290, R294, R301) -/
def Obligations.GroupAndBellCommands : Prop :=
  ∀ (s : State) (q k : Nat) (y : Cmd),
    let p := partOfQueue s.dev q
    let sp := spaceOf s.dev q
    let n := y.param 0 % 4096
    (CmdRuns s q k 0x0A01 y →
      (bit (y.param 0) 16 = false → Completes (.groupSet q k) s fun d =>
        if editsLeft s.dev n = true then d = s.dev
        else if groupBusy s.dev n q k = true then FinishesFree s.dev d q k 0x0171
        else if y.param 1 % 64 ≠ 0 then FinishesFree s.dev d q k 0x0170
        else Turn s.dev s.dev d (groupImage sp (y.param 1)) (bad := fun st d1 => FinishesFree d1 d q k st) fun r d1 =>
          let (runs, img) := r
          if groupImageOk d1 p img = true ∧ imagePlaced d1 p runs = true then ∃ d3, FinishesFree d3 d q k 0 ∧
            d3 = { d1 with fab := { d1.fab with groups := d3.fab.groups } } ∧
            ∀ m, groupAt d3 m = if m = n then some ⟨y.param 1, runs, leAt img 4 4, leAt img 8 4, leAt img 0x10 8⟩
              else groupAt d1 m
          else FinishesFree d1 d q k 0x0170) ∧
      (bit (y.param 0) 16 = true → Completes (.groupClear q k) s fun d =>
        if editsLeft s.dev n = true then d = s.dev
        else if groupBusy s.dev n q k = true then FinishesFree s.dev d q k 0x0171
        else ∃ d3, FinishesFree d3 d q k 0 ∧ d3 = { s.dev with fab := { s.dev.fab with groups := d3.fab.groups } } ∧
          ∀ m, groupAt d3 m = if m = n then none else groupAt s.dev m)) ∧
    (CmdRuns s q k 0x0702 y →
      (bit (y.param 4) 0 = false → Completes (.bellArm q k) s fun d =>
        if timeUsable s.dev = false then FinishesFree s.dev d q k 0x0650
        else if y.param 2 < 1000 ∨ 2 ^ 40 < y.param 2 ∨ y.param 0 < s.dev.ns then FinishesFree s.dev d q k 0x0173
        else FinishesFree (setFabPart s.dev p { fabPart s.dev p with bell := some ⟨y.param 0, bits (y.param 1) 31 0,
          y.param 2, bits (y.param 3) 16 0, [], bits (y.param 1) 31 0⟩ }) d q k 0) ∧
      (bit (y.param 4) 0 = true → Completes (.bellDisarm q k) s fun d =>
        FinishesFree (setFabPart s.dev p { fabPart s.dev p with bell := none }) d q k 0)) ∧
    (CmdRuns s q k 0x0A02 y →
      let g (d : Dev) : Gen := genAt d .dispatch p
      let m := (y.param 1 - 64) / 32
      Completes (.dispatchTableLoad q k) s fun d =>
        if y.step = 0 then d = if loadTurn s.dev q y .dispatch then
            updCmd (setGen s.dev .dispatch p { g s.dev with loading := some (q, k) }) q k fun z => { z with step := 1 }
          else s.dev
        else if y.param 1 < 96 ∨ y.param 1 ≠ 64 + 32 * m ∨ 65536 < m then Finishes s.dev d q k 0x0120 4
        else Turn s.dev s.dev d (vread sp (y.param 0) (y.param 1)) (bad := fun st d1 => FinishesFree d1 d q k st)
          fun img d1 => match dispatchBad m img with
            | none => Finishes (setGen d1 .dispatch p { g d1 with shadow := img, pending := true }) d q k 0
              (toW (genNext (g d1).active))
            | some o => Finishes d1 d q k 0x0120 (toW o))

/-- DISPATCH, PARAM_GATHER and KV_PASS take one turn after another and finish with all they sent answered.
For every state with the command started, one turn completes. A DISPATCH takes the table in force at its
start, then token by token writes the rows and the map of the placement, then the counts, then signals
each target; a status of an access ends it once its transactions are answered; with all handed out and
answered it adds its drops to FAB_DSP_DROP and finishes with them, in DISPATCH_DROPPED when there are
any. A PARAM_GATHER copies the shard, sends it to the members of X and waits for their signals, then its
block to the members of Y and waits for theirs, and finishes with the bytes of the whole copy; one that
fails leaves the whole copy undefined. A KV_PASS sends each frame of its list, pinned until it is
acknowledged, waits for one that is being copied, and stops at one that holds no page; it finishes with
the number of its frames. The placement of a token gives it at most K experts and no expert more slots
than its quota. (R215, R218, R237, R238, R291, R295, R296) -/
def Obligations.DispatchGatherAndPass : Prop :=
  (∀ (s : State) (q k : Nat) (y : Cmd),
    let p := partOfQueue s.dev q
    let note (d1 : Dev) (f : Cmd → Cmd) : Dev := updCmd d1 q k f
    -- A transaction of the command, or `d1` where none is free.
    let sent (d1 d2 : Dev) (chip addr : Nat) (src : Nat → PktSrc) (mk : Nat → List Frame) : Dev :=
      match startXact d2 p chip (.cmd q k) addr 0 0 (noteCmd q k) mk src with
      | .ok d3 _ => d3
      | .wait => d1
    (CmdRuns s q k 0x0A04 y →
      let x := dispOf s.dev q y
      let img := y.buf
      let ne := dspCount img
      let stops (st : Nat) (d1 d : Dev) : Prop := d = note d1 fun z => { z with step := 2 ^ 33, status := max z.status st }
      Completes (.dispatch q k) s fun d =>
        let now := (genAt s.dev .dispatch p).image
        if y.step = 0 then
          if y.dispOk = false ∨ now = [] then FinishesFree s.dev d q k 0x0172
          else match groupAt s.dev (dspGroup now) with
            | none => FinishesFree s.dev d q k 0x0170
            | some g => GroupTurn s.dev d g (bad := fun st d1 => FinishesFree d1 d q k st) fun d1 =>
              d = note d1 fun z => { z with
                step := 1, buf := now, aux2 := 0 :: List.replicate (dspCount now) 0 }
        else match groupAt s.dev (dspGroup img) with
          | none => stops 0x0170 s.dev d
          | some g =>
            if y.step ≤ x.n then Turn s.dev s.dev d (dispToken q k x g.self (y.step - 1) img y.aux2.tail)
              (bad := fun st d1 => stops st d1 d) fun z d1 => match z with
                | none => d = s.dev
                | some z => d = note d1 fun u => { u with
                  step := u.step + 1, aux := u.aux ++ d1.rnl.fresh.map (2 ^ 20 + ·)
                  aux2 := (u.aux2.headD 0 + (x.k - z.sends.length)) :: z.used }
            else if y.step ≤ x.n + ne then
              let e := y.step - 1 - x.n
              let at_ := dspCountBase img e + 64 * g.self
              let rec_ := leBytes 4 (y.aux2.getD (e + 1) 0) ++ List.replicate 60 0
              Turn s.dev s.dev d (dispWrite q k x (dspChip img e) at_ rec_ .fixed (writeFrames 0 0 at_ rec_))
                (bad := fun st d1 => stops st d1 d) fun r d1 =>
                  if r = none then d = s.dev else d = note d1 fun u => { u with step := u.step + 1 }
            else match (dspTargets img)[y.step - 1 - x.n - ne]? with
              | some chip =>
                let next := note s.dev fun u => { u with step := u.step + 1 }
                if chipIdValid s.dev p = true ∧ chip = chipId s.dev p then
                  if partOfSem s.dev (dspSem img) = p then
                    d = updCmd (semAdd s.dev (dspSem img) 1) q k fun u => { u with step := u.step + 1 }
                  else d = updCmd next q k fun u => { u with status := max u.status 0x0602 }
                else d = sent s.dev next chip 0 (fun _ => .fixed) fun _ => [semFrame (dspSem img) 1]
              | none =>
                let drops := y.aux2.headD 0
                if y.aux ≠ [] then d = s.dev
                else ∃ d3, Finishes d3 d q k (max y.status (if drops = 0 then 0 else 0x0034)) (toW drops) ∧
                  d3 = { s.dev with regs := d3.regs } ∧
                  rfield d3 .fabDspDrop 0 p 31 0 = min (2 ^ 32 - 1) (rfield s.dev .fabDspDrop 0 p 31 0 + drops) ∧
                  ∀ key, key ≠ Reg.fabDspDrop.key 0 p → mget 0 d3.regs key = mget 0 s.dev.regs key) ∧
    (Live s → cmdAt s.dev q k = some y → y.st = .started → y.opcode = 0x0A04 → isSuspect s.dev q k = false →
      y.step = 2 ^ 33 → Completes (.dispatch q k) s fun d =>
        if y.aux = [] then FinishesFree s.dev d q k y.status else d = s.dev) ∧
    (CmdRuns s q k 0x0A03 y →
      let c := Instr.paramGather q k
      (gatherOf s.dev y = none → Completes c s fun d => FinishesFree s.dev d q k 0x0155) ∧
      (∀ g, gatherOf s.dev y = some g →
        let t := g.gx.members
        let u := g.gy.members
        let total := t * u * g.s
        let sx := bits (y.param 4) 16 0
        let sy := bits (y.param 4) 48 32
        let fails (st : Nat) (d1 d : Dev) : Prop := Turn d1 d1 d (junkData g.whole (g.gx.members * g.gy.members * g.s / 64))
          (fun _ d2 => FinishesFree d2 d q k st) fun _ d2 => FinishesFree d2 d q k st
        let bad (st : Nat) (d1 d : Dev) : Prop := if y.aux2 = [] then FinishesFree d1 d q k st else fails st d1 d
        -- The next piece or signal of a phase in `d1`.
        let phase (ph : Nat) (others : List Nat) (m piece o len sem base from_ : Nat) (d1 d : Dev) : Prop :=
          match others[m]? with
          | none => d = note d1 fun z => { z with aux2 := [ph + 1, 0, 0] }
          | some chip =>
            let ps := numbered (rangePieces d1 g.whole o len)
            if piece < ps.length then d = gatherSend q k p chip g base from_ (ps.drop piece) d1
            else
              let d2 := note d1 fun z => { z with aux2 := [z.aux2.headD 0, m + 1, 0] }
              d = sent d1 d2 chip 0 (fun _ => .fixed) fun _ => [semFrame sem 1]
        (y.aux ≠ [] → Completes c s fun d => d = s.dev) ∧
        (y.aux = [] → y.status ≠ 0 → Completes c s fun d => fails y.status s.dev d) ∧
        (y.aux = [] → y.status = 0 → Completes c s fun d =>
          GroupTurn s.dev d g.gx (bad := fun st d1 => bad st d1 d) fun d1 =>
          GroupTurn d1 d g.gy (bad := fun st d2 => bad st d2 d) fun d2 =>
          match y.aux2 with
          | [] =>
            if gatherOk d2 p g = false then FinishesFree d2 d q k 0x0155
            else Turn d2 d2 d (do
                let bs ← dread g.shard 0 g.s
                dwrite g.whole ((g.gy.self * t + g.gx.self) * g.s) bs)
              (fun _ d3 => d = note d3 fun z => { z with aux2 := [0, 0, 0] }) fun st d3 => fails st d3 d
          | [0, m, i] => phase 0 (otherMembers d2 g.gx) m i ((g.gy.self * t + g.gx.self) * g.s) g.s sx g.shard 0 d2 d
          | [1, _, _] =>
            if bits (y.param 5) 31 0 + t - 1 ≤ (semAt d2 sx).toNat then d = note d2 fun z => { z with aux2 := [2, 0, 0] }
            else d = d2
          | [2, m, i] =>
            phase 2 (otherMembers d2 g.gy) m i (g.gy.self * t * g.s) (t * g.s) sy g.whole (g.gy.self * t * g.s) d2 d
          | _ =>
            if bits (y.param 5) 63 32 + u - 1 ≤ (semAt d2 sy).toNat then Finishes d2 d q k 0 (toW total) else d = d2))) ∧
    (CmdRuns s q k 0x0404 y →
      let c := Instr.kvPass q k
      let n := y.param 1
      let key := bankKey (y.param 2)
      let ends (st : Nat) (d1 d : Dev) : Prop := Finishes (noteLedger d1 q st 0) d q k st 0
      let bad (st : Nat) (d1 d : Dev) : Prop :=
        if y.step = 0 then ends st d1 d
        else d = note d1 fun z => { z with step := 0x8000 + y.step, status := max z.status st }
      (y.status ≠ 0 ∨ y.step = n → Completes c s fun d =>
        if y.aux ≠ [] then d = s.dev
        else if y.status = 0 then Finishes s.dev d q k 0 (toW n)
        else if y.status = 0x0141 then Finishes s.dev d q k 0x0141 (toW (y.step - 0x8000))
        else FinishesFree (noteLedger s.dev q y.status 0) d q k y.status) ∧
      (y.status = 0 → y.step ≠ n → groupAt s.dev (key / 2) = none → Completes c s fun d => ends 0x0170 s.dev d) ∧
      (y.status = 0 → y.step ≠ n → ∀ g, groupAt s.dev (key / 2) = some g → Completes c s fun d =>
        GroupTurn s.dev d g (bad := fun st d1 => bad st d1 d) fun d1 =>
          match successor d1 p g g.self with
          | none => ends 0x0621 d1 d
          | some j => d = withList d1 q k y n fun fs d2 =>
            kvSend q k key (bits (y.param 2) 46 32) (memberChip (memberWord d2 g j)) p
              ((numbered fs).drop y.step) d2))) ∧
  (∀ (x : Disp) (img : List Byte) (route : List Nat) (used : List Nat),
    (∀ e, used.getD e 0 ≤ dspQuota img e) →
    let z := placeFrom x img route route 0 ⟨[], [], used⟩
    z.sends.length ≤ x.k ∧ (∀ e, z.used.getD e 0 ≤ dspQuota img e) ∧
    (∀ w ∈ z.sends, w.1 < dspCount img ∧ w.2 < dspQuota img w.1) ∧ z.map.length = route.length)

/-- A new packet in order is applied once and acknowledged, or refused by the checks of R280 and answered
with their status. For every state and frame that is the next in order on an UP port, of a new packet in
its turn on a flow with nothing waiting: group traffic has its group's image read first; a packet that
fails its address or its admission is refused, recorded and counted, with no other effect. Else a WRITE
or DISPATCH writes its payload at its address, an ACCUMULATE adds it there, a READ reads its range and
submits the response to the source, a READ response reaches the transaction that asked, a SEM_SIGNAL
adds its amount to its semaphore, a KV_PASS packet goes to its bank's slot, and a tally packet to its
context; then the packet is recorded and answered with its status: OK, what the access answered, or what
the rules of KV_PASS and tally give. One whose access must wait for the companion stays waiting. Nothing
else changes. (R216, R257, R280, R281, R290, R295) -/
def Obligations.PacketsAreApplied : Prop :=
  ∀ (s : State) (now port : Nat) (trailer : Word) (f : Frame) (d1 d2 : Dev), Taken s now port trailer f d1 →
    Fresh d1 port f d2 →
    let p := partOfPort d1 port
    let image : Act Unit := match ((packetGroup f).filter fun g => partOfGroup d2 g == p).bind (groupAt d2) with
      | some g => readGroup g
      | none => pure ()
    let write : Act Nat := do writePhys .software (frameAddr f) f.payload; pure 0
    let rows : List ((Nat → Nat → Word → Frame → Instr) × Bool × Act Nat) :=
      [(.caravanWrite, f.type == 0, write), (.caravanDispatch, f.type == 5, write),
        (.caravanAccumulate, f.type == 2 && !f.tly,
          do accumAt .software (frameAddr f) (bits f.area 25 22) f.payload; pure 0),
        (.caravanRead, f.type == 1 && !f.resp, do
          let bs ← readPhys (frameAddr f) (frameSpan f)
          modify fun d => submit d p f.src none [readReply f bs] fun _ => .dram (frameAddr f)
          pure 0),
        (.caravanReadResponse, f.type == 1 && f.resp, do modify fun d => takeResponse d p f; pure 0),
        (.caravanSemSignal, f.type == 3, do
          modify fun d => noteSignal (semAdd d (bits f.area 16 0) (toW (bits f.area 63 32))) p (bits f.area 16 0)
            f.src (bits f.area 63 32)
          pure 0),
        (.caravanKvPass, f.type == 4, kvArrive p f),
        (.caravanTallyExp, isTally 0 f, tallyArrive p (tallyPkt f)),
        (.caravanTallyMant, isTally 1 f, tallyArrive p (tallyPkt f)),
        (.caravanTallyPublish, isTally 2 f, do
          let d ← get
          set (publishArrive d (tallyPkt f)).2
          pure (publishArrive d (tallyPkt f)).1)]
    ∀ r ∈ rows, r.2.1 = true → Completes (r.1 now port trailer f) s fun d =>
      let act : Act Nat := do
        image
        let d ← get
        match packetRefusal d p f with
        | some st => do
          modify fun d => noteRefused d p st f.src port
          pure st
        | none => r.2.2
      match act.go d2 with
      | (.ok st, d3) => d = answeredIn d3 p f st
      | (.error (.err st _), d3) => d = answeredIn d3 p f st
      | (.error (.wait n), d3) => d = waitDev d2 d3 n

/-- A packet without an identity, a flow, an admitted source, a new FSEQ or the job tag has no effect but
its answer. For every state and frame that is the next in order on an UP port, of whichever packet type:
a frame for another chip ID does nothing above the link level; without a flow from its source the answer
is FLOW_UNKNOWN; a packet of a shut-out source gets SOURCE_FENCED; a copy of a packet already handled
gets the same answer again, a copy of one that waits none; one with another job tag gets
JOB_TAG_MISMATCH; any other waits its turn on its flow. With nothing waiting, a refusal changes no
memory, semaphore, ledger, tally or tile. (R273, R280, R281, R292) -/
def Obligations.PacketsAreRefused : Prop :=
  ∀ (s : State) (now port : Nat) (trailer : Word) (f : Frame) (d1 : Dev), Taken s now port trailer f d1 →
    let p := partOfPort d1 port
    let same (d : Dev) : Prop := d.mem = d1.mem ∧ d.hub = d1.hub ∧ d.ledger = d1.ledger ∧ d.tally = d1.tally ∧
      d.tiles = d1.tiles
    ∀ r ∈ ([(.caravanWrite now port trailer f, f.type == 0), (.caravanRead now port trailer f, f.type == 1 && !f.resp),
        (.caravanReadResponse now port trailer f, f.type == 1 && f.resp),
        (.caravanAccumulate now port trailer f, f.type == 2 && !f.tly),
        (.caravanTallyExp now port trailer f, isTally 0 f), (.caravanTallyMant now port trailer f, isTally 1 f),
        (.caravanTallyPublish now port trailer f, isTally 2 f), (.caravanSemSignal now port trailer f, f.type == 3),
        (.caravanKvPass now port trailer f, f.type == 4), (.caravanDispatch now port trailer f, f.type == 5)] : List (Instr × Bool)), r.2 = true → Completes r.1 s fun d =>
      if chipIdValid d1 p = false ∨ f.dst ≠ chipId d1 p then d = d1
      else match findRx d1 p f.src with
        | none => d = sendStatus (noteRefused d1 p 0x0607 f.src port) p f.src f.fseq 0x0607 ∧ same d
        | some x =>
          let refused (st : Nat) : Prop :=
            let d2 := answerPkt (noteRefused d1 p st f.src port) p f.src f.fseq st
            d = settleRx d2 p f.src ∧ (x.waiting = [] → d = d2 ∧ same d)
          if sourceShut d1 p f.src = true then
            if x.seen f.fseq = true then
              d = sendStatus (noteRefused d1 p 0x0641 f.src port) p f.src f.fseq 0x0641 ∧ same d
            else refused 0x0641
          else if x.seen f.fseq = true then d = replyAgain d1 x f.fseq ∧ same d
          else if (∃ e ∈ x.waiting, e.2.fseq = f.fseq) then d = d1
          else if f.tag ≠ jobTag d1 p then refused 0x0606
          else d = settleRx (updRx d1 p f.src fun y =>
            { y with waiting := y.waiting ++ [(port, f)], usedAt := d1.clock }) p f.src

/-- The link level takes the next good frame, answers copies and asks for what is missing; credits,
acknowledgements and LINK_INIT. For every state: a frame on a port that is not UP, or of another kind
than its row, does nothing. On an UP port a good frame with the next LSEQ is taken, acknowledged, but
for a LINK_ACK, and its credit returned, but for a link-scope one; a copy of a frame taken is
acknowledged again and dropped; a bad frame and one after a gap are dropped with a NAK of the next LSEQ.
CREDIT adds its units to the VCs. LINK_ACK drops the frames it covers from the replay list, a NAK sends
the later ones again. In training, LINK_INIT takes the switch's credits and answers with the device's
own, whose credits are free (log 34). (R273, R275, R277, Table FAB-5) -/
def Obligations.LinkLevel : Prop :=
  ∀ (s : State) (now port : Nat) (trailer : Word) (f : Frame), Live s →
    let d0 := advanceTo s.dev now
    let x := portAt d0 port
    let lseq := wbits trailer 15 0
    let ahead := (lseq + 65536 - x.rxSeq) % 65536
    let sound := frameSound f trailer
    let next := setPort d0 port { x with rxSeq := (x.rxSeq + 1) % 65536 }
    let up := port < 32 ∧ portIn s.dev port .up = true
    (∀ (a b c k e : Nat) (z : Int) (two : Bool) (lst : List Nat) (ws rs : List (Nat × Nat × Nat)),
      ∀ r ∈ ([(.caravanWrite now port trailer f, f.type == 0), (.caravanRead now port trailer f, f.type == 1 && !f.resp),
        (.caravanReadResponse now port trailer f, f.type == 1 && f.resp),
        (.caravanAccumulate now port trailer f, f.type == 2 && !f.tly),
        (.caravanTallyExp now port trailer f, isTally 0 f), (.caravanTallyMant now port trailer f, isTally 1 f),
        (.caravanTallyPublish now port trailer f, isTally 2 f), (.caravanSemSignal now port trailer f, f.type == 3),
        (.caravanKvPass now port trailer f, f.type == 4), (.caravanDispatch now port trailer f, f.type == 5)] ++
        [(.caravanCredit now port trailer f a b c, isCtl 2 f), (.linkAck now port trailer f, isCtl 3 f),
        (.flowOpen now port trailer f, isCtl 0x10 f), (.flowAccept now port trailer f, isCtl 0x11 f),
        (.ack now port trailer f, isCtl 0x12 f), (.status now port trailer f, isCtl 0x13 f),
        (.ptp now port trailer f a b c k z two e, isCtl 0x20 f), (.idAssign now port trailer f a b, isCtl 0x30 f),
        (.memberLost now port trailer f a, isCtl 0x31 f), (.memberReplace now port trailer f a b c, isCtl 0x32 f),
        (.fenceClear now port trailer f a, isCtl 0x33 f), (.shareSet now port trailer f lst ws, isCtl 0x34 f),
        (.routeSet now port trailer f rs, isCtl 0x35 f), (.bellShift now port trailer f a z, isCtl 0x36 f),
        (.controlIgnored now port trailer f, f.type == 6 && !listedCtl.contains (f.area % 256))] : List (Instr × Bool)),
      (¬ up ∨ r.2 = false → Completes r.1 s fun d => d = s.dev) ∧
      (up → r.2 = true → sound = false ∨ (ahead ≠ 0 ∧ ahead < 32768) →
        Completes r.1 s fun d => d = sendLinkNak d0 port x.rxSeq) ∧
      (up → r.2 = true → sound = true → 32768 ≤ ahead →
        Completes r.1 s fun d => d = if isCtl 3 f then d0 else sendLinkAck d0 port (x.rxSeq + 65535))) ∧
    (sound = true → ahead = 0 → linkIn d0 port trailer f = (true,
      let d1 := if isCtl 3 f then next else sendLinkAck next port lseq
      if f.type = 6 ∧ f.area % 256 ∈ [1, 2, 3] then d1 else sendCredit d1 port f.vc (f.payload.length / 64 + 1))) ∧
    (up → sound = true → ahead = 0 → ∀ c0 c1 c2 : Nat, isCtl 2 f = true →
      Completes (.caravanCredit now port trailer f c0 c1 c2) s fun d =>
        let d1 := sendLinkAck next port lseq
        let get (v : Nat) : Nat := mget 0 (portAt d1 port).credit v
        d = pump (setPort d1 port { portAt d1 port with
          credit := vcCredits (get 0 + c0) (get 1 + c1) (get 2 + c2) })) ∧
    (up → sound = true → ahead = 0 → isCtl 3 f = true → Completes (.linkAck now port trailer f) s fun d =>
      let n := bits f.area 23 8
      let y := portAt next port
      let later (e : Nat × Frame × PktSrc) : Bool := decide ((e.1 + 65536 - n) % 65536 < 32768)
      let again := y.unacked.filter later
      d = if bit f.area 24 = true then pump (replayFrames port again (setPort next port { y with unacked := again }))
        else pump (setPort next port { y with unacked := y.unacked.filter fun e => later e && e.1 != n })) ∧
    (∀ c0 c1 c2 : Nat, Completes (.linkInit now port trailer f c0 c1 c2) s fun d =>
      if port < 32 ∧ portIn s.dev port .training = true ∧ isCtl 1 f = true then
        match linkIn d0 port trailer f with
        | (false, d1) => d = d1
        | (true, d1) => ∃ v : Word,
          let d2 := linkSend { d1 with free := d1.free + 1 } port
            (ctlFrame d1 (partOfPort d1 port) 0 0x01 (port + wbits v 47 0 * 2 ^ 8) []) false
          d = setPort d2 port { portAt d2 port with credit := vcCredits c0 c1 c2, init := true }
      else d = s.dev)

/-- FLOW_OPEN and FLOW_ACCEPT open flows, ACK and STATUS answer packets, idle and lost flows retire. For
every state and control frame that is the next in order on an UP port and for the partition's chip ID:
FLOW_OPEN replaces any flow from its source with a new one of its incarnation and first FSEQ and sends
FLOW_ACCEPT, or waits while no receive flow is free; FLOW_ACCEPT of the incarnation makes an opening
flow ready; STATUS ends its packet with its status; ACK ends each sent packet that it covers, the newest
of them a round trip sample. An idle flow with nothing outstanding retires after 100 ms; a packet
unanswered past the timeout, and a FLOW_OPEN after 2 ms, is sent again, and after eight times the flow
is given up with FABRIC_TIMEOUT; without an UP port for 10 ms the transactions end with NO_ROUTE.
Otherwise nothing changes. (R278, R279, R283, R284) -/
def Obligations.FlowsOpenAndAnswer : Prop :=
  ∀ (s : State) (now : Nat), Live s →
    let d0 := advanceTo s.dev now
    (∀ (port : Nat) (trailer : Word) (f : Frame) (d1 : Dev), Taken s now port trailer f d1 →
      let p := partOfPort d1 port
      let mine := chipIdValid d1 p = true ∧ f.dst = chipId d1 p
      let inc := bits f.area 39 8
      let first := bits f.area 63 40
      (isCtl 0x10 f = true → Completes (.flowOpen now port trailer f) s fun d =>
        let d2 := { d1 with
          fab.rx := d1.fab.rx.filter fun x => !(x.part == p && x.src == f.src)
          fab.opens := d1.fab.opens.filter fun e => !(e.1 == p && e.2.1 == f.src) }
        if ¬ mine then d = d1
        else if rxHeld d2 p < flowLimit d2 p then
          d = sendCtl { d2 with fab.rx := d2.fab.rx ++ [⟨p, f.src, inc, first, [], [], [], d2.clock⟩] } p f.src 0x11
            (inc + first * 2 ^ 32) []
        else d = { d2 with fab.opens := d2.fab.opens ++ [(p, f.src, inc, first)] }) ∧
      (isCtl 0x11 f = true → Completes (.flowAccept now port trailer f) s fun d =>
        if ¬ mine then d = d1
        else d = pump (updTx d1 p f.src fun x =>
          if x.state = .opening ∧ x.inc = inc then { x with state := .ready, usedAt := d1.clock } else x)) ∧
      (isCtl 0x13 f = true → Completes (.status now port trailer f) s fun d =>
        if ¬ mine then d = d1
        else d = pump (replyPkt d1 p f.src (bits f.area 31 8) (bits f.area 47 32))) ∧
      (isCtl 0x12 f = true → Completes (.ack now port trailer f) s fun d =>
        if ¬ mine then d = d1
        else match findTx d1 p f.src with
          | none => d = d1
          | some x =>
            let cum := bits f.area 31 8
            let hit (n : Nat) : Bool := fseqAhead n cum == 0 || decide (2 ^ 23 ≤ fseqAhead n cum) ||
              (decide (fseqAhead n cum ≤ 512) && bit (leNat f.payload) (fseqAhead n cum - 1))
            let acked := x.pkts.filter fun y => y.sent && hit y.frame.fseq
            let d2 := match (acked.filter fun y => y.tries == 0).getLast? with
              | some y => updTx d1 p f.src fun z => { z with rtt := some (rttNext z.rtt (d1.clock - y.sentAt)) }
              | none => d1
            d = pump (acked.foldl (fun d y => replyPkt d p f.src y.frame.fseq 0) d2))) ∧
    (∀ p peer : Nat,
      (Completes (.flowRetire p peer true now) s fun d => match findTx d0 p peer with
        | some x => d = if x.state = .ready ∧ x.pkts = [] ∧ x.usedAt + 100000000 ≤ d0.clock then
            pump { d0 with fab.tx := d0.fab.tx.filter fun y => !(y.part == p && y.dst == peer) } else s.dev
        | none => d = s.dev) ∧
      (Completes (.flowRetire p peer false now) s fun d => match findRx d0 p peer with
        | some x => d = if x.waiting = [] ∧ x.usedAt + 100000000 ≤ d0.clock then
            openWaiting { d0 with fab.rx := d0.fab.rx.filter fun y => !(y.part == p && y.src == peer) } else s.dev
        | none => d = s.dev) ∧
      (∀ fseq, Completes (.retransmitTimeout p peer fseq now) s fun d => match findTx d0 p peer with
        | none => d = s.dev
        | some x =>
          if x.state = .opening then
            if d0.clock < x.openedAt + 2000000 then d = s.dev
            else if 8 ≤ x.opens then d = dropFlow d0 p peer 0x0601
            else d = sendCtl (updTx d0 p peer fun y => { y with openedAt := d0.clock, opens := y.opens + 1 }) p peer 0x10
              (x.inc + x.firstSeq * 2 ^ 32) []
          else match x.pkts.find? fun y => y.frame.fseq == fseq && y.sent with
            | none => d = s.dev
            | some y =>
              if d0.clock < y.sentAt + x.timeout then d = s.dev
              else if 8 ≤ y.tries then d = dropFlow d0 p peer 0x0601
              else d = (resend d0 x y).getD s.dev) ∧
      (Completes (.noRoute p peer now) s fun d =>
        d = if ((routePorts d0 p peer).all fun i =>
            !portUp d0 i && decide ((portAt d0 i).downAt + 10000000 ≤ d0.clock)) = true then
          failTo d0 p peer 0x0604 else s.dev))

/-- Messages of the fabric manager set identity, members, fences, shares, routes and shifts; others are
ignored and counted. For every state and control frame that is the next in order on an UP port: from a
source that is no manager, of an unlisted subtype, and with a value out of range, it only counts in
FAB_ERR_LAST. From the manager, ID_ASSIGN sets an unassigned partition's chip ID and job tag, and its
ports send what they owe; MEMBER_LOST counts, and, for an ID not yet fenced, fences it, ends what
depends on it and makes its entries LOST; FENCE_CLEAR takes an ID off the fence list and its LOST
entries are ACTIVE again; MEMBER_REPLACE puts the new ID and tray, ACTIVE, into each group entry of a
fenced ID; SHARE_SET sets ceilings and wrap rules; ROUTE_SET replaces every rule; BELL_SHIFT shifts the
armed Bell and counts lateness and clamps. (R273, R274, R276, R287, R288, R292, R293, R302) -/
def Obligations.FabricManager : Prop :=
  ∀ (s : State) (now port : Nat) (trailer : Word) (f : Frame) (d1 : Dev), Taken s now port trailer f d1 →
    let p := partOfPort d1 port
    let q := fabPart d1 p
    let ignored := rcount d1 .fabErrLast 0 0 63 48 1
    (∀ (a b c : Nat) (z : Int) (lst : List Nat) (ws rs : List (Nat × Nat × Nat)),
      ∀ r ∈ ([(.idAssign now port trailer f a b, 0x30), (.memberLost now port trailer f a, 0x31),
        (.memberReplace now port trailer f a b c, 0x32), (.fenceClear now port trailer f a, 0x33),
        (.shareSet now port trailer f lst ws, 0x34), (.routeSet now port trailer f rs, 0x35),
        (.bellShift now port trailer f a z, 0x36)] : List (Instr × Nat)), f.src < 0xFFF00 → isCtl r.2 f = true →
      Completes r.1 s fun d => d = ignored) ∧
    (f.type = 6 → (listedCtl.contains (f.area % 256)) = false →
      Completes (.controlIgnored now port trailer f) s fun d => d = ignored) ∧
    (0xFFF00 ≤ f.src →
      (isCtl 0x30 f = true → ∀ chip tag, Completes (.idAssign now port trailer f chip tag) s fun d =>
        d = if (isReady d1 p = false ∨ chipIdValid d1 p = false) ∧ chipBad chip = false then
          pump ((portsOf d1 p).foldl settleOwed (rset d1 .fabId 0 p (toW (chip + 2 ^ 20 + tag % 65536 * 2 ^ 32))))
          else ignored) ∧
      (isCtl 0x31 f = true → ∀ chip, let d2 := rcount d1 .fabFence 0 p 31 16 1
        let d3 := returnArrivals (markLost d2 p chip) p chip
        (fenced d1 p chip = true → Completes (.memberLost now port trailer f chip) s fun d => d = d2) ∧
        (fenced d1 p chip = false → Completes (.memberLost now port trailer f chip) s fun d =>
          ∃ d4, d = refuseShut (failStrict (failLost (editMembers d4 p chip fun w => setBits w 41 40 1) p chip) p) p ∧
            d4 = setFabPart d3 p (
              if q.fence.length < 4096 then { q with fence := q.fence ++ [chip] }
              else match q.fence.find? fun x => !inGroups d3 p x with
                | some old => { q with fence := q.fence.erase old ++ [chip] }
                | none => { q with overflow := true, beyond := q.beyond ++ [chip] }))) ∧
      (isCtl 0x33 f = true → ∀ chip, Completes (.fenceClear now port trailer f chip) s fun d =>
        d = editMembers (setFabPart d1 p
          { q with fence := q.fence.filter (· ≠ chip), beyond := q.beyond.filter (· ≠ chip) }) p chip fun w =>
            if bits w 41 40 = 1 then setBits w 41 40 0 else w) ∧
      (isCtl 0x32 f = true → ∀ old new tray, Completes (.memberReplace now port trailer f old new tray) s fun d =>
        let d2 := editMembers d1 p old fun w => setBits (setBits (setBits w 19 0 new) 39 20 tray) 41 40 0
        d = if fenced d1 p old = false then ignored
          else if chipIdValid d2 p = true ∧ chipId d2 p = new then editMembers d2 p new fun w => setBits w 41 40 0
          else d2) ∧
      (isCtl 0x34 f = true → ∀ ceilings wraps, Completes (.shareSet now port trailer f ceilings wraps) s fun d =>
        let ports := portsOf d1 p
        if ceilings.length = ports.length ∧ (∀ c ∈ ceilings, 1 ≤ c ∧ c ≤ 256) ∧ wraps.length ≤ 64 then
          ∃ d2, d = pump (setFabPart d2 p { q with
            wraps := wraps.map fun w => ⟨w.1, w.2.1, w.2.2, ⟨2 ^ 26, d1.clock⟩⟩ }) ∧
            d2 = { d1 with fab := { d1.fab with ports := d2.fab.ports } } ∧
            (∀ i, i < ports.length → let x := portAt d1 (ports.getD i 0)
              portAt d2 (ports.getD i 0) = { x with
                ceiling := ceilings.getD i 0, bucket := ⟨x.bucket.now (200 * x.ceiling) d1.clock, d1.clock⟩ }) ∧
            ∀ i, i ∉ ports → portAt d2 i = portAt d1 i
        else d = ignored) ∧
      (isCtl 0x35 f = true → ∀ rules, Completes (.routeSet now port trailer f rules) s fun d =>
        d = if rules.length ≤ 64 then pump (setFabPart d1 p { q with routes := rules }) else ignored) ∧
      (isCtl 0x36 f = true → ∀ step shift, Completes (.bellShift now port trailer f step shift) s fun d =>
        match q.bell with
        | none => d = d1
        | some b =>
          let r := b.apply (step % 2 ^ 32) shift d1.ns
          d = rcount (rcount (setFabPart d1 p { q with bell := some r.1 }) .fabBellStat 0 p 47 32 r.2.1.toNat)
            .fabBellStat 0 p 31 16 r.2.2))

/-- Ports come up, fault, go down and recalibrate as R269 to R272 say. For every state and port:
PORT_BRINGUP of a port that is DOWN or FAULT with its time come puts it into TRAINING, or leaves it DOWN
without light; PORT_UP within 50 ms with LINK_INIT exchanged brings it UP; without it PORT_FAULT faults
it; PORT_DOWN of a port UP or in CAL takes it DOWN, keeps the codeword counts and forgets frames in
transit; RETRAIN brings the engine's ports up again. A laser input below the minimum takes DOWN the
ports it serves, its return clears it. A window in its turn or a forced calibration puts an UP port into
CAL while no port of its engine is, and CAL_DONE brings it back UP. In every other state each of them
changes nothing. (R269, R270, R271, R272, R300) -/
def Obligations.FabricPorts : Prop :=
  ∀ (s : State) (port now : Nat), Live s →
    let d0 := advanceTo s.dev now
    let x := portAt d0 port
    let e := engineOf port
    let in_ (st : PortState) : Prop := port < 32 ∧ portIn s.dev port st = true
    -- `d` is `d2` with the port in a state, its link level empty.
    let fresh (d2 d : Dev) (i : Nat) (st : PortState) (y : Port) : Prop := portState d i = st.code ∧
      rget d .fabPortStatus 0 i = wsetBits (rget d2 .fabPortStatus 0 i) 2 0 st.code ∧
      portAt d i = { y with unacked := [], linkQ := [], ackDue := false, nakDue := false, owed := [], credit := [], init := false } ∧
      (∀ j, j ≠ i → portAt d j = portAt d2 j) ∧ d = { d2 with regs := d.regs, fab := { d2.fab with ports := d.fab.ports } } ∧
      ∀ key, key ≠ Reg.fabPortStatus.key 0 i → key ≠ Reg.fabEngineStatus.key 0 (engineOf i) → mget 0 d.regs key = mget 0 d2.regs key
    let down (d2 d : Dev) (i : Nat) (st : PortState) : Prop := fresh d2 d i st { portAt d2 i with
      downAt := if portUp d2 i then d2.clock else (portAt d2 i).downAt, startAt := d2.clock + 1000000000 }
    let comesUp (d2 d : Dev) (i : Nat) : Prop :=
      if portDark d2 i = true then down d2 d i .down
      else fresh d2 d i .training { portAt d2 i with
        lseq := 0, rxSeq := 0, trainAt := d2.clock, downAt := if portUp d2 i then d2.clock else (portAt d2 i).downAt }
    (Completes (.portBringup port now) s fun d =>
      if (in_ .down ∨ in_ .fault) ∧ x.startAt ≤ d0.clock then comesUp d0 d port else d = s.dev) ∧
    (Completes (.portUp port now) s fun d =>
      d = if in_ .training ∧ x.init = true ∧ d0.clock ≤ x.trainAt + 50000000 then
        pump (setPortState (setPort d0 port { x with calAt := d0.clock }) port .up) else s.dev) ∧
    (Completes (.portFault port now) s fun d =>
      if in_ .training ∧ x.trainAt + 50000000 ≤ d0.clock then down d0 d port .fault else d = s.dev) ∧
    (∀ corr uncorr, Completes (.portDown port corr uncorr now) s fun d =>
      if in_ .up ∨ in_ .cal then
        down (rcount (rcount d0 .fabPortStatus 0 port 63 32 corr) .fabPortStatus 0 port 15 8 uncorr) d port .down
      else d = s.dev) ∧
    (∀ (n : Nat) (v : Word), Completes (.retrain n v) s fun d =>
      if n < 8 ∧ wbit v 1 = true then
        rfield d .fabEngineCtl 0 n 0 0 = wbits v 0 0 ∧
        rfield d .fabEngineCtl 0 n 15 8 = (if 1 ≤ wbits v 15 8 ∧ wbits v 15 8 ≤ 100 then wbits v 15 8
          else rfield s.dev .fabEngineCtl 0 n 15 8) ∧
        d = { s.dev with regs := d.regs, fab := { s.dev.fab with ports := d.fab.ports } } ∧
        (∀ i, i < 4 → portState d (4 * n + i) = if portDark s.dev (4 * n + i) = true then 0 else 1) ∧
        (∀ i, (i < 4 * n ∨ 4 * n + 4 ≤ i) → portAt d i = portAt s.dev i) ∧
        ∀ key, key ≠ Reg.fabEngineCtl.key 0 n → key ≠ Reg.fabEngineStatus.key 0 n →
          (∀ i, i < 4 → key ≠ Reg.fabPortStatus.key 0 (4 * n + i)) → mget 0 d.regs key = mget 0 s.dev.regs key
      else d = s.dev) ∧
    (∀ n fibre level,
      let lit (d2 : Dev) : Dev :=
        rsetf (rsetf d2 .fabEngineStatus 0 n 15 8 level) .fabEngineStatus 0 n 1 1
          ((List.range 8).all fun i => !d2.fab.lowFibres.contains (8 * n + i)).toNat;
      (Completes (.laserInputLow n fibre level now) s fun d =>
        if n < 8 ∧ fibre < 8 ∧ sext 8 level < laserMin s.dev n then
          let d1 := lit { d0 with fab.lowFibres := if d0.fab.lowFibres.contains (8 * n + fibre) then d0.fab.lowFibres
            else d0.fab.lowFibres ++ [8 * n + fibre] }
          let served (i : Nat) : Prop := engineOf i = n ∧ 8 * n + fibre ∈ fibresOf i ∧
            (portIn s.dev i .up = true ∨ portIn s.dev i .cal = true ∨ portIn s.dev i .training = true)
          d = { d1 with regs := d.regs, fab := { d1.fab with ports := d.fab.ports } } ∧
          (∀ i, served i → portState d i = 0 ∧ (portAt d i).unacked = [] ∧ (portAt d i).init = false ∧
            (portAt d i).startAt = d1.clock + 1000000000) ∧
          (∀ i, ¬ served i → portAt d i = portAt d1 i) ∧
          ∀ key, (∀ i, served i → key ≠ Reg.fabPortStatus.key 0 i) → mget 0 d.regs key = mget 0 d1.regs key
        else d = s.dev) ∧
      (Completes (.laserInputRestored n fibre level now) s fun d =>
        d = if n < 8 ∧ fibre < 8 then
          lit { d0 with fab.lowFibres := d0.fab.lowFibres.filter (· ≠ 8 * n + fibre) } else s.dev)) ∧
    (
      let cal (d2 : Dev) : Dev :=
        setPortState (setPort d2 port { portAt d2 port with calAt := d2.clock, downAt := d2.clock }) port .cal;
      (Completes (.calWindow port now) s fun d =>
        d = if in_ .up ∧ calFree d0 port = true ∧ calWindow d0 port = true ∧ x.calAt + calPeriod d0 port ≤ d0.clock ∧
          inTurnAt d0 (calDueAt d0 port) .calibration = true then cal d0 else s.dev) ∧
      (Completes (.calForced port now) s fun d =>
        d = if in_ .up ∧ calFree d0 port = true ∧ x.calAt + 2 * calPeriod d0 port < d0.clock then
          cal (rcount d0 .fabEngineStatus 0 e 31 16 1) else s.dev)) ∧
    (Completes (.calDone port now) s fun d =>
      d = if in_ .cal ∧ x.calAt + 20000 ≤ d0.clock then pump (setPortState d0 port .up) else s.dev)

/-- Campus time is measured, slewed or stepped, set and held as R297 to R299 say; the Bell rings on its
semaphore. For every state: a PPS_IN edge with SRC = PPS_IN and nothing to set measures the distance to
the nearest second; a FAB_TIME_SET that waits sets it first. A measurement is shown in OFFSET, is slewed
out and leaves a frequency correction within 100 ppm that is free (log 3); in FREE_RUN and HOLDOVER it
leads to ACQUIRING; in ACQUIRING the sixteenth offset below 100 ns in a row leads to LOCKED, and one
above 1 ms steps campus time where it may run backwards; in LOCKED campus time is never stepped and an
offset above 1 ms is counted. A PTP message of another source, port or domain changes nothing above the
link level; a Sync within its intervals sends a Delay_Req, and a one-step one measures; a Follow_Up of
the last two-step Sync measures against its time; a Delay_Resp sets the path delay. FAB_TIME_SET sets
campus time in FREE_RUN, at the next PPS edge with SRC = PPS_IN before the first lock, backwards only
while no Bell is armed and the clock has never been LOCKED. Eight intervals without a measurement lead
from LOCKED to HOLDOVER. PPS_OUT is high for 10 ms from each second. A Bell that is due, in its turn,
signals its semaphore once and moves to the next step. A telemetry sample in its turn changes no state
but time. (R297, R298, R299, R300, R301) -/
def Obligations.CampusTime : Prop :=
  ∀ (s : State) (now : Nat),
    let d0 := advanceTo s.dev now
    let off : Int := (d0.ns : Int) - ((d0.ns + 500000000) / 1000000000 * 1000000000 : Nat)
    (Live s → Completes (.ppsInEdge now) s fun d =>
      if timeSrc s.dev ≠ 2 then d = s.dev
      else match d0.fab.setNext with
        | none => d = measure d0 off
        | some v =>
          let d1 := { d0 with fab.setNext := none }
          d = measure (if v < d0.ns ∧ mayStepBack d0 = false then d1 else stepTime d1 v) 0) ∧
    (∀ (d : Dev) (x : Int),
      let e := measure d x
      let big := decide (1000000 < x.natAbs)
      rfield e .fabTimeStatus 0 0 63 32 = offsetCode x ∧
      e = { d with regs := e.regs, fab := e.fab, ns := e.ns, frac := e.frac, free := d.free + 1 } ∧
      e.fab = { d.fab with
        measuredAt := d.clock, freq := e.fab.freq, slew := e.fab.slew, goodRun := e.fab.goodRun
        sync := e.fab.sync, delayReq := e.fab.delayReq } ∧
      (∀ key, key ≠ Reg.fabTimeStatus.key 0 0 → mget 0 e.regs key = mget 0 d.regs key) ∧
      -100000 ≤ e.fab.freq ∧ e.fab.freq ≤ 100000 ∧
      (let acquires := timeIn d .freeRun = true ∨ timeIn d .holdover = true ∨ timeIn d .acquiring = true
        let run := if x.natAbs < 100 then (if timeIn d .acquiring = true then d.fab.goodRun else 0) + 1 else 0
        (acquires → e.fab.goodRun = run ∧ (if 16 ≤ run then timeIn e .locked = true ∧ everLocked e = true
          else timeIn e .acquiring = true ∧ everLocked e = everLocked d) ∧
          (if big = true ∧ anyBell d = false ∧ everLocked d = false then
            e.ns = ((d.ns : Int) - x).toNat ∧ e.frac = 0 ∧ e.fab.slew = 0
          else e.ns = d.ns ∧ e.frac = d.frac ∧ e.fab.slew = -x * 65536)) ∧
        (timeIn d .locked = true → e.ns = d.ns ∧ e.frac = d.frac ∧ e.fab.slew = -x * 65536 ∧ timeIn e .locked = true ∧
          rfield e .fabTimeStatus 0 0 31 16 =
            if big then min 65535 (rfield d .fabTimeStatus 0 0 31 16 + 1)
            else rfield d .fabTimeStatus 0 0 31 16))) ∧
    (∀ (port : Nat) (trailer : Word) (f : Frame) (d1 : Dev), Taken s now port trailer f d1 → isCtl 0x20 f = true →
      let p := partOfPort d1 port
      ∀ (kind domain seq time : Nat) (corr interval : Int) (two : Bool),
        Completes (.ptp now port trailer f kind domain seq time corr two interval) s fun d =>
        let asks (x : Dev) : Dev := sendDelayReq x p f.src port seq
        if chipIdValid d1 p = false ∨ f.dst ≠ chipId d1 p ∨ timeSrc d1 ≠ 1 ∨ port ≠ rfield d1 .fabTimeCtl 0 0 20 16 ∨
          domain ≠ rfield d1 .fabTimeCtl 0 0 15 8 then d = d1
        else match kind with
          | 0 =>
            let d2 := { d1 with fab.interval := 1000000000 / 2 ^ interval.natAbs }
            if interval < -7 ∨ 0 < interval then d = d1
            else if two = true then d = asks { d2 with fab.sync := some (seq, d1.ns, corr) }
            else d = asks (measure { d2 with fab.sync := some (seq, d1.ns, time + corr) }
              ((d1.ns : Int) - (time + corr) - d1.fab.pathDelay))
          | 8 => match d1.fab.sync with
            | some (n, here, c) =>
              if n = seq then d = measure { d1 with fab.sync := some (seq, here, time + corr + c) }
                ((here : Int) - (time + corr + c) - d1.fab.pathDelay)
              else d = d1
            | none => d = d1
          | 9 => match d1.fab.sync, d1.fab.delayReq with
            | some (_, here, t1), some (n, t3) =>
              if n = seq then d = { d1 with
                fab.pathDelay := ((here : Int) - t1 + (time - corr - t3)) / 2
                fab.delayReq := none }
              else d = d1
            | _, _ => d = d1
          | _ => d = d1) ∧
    (Live s →
      (∀ v : Word, Completes (.fabTimeSet v) s fun d =>
        if v.toNat < s.dev.ns ∧ (anyBell s.dev = true ∨ everLocked s.dev = true) then d = s.dev
        else if timeSrc s.dev = 2 ∧ everLocked s.dev = false then d = { s.dev with fab.setNext := some v.toNat }
        else if timeIn s.dev .freeRun = true then d = stepTime s.dev v.toNat ∧ d.ns = v.toNat ∧ d.frac = 0
        else d = s.dev) ∧
      Completes .fabTimeNsRead s (fun d =>
        d = emit (rset s.dev .fabTimeFrac 0 0 (toW s.dev.frac)) (.mmio 0 (some (toW s.dev.ns)))) ∧
      Completes (.timeHoldover now) s (fun d =>
        d = if timeIn s.dev .locked = true ∧
          d0.fab.measuredAt + 8 * (if timeSrc s.dev = 2 then 1000000000 else s.dev.fab.interval) ≤ d0.clock then
            rsetf d0 .fabTimeStatus 0 0 1 0 3 else s.dev) ∧
      Completes (.ppsOutPulse now) s (fun d => d = { d0 with fab := { d0.fab with ppsOut := d.fab.ppsOut } } ∧
        (d.fab.ppsOut = true ↔ wbit (rget d0 .fabTimeCtl) 3 = true ∧
          (timeIn d0 .locked = true ∨ timeIn d0 .holdover = true) ∧ d0.ns % 1000000000 < 10000000)) ∧
      (∀ p, Completes (.departureBell p now) s fun d => match (fabPart d0 p).bell with
        | some b =>
          if b.time b.next ≤ d0.ns ∧ inTurnAt d0 (b.time b.next) .bell = true then
            d = semAdd (setFabPart d0 p { fabPart d0 p with
              bell := some { b with next := (b.next + 1) % 2 ^ 32 }, lastBell := some (b.time b.next).toNat }) b.sem 1 ∧
            semAt d b.sem = semAt s.dev b.sem + 1 ∧ (∀ n, n ≠ b.sem → semAt d n = semAt s.dev n)
          else d = s.dev
        | none => d = s.dev) ∧
      Completes (.telemetrySample now) s fun d => d = if inTurnAt d0 d0.ns .telemetry = true then d0 else s.dev)

/-- The companion reads lines, takes them shared or modified, writes them and gives them up. For every state
and request: while the link is ACTIVE a well-formed request joins the companion's requests, served in
order, and otherwise nothing happens. With no earlier request, one to a line that a snoop holds waits.
MRD answers each of its 1 to 64 lines in order and changes no line's state; MRD_S of a line that reads
gives it to the companion in S (in M, if it held it so), MRD_M in M, other lines' states staying, a full
filter first giving up its entry longest unused; MWR writes its whole lines as device writes,
acknowledged if asked. WB of a line held in M stores its 64 bytes and no others and gives the line up;
EVICT gives up a line held in S; the answer to a snoop stores the data of a line held in M, or waits for
the WB in flight, and ends the snoop. A request served gives its credit back. (R312, R313, R314, R319,
R320) -/
def Obligations.CompanionAccesses : Prop :=
  ∀ (s : State) (tag addr : Nat), Live s →
    let arrives (m : Msg) : Dev :=
      { s.dev with rnl.reqs := s.dev.rnl.reqs ++ [m], rnl.lastTraffic := s.dev.clock }
    let msg (type tag word : Nat) (ack : Bool) (data : List Byte) : Msg := ⟨type, ack, false, tag, 0, addr, word, data⟩
    let served (d : Dev) (m : Msg) : Dev := reqDone { d with rnl.reqs := [] } m
    let up := linkUp s.dev = true ∧ addr % 64 = 0
    let first := s.dev.rnl.reqs = []
    let blocked (n : Nat) : Prop := ∃ i, i < n ∧ snooped s.dev (addr + 64 * i) = true
    (∀ n, Completes (.mrd tag addr n) s fun d =>
      let m := msg 1 tag n false []
      if up ∧ 1 ≤ n ∧ n ≤ 64 then d = serveReqs (arrives m) ∧ (first →
        (blocked n → d = arrives m) ∧
        (¬ blocked n → d = served (serveMrd tag addr (List.range n) (arrives m)) m ∧ d.rnl.filter = s.dev.rnl.filter ∧
          d.hub = s.dev.hub ∧ d.tiles = s.dev.tiles))
      else d = s.dev) ∧
    (∀ own : Bool, Completes (if own = true then .mrdM tag addr else .mrdS tag addr) s fun d =>
      let m := msg (if own = true then 3 else 2) tag 0 false []
      let mod := own || (heldLine s.dev addr).2
      if up then d = serveReqs (arrives m) ∧ (first →
        (blocked 1 → d = arrives m) ∧
        (¬ blocked 1 → match (companionRead addr).go (arrives m) with
          | (.error (.wait _), _) => d = arrives m
          | (.error (.err st _), d1) => d = served (sendRsp d1 (if isLineStatus st = true
              then plainMsg 0x09 tag st addr 0 [] else plainMsg 0x08 tag st addr 0 [])) m
          | (.ok bs, d1) =>
            if hasEntry s.dev addr = false ∧ filterSize ≤ s.dev.rnl.filter.length then
              ∀ x, s.dev.rnl.filter.head? = some x → d = sendSnoop (arrives m) x.first true true
            else
              d = served (sendRsp (setLine (if own = true then qcFlush d1 addr else d1) addr (!mod) mod)
                (plainMsg 0x09 tag 0 addr 0 bs)) m ∧
              heldLine d addr = (!mod, mod) ∧ ∀ a, a / 64 ≠ addr / 64 → heldLine d a = heldLine s.dev a))
      else d = s.dev) ∧
    (∀ (ack : Bool) (data : List Byte), Completes (.mwr tag addr ack data) s fun d =>
      let m := msg 4 tag 0 ack data
      if up ∧ data.length % 64 = 0 ∧ 64 ≤ data.length ∧ data.length ≤ 4096 then d = serveReqs (arrives m) ∧ (first →
        (blocked (data.length / 64) → d = arrives m) ∧
        (¬ blocked (data.length / 64) → match (companionWrite addr (cut 64 data)).go (arrives m) with
          | (.error (.wait n), d1) => d = waitDev (arrives m) d1 n
          | (.error (.err st _), d1) => d = served (sendRsp d1 (plainMsg 0x08 tag st addr 0 [])) m
          | (.ok _, d1) => d = served (if ack then sendRsp d1 (plainMsg 0x0A tag 0 addr 0 []) else d1) m))
      else d = s.dev) ∧
    (∀ data : List Byte, Completes (.wb addr data) s fun d =>
      let m := msg 5 0 0 false data
      let home (x : Dev) : Dev := setLine (putLine x addr data .normal) addr false false
      if linkUp s.dev = true ∧ data.length = 64 then
        d = lineFree (if addr % 64 = 0 then serveReqs (arrives m) else s.dev) ∧ (first → addr % 64 = 0 →
          (snooped s.dev addr = false → d = lineFree (served
            (if (heldLine s.dev addr).2 = true then home (arrives m) else arrives m) m)) ∧
          (∀ x, s.dev.rnl.snoops = [x] → x.line = addr → (heldLine s.dev addr).2 = true →
            d = if x.wbPending then
              lineFree (reqDone (endSnoop (home { arrives m with rnl.reqs := [] }) { x with inv := true }) m)
              else lineFree (arrives m)))
      else d = s.dev) ∧
    (Completes (.evict addr) s fun d =>
      let m := msg 6 0 0 false []
      if linkUp s.dev = true then
        d = lineFree (if addr % 64 = 0 then serveReqs (arrives m) else s.dev) ∧ (first → addr % 64 = 0 →
          snooped s.dev addr = false → d = lineFree (served
            (if heldLine s.dev addr = (true, false) then setLine (arrives m) addr false false else arrives m) m))
      else d = s.dev) ∧
    (∀ (data : List Byte) (wb : Bool), Completes (.snpRsp addr data wb) s fun d =>
      let d1 := returnUnits s.dev .srsp (msgUnits (data.length / 64))
      let own := (heldLine s.dev addr).2
      if linkUp s.dev = true then match s.dev.rnl.snoops.find? fun x => x.line == addr with
        | none => d = d1
        | some x =>
          if (wb && own) = true then d = lineFree { d1 with rnl.snoops := d1.rnl.snoops.map fun y =>
            if y.line = addr then { y with wbPending := true } else y }
          else d = lineFree (endSnoop (if (own && data.length == 64) = true then putLine d1 addr data .normal else d1)
            (if wb then { x with inv := true } else x))
      else d = s.dev) ∧
    (∀ (d : Dev) (data : List Byte) (x : Snoop), data.length = 64 → addr % 64 = 0 →
      let e := putLine d addr data .normal
      let f := endSnoop d x
      bytesAt e.mem.bytes addr 64 = data ∧
      (∀ a, a < addr ∨ addr + 64 ≤ a → mget 0 e.mem.bytes a = mget 0 d.mem.bytes a) ∧
      f = { d with regs := f.regs, rnl := { d.rnl with snoops := d.rnl.snoops.filter fun y => y.line ≠ x.line, filter := f.rnl.filter } } ∧
      heldLine f x.line = (!x.inv, false) ∧ (∀ a, a / 64 ≠ x.line / 64 → heldLine f a = heldLine d a) ∧
      ∀ key, key ≠ Reg.rnlSfStatus.key 0 0 → mget 0 f.regs key = mget 0 d.regs key)

/-- Completions end the device's requests to the window; credits come back; unknown messages count. For
every state with the link ACTIVE: CPL_DATA and CPL end the request with their TAG, a read with its line
or, on an error, with RANOLINK_ABORT, a write with its status for whoever waits for it; a TAG that is
not outstanding ends none. WR_DONE ends the write with its TAG and every earlier one, in order. CREDIT
adds its units to each class, and what waits for them goes on. A message of a type that the companion
may not send only counts in RNL_ERR_CNT. Otherwise nothing changes. (R311, R312, R313, R315) -/
def Obligations.WindowCompletions : Prop :=
  ∀ (s : State), Live s →
    let up := linkUp s.dev = true
    (∀ tag st : Nat, Completes (.cpl tag st) s fun d =>
      d = if up then afterReq (endReq (returnUnits s.dev .rsp (msgUnits 0)) tag (if st = 0 then 0 else 0x0661)
        (List.replicate 64 0)) else s.dev) ∧
    (∀ (tag st : Nat) (data : List Byte), Completes (.cplData tag st data) s fun d =>
      let d1 := returnUnits s.dev .rsp (msgUnits (data.length / 64))
      d = if ¬ up then s.dev
        else if st ≠ 0 then afterReq (endReq d1 tag 0x0661 [])
        else if data.length = 64 then afterReq (endReq d1 tag 0 data)
        else d1) ∧
    (∀ (d : Dev) (tag st : Nat) (bs : List Byte),
      let e := endReq d tag st bs
      match d.rnl.devReqs.find? fun x => x.tag % 65536 == tag % 65536 with
      | none => e = d
      | some x => e.rnl.devReqs = (d.rnl.devReqs.filter fun y => y.tag ≠ x.tag) ∧
        (x.read = true → e = { d with tiles := e.tiles, rnl := { d.rnl with
          devReqs := d.rnl.devReqs.filter fun y => y.tag ≠ x.tag
          arrived := if x.line % 64 = 0 then d.rnl.arrived ++ [(x.line, st, bs)] else d.rnl.arrived } }) ∧
        (x.read = false → ∀ c, x.tag ∉ (ctxAt e c).writesOut)) ∧
    (∀ tag : Nat, Completes (.wrDone tag) s fun d =>
      let ws := (s.dev.rnl.devReqs.filter fun x => !x.read).map fun x => x.tag % 65536
      let d1 := returnUnits s.dev .rsp (msgUnits 0)
      d = if ¬ up then s.dev
        else if tag ∈ ws then afterReq ((ws.take (ws.idxOf tag + 1)).foldl (fun d t => endReq d t 0 []) d1)
        else d1) ∧
    (∀ req rsp snp srsp evt : Nat, Completes (.credit req rsp snp srsp evt) s fun d =>
      if up then ∃ c, d = serveReqs (flushRnl { s.dev with rnl.credit := c }) ∧
        mget 0 c MsgClass.req.code = rnlCredit s.dev .req + req ∧
        mget 0 c MsgClass.rsp.code = rnlCredit s.dev .rsp + rsp ∧
        mget 0 c MsgClass.snp.code = rnlCredit s.dev .snp + snp ∧
        mget 0 c MsgClass.srsp.code = rnlCredit s.dev .srsp + srsp ∧
        mget 0 c MsgClass.evt.code = rnlCredit s.dev .evt + evt
      else d = s.dev) ∧
    (∀ type : Nat, Completes (.messageDropped type) s fun d =>
      d = if up ∧ type ∉ [0x01, 0x02, 0x03, 0x04, 0x05, 0x06, 0x08, 0x09, 0x0A, 0x12, 0x1C, 0x1D] then
        rcount s.dev .rnlErrCnt 0 0 63 48 1 else s.dev)

/-- Ranolink trains, recovers, sleeps and goes DOWN as R307, R309, R322 and R324 say; going DOWN loses what
the companion held. For every state: training starts at once after power-up or a reset, else 100 ms
after DOWN; completed within 200 ms the link is ACTIVE with the credits advertised, and tells of the
lines lost, otherwise it is DOWN with cause 1. A flit that fails is counted and a NAK of it sent, or it
is sent again; after four failed resends the link is in RECOVERY, from which it resumes or, after 100
ms, goes DOWN with cause 2; a snoop unanswered for 1 ms takes it DOWN with cause 3, the loss of the
partner with cause 4; RETRAIN takes it DOWN and into training. L1 is entered after the idle time, if
enabled, and left on demand. Going DOWN empties the snoop filter and the requests of both sides, and
each line held in M is due as lost. In every other state each of them changes nothing. (R307, R309,
R321, R322, R324) -/
def Obligations.LinkStates : Prop :=
  ∀ (s : State) (now : Nat), Live s →
    let d0 := advanceTo s.dev now
    let st := linkState s.dev
    let inTraining := 1 ≤ st ∧ st ≤ 3
    (Completes (.linkTrainingStart now) s fun d =>
      d = if st = 0 ∧ (s.dev.rnl.startDue = true ∨ s.dev.rnl.downAt + 100000000 ≤ d0.clock) then
        setLink { d0 with rnl.trainAt := d0.clock, rnl.startDue := false } 1 else s.dev) ∧
    (∀ (w req rsp snp srsp evt : Nat) (rev : Bool), Completes (.linkActive w rev req rsp snp srsp evt now) s fun d =>
      if inTraining ∧ 1 ≤ w ∧ w ≤ 3 ∧ d0.clock < s.dev.rnl.trainAt + 200000000 then
        ∃ d1, d1 = rsetf (rsetf { d0 with
          rnl.credit := d1.rnl.credit
          rnl.lastTraffic := d0.clock } .rnlLinkStatus 0 0 3 0 4) .rnlLinkStatus 0 0 6 4 (w + 4 * rev.toNat) ∧
        rnlCredit d1 .req = req ∧ rnlCredit d1 .rsp = rsp ∧ rnlCredit d1 .snp = snp ∧ rnlCredit d1 .srsp = srsp ∧
        rnlCredit d1 .evt = evt ∧
        d = bootLink s.fuses.uid (flushRnl (restoredEvents (advertise d1))) ∧ linkState d = 4 ∧
        (s.dev.rnl.wasUp = true → d.rnl.lostLines = [])
      else d = s.dev) ∧
    (Completes (.linkTrainingTimeout now) s fun d =>
      d = if inTraining ∧ s.dev.rnl.trainAt + 200000000 ≤ d0.clock then linkDown d0 1 else s.dev) ∧
    (∀ (rx : Bool) (seq resent : Nat), Completes (.flitNak rx seq resent) s fun d =>
      let key := 2 * (seq % 1024) + rx.toNat
      let n := ((s.dev.rnl.naks.find? fun e => e.1 == key).map (·.2)).getD 0
      let d1 := { s.dev with rnl.naks := (s.dev.rnl.naks.filter fun e => e.1 % 2 ≠ rx.toNat) ++ [(key, n + 1)] }
      if st ≠ 4 then d = s.dev
      else if rx = true then ∃ v : Word, d = emit { rcount d1 .rnlErrCnt 0 0 31 16 1 with free := d1.free + 1 }
        (.flit (flitBytes 2 v.toNat (some (seq + 1023)) []))
      else d = rcount d1 .rnlErrCnt 0 0 47 32 resent) ∧
    (Completes (.linkRecovery now) s fun d =>
      d = if st = 4 ∧ (s.dev.rnl.naks.any fun e => decide (5 ≤ e.2)) = true then
        setLink (rcount { d0 with rnl.recoverAt := d0.clock } .rnlLinkStatus 0 0 31 16 1) 5 else s.dev) ∧
    (Completes (.recoveryDone now) s fun d =>
      d = if st = 5 then lineFree (flushRnl { setLink d0 4 with rnl.naks := [] }) else s.dev) ∧
    (Completes (.recoveryTimeout now) s fun d =>
      d = if st = 5 ∧ s.dev.rnl.recoverAt + 100000000 ≤ d0.clock then linkDown d0 2 else s.dev) ∧
    (∀ line, Completes (.snoopTimeout line now) s fun d =>
      d = if (s.dev.rnl.snoops.any fun x => x.line == line && !x.wbPending && decide (x.since + 1000000 ≤ d0.clock)) = true
        then linkDown (rcount d0 .rnlSfStatus 0 0 63 52 1) 3 else s.dev) ∧
    (Completes (.linkDown now) s fun d => d = if 4 ≤ st ∧ st ≤ 6 then linkDown d0 4 else s.dev) ∧
    (∀ v : Word, Completes (.linkRetrain v) s fun d =>
      if wbit v 0 = true then ∃ d1,
        d1 = (if wbits v 31 16 = 0 then rsetf s.dev .rnlLinkCtl 0 0 1 1 (wbits v 1 1)
          else rsetf (rsetf s.dev .rnlLinkCtl 0 0 1 1 (wbits v 1 1)) .rnlLinkCtl 0 0 31 16 (wbits v 31 16)) ∧
        d = setLink { linkDown d1 0 with rnl.trainAt := (linkDown d1 0).clock } 1
      else d = s.dev) ∧
    (Completes (.l1Entry now) s fun d =>
      d = if st = 4 ∧ wbit (rget s.dev .rnlLinkCtl) 1 = true ∧ s.dev.rnl.lastTraffic + l1Idle s.dev ≤ d0.clock then
        setLink d0 6 else s.dev) ∧
    (Completes (.l1Exit now) s fun d =>
      d = if st = 6 then lineFree (flushRnl { setLink d0 4 with rnl.lastTraffic := d0.clock }) else s.dev) ∧
    (∀ (d : Dev) (cause : Nat), cause < 256 → (∀ x ∈ d.fab.rx, x.waiting = []) → d.fab.edits = [] →
      let e := linkDown d cause
      linkState e = 0 ∧ rfield e .rnlLinkStatus 0 0 15 8 = cause ∧ e.rnl.filter = [] ∧ e.rnl.snoops = [] ∧
      e.rnl.devReqs = [] ∧ e.rnl.reqs = [] ∧ e.rnl.reqQ = [] ∧ e.rnl.rspQ = [] ∧ e.rnl.mgtQ = [] ∧ e.rnl.credit = [] ∧
      e.rnl.lostLines = d.rnl.lostLines ++ linesM d ∧ e.rnl.downAt = d.clock ∧ e.mem.bytes = d.mem.bytes ∧
      ∀ a ∈ linesM d, qcHolds e a = false)

/-- A timer that expires, a hung engine, its dump, its reset and the settling of its suspects follow R360 to
R373. For every state: an expired timer of a semaphore wait or a BARRIER ends it with WAIT_TIMEOUT, that
of a LAUNCH faults its context or hangs the engine that holds its oldest unfinished instruction, that of
any other command hangs its engine, which stops and whose dump is asked for; before its limit, or for a
suspect, nothing happens. HANG_PATH dumps a hung engine, unless its dump is written, resets it once it
is still, and settles its suspects; the third entry within 1 s escalates to a reset instead. With no
suspect left the recovery ends and is counted, and a suspect that is no LAUNCH and without REPLAYABLE
ends with SUSPECT_NOT_REPLAYABLE, its partition suspended and its running queues stopped. ENGINE_RESET
empties what its engine holds. A probed suspect that finishes clears, one still running at PROBE clears
or, hung, is the culprit; one still running before PROBE changes nothing. CONTEXT_RESET of a faulted
context with nothing in flight resets it and ends its LAUNCH with the fault's status. RELEASE ends
SUSPENDED. A reset that is overdue escalates to the next level. (R51, R77, R166, R348, R360, R370, R371,
R372, R373, R377) -/
def Obligations.HangsAreRecovered : Prop :=
  ∀ (s : State) (now : Nat), Live s →
    let d0 := advanceTo s.dev now
    (∀ q k held : Nat, Completes (.commandTimeout q k held now) s fun d =>
      match cmdAt s.dev q k with
      | none => d = s.dev
      | some y =>
        let hang (e t : Nat) : Dev := enterHang d0 e t 1 (some (q, k))
        if y.st ≠ .started ∨ isSuspect s.dev q k = true ∨ d0.clock < y.startClock + timeLimit s.dev q y then d = s.dev
        else if isGate y = true then FinishesFree (dropWaits (withdraw d0 (.cmd q k)) (.cmd q k)) d q k 0x0502
        else if y.opcode ≠ 0x0201 then d = hang y.engine 0
        else match y.aux with
          | [c] =>
            let x := ctxAt s.dev c
            let faults : Prop := ctxAt d c = { x with
                state := .faulted, wait := .none, fStatus := 0x0501, fAddr := 0, ops := [], pend := none
                faultAt := d0.clock, fEngine := (if x.remoteOut = [] then Eng.sync else Eng.fabric).code } ∧
              d = { setCtx d0 c (ctxAt d c) with regs := d.regs } ∧
              ∀ key, key ≠ Reg.tileNumFlags.key (tileOf c) 0 → mget 0 d.regs key = mget 0 s.dev.regs key
            if x.state = .faulted then d = d0
            else if mmaBusy s.dev c = true then d = hang (0x200 + tileOf c) 2
            else match x.ops with
              | o :: _ => if o.eng = 8 then faults else d = hang (0x200 + tileOf c) o.eng
              | [] =>
                if x.state = .checking ∨ x.state = .ready ∨ x.wait = .sem ∨ x.wait = .barrier ∨
                  x.wait.tries true = true ∨ (x.state = .draining ∧ x.remoteOut ≠ []) then faults
                else d = hang (0x200 + tileOf c) (x.wait.engine.getD held)
          | _ => FinishesFree d0 d q k 0x0501) ∧
    (∀ (d : Dev) (e t cause : Nat) (trigger : Option (Nat × Nat)),
      let f := enterHang d e t cause trigger
      ((recoveryOf d e t).isSome = true → f = d) ∧ (recoveryOf d e t = none →
        f = { d with recov := { d.recov with
          engines := f.recov.engines, entries := f.recov.entries, dumps := f.recov.dumps } } ∧
        ∃ r, f.recov.engines = d.recov.engines ++ [r] ∧ recoveryOf f e t = some r ∧ r.stage = .dumping ∧
          r.head.cause = cause ∧ r.suspects = suspectsOf d e t trigger ∧ r.probing = none ∧
          f.recov.dumps = d.recov.dumps ++ [⟨.engine e t, r.head, []⟩])) ∧
    (∀ e t : Nat, Completes (.hangPath e t now) s fun d =>
      match recoveryOf s.dev e t with
      | none => d = s.dev
      | some r => match r.stage with
        | .settling => d = if r.probing.isSome = true then s.dev else settle d0 r
        | .dumped => d = if r.head.outcome = 4 then s.dev else afterEngineDump d0 r
        | .dumping => match s.dev.recov.dumps with
          | [] => d = s.dev
          | x :: rest =>
            if x.owner = .engine e t then
              let w := writeDump { d0 with recov.dumps := rest } x
              let d2 := afterDump w.1 x w.2
              d = ((recoveryOf d2 e t).map (afterEngineDump d2)).getD d2
            else d = s.dev) ∧
    (∀ (d : Dev) (r : Recovery), recoveryOf d r.engine r.tileEng = some r →
      let past := (mget [] d.recov.entries (r.engine * 16 + r.tileEng)).filter fun u => d.clock < u + 1000000000
      let f := afterEngineDump d r
      (3 ≤ past.length → (recoveryOf f r.engine r.tileEng).map (·.head.outcome) = some 4 ∧ f.hub = d.hub ∧
        f.tiles = d.tiles ∧
        resetAsked f (if r.engine / 256 = 1 ∨ r.engine / 256 = 2 ∨ r.engine / 256 = 5 then r.part else 4) = true) ∧
      (past.length < 3 → f = if engineStill d r.engine r.tileEng = true then
        settleEngine (engineReset d r.engine r.tileEng) r else d)) ∧
    (∀ (d : Dev) (r : Recovery), recoveryOf d r.engine r.tileEng = some r → r.again = [] →
      let f := settle d r
      (r.suspects = [] → recoveryOf f r.engine r.tileEng = none ∧ f.tiles = d.tiles ∧ f.hub = d.hub ∧
        rfield f .dbgRecCnt 0 0 31 16 = min 65535 (rfield d .dbgRecCnt 0 0 31 16 + 1)) ∧
      (∀ q k y, r.suspects = [(q, k)] → cmdAt d q k = some y → y.st = .started → y.replayable = false →
        y.opcode ∈ [0x0110, 0x0111, 0x0501, 0x0601, 0x0603, 0x0A04] → wbit (rget d .dbgRecoveryCtl) 16 = false →
        recoveryOf f r.engine r.tileEng = none ∧ (∃ v, EndsWith f q k 0x0907 v) ∧
          partOfQueue f q ∈ f.recov.suspended ∧
          ∀ n, partOfQueue d n = partOfQueue d q → (queueAt f n).state ≠ .run)) ∧
    (∀ e t : Nat, Completes (.engineReset e t) s fun d =>
      d = match recoveryOf s.dev e t with
        | some r => if r.stage = .dumped ∧ r.head.outcome ≠ 4 ∧ engineStill s.dev e t = true then engineReset s.dev e t
          else s.dev
        | none => s.dev) ∧
    (∀ (d : Dev) (tile : Nat), tile < 64 →
      let m := engineReset d (0x200 + tile) 2
      let v := engineReset d (0x200 + tile) 3
      let w := engineReset d (0x200 + tile) 6
      (m = { d with tiles := m.tiles } ∧ m.tiles.ctxs = d.tiles.ctxs ∧ mmaQueue m tile = [] ∧
        (∀ a, a < 8 → accInfo m tile a = AccInfo.reset) ∧
        ∀ u a, u ≠ tile → a < 8 → accInfo m u a = accInfo d u a) ∧
      (∀ c, ctxAt v c = if tileOf c = tile then { ctxAt d c with vregs := [] } else ctxAt d c) ∧
      (∀ c n, tileOf c = tile → c < 512 → (ctxAt d c).state ≠ .idle → n ∈ (ctxAt d c).itins →
        (slotAt w tile n).state = .ended ∧ (slotAt w tile n).flight = []) ∧
      ∀ e t, e / 256 ≠ 2 → engineReset d e t = d) ∧
    (∀ (e t : Nat) (hung : Bool), Completes (.suspectProbeExpiry e t hung now) s fun d =>
      d = match recoveryOf s.dev e t with
        | none => s.dev
        | some r => match r.probing with
          | none => s.dev
          | some (q, k) =>
            let r' : Recovery := { r with probing := none }
            if ((cmdAt s.dev q k).map (·.st)) ≠ some .started then settle d0 r'
            else if d0.clock < r.probeAt + 1000 * rfield s.dev .dbgRecoveryCtl 0 0 15 0 then s.dev
            else if hung = false then settle d0 { r' with cleared := r.cleared ++ [(q, k)] }
            else if engineStill s.dev e t = true then
              let bad := { r' with head := { r.head with culprits := r.head.culprits + 1 }, again := r.cleared }
              settle (faultCulprit (putRecovery d0 bad) bad q k) bad
            else s.dev) ∧
    (∀ c, Completes (.contextReset c) s fun d =>
      let x := ctxAt s.dev c
      let e := contextReset s.dev c
      if c < 512 ∧ x.state = .faulted ∧ ctxStill s.dev c = true then
        d = endLaunch e x x.fStatus ∧ ctxAt e c = Ctx.reset ∧ e.mem = s.dev.mem ∧ e.hub.sems = s.dev.hub.sems ∧
        (∀ u, u / 8 ≠ c / 8 → ctxAt e u = ctxAt s.dev u) ∧
        rfield e .dbgRecCnt 0 0 15 0 = min 65535 (rfield s.dev .dbgRecCnt 0 0 15 0 + 1) ∧
        ∀ y, cmdAt s.dev x.queue x.seq = some y → y.st = .started → ∃ v, EndsWith d x.queue x.seq x.fStatus v
      else d = s.dev) ∧
    (∀ p, Completes (.suspendRelease p) s fun d =>
      d = { s.dev with recov := { s.dev.recov with suspended := s.dev.recov.suspended.filter (· ≠ p) } }) ∧
    (∀ level a b, Completes (.escalation level a b now) s fun d =>
      d = match level with
        | 0 =>
          let x := ctxAt s.dev a
          if a < 512 ∧ x.state = .faulted ∧ ctxStill s.dev a = false ∧ x.faultAt + 100000 ≤ d0.clock then
            enterHang d0 (0x200 + tileOf a) 6 5 (some (x.queue, x.seq))
          else s.dev
        | 1 => match recoveryOf s.dev a b with
          | some r => if r.stage = .dumped ∧ r.head.outcome ≠ 4 ∧ r.since + 100000 ≤ d0.clock then escalateEngine d0 r
            else s.dev
          | none => s.dev
        | 2 => if a < 4 ∧ overdue d0 a = true ∧ wipeFailed d0 a = false then askReset (dropReset d0 a) 4 5 else s.dev
        | 3 => if overdue d0 4 = true ∧ d0.np.cycleAsked = false ∧
            (rfield d0 .secBootStatus 0 0 2 0 = 0 ∨ ∃ r ∈ d0.recov.resets, r.stage = .replying) ∧
            ((List.range 384).all fun c => d0.mem.chanTrained.contains c || d0.mem.chanFailed.contains c) = true then npDecide d0 10 noSensor 0 0 1
          else s.dev
        | _ => s.dev)

/-- Dumps are asked for, taken in turn and written to their slots alone, and what waits for them goes on.
For every state: DUMP asks for a dump of its scope and goes on; a read that goes unanswered is noted for
the dump being taken; CRASH_DUMP writes the oldest dump, its number counts on modulo 65,536 and shows in
DBG_LAST_DUMP, no byte outside its slots changes, and no semaphore and no tile state; a DUMP command
that waited for it finishes with its number, an engine goes on to its reset, and a reset that waited for
it begins its hold. With no dump asked for, nothing happens. (R363, R364, R365, R367, R368, R369) -/
def Obligations.DumpsAreTaken : Prop :=
  ∀ (s : State) (now : Nat), Live s →
    (∀ (q k : Nat) (y : Cmd), CmdRuns s q k 0x0801 y → Completes (.dump q k) s fun d =>
      if y.step ≠ 0 then d = s.dev
      else ∃ h : DumpHead, h.scope = bits (y.param 0) 1 0 ∧ h.outcome = 1 ∧ h.queue = q ∧ h.seq = k ∧
        h.quarters = (if h.scope = 0 then engineQuarters (bits (y.param 1) 15 0)
          else quartersOf s.dev (partOfQueue s.dev q)) ∧
        Becomes { s.dev with recov := { s.dev.recov with
          dumps := s.dev.recov.dumps ++ [⟨.command q k, h, []⟩] } } d q k { y with step := 1 }) ∧
    (∀ unit index, Completes (.scanReadTimeout unit index) s fun d =>
      d = match s.dev.recov.dumps with
        | [] => s.dev
        | r :: rest => { s.dev with recov := { s.dev.recov with
          dumps := { r with silent := r.silent ++ [(unit, index)] } :: rest } }) ∧
    Completes (.crashDump now) s (fun d => match s.dev.recov.dumps with
      | [] => d = s.dev
      | r :: rest =>
        let w := writeDump { advanceTo s.dev now with recov.dumps := rest } r
        let id := s.dev.recov.nextDump
        d = afterDump w.1 r w.2 ∧ w.2.id = id ∧ d.recov.dumps = rest ∧ d.recov.nextDump = (id + 1) % 65536 ∧
        rfield d .dbgLastDump 0 0 15 0 = id % 65536 ∧ d.hub.sems = s.dev.hub.sems ∧ d.tiles = s.dev.tiles ∧
        (∀ a, (∀ n ∈ r.head.quarters, ∀ o, o < slotBytes → o % 64 = 0 →
            a < dumpAddr n (id % 4 * slotBytes + o) ∨ dumpAddr n (id % 4 * slotBytes + o) + 64 ≤ a) →
          mget 0 d.mem.bytes a = mget 0 s.dev.mem.bytes a) ∧
        match r.owner with
        | .command q k => ∀ y, cmdAt s.dev q k = some y → y.st = .started → EndsWith d q k 0 (toW id)
        | .engine e t => d.hub = s.dev.hub ∧ d.recov.resets = s.dev.recov.resets ∧
          ∀ x, recoveryOf d e t = some x → x.stage = .dumped
        | .domain dom => d.hub = s.dev.hub ∧ d.recov.engines = s.dev.recov.engines ∧
          ∀ x ∈ d.recov.resets, x.dom = dom → x.stage = .holding ∧ x.since = max s.dev.clock now)

/-- Resets are requested with their key, hold, begin and clear their domain, and nothing outside it. For
every state: DBG_RESET_REQ with another KEY, or for a domain already to be reset or not in the layout,
only counts; with KEY and LEVEL it starts that reset, its dump first. The hold ends with HOLD_MS or with
the domain's bit of DBG_DUMP_ACK, and its reset is due. PARTITION_RESET that is due begins, READY
falling and its started commands interrupted; with no reply left to write it clears the partition: its
contexts, queues and semaphores are at their reset values, its memory reads 0, READY is 0 and its wipe
runs, and no context, queue, semaphore or byte of another partition changes. CHIP_RESET begins every
partition's; with no reply left it clears all of them, keeps the fuses, the drive and the Night Porter's
state, and starts the boot at ROM_INIT with campus time in HOLDOVER, where the Night Porter runs. A
power cycle is carried out only when it was asked for. Otherwise nothing changes. (R23, R24, R354, R368,
R376, R377, R378, R379, R423, R424) -/
def Obligations.ResetsRun : Prop :=
  ∀ (s : State) (now : Nat),
    let d0 := advanceTo s.dev now
    (Live s → (∀ (v : Word) (level : Nat) (i : Word → Instr),
      (level, i) ∈ ([(1, .resetReqPartition), (2, .resetReqChip), (3, .resetReqPowerCycle)] :
        List (Nat × (Word → Instr))) →
      let dom := if level = 1 then wbits v 3 2 else level + 2
      Completes (i v) s fun d =>
        if wbits v 1 0 ≠ level then d = s.dev
        else if wbits v 31 16 ≠ 0xA5C3 ∨ resetAsked s.dev dom = true ∨ (level = 1 ∧ partCount s.dev ≤ dom) then
          d = rcount s.dev .dbgHbStatus 0 0 47 32 1
        else ∃ r, d = { s.dev with recov := { s.dev.recov with
            resets := s.dev.recov.resets ++ [r], dumps := s.dev.recov.dumps ++ [⟨.domain dom, r.head, []⟩] } } ∧
          r.dom = dom ∧ r.cause = 4 ∧ r.stage = .dumping ∧ r.since = s.dev.clock) ∧
      (∀ dom, Completes (.holdEnd dom now) s fun d =>
        d = if ∃ r ∈ s.dev.recov.resets, r.dom = dom ∧ r.stage = .holding ∧
            r.since + 1000000 * rfield s.dev .dbgDumpCtl 0 0 9 0 ≤ d0.clock then endHold d0 dom else s.dev) ∧
      (∀ v : Word, Completes (.dumpAck v) s fun d =>
        let one (d : Dev) (p : Nat) : Dev := if wbit v p = true then endHold d p else d
        d = let d1 := one (one (one (one s.dev 0) 1) 2) 3; if wbit v 4 = true then endHold (endHold d1 4) 5 else d1) ∧
      (∀ (d : Dev) (dom : Nat),
        let e := endHold d dom
        e.recov.resets = (d.recov.resets.map fun r => if r.dom = dom ∧ r.stage = .holding then { r with stage := .due } else r) ∧
        (dom ≠ 5 → e = { d with recov := { d.recov with resets := e.recov.resets } }) ∧
        (dom = 5 → (∃ r ∈ d.recov.resets, r.dom = 5 ∧ r.stage = .holding) → e.np.cycleAsked = true ∧ e.np.lastIbi = 1))) ∧
    (Live s → ∀ p : Nat, Completes (.partitionReset p now) s fun d =>
      match resetOf s.dev p with
      | none => d = s.dev
      | some r =>
        if 4 ≤ p ∨ (r.stage ≠ .due ∧ r.stage ≠ .replying) then d = s.dev
        else
          let d1 := postReplies (if r.stage = .due then startReset (beginPart (resetNotice d0 p) p 2) p else d0) p
          let qs := quartersOf d1 p
          if repliesLeft d1 p = true then d = d1
          else ∃ e, d = serveReqs e ∧ e = setStage (rcount (clearPart d1 p) .dbgRecCnt 0 0 47 32 1) p .running ∧
            (∀ c, ctxAt e c = if qs.contains (c / 128) = true then Ctx.reset else ctxAt d1 c) ∧
            (∀ q, queueAt e q = if qs.contains (q / 65536) = true then Queue.reset else queueAt d1 q) ∧
            (∀ n, semAt e n = if qs.contains (n / 32768) = true then 0 else semAt d1 n) ∧
            (∀ a, mget 0 e.mem.bytes a = if qs.contains (a / quarterBytes) = true then 0 else mget 0 d1.mem.bytes a) ∧
            (∀ m, m < 24 → qs.contains (m / 6) = true →
              rfield e .mcStatus m 0 17 16 = if (∃ c ∈ d1.mem.chanFailed, c / 96 = m / 6) then 3 else 1) ∧
            e.ledger.frames.all (fun e => !qs.contains (e.1 / 131072)) = true ∧ e.np = d1.np ∧ e.snp.drive = d1.snp.drive) ∧
    (∀ (d : Dev) (p cause : Nat), p < 4 →
      let e := beginPart d p cause
      isReady e p = false ∧ inReset e p = true ∧ e.mem = d.mem ∧ e.tiles = d.tiles ∧ e.hub.sems = d.hub.sems ∧
      ∀ q, partOfQueue d q ≠ p → queueAt e q = queueAt d q) ∧
    (Live s → Completes (.chipReset now) s fun d =>
      match resetOf s.dev 4 with
      | none => d = s.dev
      | some r =>
        if r.stage ≠ .due ∧ r.stage ≠ .replying then d = s.dev
        else
          let ps := List.range (partCount s.dev)
          let d1 := ps.foldl postReplies
            (if r.stage = .due then startReset (ps.foldl (fun d p => beginPart d p 3) d0) 4 else d0)
          if ps.any (repliesLeft d1) = true then d = d1
          else ∃ r', resetOf d1 4 = some r' ∧ d = chipReset d1 r' ∧
            d.hub = Hub.reset ∧ d.tiles = Tiles.reset ∧ d.mem = Mem.reset ∧ d.ledger = Dev.reset.ledger ∧
            bootStage d = 0 ∧ (if s.dev.np.on = true then timeIn d .holdover = true else timeIn d .freeRun = true ∧ d.ns = 0) ∧
            d.pins = s.dev.pins ∧ rget d .npWakeTime = rget s.dev .npWakeTime ∧
            resetOf d 4 = some { r' with stage := .running } ∧ rget d .chipPartStatus = partStatusAt r'.cfg) ∧
    (Completes .powerCycle s fun d =>
      if s.dev.np.cycleAsked = true ∧ s.dev.tripped = false then
        d = powerUp { s.dev with np.timeHeld := s.dev.np.on } ∧
        d.hub = Hub.reset ∧ d.tiles = Tiles.reset ∧ d.mem = Mem.reset ∧ bootStage d = 0 ∧ d.np.cycleAsked = false
      else d = s.dev)

/-- Heartbeats, failed transfers, training and the wipe. For every state: in RUNNING a beat marks its agent
alive and counts; an agent alive without a beat for 3 ms is counted as lost and its engine stops, or,
for an Innkeeper core with no other alive or lost again within 1 s, the chip is to be reset; the Night
Porter counts its own beat. A transfer that fails parity counts where it failed, and at its eighth
failed resend the chip is to be reset. A channel that trains is in service; one that fails takes its
quarter's wipe to FAILED. The end of a partition's wipe marks the channels of its sound quarters done,
and with firmware running READY rises. Otherwise nothing changes. (R42, R188, R189, R190, R356, R357,
R361, R362) -/
def Obligations.AgentsAndChannels : Prop :=
  ∀ (s : State) (now : Nat),
    let d0 := advanceTo s.dev now
    (Live s → (∀ agent, Completes (.firmwareHeartbeat agent now) s fun d =>
      if agent < 6 ∧ rfield s.dev .secBootStatus 0 0 2 0 = 6 then
        d = rsetf { d0 with recov.beats := (s.dev.recov.beats.filter fun e => e.1 ≠ agent) ++
          [(agent, (((s.dev.recov.beats.find? fun e => e.1 == agent).map (·.2.1)).getD 0 + 1) % 2 ^ 32, d0.clock)] }
          .dbgHbStatus 0 0 agent agent 1
      else d = s.dev) ∧
    (∀ agent, Completes (.heartbeatLoss agent now) s fun d =>
      match s.dev.recov.beats.find? fun e => e.1 == agent with
      | none => d = s.dev
      | some (_, _, last) =>
        if wbit (rget s.dev .dbgHbStatus) agent = true ∧ last + 3000000 ≤ d0.clock then
          let d1 := npDecide (rcount (rsetf d0 .dbgHbStatus 0 0 agent agent 0) .dbgHbStatus 0 0 31 16 1) 6 noSensor agent 3 0
          let d2 := { d1 with recov.hungAt := (d1.recov.hungAt.filter fun e => e.1 ≠ agent) ++ [(agent, d0.clock)] }
          d = if agent < 4 ∧ ((s.dev.recov.hungAt.find? fun e => e.1 == agent).any (fun e => decide (d0.clock < e.2 + 1000000000)) = true ∨
              rfield d1 .dbgHbStatus 0 0 3 0 = 0) then askReset d2 4 2
            else enterHang d2 (agentEngine agent) 0 2 none
        else d = s.dev) ∧
    (∀ kind n, Completes (.transferParityError kind n) s fun d =>
      d = if 3 ≤ kind then s.dev
        else if n = 0 then rcount s.dev .dbgParity 0 0 (16 * kind + 15) (16 * kind) 1
        else if n < 8 then s.dev
        else askReset (rcount s.dev .dbgParity 0 0 55 48 1) 4 3) ∧
    (∀ (c : Nat) (ok : Bool), Completes (.channelTrain c ok) s fun d =>
      if 384 ≤ c ∨ c ∈ s.dev.mem.chanTrained ∨ c ∈ s.dev.mem.chanFailed then d = s.dev
      else if ok = false then d = failWipe s.dev c ∧
        d.mem = { s.dev.mem with chanFailed := s.dev.mem.chanFailed ++ [c] } ∧ d.hub = s.dev.hub ∧
        ∀ i, i < 6 → rfield d .mcStatus (6 * (c / 96) + i) 0 17 16 = 3
      else ∃ e, d = raiseReady e (partOfQuarter s.dev (c / 96)) ∧
        e = { s.dev with mem.chanTrained := s.dev.mem.chanTrained ++ [c], regs := e.regs } ∧
        rfield e .mcStatus (c / 16) 0 (c % 16) (c % 16) = 1 ∧
        rfield e .mcStatus (c / 16) 0 17 16 = (if rfield s.dev .mcStatus (c / 16) 0 17 16 = 0 ∧
          c ∉ s.dev.mem.chanWiped then 1 else rfield s.dev .mcStatus (c / 16) 0 17 16) ∧
        ∀ key, key ≠ Reg.mcStatus.key (c / 16) 0 → mget 0 e.regs key = mget 0 s.dev.regs key) ∧
    (∀ c pct, Completes (.wipeFailed c pct) s fun d =>
      d = if c < 384 ∧ inReset s.dev (partOfQuarter s.dev (c / 96)) = true ∧ c ∈ s.dev.mem.chanTrained ∧
        c ∉ s.dev.mem.chanFailed ∧ c ∉ s.dev.mem.chanWiped then
          rsetf (failWipe s.dev c) .mcStatus (c / 16) 0 31 24 (min pct 255) else s.dev) ∧
    (∀ p, Completes (.wipeDone p now) s fun d =>
      let wipes (q : Nat) : Bool := (List.range 96).all fun i =>
        s.dev.mem.chanTrained.contains (96 * q + i) && !s.dev.mem.chanFailed.contains (96 * q + i) &&
          !s.dev.mem.chanWiped.contains (96 * q + i)
      let qs := (quartersOf s.dev p).filter wipes
      let cs := qs.flatMap fun q => (List.range 96).map (96 * q + ·)
      if p < partCount s.dev ∧ inReset s.dev p = true ∧ qs ≠ [] then
        ∃ e, d = raiseReady (beginScrub e cs) p ∧ e = { d0 with mem.chanWiped := s.dev.mem.chanWiped ++ cs, regs := e.regs } ∧
          (∀ c ∈ cs, rfield e .mcStatus (c / 16) 0 17 16 = 2 ∧ rfield e .mcStatus (c / 16) 0 31 24 = 255) ∧
          ∀ key, (∀ c ∈ cs, key ≠ Reg.mcStatus.key (c / 16) 0) → mget 0 e.regs key = mget 0 s.dev.regs key
      else d = s.dev) ∧
    (∀ (d : Dev) (p : Nat), p < 4 →
      let e := raiseReady d p
      if inReset d p = true ∧ rfield d .secBootStatus 0 0 2 0 = 6 ∧ (∀ c ∈ channelsOf d p,
        c ∈ d.mem.chanTrained ∧ c ∈ d.mem.chanWiped ∧ c ∉ d.mem.chanFailed) then
          isReady e p = true ∧ inReset e p = false ∧ e.tiles = d.tiles ∧ e.hub = d.hub
      else e = d)) ∧
    (Completes .npHeartbeat s fun d =>
      d = if s.dev.np.on = true then
        rsetf s.dev .npStatus 0 0 31 0 ((rfield s.dev .npStatus 0 0 31 0 + 1) % 2 ^ 32) else s.dev)

/-- The boot runs through its stages as Tables BOT-1 and BOT-2 say; an image is started only when R430 finds
nothing. For every state: ROM_INIT reads the life-cycle state, revocations and SVN from the fuses and
goes to WAIT_LINK, and with the link up to WAIT_IMAGE with a BOOT_HELLO; HELLO is repeated after 100 ms,
in WAIT_IMAGE alone. An offer is taken in WAIT_IMAGE and ignored in any other stage. IMAGE_VERIFY
fetches the image offered; with it whole, it starts it if every check of R430 passes, the SVN and key
slot of the image shown, and otherwise, or where a line cannot be read, goes back to WAIT_IMAGE and
counts the refusal. FIRMWARE_RUNNING goes from START to RUNNING, puts a pending debug scope into force
and lets READY rise. A double-bit error of the hub store asks for a chip reset. That a failed
regeneration of the identity does not stop the boot is the model's reading (log 47). (R425, R426, R427,
R428, R430, R435) -/
def Obligations.BootSequence : Prop :=
  ∀ (s : State) (now : Nat), Live s →
    let d0 := advanceTo s.dev now
    (∀ ident, Completes (.romInitDone ident) s fun d =>
      if bootStage s.dev ≠ 0 then d = s.dev
      else ∃ e, d = bootLink s.fuses.uid e ∧ e = { s.dev with regs := e.regs } ∧ bootStage e = 1 ∧
        bootStage d = (if linkUp s.dev = true then 2 else 1) ∧
        rfield e .secLcStatus 0 0 1 0 = s.fuses.state ∧ rfield e .secLcStatus 0 0 7 4 = s.fuses.revokedMask ∧
        rfield e .secLcStatus 0 0 13 8 = s.fuses.svnValue % 64 ∧
        rfield e .secBootStatus 0 0 3 3 = (if s.fuses.named && !(ident && s.fuses.devId.holds) then 1
          else rfield s.dev .secBootStatus 0 0 3 3) ∧
        ∀ key, key ≠ Reg.secLcStatus.key 0 0 → key ≠ Reg.secBootStatus.key 0 0 →
          mget 0 e.regs key = mget 0 s.dev.regs key) ∧
    (Completes (.bootHello now) s fun d =>
      d = if bootStage s.dev = 2 ∧ linkUp s.dev = true ∧ s.dev.boot.helloAt + 100000000 ≤ d0.clock then
        sendHello s.fuses.uid d0 else s.dev) ∧
    (∀ addr len, Completes (.bootOffer addr len) s fun d =>
      d = if linkUp s.dev = true ∧ bootStage s.dev = 2 then
        rsetf { s.dev with boot := { s.dev.boot with offerAddr := addr / 64 * 64, offerLen := len, store := [] } }
          .secBootStatus 0 0 2 0 3
        else s.dev) ∧
    (Completes .imageVerify s fun d =>
      let got := s.dev.boot.store.length
      let want := min s.dev.boot.offerLen hubStore
      if bootStage s.dev ≠ 3 then d = s.dev
      else match (fetchLines (0x800000000000 + s.dev.boot.offerAddr + got) ((want - got + 63) / 64)).go s.dev with
        | (.error (.wait _), d1) => d = d1
        | (.error (.err st _), d1) => d = refuseImage d1 st (sha384 (d1.boot.store.take 0x200))
        | (.ok _, d1) =>
          let img := d1.boot.store.take d1.boot.offerLen
          let hash := sha384 (img.take 0x200)
          let st := imageStatus s.fuses (rfield d1 .secLcStatus 0 0 1 0) img d1.boot.offerLen
          d = if st = 0 then startImage d1 img hash else refuseImage d1 st hash) ∧
    (∀ (d : Dev) (img hash : List Byte) (st : Nat), st < 65536 →
      let a := startImage d img hash
      let b := refuseImage d st hash
      bootStage a = 5 ∧ a.boot = { d.boot with lastStatus := 0 } ∧ rfield a .secLcStatus 0 0 21 16 = leAt img 0x0C 4 % 64 ∧
      rfield a .secLcStatus 0 0 23 22 = leAt img 8 4 % 4 ∧ a.hub = d.hub ∧ a.mem = d.mem ∧
      bootStage b = 2 ∧ b.boot = { d.boot with lastStatus := st, store := [] } ∧
      rfield b .secBootStatus 0 0 31 16 = st ∧
      rfield b .secBootStatus 0 0 47 32 = min 65535 (rfield d .secBootStatus 0 0 47 32 + 1) ∧ b.hub = d.hub ∧ b.mem = d.mem) ∧
    (Completes (.firmwareRunning now) s fun d =>
      let pend := rfield s.dev .secLcStatus 0 0 29 27
      if bootStage s.dev ≠ 5 then d = s.dev
      else ∃ e, d = (List.range (partCount s.dev)).foldl raiseReady e ∧ e = { d0 with regs := e.regs } ∧
        bootStage e = 6 ∧
        rfield e .secBootStatus 0 0 63 48 = min 65535 (rfield s.dev .secBootStatus 0 0 63 48 + 1) ∧
        rfield e .secLcStatus 0 0 29 27 = 0 ∧
        rfield e .secLcStatus 0 0 26 24 = (if pend = 0 then rfield s.dev .secLcStatus 0 0 26 24 else pend) ∧
        ∀ key, key ≠ Reg.secLcStatus.key 0 0 → key ≠ Reg.secBootStatus.key 0 0 →
          mget 0 e.regs key = mget 0 s.dev.regs key) ∧
    Completes .hubStoreDoubleBit s fun d => d = askReset s.dev 4 5 ∧ resetAsked d 4 = true

/-- The commands of the security engine do what Table BOT-7 says, and end as R437, R438 and R440 say when
they may not. For every state with the command started: while a life-cycle transition is in progress
each of them but LC_TRANSITION ends with SECURITY_BUSY. ATTEST without an identity ends with
NO_IDENTITY; with it the report and its two signatures, with free salt and randomness, are written and
the command ends with 36,304 once they are visible. DEBUG_CHALLENGE writes a nonce, free values, and
leaves it outstanding. A command with a token ends with NO_CHALLENGE where none is outstanding, and with
TOKEN_INVALID, counted and the challenge used, where the token is not valid. DEBUG_UNLOCK in BLANK and
RETURNED has no effect; with a valid token its scope is the result, and in DEPLOYED it is pending and a
chip reset follows. DEBUG_LOCK clears both scopes. LC_TRANSITION to PROVISIONED draws the device secret
and the candidates, writes the public keys and burns PROV; to DEPLOYED it burns DEPL, to RETURNED RET
and the secret; each asks for a chip reset; an undefined one ends with LC_NOT_ALLOWED. SVN_ADVANCE
raises the fused SVN to that of the image and never lowers it; KEY_REVOKE burns the slots its token
names. A misaligned or short buffer ends with PARAM_RESERVED, a failed access with its status, and one
that must wait waits. (R431, R434, R437, R438, R440, R441, R442) -/
def Obligations.SecurityCommands : Prop :=
  ∀ (s : State) (q k : Nat),
    let wants : List ((Nat → Nat → Instr) × Nat) :=
      [(.attest, 0x0901), (.debugChallenge, 0x0902), (.debugUnlock, 0x0903), (.debugLock, 0x0904),
        (.svnAdvance, 0x0906), (.keyRevoke, 0x0907)]
    let state := rfield s.dev .secLcStatus 0 0 1 0
    let sp := spaceOf s.dev q
    let drawn (i n : Nat) : List Byte :=
      (List.range n).flatMap fun j => leBytes 8 (Config.freeValue (s.dev.free + i + j)).toNat
    let ends (st : Nat) (d1 d : Dev) : Prop := FinishesFree d1 d q k st
    -- A command with a token of a kind at an address: `from_` is what a failure leaves of a device.
    let token (va kind : Nat) (from_ : Dev → Dev) (d : Dev) (f : Fuses) (ok : List Byte → Dev → Prop) : Prop :=
      (f = s.fuses ∨ (s.dev.boot.challenge.isSome = true ∧ d.boot.challenge = none)) ∧
      if s.dev.boot.challenge = none then ends 0x080B (from_ s.dev) d
      else Turn s.dev s.dev d (vread sp va tokenBytes) (fun t d1 =>
        let d2 := useChallenge d1
        if tokenValid d1 s.fuses kind t = true then ok t d2
        else ends 0x0807 (from_ (rcount d2 .secErr 0 0 15 0 1)) d) fun st d1 => ends st (from_ d1) d
    (∀ r ∈ wants, s.dev.boot.moving = true → ∀ y, CmdRuns s q k r.2 y →
      CompletesF (r.1 q k) s fun d f => ends 0x080A s.dev d ∧ f = s.fuses) ∧
    (s.dev.boot.moving = false → ∀ y,
      (CmdRuns s q k 0x0901 y → CompletesF (.attest q k) s fun d f => f = s.fuses ∧
        let d1 : Dev := { s.dev with free := s.dev.free + 9 }
        if hasIdentity s.dev = false then ends 0x0809 s.dev d
        else if y.param 1 % 64 ≠ 0 ∨ y.param 2 < 36304 then ends 0x0104 s.dev d
        else Turn d1 d1 d (do
          let request ← vread sp (y.param 0) 96
          let report := attestReport d1 s.fuses (partOfQueue s.dev q) request
          vwrite sp (y.param 1) (report ++ attestSign s.fuses report (drawn 0 6) (drawn 6 3)))
          (fun _ d2 => d = finishVisible d2 q k 0 36304) fun st d2 => ends st d2 d) ∧
      (CmdRuns s q k 0x0902 y → CompletesF (.debugChallenge q k) s fun d f => f = s.fuses ∧
        let d1 : Dev := { s.dev with free := s.dev.free + 6 }
        if y.param 0 % 64 ≠ 0 then ends 0x0104 s.dev d
        else Turn d1 d1 d (vwrite sp (y.param 0) (drawn 0 6)) (fun _ d2 =>
          d = finishVisible (rsetf { d2 with boot.challenge := some (drawn 0 6) } .secLcStatus 0 0 30 30 1) q k 0 0)
          fun st d2 => ends st d2 d) ∧
      (CmdRuns s q k 0x0903 y → CompletesF (.debugUnlock q k) s fun d f => f = s.fuses ∧
        if state = 0 ∨ state = 3 then Finishes s.dev d q k 0 0
        else token (y.param 0) 1 id d f fun t d1 =>
          let scope := leAt t 0x48 4 % 8
          d = if state = 1 then finishCmd (updCmd d1 q k fun y => { y with aux2 := [1] }) q k 0 (toW scope)
            else askReset (finishCmd (rsetf d1 .secLcStatus 0 0 29 27 scope) q k 0 (toW scope)) 4 4) ∧
      (CmdRuns s q k 0x0904 y → CompletesF (.debugLock q k) s fun d f => f = s.fuses ∧ EndsWith d q k 0 0 ∧
        rfield d .secLcStatus 0 0 26 24 = 0 ∧ rfield d .secLcStatus 0 0 29 27 = 0 ∧ d.mem = s.dev.mem ∧
        d = finishCmd (closeDebug (rsetf (rsetf s.dev .secLcStatus 0 0 26 24 0) .secLcStatus 0 0 29 27 0)) q k 0 0) ∧
      (CmdRuns s q k 0x0906 y → CompletesF (.svnAdvance q k) s fun d f =>
        let n := rfield s.dev .secLcStatus 0 0 21 16
        d = finishCmd (showFuses s.dev f) q k 0 (toW f.svnValue) ∧
        f = { s.fuses with svn := f.svn } ∧ s.fuses.svn &&& f.svn = s.fuses.svn ∧
        (n ≤ s.fuses.svnValue → f = s.fuses) ∧
        (s.fuses.svn = BitVec.ofNat 64 (2 ^ s.fuses.svnValue - 1) → s.fuses.svnValue ≤ n → f.svnValue = n)) ∧
      (CmdRuns s q k 0x0907 y → CompletesF (.keyRevoke q k) s fun d f =>
        token (y.param 0) 4 id d f fun t d1 => f = { s.fuses with revoked := f.revoked } ∧
          d = finishCmd (showFuses d1 f) q k 0 (toW f.revokedMask) ∧
          ∀ j, j < 4 → f.revoked.getD j 0 =
            if bit (leAt t 0x48 4) j = true then BitVec.allOnes 32 else s.fuses.revoked.getD j 0)) ∧
    (∀ y, CmdRuns s q k 0x0905 y → CompletesF (.lcTransition q k) s fun d f =>
      let rests (d : Dev) : Dev := { d with boot.moving := false }
      match s.fuses.state, y.param 0 % 4 with
      | 0, 1 => token (y.param 1) 2 rests d f fun _ d1 =>
        let uds := BitVec.ofNat 256 (leNat ((List.range 4).flatMap fun j => leBytes 8 (Config.freeValue (d1.free + j)).toNat))
        let found := searchPrimes (devIdSeed uds s.fuses.uid)
        let f1 : Fuses := { s.fuses with
          uds := uds, pIter := BitVec.ofNat 16 found.1, qIter := BitVec.ofNat 16 found.2, prov := BitVec.allOnes 32 }
        Turn s.dev { d1 with free := d1.free + 4 } d (vwrite (spaceOf d1 q) (y.param 2) f1.publicKeys)
          (fun _ d2 => d = moved d2 q k 1 ∧ f = f1) fun st d2 => ends st (rests d2) d ∧ f = s.fuses
      | 1, 2 => d = moved s.dev q k 2 ∧ f = { s.fuses with depl := BitVec.allOnes 32 }
      | 1, 3 => token (y.param 1) 3 rests d f fun _ d1 => d = moved d1 q k 3 ∧
        f = { s.fuses with ret := BitVec.allOnes 32, uds := BitVec.allOnes 256 }
      | 2, 3 => token (y.param 1) 3 rests d f fun _ d1 => d = moved d1 q k 3 ∧
        f = { s.fuses with ret := BitVec.allOnes 32, uds := BitVec.allOnes 256 }
      | _, _ => ends 0x0806 (rests s.dev) d ∧ f = s.fuses) ∧
    ∀ (d : Dev) (target : Nat), let e := moved d q k target
      e.boot = { d.boot with moving := true } ∧ resetAsked e 4 = true ∧ rfield e .secLcStatus 0 0 29 27 = 0 ∧ e.mem = d.mem

/-- Register accesses of 8 aligned bytes write, read and clear what Table SCP-6 says; others have no effect;
the scrub moves on. For every state: an access to the MMIO window or a doorbell page that is not 8 bytes
at a multiple of 8 has no effect beyond its completion with MMIO_ACCESS, one outside every region beyond
that with ADDRESS_UNMAPPED. A write to a register with no behaviour of its own sets its RW and RWS
fields, clears the W1C bits written as 1 and keeps all others; no other register changes. A read answers
with the register and clears its RC fields; what the link shows at the time of the read is free (log
155). A write or read of an address with no register changes nothing. Writing LDG_ENTRY_SEL shows the
frame's entry. A granule's lines are checked, no byte changing, and the channel's scrub moves on by one,
or begins its next pass; with the lag past 48 MiB the channel becomes FORCED, below 16 MiB no longer.
(R27, R185, R186, R206, R462) -/
def Obligations.RegistersAndScrub : Prop :=
  ∀ (s : State), Live s →
    let reply (st : Nat) (v : Option Word) (d : Dev) : Dev := emit d (.mmio st v)
    (∀ (pa width : Nat) (v : Word),
      (Completes (.registerWrite pa width v) s fun d =>
        match regionOf pa with
        | .mmio =>
          if badAccess pa width = true then d = reply 0x0416 none s.dev
          else match registerAt pa with
            | some (r, inst, i) => d = writeReg s.dev r inst i v
            | none => d = s.dev
        | .doorbell q =>
          if badAccess pa width = true then d = reply 0x0416 none s.dev
          else d = inReadyPart s.dev q (writeDoorbell s.dev pa v)
        | .unmapped => d = reply 0x0412 none s.dev
        | _ => d = s.dev) ∧
      (Completes (.rcFieldRead pa width) s fun d =>
        match regionOf pa with
        | .mmio =>
          if badAccess pa width = true then d = reply 0x0416 none s.dev
          else match registerAt pa with
            | some (r, inst, i) => let d1 := beforeRead s.dev r
              d = reply 0 (some (readReg d1 s.fuses r inst i)) (afterRead d1 r inst i)
            | none => d = reply 0 (some 0) s.dev
        | .doorbell q =>
          if badAccess pa width = true then d = reply 0x0416 none s.dev
          else if isReady s.dev (partOfQueue s.dev q) = true then d = reply 0 (some (readDoorbell s.dev pa)) s.dev
          else d = reply 0x0663 none s.dev
        | .unmapped => d = reply 0x0412 none s.dev
        | _ => d = s.dev)) ∧
    (∀ (d : Dev) (r : Reg) (inst i : Nat) (v : Word),
      (r ∉ [.chipAsidTbl, .tileCtl, .ldgEntrySel, .tlyCtxSel, .qtrStageCtl, .qtrQsel, .qtrQtbl, .qtrQcmd,
          .fabEngineCtl, .fabTimeSet, .rnlLinkCtl, .dbgDumpAck, .dbgRecoveryState, .dbgResetReq,
          .snpReplCtl, .snpReplSrc, .pwrStateCtl] → ignoredBits r v = 0 →
        let e := writeReg d r inst i v
        e = { d with regs := e.regs } ∧
        (∀ n, n < 64 → (rget e r inst i).getLsbD n =
          if (r.info.w1c).testBit n && v.getLsbD n then false
          else if (r.info.rw ||| r.info.rws ||| r.info.lck).testBit n then v.getLsbD n
          else (rget d r inst i).getLsbD n) ∧
        ∀ key v0, key ≠ r.key inst i → mget v0 e.regs key = mget v0 d.regs key) ∧
      (r ∉ [.rnlLinkStatus, .rnlErrCnt] → beforeRead d r = d) ∧
      (r ∉ [.qtrSfuGen, .qtrSbGen, .fabDspGen, .qtrScaleStat, .fabTimeNs] →
        let e := afterRead d r inst i
        e = { d with regs := e.regs } ∧
        (∀ n, n < 64 → (rget e r inst i).getLsbD n = ((rget d r inst i).getLsbD n && !r.info.rc.testBit n)) ∧
        ∀ key v0, key ≠ r.key inst i → mget v0 e.regs key = mget v0 d.regs key)) ∧
    (∀ v : Word, Completes (.ldgEntrySelWrite v) s fun d => d = { s.dev with regs := d.regs } ∧
      rget d .ldgEntrySel = toW (wbits v 18 0) ∧ rget d .ldgEntryLo = (frameAt s.dev (wbits v 18 0)).lo ∧
      rget d .ldgEntryHi = (frameAt s.dev (wbits v 18 0)).hi) ∧
    (∀ chan now, let d0 := advanceTo s.dev now
      (Completes (.scrubGranule chan now) s fun d =>
        let g := mget 0 s.dev.mem.scrubPos chan
        let d1 := (granuleLines d0 (granulePa chan g)).foldl scrubLine d0
        let d2 := if g + 1 = scrubGranules then nextPass d1 chan
          else { d1 with mem.scrubPos := mset 0 d1.mem.scrubPos chan (g + 1) }
        if scrubRuns s.dev chan = false then d = d0
        else d.mem.bytes = s.dev.mem.bytes ∧ d.hub = s.dev.hub ∧
          (g + 1 < scrubGranules → mget 0 d.mem.scrubPos chan = g + 1) ∧
          (∀ c, c ≠ chan → mget 0 d.mem.scrubPos c = mget 0 s.dev.mem.scrubPos c) ∧
          d = showForced (if scrubLag d2 chan ≤ 0x1000000 then
            { d2 with mem.scrubForced := d2.mem.scrubForced.filter (· ≠ chan) } else d2) (chan / 16)) ∧
      (Completes (.scrubForced chan now) s fun d =>
        d = if scrubRuns s.dev chan = true ∧ 0x3000000 < scrubLag d0 chan ∧ s.dev.mem.scrubForced.contains chan = false then
          showForced { d0 with mem.scrubForced := s.dev.mem.scrubForced ++ [chan] } (chan / 16) else d0))

/-- The cap loop, the limits, droop, soft start and hints follow R406 to R415. For every state: at the end
of each period L and the clock target become what R407 says of the measured powers and the lower cap,
the energy counter advances, the mean power of the last 1 ms and the cap in force show, CAP_UNMET falls
with power below the cap, and nothing but power state changes. L at 1 above the cap for 10 ms sets
CAP_UNMET, a decision of the Night Porter. A droop lowers its tile's limit to half of what is in force,
counted; its release returns it to 64. A restart of an idle array begins at 16/64, without a hint of
class MATRIX or FULL in force, and rises by 16 each 250 ns until its effective limit, which is the
lowest of four. POWER_HINT out of range ends with HINT_PARAM, the seventeenth of its partition with
HINT_TABLE_FULL; one in range replaces those of its partition that it overlaps and, past its START, is
applied at once with HINT_LATE. A hint fires in turn 50 us before START, is in force from START, when L
becomes what the predicted power of the class in force allows, and ends with its duration. TRAY_CAP
takes codes up to 64. (R406, R407, R408, R409, R410, R411, R412, R413, R414, R415) -/
def Obligations.PowerLoopAndHints : Prop :=
  ∀ (s : State) (now : Nat),
    let d0 := advanceTo s.dev now
    (Live s →
    (∀ power compute, Completes (.capLoopPeriod power compute now) s fun d =>
      let c := capWatts (capCode s.dev)
      let r := loopRule (capLimit s.dev) (clockTarget s.dev) power compute c (mayBoost s.dev)
      let hist := (power :: s.dev.pwr.history).take 100
      capLimit d = r.1 % 128 ∧ clockTarget d = r.2 % 4096 ∧
      rget d .pwrEnergy = rget s.dev .pwrEnergy + toW (10 * power) ∧
      rfield d .pwrStatus 0 0 11 0 = hist.sum / hist.length % 4096 ∧ rfield d .pwrStatus 0 0 39 33 = capCode s.dev % 128 ∧
      wbit (rget d .pwrStatus) 32 = (wbit (rget s.dev .pwrStatus) 32 && decide (c ≤ power)) ∧
      rfield d .pwrStatus 0 0 63 40 = rfield s.dev .pwrStatus 0 0 63 40 ∧
      (∀ key, key ≠ Reg.pwrEnergy.key 0 0 → key ≠ Reg.pwrStatus.key 0 0 → mget 0 d.regs key = mget 0 s.dev.regs key) ∧
      d = { d0 with
        regs := d.regs
        pwr := { d0.pwr with
          history := hist
          compute := compute
          oneSince := if r.1 = 1 ∧ c < power then some (s.dev.pwr.oneSince.getD d0.clock) else none
          interval := match classInForce s.dev with
            | none => s.dev.pwr.interval
            | some k =>
              let x := mget (0, 0) s.dev.pwr.interval k
              mput s.dev.pwr.interval k (x.1 + power, x.2 + 1) } }) ∧
    (Completes (.capUnmet now) s fun d => d = match s.dev.pwr.oneSince with
      | none => s.dev
      | some t =>
        let d1 := rsetf d0 .pwrStatus 0 0 32 32 1
        if t + 10000000 ≤ d0.clock ∧ wbit (rget s.dev .pwrStatus) 32 = false then
          if s.dev.np.on = true then npDecide d1 8 248 (rfield s.dev .pwrStatus 0 0 11 0) (capWatts (capCode s.dev)) 3 else d1
        else s.dev) ∧
    (∀ tile,
      (Completes (.droop tile) s fun d =>
        if tile < 64 then
          tileDroop d tile = max 1 (effectiveLimit s.dev tile / 2) ∧ (∀ t, t ≠ tile → tileDroop d t = tileDroop s.dev t) ∧
          rfield d .pwrTileLim 0 tile 39 24 = min 65535 (rfield s.dev .pwrTileLim 0 tile 39 24 + 1) ∧
          d = rcount { s.dev with pwr.droop := d.pwr.droop } .pwrTileLim 0 tile 39 24 1
        else d = s.dev) ∧
      (Completes (.droopRelease tile) s fun d => tileDroop d tile = 64 ∧
        (∀ t, t ≠ tile → tileDroop d t = tileDroop s.dev t) ∧ d = { s.dev with pwr.droop := d.pwr.droop }) ∧
      (Completes (.softStart tile now) s fun d =>
        let limit (l : List (Nat × Nat × Nat)) : Dev := { d0 with pwr.soft := l }
        d = if 64 ≤ tile ∨ tilesRun s.dev = false then s.dev
          else match s.dev.pwr.soft.find? fun e => e.1 == tile with
            | none => if noSoftStart s.dev = true then s.dev else limit (mput s.dev.pwr.soft tile (16, d0.clock))
            | some (_, l, t) =>
              if d0.clock < t + 250 then s.dev
              else if effectiveLimit s.dev tile ≤ l + 16 then limit (merase s.dev.pwr.soft tile)
              else limit (mput s.dev.pwr.soft tile (l + 16, d0.clock)))) ∧
    (∀ (q k : Nat) (y : Cmd), CmdRuns s q k 0x0701 y → Completes (.powerHint q k) s fun d =>
      let p := partOfQueue s.dev q
      let dur := bits (y.param 1) 31 0
      let h : Hint := ⟨p, y.param 0, dur, bits (y.param 2) 1 0, false, false⟩
      let rest := s.dev.pwr.hints.filter fun x =>
        !(x.part == p && decide (x.start < h.stop) && decide (h.start < x.stop))
      let entered := hintsChanged s.dev { s.dev with pwr.hints := rest ++ [h] }
      if dur = 0 ∨ 10000000 < dur then FinishesFree s.dev d q k 0x0174
      else if 16 ≤ (rest.filter fun x => x.part == p).length then FinishesFree s.dev d q k 0x0212
      else if h.start < s.dev.ns then FinishesFree (enterHint (rcount entered .pwrStatus 0 0 63 48 1) h) d q k 0x0036
      else FinishesFree entered d q k 0) ∧
    (∀ p start, Completes (.hintFire p start now) s fun d =>
      d = match s.dev.pwr.hints.find? fun h => h.part == p && h.start == start && !h.inForce with
        | none => s.dev
        | some h =>
          if h.start ≤ d0.ns ∧ inTurnAt d0 h.start .hint = true then enterHint d0 h
          else if d0.ns < h.start ∧ h.start ≤ d0.ns + 50000 ∧ h.fired = false ∧
              inTurnAt d0 ((h.start : Int) - 50000) .hint = true then
            hintsChanged s.dev { d0 with pwr.hints := s.dev.pwr.hints.map fun x =>
              if x = h then { x with fired := true } else x }
          else s.dev) ∧
    (∀ p start, Completes (.hintEnd p start now) s fun d =>
      d = match s.dev.pwr.hints.find? fun h => h.part == p && h.start == start && decide (h.stop ≤ d0.ns) with
        | none => s.dev
        | some h => hintsChanged s.dev { d0 with pwr.hints := s.dev.pwr.hints.erase h })) ∧
    (∀ (d : Dev) (h : Hint), h ∈ d.pwr.hints →
      let e := enterHint d h
      { h with fired := true, inForce := true } ∈ e.pwr.hints ∧ e.pwr.hints.length = d.pwr.hints.length ∧
      e.pwr.raised = (e.pwr.hints.any fun x => x.fired && decide (2 ≤ x.cls)) ∧ (2 ≤ h.cls → e.pwr.soft = []) ∧
      rfield e .pwrStatus 0 0 46 40 = e.pwr.hints.length % 128 ∧
      ∃ c, classInForce e = some c ∧ h.cls ≤ c ∧ (∀ x ∈ e.pwr.hints, x.inForce = true → x.cls ≤ c) ∧
        let r := loopRule (capLimit d) (clockTarget d) (predicted e c) d.pwr.compute (capWatts (capCode d)) (mayBoost d)
        capLimit e = r.1 % 128 ∧ clockTarget e = r.2 % 4096) ∧
    (∀ (d : Dev) (t : Nat), t < 64 → d.pwr.failHold = false → t / 16 ∉ d.pwr.held →
      effectiveLimit d t ≤ capLimit d ∧ effectiveLimit d t ≤ tileTempLimit d t ∧ effectiveLimit d t ≤ tileDroop d t ∧
      (∀ x, x < 6 → t % 16 ∈ tilesBelow x → effectiveLimit d t ≤ stackLimit (rfield d .mcStatus (6 * (t / 16) + x) 0 50 48)) ∧
      (effectiveLimit d t = capLimit d ∨ effectiveLimit d t = tileTempLimit d t ∨ effectiveLimit d t = tileDroop d t ∨
        ∃ x, x < 6 ∧ t % 16 ∈ tilesBelow x ∧
          effectiveLimit d t = stackLimit (rfield d .mcStatus (6 * (t / 16) + x) 0 50 48)) ∧
      (clockTarget d ≥ 2000 → 2000 ≤ tileClock d t ∧ tileClock d t ≤ clockTarget d)) ∧
    (∀ l clk p pc c : Nat, ∀ boost : Bool, 1 ≤ l → l ≤ 64 → 2000 ≤ clk → clk ≤ 2400 →
      let r := loopRule l clk p pc c boost
      1 ≤ r.1 ∧ r.1 ≤ 64 ∧ 2000 ≤ r.2 ∧ r.2 ≤ 2400 ∧ r.1 ≤ l + 2 ∧ (c < p → r.1 ≤ l ∧ r.2 ≤ clk)) ∧
    (∀ code, Completes (.trayCapWrite code) s fun d =>
      d = if s.dev.np.on = true ∧ code ≤ 64 then { s.dev with np := { s.dev.np with trayCap := code } } else s.dev)

/-- ACTIVE, IDLE, DEEP and NIGHT are entered and left as R416 to R418 say. For every state: IDLE_US without
work makes ACTIVE IDLE; a wake makes IDLE and DEEP ACTIVE; a request moves IDLE to DEEP, where the
Quarter Caches are written back, and DEEP to ACTIVE, neither during an entry to NIGHT; a request also
sets IDLE_US where given. A request for NIGHT, from PWR_STATE_CTL or over I3C, with a queue not OFF is
rejected and counted; with every queue OFF the device takes its companion's lines back, enters L2, takes
its ports DOWN and is in NIGHT, its DRAM off where asked. In NIGHT a wake over I3C and the wake time
start the boot with campus time in HOLDOVER and DRAM and the band map kept where they were; during the
entry a wake is held. In every other state each of them changes nothing. (R416, R417, R418) -/
def Obligations.PowerStates : Prop :=
  ∀ (s : State) (now : Nat),
    let d0 := advanceTo s.dev now
    let free := s.dev.pwr.nightOff = none
    let timed (v : Word) (d : Dev) : Dev := if wbits v 31 16 = 0 then d else rsetf d .pwrStateCtl 0 0 31 16 (wbits v 31 16)
    (Live s →
      (Completes (.idleEntry now) s fun d => d =
        if s.dev.power = .active ∧ free ∧ workless s.dev = true ∧
            s.dev.pwr.busyAt + 1000 * rfield s.dev .pwrStateCtl 0 0 31 16 ≤ d0.clock then setPower d0 .idle
        else s.dev) ∧
      (Completes (.wake now) s fun d => d =
        if (s.dev.power = .idle ∨ s.dev.power = .deep) ∧ free then setPower d0 .active else s.dev) ∧
      (∀ v : Word,
        (Completes (.stateReqActive v) s fun d => d =
          if wbits v 1 0 = 1 then
            if s.dev.power = .deep ∧ free then setPower (timed v s.dev) .active else timed v s.dev
          else s.dev) ∧
        (Completes (.stateReqDeep v) s fun d => d =
          if wbits v 1 0 = 2 then if s.dev.power = .idle ∧ free then enterDeep (timed v s.dev) else timed v s.dev
          else s.dev) ∧
        (Completes (.stateReqNight v now) s fun d =>
          d = if wbits v 1 0 = 3 then requestNight (timed v d0) (wbit v 2) else s.dev)) ∧
      (∀ off : Bool, Completes (.i3cStateReqNight off now) s fun d =>
        d = if s.dev.np.on = true then requestNight d0 off else s.dev)) ∧
    (∀ i, (i = .i3cStateReqWake now ∧ s.dev.np.on = true) ∨
        (i = .nightWake now ∧ s.dev.np.on = true ∧ s.dev.tripped = false ∧ (rget s.dev .npWakeTime).toNat ≠ 0 ∧
          (rget s.dev .npWakeTime).toNat ≤ d0.ns) →
      Completes i s fun d => d =
        if s.dev.power = .night then nightWake d0
        else if free then d0 else { d0 with pwr.wakeHeld := true }) ∧
    (s.dev.np.on = false → (Completes (.i3cStateReqWake now) s fun d => d = s.dev) ∧
      Completes (.nightWake now) s fun d => d = s.dev) ∧
    (s.dev.tripped = true ∨ (rget s.dev .npWakeTime).toNat = 0 ∨ d0.ns < (rget s.dev .npWakeTime).toNat →
      Completes (.nightWake now) s fun d => d = s.dev) ∧
    (∀ (d : Dev) (off : Bool),
      (queuesOff d = false → d.pwr.nightOff = none → requestNight d off = rcount d .pwrStateStatus 0 0 23 8 1) ∧
      (d.pwr.nightOff.getD off = off → (queuesOff d = true ∨ d.pwr.nightOff ≠ none) →
        requestNight d off =
          let e := { d with pwr.nightOff := some off }
          if linkKept d = false then enterNight e off
          else if linkQuiet d = false then emptyFilter e
          else if linkUp d = true ∨ linkState d = 6 then enterNight e off
          else e)) ∧
    (∀ (d : Dev) (off : Bool), d.pwr.wakeHeld = false →
      let e := enterNight d off
      e.power = .night ∧ rfield e .pwrStateStatus 0 0 2 2 = off.toNat ∧ rfield e .pwrStateStatus 0 0 1 0 = 3 ∧
      e.hub = d.hub ∧ e.np = { d.np with timeHeld := d.np.on } ∧ e.pwr.nightOff = none ∧
      e.mem.bytes = (if off = true then [] else (qcDrain d).mem.bytes) ∧
      (∀ i, i < 32 → portUp e i = false) ∧
      (linkState d = 4 ∨ linkState d = 6 → linkState e = 7)) ∧
    (∀ d : Dev,
      let e := nightWake d
      let keep := wbit (rget d .pwrStateStatus) 2 = false
      e.power = .active ∧ bootStage e = 0 ∧ e.hub = Hub.reset ∧ e.tiles = Tiles.reset ∧
      (d.np.timeHeld = true → timeIn e .holdover = true ∧ e.ns = d.ns) ∧
      (keep → e.mem.bytes = d.mem.bytes ∧ e.mem.bandMap = d.mem.bandMap ∧ e.mem.chanWiped = List.range 384) ∧
      (¬ keep → e.mem = Mem.reset)) ∧
    (∀ d : Dev, (enterDeep d).power = .deep ∧ (enterDeep d).mem.qc = [] ∧ (enterDeep d).tiles.l1 = [] ∧
      (enterDeep d).tiles.sram = d.tiles.sram ∧ (enterDeep d).hub = d.hub)

/-- The Night Porter and the pins act as R419 to R423 and R451 to R459 say, whether or not the hub runs. For
every state: the loss of VDD_NP clears the Night Porter's state and registers and nothing of the hub's;
its return starts it with TRAY_POS read and refresh at 6/128. ENTDAA gives it its address, answered with
its provisional ID. The first assertion of PWR_FAIL_N is decision 0x07 and, with a port UP, holds every
tile and removes the boost, with LAST_GASP where the rails are within limits. A sample of silent sensors
leaves no filtered value; a tile filtered at 110 degrees trips, once. RAIL_GOOD rising changes nothing
else; falling brings everything but the Night Porter back at its power-up state. A CHIP_RESET_N pulse
below 1 us is ignored; low for 10 us it resets the chip, one between resets it or not, and the rising
edge ends the reset. An instruction of the test port acts as R459 and Table BOT-5 allow. A decision sets
its alarm bit and, with a byte, raises the in-band interrupt. (R419, R420, R421, R422, R423, R451, R452,
R453, R454, R457, R459) -/
def Obligations.NightPorterAndPins : Prop :=
  ∀ (s : State) (now : Nat),
    let d0 := advanceTo s.dev now
    let on := s.dev.np.on
    let isNp (key : Nat) : Bool := ((regOf key).map fun r => r.info.blk == .np).getD false
    let noRegs (d : Dev) : Dev := { d with regs := d.regs.filter fun e => !isNp e.1 }
    (Completes (.vddNpLost now) s fun d => d = { noRegs d0 with
      np := { Np.reset with on := false }
      pins := { s.dev.pins with thermtripN := true }
      tripped := s.dev.tripped && s.dev.pins.railGood }) ∧
    (∀ pos, Completes (.npStart pos now) s fun d =>
      if on = true then d = s.dev
      else d = { noRegs d0 with np := { Np.reset with pos := pos % 4 }, regs := d.regs } ∧
        (∀ key, (∀ i, i < 24 → key ≠ Reg.mcStatus.key i 0) → mget 0 d.regs key = mget 0 (noRegs s.dev).regs key) ∧
        ∀ i, i < 24 → rget d .mcStatus i = if s.dev.live = true then wsetBits (rget s.dev .mcStatus i) 18 18 1
          else rget s.dev .mcStatus i) ∧
    (∀ addr, Completes (.entdaa addr) s fun d =>
      d = if on = true then { s.dev with np.addr := some addr, out := s.dev.out ++ [.daa (daaPid s.dev) addr] } else s.dev) ∧
    (Completes (.pwrFailN now) s fun d =>
      let d1 := npDecide d0 7 255 0 0 0
      let held := setLoop { d1 with np.failAsserted := true, pwr.failHold := true } (capLimit s.dev) (min 2000 (clockTarget s.dev))
      d = if on = false ∨ s.dev.np.failAsserted = true then s.dev
        else if d1.live = true ∧ ((List.range 32).any (portUp d1)) = true then
          if railsWithin s.dev = true then (List.range (partCount s.dev)).foldl (fun d p => lastGasp d p 1) held else held
        else { d1 with np.failAsserted := true }) ∧
    (on = false → ∀ rs, Completes (.npSample rs now) s fun d => d = s.dev) ∧
    (on = true →
      (∀ i, i < 249 → Completes (.npSample [] now) s fun d => filtered d i = none ∧ d.hub = s.dev.hub ∧
        d.mem = s.dev.mem ∧ d.tiles = s.dev.tiles) ∧
      (∀ rs : List (Option Int), Completes (.npSample rs now) s fun d =>
        let t := takeSamples d0 rs
        d.np.samples = t.np.samples ∧ d.hub = s.dev.hub ∧ d.mem = s.dev.mem ∧ d.tiles = s.dev.tiles ∧
        (d.tripped = true ↔ s.dev.tripped = true ∨ (marked s.dev (npMark 3 0) = false ∧
          ((∃ i, i < 64 ∧ ∃ v : Int, filtered t i = some v ∧ 1760 ≤ v) ∨
            ∃ x, x < 24 ∧ ∃ v : Int, stackTemp t x ((stackSensors x).all fun i => (rs.getD i none).isNone) = some v ∧
              1568 ≤ v))) ∧
        (∀ i, i < 64 → ∀ v : Int, filtered t i = some v → 1760 ≤ v → marked s.dev (npMark 3 0) = false →
          d.pins.thermtripN = false ∧ wbit (rget d .npAlarm) 3 = true ∧ d.np.lastIbi = 2) ∧
        (∀ i, i < 64 → ∀ v : Int, filtered t i = some v → s.dev.live = true →
          rfield d .pwrTileLim 0 i 22 16 = tileLimit (tileTempLimit s.dev i) v))) ∧
    (∀ (d : Dev) (rs : List (Option Int)) (i : Nat), i < 249 → mget [] (takeSamples d rs).np.samples i =
      match rs.getD i none with
        | some v => (v :: mget [] d.np.samples i).take 5
        | none => []) ∧
    (∀ out, (Completes (.railGood true out now) s fun d => d = { d0 with pins.railGood := true }) ∧
      (Completes (.railGood false out now) s fun d =>
        d = if s.dev.pins.railGood = false then d0
          else if (out && on) = true then npDecide (railsFall d0) 4 255 0 0 0 else railsFall d0)) ∧
    (∀ held low, Completes (.chipResetN low held now) s fun d =>
      let reset := pinReset d0
      if s.dev.pins.railGood = false then d = d0
      else if low = true then
        d = if 10000 ≤ held ∧ s.dev.pins.resetHeld = false then { reset with pins.resetHeld := true } else d0
      else if s.dev.pins.resetHeld = true then d = { d0 with pins.resetHeld := false }
      else if held < 1000 then d = d0
      else if 10000 ≤ held then d = reset
      else let d1 := { d0 with free := s.dev.free + 1 }
        d = pinReset d1 ∨ d = d1) ∧
    (∀ d : Dev,
      let e := railsFall d
      let f := pinReset d
      e.hub = Hub.reset ∧ e.tiles = Tiles.reset ∧ e.mem = Mem.reset ∧ bootStage e = 0 ∧ e.pins.railGood = false ∧
      e.pins.resetHeld = true ∧ e.np.trayCap = d.np.trayCap ∧ e.np.pos = d.np.pos ∧ e.np.samples = d.np.samples ∧
      (∀ key, isNp key = true → mget 0 e.regs key = mget 0 d.regs key) ∧
      f.hub = Hub.reset ∧ f.tiles = Tiles.reset ∧ f.mem = Mem.reset ∧ bootStage f = 0 ∧
      f.np.trayCap = d.np.trayCap ∧ f.pins = d.pins ∧ f.recov.dumps.all (fun x => x.owner == .domain 5) = true) ∧
    (∀ (d : Dev) (code sensor : Nat) (v threshold : Int) (ibi : Nat), code < 16 →
      let e := npDecide d code sensor v threshold ibi
      wbit (rget e .npAlarm) code = true ∧ (∀ c, c < 16 → c ≠ code → wbit (rget e .npAlarm) c = wbit (rget d .npAlarm) c) ∧
      e.hub = d.hub ∧ e.mem = d.mem ∧ e.np = (if ibi = 0 then d.np else
        { d.np with lastIbi := ibi, cycleAsked := d.np.cycleAsked || ibi == 1 }) ∧
      (ibi ≠ 0 → .ibi ibi ∈ e.out)) ∧
    (∀ code, Completes (.jtagInstruction code) s fun d =>
      let st := if bootStage s.dev = 0 then s.fuses.state else rfield s.dev .secLcStatus 0 0 1 0
      let open_ : Prop := st ≠ 2 ∨ wbit (rget s.dev .secLcStatus) 25 = true ∨ code = 1
      d = { s.dev with pins := { s.dev.pins with jtag := d.pins.jtag } } ∧
        (open_ → d.pins.jtag = Jtag.of code) ∧ (¬open_ → d.pins.jtag = .bypass))

/-- SNAP_BEGIN drains chunk by chunk inside its windows, SNAP_COMMIT writes the header last, RESTORE and
SPARE_FILL end as R397 to R403 say. For every state with the command started, at every turn: SNAP_BEGIN
checks its fields, its drive, its regions and its slot, removes the header of the slot that is not the
newest, and then drains: outside its windows it reads and writes nothing; a chunk read in its turn is
hashed, sent to the buddies that go on and submitted to its namespace, and after the last one DRAINED
rises by one; with every chunk on the drive and acknowledged the command ends and the snapshot is kept
for its commit. Windows open and close in turn, and the deadline forces the drain. SNAP_COMMIT of
another step ends with SNAP_STATE; it writes the directories, then after their flush the headers, and
ends with the copies committed in the result and the snapshot gone. RESTORE takes the newest or the
named valid slot, compares it where asked, checks every chunk, with a bad one read from a holder, writes
it to its regions, applies the device section, writes the header copy and ends with the step. SPARE_FILL
asks its sources, keeps a matching bitmap, takes the chunks whose bit is 0 and applies the device
section; the loss of a source ends it with the number of verified chunks. SPARE_ADMIT needs HASHED and
ends with the number of its groups. A status of the drive or an access ends each with it. The forms of
the working buffer are the model's. (R385, R390, R392, R393, R395, R397, R398, R400, R402, R403, R404) -/
def Obligations.SnapshotCommands : Prop :=
  ∀ (s : State) (q k : Nat) (y : Cmd),
    let p := partOfQueue s.dev q
    let sp := spaceOf s.dev q
    let busy := nvBusy s.dev (.cmd q k) = true
    let fails (d0 d : Dev) (st : Nat) : Prop := FinishesFree (snapEnds d0 q k st) d q k st
    let gone (d0 d : Dev) (st : Nat) : Prop := fails (dropSnap d0 p) d st
    let submit (nss : List Nat) (d0 : Dev) (op : Dev → Nat → NvOp) : Dev :=
      nss.foldl (fun e n => nvIssue e (.cmd q k) n (op e n) 0) d0
    let c := auxN y 1
    let place : Act Unit := (placed 0 (piecesOf (rRegions y) (rDevLen y) (snapChunk * c) snapChunk)).forM fun e =>
      match e.2 with
      | .mem va n => do
        let runs ← physRuns sp va n true
        if imagePlaced (← get) p runs then vwrite sp va (((rChunk y).drop e.1).take n)
        else Act.fail 0x0191 va
      | _ => pure ()
    let keepDev (d : Dev) : Dev := updCmd d q k fun z => { z with
      buf := takeDev (rDevOff y) (rChunk y) (placed 0 (piecesOf (rRegions y) (rDevLen y) (snapChunk * c) snapChunk)) z.buf }
    (CmdRuns s q k 0x0601 y → Completes (.snapBegin q k) s fun d =>
      if y.status ≠ 0 then gone s.dev d y.status
      else if y.step = 0 then
        if snapParamOk s.dev p y = false then fails s.dev d 0x0190
        else if snapOpen s.dev p q k = true then fails s.dev d 0x0708
        else if (maskList (snapMask y)).all (nsUsable s.dev) = false then gone s.dev d 0x070B
        else Turn s.dev s.dev d (do
            let rs ← snapRegions p sp (y.param 0)
            let dev ← if rs.isSome then devSectionOf p else pure []
            pure (rs, dev))
          (fun r d1 => match r.1 with
            | none => gone d1 d 0x0191
            | some rs =>
              let x := (snapAt d1 p).getD (snapOf q y rs r.2)
              if ∃ n ∈ maskList x.nsmask, regionBlocks d1 n < slotBlocks x.nchunk (maskList x.nsmask).length then
                gone d1 d 0x0707
              else
                let d2 := rsetf (setSnpState (putSnap d1 p x) p 1) .snpState 0 p 63 32 x.step
                d = toStep (probeHeads (rset d2 .snpProg 0 p (toW (x.nchunk * 2 ^ 32))) (.cmd q k)
                  (probeSpaces d1 p x.nsmask) 0) q k 1)
          (fun st d1 => gone d1 d st)
      else match snapAt s.dev p with
        | none => d = s.dev
        | some x0 =>
          let x := x0.heard s.dev p
          let nss := probeSpaces s.dev p x0.nsmask
          match y.step with
          | 1 => d = if busy then s.dev else toStep (probeDirs s.dev (.cmd q k) y.buf nss 0) q k 2
          | 2 =>
            let gens := [0, 1].map fun a => ((slotValid y.buf nss a).map fun v => headGen v.1).getD 0
            let z : Snap := if x0.gen ≠ 0 then { x0 with next := 0, hashes := [], done := false }
              else { x0 with gen := gens.foldl max 0 + 1, slot := if newestSlot y.buf nss = some 0 then 1 else 0 }
            if busy then d = s.dev
            else match askBuddies s.dev p 1 z [] with
              | none => d = s.dev
              | some d1 =>
                let d2 := submit (maskList z.nsmask) d1 fun e n => .write (regionStart e n z.slot) zeroBlock
                d = toStep (setSnpBits (setSnpState (putSnap d2 p z) p 1) p z) q k 3
          | 3 => d = if busy ∨ (x.buddies.any fun b => b.live && answersOf s.dev p b.chip == 0) = true then putSnap s.dev p x
              else toStep (submit (maskList x.nsmask) (putSnap s.dev p x) fun _ _ => .flush) q k 4
          | 4 => d = if busy then s.dev else toStep (setSnpState s.dev p 2) q k 5
          | _ =>
            let x := { x with forced := x.forced || (fabPart s.dev p).bell.isNone }
            let d0 := setSnpBits (putSnap s.dev p x) p x
            let at_ := chunkPlace (maskList x.nsmask) x.nchunk x.next
            if x.next = x.nchunk then
              if busy ∨ (x.buddies.all fun b => !b.live || acksOf s.dev p b.chip == x.nchunk) = false then d = d0
              else FinishesFree (setSnpState (putSnap d0 p { x with done := true }) p 3) d q k 0
            else if ((x.window || x.forced) && nvRoom s.dev at_.1 &&
                x.buddies.all fun b => !b.live || decide (x.next < acksOf s.dev p b.chip + 32)) = false then d = d0
            else Turn d0 d0 d (streamRead sp x (snapChunk * x.next) snapChunk)
              (fun bs d1 => match chunkToBuddies d1 p x bs with
                | none => d = d0
                | some d2 =>
                  let z := { x with next := x.next + 1, hashes := x.hashes ++ [sha384 bs] }
                  let d3 := rset (nvIssue d2 (.cmd q k) at_.1 (.write (regionStart d2 at_.1 x.slot + at_.2) bs) 0)
                    .snpProg 0 p (toW (z.next + z.nchunk * 2 ^ 32))
                  d = if z.next = z.nchunk then raiseDrained d3 p z else putSnap d3 p z)
              (fun st d1 => gone (rsetf d1 .snpErrLast 0 0 52 21 x.next) d st)) ∧
    (∀ (n now : Nat), Live s →
      let d0 := advanceTo s.dev now
      (Completes (.drainWindow n now) s fun d => d = match snapAt s.dev n with
        | none => s.dev
        | some x =>
          let z := { x with window := windowOpen d0 n x }
          if windowOpen d0 n x = x.window ∨ inTurnAt d0 (drainAt d0 n x) .drain = true then setSnpBits (putSnap d0 n z) n z
          else s.dev) ∧
      (Completes (.drainDeadline n now) s fun d => d = match snapAt s.dev n with
        | none => s.dev
        | some x =>
          let z := { x with forced := true }
          if x.deadline ≠ 0 ∧ x.deadline ≤ d0.ns ∧ x.drained = false then setSnpBits (putSnap d0 n z) n z else s.dev)) ∧
    (CmdRuns s q k 0x0602 y → Completes (.snapCommit q k) s fun d =>
      if y.status ≠ 0 then fails s.dev d y.status
      else match snapAt s.dev p with
        | none => if y.step = 0 then fails s.dev d 0x0708 else d = s.dev
        | some x0 =>
          let x := x0.heard s.dev p
          let nss := maskList x.nsmask
          let did (b : Buddy) : Bool := b.live && decide (1 ≤ answersOf s.dev p b.chip)
          let w := toW (commitResult s.dev p x).1
          if y.step = 0 then
            if x0.done = false ∨ bits (y.param 0) 31 0 ≠ x0.step then fails s.dev d 0x0708
            else if y.param 1 % 64 ≠ 0 then fails s.dev d 0x0190
            else if nss.all (nsUsable s.dev) = false then fails s.dev d 0x070B
            else Turn s.dev s.dev d (vread sp (y.param 1) 64)
              (fun loss d1 =>
                let z := { x0.heard d1 p with commitAt := some (x0.commitAt.getD d1.ns) }
                match askBuddies d1 p 2 z loss with
                | none => d = s.dev
                | some d2 =>
                  let d3 := submit nss d2 fun e n => .write (regionStart e n z.slot + 1) z.dir
                  d = updCmd (setSnpState (putSnap d3 p z) p 4) q k fun u => { u with step := 1, buf := loss })
              (fun st d1 => fails d1 d st)
          else if busy then d = putSnap s.dev p x
          else match y.step with
            | 1 => d = toStep (submit nss s.dev fun _ _ => .flush) q k 2
            | 2 => d = toStep (submit nss s.dev fun e n => .write (regionStart e n x.slot)
                (makeHead 0 x.nsmask n (chipId s.dev p) (x.control s.dev p 2 y.buf) x.dir)) q k 3
            | 3 => d = toStep (submit nss s.dev fun _ _ => .flush) q k 4
            | _ =>
              if (x.buddies.any fun b => b.live && answersOf s.dev p b.chip == 0) = true then d = putSnap s.dev p x
              else if (x.buddies.all fun b => b.chip == 0 || did b) = true then
                Finishes (setSnpState (dropSnap s.dev p) p 0) d q k 0 w
              else Finishes (snapEnds (dropSnap s.dev p) q k 0x0702) d q k 0x0702 w) ∧
    (CmdRuns s q k 0x0603 y → Completes (.restore q k) s fun d =>
      let nss := probeSpaces s.dev p (restoreMask y)
      let phase := y.step / 16
      let taken (e : Dev) : Prop := Turn e e d place
        (fun _ d1 => d = atPhase (setAux (setAux (showProg (keepDev d1) p (c + 1) (rChunks y)) q k 1 (c + 1)) q k 2 0) q k 4)
        (fun st d1 => fails (noteChunk d1 c) d st)
      if phase ≠ 3 ∧ phase ≠ 6 ∧ y.status ≠ 0 then fails s.dev d y.status
      else match phase with
        | 0 =>
          if restoreParamOk s.dev p y = false then fails s.dev d 0x0190
          else if snapOpen s.dev p q k = true then fails s.dev d 0x0708
          else if (maskList (restoreMask y)).all (nsUsable s.dev) = false then fails s.dev d 0x070B
          else d = atPhase (setSnpState (probeHeads s.dev (.cmd q k) nss 0) p 5) q k 1
        | 1 => d = if busy then s.dev else atPhase (probeDirs s.dev (.cmd q k) y.buf nss 0) q k 2
        | 2 =>
          let slot := match y.param 0 % 4 with
            | 0 => newestSlot y.buf nss
            | n => some (n - 1)
          if busy then d = s.dev
          else match slot.bind fun a => (slotValid y.buf nss a).map fun v => (a, v) with
            | none => fails s.dev d 0x0703
            | some (a, h, dir) =>
              if bits (y.param 2) 31 0 ≠ 0xFFFFFFFF ∧ headStep h ≠ bits (y.param 2) 31 0 then fails s.dev d 0x0703
              else if headQuarters h ≠ (quartersOf s.dev p).length then fails s.dev d 0x070C
              else if y.replayed = false ∧ restoreBusy s.dev p = true then fails s.dev d 0x0705
              else
                let d1 := rsetf (rsetf s.dev .snpState 0 p 63 32 (headStep h % 2 ^ 32)) .snpState 0 p 11 8 (headMask h)
                let d2 := rsetf (showProg d1 p 0 (headChunks h)) .snpState 0 p 5 5 a
                d = atPhase (updCmd d2 q k fun u => { u with buf := h ++ dir, aux2 := [a, 0, 0] }) q k
                  (if bit (y.param 0) 4 then 3 else 4)
        | 3 => match (restoreHolders y)[auxN y 2]? with
          | none => fails s.dev d 0x0709
          | some chip =>
            match askHolder s.dev q k p y chip 5 (headGen (rHead y)) (headSource (rHead y)) 0 (frameOff 64) 4096 (rOther y) with
            | .going e => d = e
            | .failed e _ => d = atPhase (setAux e q k 2 (auxN y 2 + 1)) q k 3
            | .got e =>
              let h := padTo 4096 ((y.buf.drop (rOther y)).take 4096)
              if headValid h = true ∧ headSame h (rHead y) = true then d = atPhase (setAux e q k 2 0) q k 4
              else fails e d 0x0709
        | 4 =>
          let at_ := chunkPlace (maskList (headMask (rHead y))) (rChunks y) c
          d = if rChunks y ≤ c then atPhase s.dev q k 7
            else atPhase (nvIssue s.dev (.cmd q k) at_.1 (.read (regionStart s.dev at_.1 (auxN y 0) + at_.2) 256)
              (rChunkOff y)) q k 5
        | 5 =>
          if busy then d = s.dev
          else if chunkGood y c = true then taken s.dev
          else d = atPhase (setAux s.dev q k 2 0) q k 6
        | 6 => match (restoreHolders y)[auxN y 2]? with
          | none => fails (noteChunk s.dev c) d 0x0704
          | some chip =>
            match askHolder s.dev q k p y chip 6 (headGen (rHead y)) (headSource (rHead y)) c (frameOff (64 + c % 32))
                snapChunk (rChunkOff y) with
            | .going e => d = e
            | .failed e _ => d = atPhase (setAux e q k 2 (auxN y 2 + 1)) q k 6
            | .got e => if chunkGood y c = true then taken e else d = atPhase (setAux e q k 2 (auxN y 2 + 1)) q k 6
        | _ => Turn s.dev s.dev d (do
              let reps ← readReplacements sp (y.param 3) (y.param 4 % 32)
              let st ← applySection p sp reps none (rDev y)
              vwrite sp (y.param 5) ((rHead y).take 512)
              pure st)
            (fun st d1 => if st ≠ 0 then fails d1 d st
              else d = finishVisible (setSnpState d1 p 0) q k (if bit (y.param 0) 4 then 0 else 0x0035)
                (toW (headStep (rHead y))))
            (fun st d1 => fails d1 d st)) ∧
    (CmdRuns s q k 0x0604 y →
      (Completes (.spareFill q k) s fun d =>
        let n := rChunks y
        let asks (i len off : Nat) (ok : Dev → Prop) : Prop :=
          match askHolder s.dev q k p y ((fillSources y).getD i 0) 5 0 (fillLost y) 0 (frameOff 64) len off with
          | .going e => d = e
          | .failed e st => fails e d st
          | .got e => ok e
        let other := padTo 4096 ((y.buf.drop (rOther y)).take 4096)
        if y.param 0 % 4 = 1 then d = s.dev
        else if y.step / 16 ≠ 0 ∧ (fillSources y).any (fenced s.dev p) = true then
          Finishes (snapEnds s.dev q k 0x0706) d q k 0x0706 (toW (verified s.dev p))
        else match y.step / 16 with
          | 0 =>
            if fillParamOk y = false then fails s.dev d 0x0190
            else if snapOpen s.dev p q k = true then fails s.dev d 0x0708
            else d = atPhase (setSnpState s.dev p 6) q k 1
          | 1 => asks 0 4096 0 fun e => if headValid (rHead y) = true then d = atPhase e q k 2 else fails e d 0x0709
          | 2 => asks 0 (rDirBytes y) 0 fun e =>
            if sha384 (rDir y) ≠ headDirHash (rHead y) then fails e d 0x0709
            else if bits (y.param 2) 31 0 ≠ 0xFFFFFFFF ∧ headStep (rHead y) ≠ bits (y.param 2) 31 0 then fails e d 0x0703
            else if headQuarters (rHead y) ≠ (quartersOf e p).length then fails e d 0x070C
            else if y.replayed = false ∧ restoreBusy e p = true then fails e d 0x0705
            else d = atPhase e q k (if (fillSources y).length = 2 then 3 else 4)
          | 3 => asks 1 4096 (rOther y) fun e =>
            if headValid other = true ∧ headSame other (rHead y) = true then d = atPhase e q k 4 else fails e d 0x0709
          | 4 =>
            let h := rHead y
            if bits (y.param 4) 63 32 < 512 + fillBitmap n then fails s.dev d 0x0190
            else Turn s.dev s.dev d (do
                let ok ← rangeCorrect p sp (y.param 5) (512 + fillBitmap n)
                let old ← vread sp (y.param 5) (512 + fillBitmap n)
                if !ok then pure (false, 0)
                else if headValid old && headSource old == headSource h && headSame old h then
                  pure (true, ((List.range n).filter fun i => bit (leNat ((old.drop (512 + i / 8)).take 1)) (i % 8)).length)
                else
                  vwrite sp (y.param 5) (h.take 512 ++ List.replicate (fillBitmap n) 0)
                  pure (true, 0))
              (fun r d1 => if r.1 = false then fails d1 d 0x0191
                else
                  let d2 := rsetf (showProg (rsetf d1 .snpFill 0 p 63 32 r.2) p r.2 n) .snpState 0 p 63 32 (headStep h % 2 ^ 32)
                  d = atPhase (setAux (setAux d2 q k 1 0) q k 2 0) q k 5)
              (fun st d1 => fails d1 d st)
          | 5 => Turn s.dev s.dev d (vread sp (y.param 5 + 512) (fillBitmap n))
            (fun map d1 => d = match (List.range n).find? fun i => decide (c ≤ i) &&
                (!bit (leNat ((map.drop (i / 8)).take 1)) (i % 8) || holdsDev y i) with
              | some i => atPhase (setAux (setAux d1 q k 1 i) q k 2 0) q k 6
              | none => atPhase d1 q k 7)
            (fun st d1 => fails d1 d st)
          | 6 => match (fillSources y)[auxN y 2]? with
            | none => fails (noteChunk s.dev c) d 0x0704
            | some chip =>
              match askHolder s.dev q k p y chip 6 (headGen (rHead y)) (fillLost y) c (frameOff (64 + c % 32)) snapChunk
                  (rChunkOff y) with
              | .going e => d = e
              | .failed e st => fails (noteChunk e c) d st
              | .got e =>
                if chunkGood y c = true then Turn e e d (do
                    place
                    modify keepDev
                    let b ← vread sp (y.param 5 + 512 + c / 8) 1
                    vwrite sp (y.param 5 + 512 + c / 8) [BitVec.ofNat 8 (setBits (leNat b) (c % 8) (c % 8) 1)]
                    pure (bit (leNat b) (c % 8)))
                  (fun old d1 =>
                    let d2 := if old then d1 else rcount d1 .snpFill 0 p 63 32 1
                    d = atPhase (setAux (setAux (showProg d2 p (verified d2 p) n) q k 1 (c + 1)) q k 2 0) q k 5)
                  (fun st d1 => fails (noteChunk d1 c) d st)
                else d = atPhase (setAux e q k 2 (auxN y 2 + 1)) q k 6
          | _ => Turn s.dev s.dev d (do
                let reps ← readReplacements sp (y.param 3) (y.param 4 % 32)
                applySection p sp reps (some (chipId s.dev p)) (rDev y))
              (fun st d1 => if st ≠ 0 then fails d1 d st
                else ∃ v, d = finishVisible (setSnpState { d1 with free := d1.free + 1 } p 0) q k 0 v)
              (fun st d1 => fails d1 d st)) ∧
      (Completes (.spareAdmit q k) s fun d =>
        if y.param 0 % 4 ≠ 1 then d = s.dev
        else if snapOpen s.dev p q k = true then fails s.dev d 0x0708
        else if rfield s.dev .snpFill 0 p 1 0 ≠ 2 ∧ y.replayed = false then fails s.dev d 0x070A
        else Finishes (rsetf (editMembers s.dev p (chipId s.dev p) (withState 0)) .snpFill 0 p 1 0 0) d q k 0
          (toW (groupsWith s.dev p (chipId s.dev p))))) ∧
    (∀ (d : Dev) (x : Snap) (st : Nat), st < 65536 →
      let e := snapEnds d q k st
      let z := partOfQueue d q
      rfield e .snpErrLast 0 0 15 0 = st ∧ rfield e .snpErrLast 0 0 17 16 = z ∧ e.hub = d.hub ∧ e.mem = d.mem ∧
      e.snp = { d.snp with nvme := e.snp.nvme } ∧ nvBusy e (.cmd q k) = false ∧
      rfield e .snpState 0 z 2 0 = (if (snapAt d z).map (·.done) = some true then 3 else 0) ∧
      semAt (raiseDrained d p x) x.sem = semAt d x.sem + (if x.drained = true then 0 else 1) ∧
      (∀ m, m ≠ x.sem → semAt (raiseDrained d p x) m = semAt d m) ∧
      snapAt (raiseDrained d p x) p = some { x with drained := true } ∧
      ∀ a b, x.buddies = [a, b] →
        let did (u : Buddy) : Bool := u.live && decide (1 ≤ answersOf d p u.chip)
        (commitResult d p x).1 = 1 + 2 * (did a).toNat + 4 * (did b).toNat)

/-- NVMe commands read and write blocks as submitted, fail as R388 says; the port trains and goes down;
replica service. For every state: a command to a usable namespace is submitted, one to any other fails
at once; a successful read gives its blocks to whoever asked, a successful write sets its blocks and no
other; a failure counts and shows in SNP_ERR_LAST, and its snapshot command has DRIVE_ERROR. A command
of more than 5 s is aborted and counted; one whose abort does not complete takes every other with it; a
write that ends so has reached the drive or not. The port trains with the speed, width and namespaces
found, or tries again 1 s later, and its loss leaves outstanding commands without an answer. A signal
that comes to a partition whose staging is off, or from a chip that is no source, is refused; a staged
chunk is read, hashed, written to the replica slot and acknowledged once it is on the drive; a request
is read and served, its answer going out last. (R387, R388, R389, R394, R395) -/
def Obligations.SnapshotDrive : Prop :=
  ∀ (s : State) (now : Nat), Live s →
    let d0 := advanceTo s.dev now
    (∀ id sct sc, Completes (.nvmeCompletion id sct sc now) s fun d =>
      d = match s.dev.snp.nvme.find? fun w => w.id == id && !w.lost with
        | none => s.dev
        | some w =>
          let d1 := { d0 with snp.nvme := s.dev.snp.nvme.erase w }
          if sct = 0 ∧ sc = 0 then nvApply d1 w
          else nvFail (rcount d1 .snpPortStatus 0 0 31 16 1) w.who w.ns (sct % 8 * 2 ^ 8 + sc % 2 ^ 8)) ∧
    (∀ id aborted, Completes (.nvmeTimeout id aborted now) s fun d =>
      d = match s.dev.snp.nvme.find? fun w => w.id == id with
        | none => s.dev
        | some w =>
          let d1 := { d0 with snp.nvme := s.dev.snp.nvme.erase w }
          let d2 := rcount (nvFail (nvMaybe d1 w) w.who w.ns 0) .snpPortStatus 0 0 47 32 1
          if d0.clock < w.since + 5000000000 then s.dev
          else if aborted = true then d2
          else nvAbandon (d2.snp.nvme.foldl (fun e u => nvFail e u.who u.ns 0) d2)) ∧
    (∀ speed width (spaces : List (Nat × Bool)), Completes (.snapshotPortTrain speed width spaces now) s fun d =>
      if snpLink s.dev = 2 ∨ d0.clock < s.dev.snp.trainFrom then d = s.dev
      else if 1 ≤ speed ∧ speed ≤ 4 ∧ 1 ≤ width ∧ width ≤ 3 then
        d = { d0 with snp.perstN := true, regs := d.regs } ∧ snpLink d = 2 ∧
        rfield d .snpPortStatus 0 0 7 2 = speed + 8 * width + 32 ∧
        (∀ n, n < 4 → nsUsable d n = (spaces.getD n (0, false)).2 ∧
          rfield d .snpNsInfo 0 n 47 0 = (spaces.getD n (0, false)).1 % 2 ^ 48) ∧
        ∀ key, key ≠ Reg.snpPortStatus.key 0 0 → (∀ n, n < 4 → key ≠ Reg.snpNsInfo.key 0 n) →
          mget 0 d.regs key = mget 0 s.dev.regs key
      else d = { d0 with snp.perstN := true, snp.trainFrom := d0.clock + 1000000000 }) ∧
    (Completes (.snapshotLinkDown now) s fun d =>
      d = if snpLink s.dev = 2 then rsetf { d0 with
          snp.nvme := s.dev.snp.nvme.map fun w => { w with lost := true }
          snp.trainFrom := d0.clock + 1000000000 } .snpPortStatus 0 0 11 0 0
        else s.dev) ∧
    (∀ p i, Completes (.replicaChunk p i now) s fun d =>
      d = match (replAt s.dev p i).todo with
        | [] => s.dev
        | (src, amount) :: _ =>
          if 3 ≤ i ∨ 4 ≤ p then s.dev
          else if stageOn s.dev p = false ∨ (i < 2 ∧ (src = 0 ∨ replSource s.dev p i ≠ src)) then replRefuse d0 p i src
          else if sigAnswer ≤ amount then serveRequest d0 p i src
          else serveChunk d0 p i src amount) ∧
    (∀ (d : Dev) (who : NvWho) (ns off blk n : Nat) (op : NvOp) (data : List Byte) (w : NvCmd),
      (nvIssue d who ns op off = if nsUsable d ns = true then
          { d with snp.nvme := d.snp.nvme ++ [⟨d.snp.nextId, ns, op, off, who, d.clock, false⟩], snp.nextId := d.snp.nextId + 1 }
        else nvFail d who ns 0) ∧
      (w.op = .write blk data →
        (∀ m b, let at_ := w.ns * 2 ^ 48 + blk; let key := m * 2 ^ 48 + b
          driveBlock (nvApply d w) m b = if at_ ≤ key ∧ key < at_ + (data.length + 4095) / 4096 then
            padTo 4096 ((data.drop (4096 * (key - at_))).take 4096) else driveBlock d m b) ∧
        nvApply d w = { d with snp.drive := (nvApply d w).snp.drive } ∧
        (let e := { d with free := d.free + 1 }; nvMaybe d w = e ∨ nvMaybe d w = nvApply e w)) ∧
      (∀ q k, w.op = .read blk n → w.who = .cmd q k → nvApply d w = updCmd d q k fun y => { y with
        buf := putBytesAt y.buf w.off ((List.range n).flatMap fun i => driveBlock d w.ns (blk + i)) }) ∧
      (∀ q k y, ns < 4 → n < 2048 → cmdAt d q k = some y →
        let e := nvFail d (.cmd q k) ns n
        e.snp = d.snp ∧ e.mem = d.mem ∧ rfield e .snpErrLast 0 0 19 18 = ns ∧ rfield e .snpErrLast 0 0 63 53 = n ∧
        (cmdAt e q k).map (·.status) = some (if y.st = .finished then y.status else max y.status 0x0701))) ∧
    (∀ (d : Dev) (p i src amount : Nat),
      let r := replAt d p i
      let x := Control.of r.record
      let nss := ownSpaces d p
      let busy := nvBusy d (.repl p i) = true
      let submit (d1 : Dev) (op : Nat → NvOp) : Dev := nss.foldl (fun e n => nvIssue e (.repl p i) n (op n) 0) d1
      (∀ sem n, replDone d p i src sem n = match signalBack d p src sem n with
        | none => d
        | some e => putRepl e p i { replAt e p i with todo := (replAt e p i).todo.tail, step := 0, buf := [], bad := false }) ∧
      replRefuse d p i src = replDone d p i src (semBase d p + 3) sigRefusal ∧
      (let e := serveChunk d p i src amount
       if r.bad = true ∨ nss = [] ∨ x.nchunk ≤ r.next then e = replRefuse d p i src
       else if r.step = 0 then Turn d d e (dread (stageBase d p) (frameOff (32 * i + r.next % 32)) snapChunk)
         (fun bs d1 =>
           let at_ := chunkPlace nss x.nchunk r.next
           e = nvIssue (putRepl d1 p i { r with step := 1, hashes := r.hashes ++ [sha384 bs] }) (.repl p i) at_.1
             (.write (regionStart d1 at_.1 (replRegion i x.slot) + at_.2) bs) 0)
         (fun _ d1 => e = replRefuse d1 p i src)
       else if busy then e = d
       else e = match signalBack d p src x.ack sigChunk with
         | none => d
         | some d1 => putRepl d1 p i { r with
             next := r.next + 1
             step := 0
             todo := if 1 < amount then (src, amount - 1) :: r.todo.tail else r.todo.tail }) ∧
      (let e := serveRequest d p i src
       if r.bad = true then e = replRefuse d p i src
       else if r.step = 0 then Turn d d e (dread (stageBase d p) (recordOff_ i) 4096)
         (fun bs d1 => e = putRepl d1 p i { r with record := bs, step := 1 })
         (fun _ d1 => e = replRefuse d1 p i src)
       else if busy then e = d
       else if x.chip ≠ src then e = replRefuse d p i src
       else if i = 2 then
         if x.code = 5 ∨ x.code = 6 then e = serveFill d p src x else e = replRefuse d p i src
       else match x.code with
         | 1 =>
           if nss = [] ∨ ∃ n ∈ nss, regionBlocks d n < slotBlocks x.nchunk nss.length then e = replRefuse d p i src
           else e = match r.step with
             | 1 => replStep (submit (putRepl d p i { r with next := 0, hashes := [] })
                 fun n => .write (regionStart d n (replRegion i x.slot)) zeroBlock) p i 2
             | 2 => replStep (submit d fun _ => .flush) p i 3
             | _ => replDone d p i src x.ack sigAnswer
         | 2 =>
           let dir := makeDir x.entries r.hashes
           if nss = [] ∨ r.hashes.length ≠ x.nchunk then e = replRefuse d p i src
           else e = match r.step with
             | 1 => replStep (submit d fun n => .write (regionStart d n (replRegion i x.slot) + 1) dir) p i 2
             | 2 => replStep (submit d fun _ => .flush) p i 3
             | 3 => replStep (submit d fun n => .write (regionStart d n (replRegion i x.slot))
                 (makeHead 1 (nss.map (2 ^ ·)).sum n x.chip x dir)) p i 4
             | 4 => replStep (submit d fun _ => .flush) p i 5
             | _ => replDone d p i src x.ack sigAnswer
         | _ => e = replRefuse d p i src))

/-- S0 reads as 0 and P0 as 1, neither is written; CALL writes S31; a launched context has only S1 to S4
set. For every context, S0 reads as 0, P0 as 1, and a write to either leaves the context as it is. For
every state, context and word whose CALL issues, it writes PC + 8 to S31. A started LAUNCH of an IDLE
context leaves every register of it 0, with the parameters of the command; a context in CHECKING with
its predicates and vector registers 0 whose manifest passes is launched with parameter i in Si for i
from 1 to 4, and every other scalar register, every predicate but P0 and every vector register 0. (R45) -/
def Obligations.HardwiredRegisters : Prop :=
  (∀ (x : Ctx) (v : Word) (b : Bool), x.sreg 0 = 0 ∧ x.pred 0 = true ∧ x.setSreg 0 v = x ∧ x.setPred 0 b = x) ∧
    (∀ (s : State) (c : Nat) (w : TWord), Issues s c w .scalar →
      Completes (.call c w) s fun d => (ctxAt d c).sreg 31 = toW ((ctxAt s.dev c).pc + 8)) ∧
    (∀ (s : State) (q k : Nat) (y : Cmd), CmdRuns s q k 0x0201 y → y.aux = [] → launchAny y = false →
      let c := 8 * launchTile y + launchSlot y
      (ctxAt s.dev c).state = .idle → Completes (.launch q k) s fun d => (ctxAt d c).state = .checking ∧
        (∀ i, (ctxAt d c).sreg i = 0 ∧ (ctxAt d c).vreg i = 0) ∧ (ctxAt d c).preds = 0 ∧ (ctxAt d c).vregs = [] ∧
        (ctxAt d c).params = (List.range 6).map fun i => toW (y.param i)) ∧
    (∀ (s : State) (c : Nat), Live s → c < 512 → (ctxAt s.dev c).state = .checking →
      let x := ctxAt s.dev c
      x.preds = 0 → x.vregs = [] → ∀ m d1, runChecker s.dev c x.asid (x.params.headD 0).toNat = .pass d1 m → ctxAt d1 c = x →
        Completes (.launchCheckDone c) s fun d => (ctxAt d c).state = .ready ∧
          (∀ i, (ctxAt d c).sreg i = if 1 ≤ i ∧ i ≤ 4 then x.params.getD i 0 else 0) ∧
          (∀ i, (ctxAt d c).pred i = decide (i = 0)) ∧ ∀ i, (ctxAt d c).vreg i = 0)

/-- An access to an unmapped physical address ends in ADDRESS_UNMAPPED; an unused MMIO address reads 0 and
keeps nothing. For every state: reading or writing at least one byte from an unmapped address on fails
with ADDRESS_UNMAPPED and changes nothing of the device, and so does a register access there, whose
completion carries that status. An 8-byte aligned read of an address in the MMIO window that no register
has returns 0, and a write to it changes nothing at all. (R27) -/
def Obligations.UnmappedAddresses : Prop :=
  ∀ (s : State) (pa : Nat),
    (regionOf pa = .unmapped →
      (∀ (len : Nat) (coh : Bool), 0 < len → (readPhys pa len coh).go s.dev = (.error (.err 0x0412 (pa / 64 * 64)), s.dev)) ∧
      (∀ (by_ : By) (bs : List Byte) (coh : Bool), bs ≠ [] →
        (writePhys by_ pa bs coh).go s.dev = (.error (.err 0x0412 (pa / 64 * 64)), s.dev)) ∧
      (Live s → ∀ (width : Nat) (v : Word),
        (Completes (.registerWrite pa width v) s fun d => d = emit s.dev (.mmio 0x0412 none)) ∧
        (Completes (.rcFieldRead pa width) s fun d => d = emit s.dev (.mmio 0x0412 none)))) ∧
    (regionOf pa = .mmio → registerAt pa = none → pa % 8 = 0 → Live s →
      (Completes (.rcFieldRead pa 8) s fun d => d = emit s.dev (.mmio 0 (some 0))) ∧
      ∀ v : Word, Completes (.registerWrite pa 8 v) s fun d => d = s.dev)

/-- The life-cycle state follows the flags RET, DEPL and PROV, in that order. For every state, with a flag
set when at least 24 of its 32 bits are 1: the fused life-cycle state is RETURNED (3) if RET is set,
otherwise DEPLOYED (2) if DEPL is set, otherwise PROVISIONED (1) if PROV is set, and otherwise BLANK
(0); and ROM_INIT shows it in SEC_LC_STATUS. (R432) -/
def Obligations.LifeCycleState : Prop :=
  ∀ (s : State),
    let isSet (w : BitVec 32) : Bool := decide (24 ≤ ((List.range 32).filter fun i => w.getLsbD i).length)
    let f := s.fuses
    let state := if isSet f.ret = true then 3 else if isSet f.depl = true then 2 else if isSet f.prov = true then 1 else 0
    f.state = state ∧
      (Live s → bootStage s.dev = 0 → ∀ ident, Completes (.romInitDone ident) s fun d =>
        rfield d .secLcStatus 0 0 1 0 = state)

/-- A step runs the command at the front of the queue on the rest; on an empty queue only time moves. For
every state and command: with the command at the front of the queue, a step is its effect on the machine
whose queue is the rest, whatever its outcome. On an empty queue the block idles: the reference clock
advances by 1 ns, campus time with it as its correction says, and nothing else changes but how long the
device has been without work, which is the model's choice (log 2). (00_scope.md,
10_fabric_and_campus_time.md) -/
def Obligations.StepRunsFront : Prop :=
  ∀ (s : State),
    (∀ (c : Instr) (rest : List Instr),
      step { s with pending := c :: rest } = exec c { s with pending := rest }) ∧
    (s.pending = [] → step s = .next { s with dev := advanceTo s.dev (s.dev.clock + 1) }) ∧
    (∀ now, s.dev.clock ≤ now →
      let d := advanceTo s.dev now
      d = { s.dev with clock := now, ns := d.ns, frac := d.frac, fab.slew := d.fab.slew, pwr.busyAt := d.pwr.busyAt } ∧
      d.frac < 65536 ∧ (workless s.dev = false → d.pwr.busyAt = now) ∧ (workless s.dev = true → d.pwr.busyAt = s.dev.pwr.busyAt) ∧
      (s.dev.fab.freq = 0 → s.dev.fab.slew = 0 → s.dev.frac < 65536 →
        d.ns = s.dev.ns + (now - s.dev.clock) ∧ d.frac = s.dev.frac ∧ d.fab.slew = 0))

/-- No command faults or is refused, and none touches the queue; without the hub's clocks only the Night
Porter, the pins and the test port act. For every command and state, exec answers a next state with the
same waiting commands. Where the hub's clocks are stopped (power lost, the reset pin held, a thermal
trip, NIGHT), a command that needs them changes nothing at all; that such a command is turned away
without a trace is the model's choice (log 1). (15_power_thermal_night_porter.md,
17_package_and_signals.md) -/
def Obligations.EveryCommandCompletes : Prop :=
  ∀ (c : Instr) (s : State), (∃ t, exec c s = .next t ∧ t.pending = s.pending) ∧
    (s.dev.live = false → needsHub c = true → exec c s = .next s)

/-- Every step leaves the fuses as they are or burns more of them, along the transitions of R437. For every
state and command queue: after a step the identity and the key hashes are the same; every life-cycle
flag, revocation and SVN bit that was 1 still is; the life-cycle state is the same or has moved along
BLANK to PROVISIONED, PROVISIONED to DEPLOYED, or PROVISIONED or DEPLOYED to RETURNED, and then the
device secret is as it was but for PROVISIONED, where it is drawn, and RETURNED, where it is all ones;
without such a move the secret and its indices stay. Only LC_TRANSITION, SVN_ADVANCE and KEY_REVOKE at
the front of the queue change a fuse. (R431, R432, R437, R440) -/
def Obligations.FusesOnlyBurn : Prop :=
  ∀ (s t : State), step s = .next t →
    let f := s.fuses
    let g := t.fuses
    g.uid = f.uid ∧ g.keyHash = f.keyHash ∧ f.prov &&& g.prov = f.prov ∧ f.depl &&& g.depl = f.depl ∧
      f.ret &&& g.ret = f.ret ∧ f.svn &&& g.svn = f.svn ∧ f.svnValue ≤ g.svnValue ∧
      (∀ i, i < 4 → f.revoked.getD i 0 &&& g.revoked.getD i 0 = f.revoked.getD i 0) ∧
      f.revokedMask &&& g.revokedMask = f.revokedMask ∧
      (g.state = f.state ∨ (f.state, g.state) ∈ [(0, 1), (1, 2), (1, 3), (2, 3)]) ∧
      (g.state = f.state ∨ g.state = 2 → g.uds = f.uds ∧ g.pIter = f.pIter ∧ g.qIter = f.qIter) ∧
      (f.state ≠ 3 → g.state = 3 → g.uds = BitVec.allOnes 256) ∧
      ((s.pending.head?.map burnsFuses).getD false = false → g = f)

/-- The machine after reset: power-up state with boot beginning, nothing waiting, memory empty and in
canonical form. After reset no command waits; boot is at ROM_INIT with partition 0 in reset and not
READY; the link and every fabric port are DOWN; campus time is 0 in FREE_RUN; no queue is on, every
semaphore is 0 and no context is busy; every byte of DRAM and Tile SRAM reads 0 in a list in canonical
form; the power state is ACTIVE, the thermal limits and droop limits are at 64 and L is 64. That
unwritten DRAM reads 0 before the wipe has run, that pins are at their running levels and the values of
the fuses are the model's (logs 5, 6, 9). (R23, R42, R176, R307, R407, R425) -/
def Obligations.ResetValues : Prop :=
  let d := State.reset.dev
  State.reset.pending = [] ∧ d.live = true ∧ bootStage d = 0 ∧ inReset d 0 = true ∧ isReady d 0 = false ∧
    linkState d = 0 ∧ (∀ i, i < 32 → portIn d i .down = true) ∧ d.ns = 0 ∧ timeIn d .freeRun = true ∧
    (∀ q, (queueAt d q).state = .off) ∧ (∀ n, semAt d n = 0) ∧ (∀ c, ctxAt d c = Ctx.reset) ∧
    (∀ a, mget 0 d.mem.bytes a = 0 ∧ mget 0 d.tiles.sram a = 0) ∧ Memory.wf d.mem.bytes = true ∧
    Memory.wf d.tiles.sram = true ∧ d.power = .active ∧ capLimit d = 64 ∧ ∀ t, t < 64 → effectiveLimit d t = 64

/-- A write of physical memory stores its bytes and no others, and every access keeps memory in canonical
form. For every device state, range and bytes: a write to DRAM in which nothing is damaged, if it is not
refused, leaves each byte of its range as given and every other byte of memory as it was, and the same
range then reads as written. Whatever a read or write of physical or virtual memory answers, memory
stays in canonical form and no queue, semaphore, context, ledger, tally or fabric state changes; a read
of sound memory changes no byte of it. (R25, R26, R168, R178) -/
def Obligations.MemoryWritesAreExact : Prop :=
  (∀ (by_ : By) (pa : Nat) (bs : List Byte) (coh : Bool) (hint : Alloc) (d d1 : Dev),
      (∀ a, pa ≤ a → a < pa + bs.length → ∃ n, regionOf a = .dram n) →
      d.mem.lineErr = [] → (∀ x ∈ d.mem.qc, x.bad = []) →
      (writePhys by_ pa bs coh hint).go d = (.ok (), d1) →
        (∀ a, mget 0 d1.mem.bytes a = if pa ≤ a ∧ a < pa + bs.length then bs.getD (a - pa) 0 else mget 0 d.mem.bytes a) ∧
        bytesAt d1.mem.bytes pa bs.length = bs ∧ d1.mem.lineErr = [] ∧ ∀ x ∈ d1.mem.qc, x.bad = []) ∧
    (∀ (pa n : Nat) (coh : Bool) (hint : Alloc) (d d1 : Dev) (bs : List Byte),
      (∀ a, pa ≤ a → a < pa + n → ∃ m, regionOf a = .dram m) → d.mem.lineErr = [] → (∀ x ∈ d.mem.qc, x.bad = []) →
      (readPhys pa n coh hint).go d = (.ok bs, d1) → bs = bytesAt d.mem.bytes pa n ∧ d1.mem.bytes = d.mem.bytes) ∧
    (∀ (by_ : By) (sp : Space) (a n : Nat) (bs : List Byte) (coh : Bool) (hint : Alloc) (d : Dev),
      Memory.wf d.mem.bytes = true →
      ∀ d1, d1 ∈ [((writePhys by_ a bs coh hint).go d).2, ((readPhys a n coh hint).go d).2, ((vwrite sp a bs hint).go d).2,
          ((vread sp a n hint).go d).2] →
        Memory.wf d1.mem.bytes = true ∧ d1.hub = d.hub ∧ d1.ledger = d.ledger ∧ d1.tally = d.tally ∧
        d1.fab = d.fab ∧ d1.snp = d.snp ∧ d1.tiles = { d.tiles with slots := d1.tiles.slots })

/-- A lossless Satchel stream decodes to its source, passes every check of R234 and stays within the bound
of R232. For every element width and every source of a multiple of 64 bytes below 64 GiB: PLANES coding
of whole elements loses nothing; the stream that a lossless STORE writes has a header that passes its
checks for the source's length, a directory that increases, a length that is a multiple of 64 and at
most the bound; and decoding its chunks one by one gives the source, with no chunk failing. (R228, R229,
R230, R232, R234) -/
def Obligations.SatchelStreamsAreLossless : Prop :=
  (∀ (w : Nat) (bs : List Byte), 1 ≤ w → bs.length % w = 0 →
      planesDecode w bs.length (planesEncode w bs) = some bs) ∧
    ∀ (width : Nat) (src : List Byte), width ≤ 2 → src ≠ [] → src.length % 64 = 0 → src.length < 2 ^ 36 →
      let s := (streamOf 0 width src).1
      headOk (s.take 64) src.length = true ∧ dirOk s = true ∧ s.length % 64 = 0 ∧
        s.length ≤ streamBound src.length ∧
        chunksDecode s ((src.length + 65535) / 65536) 0 = (src, none)
end

