-- ==== Sys2Proof/Laws/Bits.lean ====
section
/-!
SUPPORT. The laws of bit fields: a field after a write of that field, and after a write of another.
-/

namespace Sys2Proof.Machine

theorem testBit_bits (w hi lo i : Nat) :
    (bits w hi lo).testBit i = (decide (i < hi + 1 - lo) && w.testBit (lo + i)) := by
  simp [bits, Nat.testBit_mod_two_pow, Nat.testBit_div_two_pow, Nat.add_comm]

theorem bits_lt (w hi lo : Nat) : bits w hi lo < 2 ^ (hi + 1 - lo) :=
  Nat.mod_lt _ (Nat.two_pow_pos _)

theorem testBit_setBits (w hi lo v i : Nat) :
    (setBits w hi lo v).testBit i =
      if lo ≤ i ∧ i < lo + (hi + 1 - lo) then v.testBit (i - lo) else w.testBit i := by
  set n := hi + 1 - lo with hn
  have hw : w = w / 2 ^ (lo + n) * 2 ^ (lo + n) + (bits w hi lo * 2 ^ lo + w % 2 ^ lo) := by
    have h1 : w / 2 ^ lo = w / 2 ^ (lo + n) * 2 ^ n + bits w hi lo := by
      rw [bits, ← hn, pow_add, ← Nat.div_div_eq_div_mul]
      exact (Nat.div_add_mod' _ _).symm
    have h2 := Nat.div_add_mod' w (2 ^ lo)
    rw [h1] at h2
    have h3 : ∀ k b r : Nat, (k * 2 ^ n + b) * 2 ^ lo + r = k * 2 ^ (lo + n) + (b * 2 ^ lo + r) := by
      intro k b r; rw [pow_add]; ring
    exact h2.symm.trans (h3 _ _ _)
  have hs : setBits w hi lo v =
      2 ^ lo * (2 ^ n * (w / 2 ^ (lo + n)) + v % 2 ^ n) + w % 2 ^ lo := by
    unfold setBits
    have : w - bits w hi lo * 2 ^ lo = w / 2 ^ (lo + n) * 2 ^ (lo + n) + w % 2 ^ lo := by omega
    rw [this, ← hn, pow_add]
    ring
  have hr : w % 2 ^ lo < 2 ^ lo := Nat.mod_lt _ (Nat.two_pow_pos _)
  have hv : v % 2 ^ n < 2 ^ n := Nat.mod_lt _ (Nat.two_pow_pos _)
  rw [hs, Nat.testBit_two_pow_mul_add _ hr]
  by_cases h1 : i < lo
  · have h2 : ¬ (lo ≤ i ∧ i < lo + n) := by omega
    rw [if_pos h1, if_neg h2, Nat.testBit_mod_two_pow]
    simp [h1]
  · rw [if_neg h1, Nat.testBit_two_pow_mul_add _ hv]
    by_cases h2 : i - lo < n
    · have h3 : lo ≤ i ∧ i < lo + n := by omega
      rw [if_pos h2, if_pos h3, Nat.testBit_mod_two_pow]
      simp [h2]
    · have h3 : ¬ (lo ≤ i ∧ i < lo + n) := by omega
      rw [if_neg h2, if_neg h3, Nat.testBit_div_two_pow]
      congr 1; omega

/-- A field reads as what was written to it, in its width. -/
theorem bits_setBits_same (w hi lo v : Nat) : bits (setBits w hi lo v) hi lo = v % 2 ^ (hi + 1 - lo) := by
  apply Nat.eq_of_testBit_eq
  intro i
  rw [testBit_bits, testBit_setBits, Nat.testBit_mod_two_pow]
  by_cases h : i < hi + 1 - lo
  · have : lo ≤ lo + i ∧ lo + i < lo + (hi + 1 - lo) := by omega
    simp [h]
  · simp [h]

/-- A field keeps its value when a disjoint one is written. -/
theorem bits_setBits_ne (w hi lo v hi' lo' : Nat) (h : hi' < lo ∨ hi < lo') :
    bits (setBits w hi lo v) hi' lo' = bits w hi' lo' := by
  apply Nat.eq_of_testBit_eq
  intro i
  rw [testBit_bits, testBit_bits, testBit_setBits]
  by_cases h1 : i < hi' + 1 - lo'
  · have : ¬ (lo ≤ lo' + i ∧ lo' + i < lo + (hi + 1 - lo)) := by omega
    rw [if_neg this]
  · simp [h1]

theorem setBits_lt (w hi lo v n : Nat) (hw : w < 2 ^ n) (hh : hi < n) : setBits w hi lo v < 2 ^ n := by
  apply Nat.lt_pow_two_of_testBit
  intro i hi'
  rw [testBit_setBits]
  have : ¬ (lo ≤ i ∧ i < lo + (hi + 1 - lo)) := by omega
  rw [if_neg this]
  exact Nat.testBit_lt_two_pow (Nat.lt_of_lt_of_le hw (Nat.pow_le_pow_right (by omega) hi'))

theorem toNat_wsetBits (w : Word) (hi lo v : Nat) (h : hi < 64) :
    (wsetBits w hi lo v).toNat = setBits w.toNat hi lo v := by
  simp only [wsetBits, toW, BitVec.toNat_ofNat]
  exact Nat.mod_eq_of_lt (setBits_lt _ _ _ _ _ w.isLt h)

theorem wbits_wsetBits_same (w : Word) (hi lo v : Nat) (h : hi < 64) :
    wbits (wsetBits w hi lo v) hi lo = v % 2 ^ (hi + 1 - lo) := by
  rw [wbits, toNat_wsetBits _ _ _ _ h, bits_setBits_same]

theorem wbits_wsetBits_ne (w : Word) (hi lo v hi' lo' : Nat) (hh : hi < 64) (h : hi' < lo ∨ hi < lo') :
    wbits (wsetBits w hi lo v) hi' lo' = wbits w hi' lo' := by
  rw [wbits, toNat_wsetBits _ _ _ _ hh, bits_setBits_ne _ _ _ _ _ _ h, wbits]

theorem wbit_wsetBits (w : Word) (hi lo v i : Nat) (hh : hi < 64) :
    wbit (wsetBits w hi lo v) i =
      if lo ≤ i ∧ i < lo + (hi + 1 - lo) then v.testBit (i - lo) else wbit w i := by
  rw [wbit, toNat_wsetBits _ _ _ _ hh, testBit_setBits, wbit]

/-- A number kept in a word. -/
theorem toNat_toW (n : Nat) : (toW n).toNat = n % 2 ^ 64 := by
  simp [toW]

@[simp] theorem length_leBytes (n : Nat) : ∀ v, (leBytes n v).length = n := by
  induction n with
  | zero => intro v; rfl
  | succ n ih => intro v; simp [leBytes, ih]

/-- The bytes of a number give it back, in their width. -/
theorem leNat_leBytes (n : Nat) : ∀ v, leNat (leBytes n v) = v % 2 ^ (8 * n) := by
  induction n with
  | zero => intro v; simp [leBytes, leNat, Nat.mod_one]
  | succ n ih =>
    intro v
    have h : 2 ^ (8 * (n + 1)) = 256 * 2 ^ (8 * n) := by rw [Nat.mul_add, pow_add]; ring
    simp only [leBytes, leNat, ih, BitVec.toNat_ofNat, h]
    rw [Nat.mod_mul]

end Sys2Proof.Machine
end

