-- ==== Sys2Proof/Laws/Store.lean ====
section
/-!
SUPPORT. The laws of the sparse tables and of memory: what a read after a write gives, and that every
operation keeps the canonical form.
-/

namespace Sys2Proof.Machine

section Tables

variable {α : Type}

@[simp] theorem mget_nil (d : α) (i : Nat) : mget d [] i = d := rfl

theorem mget_merase (d : α) (m : List (Nat × α)) (i j : Nat) :
    mget d (merase m i) j = if j = i then d else mget d m j := by
  induction m with
  | nil => simp [merase]
  | cons e m ih =>
    obtain ⟨k, v⟩ := e
    simp only [merase]
    split <;> (simp only [mget]; grind)

theorem mget_mput (d : α) (m : List (Nat × α)) (i j : Nat) (a : α) :
    mget d (mput m i a) j = if j = i then a else mget d m j := by
  induction m with
  | nil => simp [mput, mget]
  | cons e m ih =>
    obtain ⟨k, v⟩ := e
    simp only [mput]
    split
    · simp only [mget]; grind
    · split <;> simp only [mget]
      all_goals grind

/-- A table after a write: the key written reads as written, every other key as before. -/
theorem mget_mset [DecidableEq α] (d : α) (m : List (Nat × α)) (i j : Nat) (a : α) :
    mget d (mset d m i a) j = if j = i then a else mget d m j := by
  unfold mset
  split
  · next h => rw [mget_merase, h]
  · exact mget_mput d m i j a

@[simp] theorem mget_mset_same [DecidableEq α] (d : α) (m : List (Nat × α)) (i : Nat) (a : α) :
    mget d (mset d m i a) i = a := by
  simp [mget_mset]

theorem mget_mset_ne [DecidableEq α] (d : α) (m : List (Nat × α)) {i j : Nat} (a : α) (h : j ≠ i) :
    mget d (mset d m i a) j = mget d m j := by
  simp [mget_mset, h]

theorem mget_mkeep (d : α) (p : Nat → Bool) (m : List (Nat × α)) (j : Nat) :
    mget d (mkeep p m) j = if p j then mget d m j else d := by
  induction m with
  | nil => simp [mkeep]
  | cons e m ih =>
    obtain ⟨k, v⟩ := e
    simp only [mkeep, List.filter_cons] at ih ⊢
    by_cases h : p k = true <;> simp only [h, mget, ite_true] <;> grind

/-! ### The canonical form -/

theorem mwfFrom_le [DecidableEq α] (d : Nat → α) {lo lo' : Nat} (m : List (Nat × α)) (h : lo' ≤ lo)
    (hm : mwfFrom d lo m = true) : mwfFrom d lo' m = true := by
  cases m with
  | nil => rfl
  | cons e m =>
    simp only [mwfFrom, Bool.and_eq_true, decide_eq_true_eq] at hm ⊢
    exact ⟨⟨Nat.le_trans h hm.1.1, hm.1.2⟩, hm.2⟩

theorem mwfFrom_merase [DecidableEq α] (d : Nat → α) (i : Nat) :
    ∀ (lo : Nat) (m : List (Nat × α)), mwfFrom d lo m = true → mwfFrom d lo (merase m i) = true
  | _, [], _ => rfl
  | lo, (k, v) :: m, h => by
    simp only [mwfFrom, Bool.and_eq_true, decide_eq_true_eq] at h
    have ih := mwfFrom_merase d i (k + 1) m h.2
    simp only [merase]
    split
    · exact mwfFrom_le d _ (by omega) ih
    · simp only [mwfFrom, Bool.and_eq_true, decide_eq_true_eq]; exact ⟨h.1, ih⟩

theorem mwfFrom_mput [DecidableEq α] (d : Nat → α) (i : Nat) (a : α) (ha : a ≠ d i) :
    ∀ (lo : Nat) (m : List (Nat × α)), lo ≤ i → mwfFrom d lo m = true → mwfFrom d lo (mput m i a) = true
  | lo, [], hi, _ => by simp [mput, mwfFrom, hi, ha]
  | lo, (k, v) :: m, hi, h => by
    simp only [mwfFrom, Bool.and_eq_true, decide_eq_true_eq] at h
    simp only [mput]
    split
    · next e => subst e; simp only [mwfFrom, Bool.and_eq_true, decide_eq_true_eq]; exact ⟨⟨hi, ha⟩, h.2⟩
    · split
      · next e =>
        simp only [mwfFrom, Bool.and_eq_true, decide_eq_true_eq]
        exact ⟨⟨hi, ha⟩, ⟨by omega, h.1.2⟩, h.2⟩
      · have ih := mwfFrom_mput d i a ha (k + 1) m (by omega) h.2
        simp only [mwfFrom, Bool.and_eq_true, decide_eq_true_eq]
        exact ⟨h.1, ih⟩

/-- A write keeps the canonical form of a table whose unlisted keys all read as `d`. -/
theorem mwf_mset [DecidableEq α] (d : α) (m : List (Nat × α)) (i : Nat) (a : α)
    (h : mwf (fun _ => d) m = true) : mwf (fun _ => d) (mset d m i a) = true := by
  unfold mset
  split
  · exact mwfFrom_merase _ i 0 m h
  · next ha => exact mwfFrom_mput _ i a ha 0 m (Nat.zero_le i) h

theorem mwfFrom_mkeep [DecidableEq α] (d : Nat → α) (p : Nat → Bool) :
    ∀ (lo : Nat) (m : List (Nat × α)), mwfFrom d lo m = true → mwfFrom d lo (mkeep p m) = true
  | _, [], _ => rfl
  | lo, (k, v) :: m, h => by
    simp only [mwfFrom, Bool.and_eq_true, decide_eq_true_eq] at h
    have ih := mwfFrom_mkeep d p (k + 1) m h.2
    simp only [mkeep, List.filter_cons] at ih ⊢
    split
    · simp only [mwfFrom, Bool.and_eq_true, decide_eq_true_eq]; exact ⟨h.1, ih⟩
    · exact mwfFrom_le d _ (by omega) ih

theorem mwf_mkeep [DecidableEq α] (d : Nat → α) (p : Nat → Bool) (m : List (Nat × α))
    (h : mwf d m = true) : mwf d (mkeep p m) = true :=
  mwfFrom_mkeep d p 0 m h

end Tables

/-! ### Memory -/

/-- A byte after a store: the stored byte inside the range, the byte before outside it. -/
theorem mget_bytesPut (bs : List Byte) :
    ∀ (m : List (Nat × Byte)) (a j : Nat),
      mget 0 (bytesPut m a bs) j = if a ≤ j ∧ j < a + bs.length then bs.getD (j - a) 0 else mget 0 m j := by
  induction bs with
  | nil =>
    intro m a j
    have : ¬ (a ≤ j ∧ j < a + ([] : List Byte).length) := by simp only [List.length_nil]; omega
    rw [if_neg this]; rfl
  | cons b bs ih =>
    intro m a j
    simp only [bytesPut, ih, mget_mset, List.length_cons]
    by_cases h : j = a
    · subst h
      simp
    · by_cases h2 : a + 1 ≤ j ∧ j < a + 1 + bs.length
      · have h3 : a ≤ j ∧ j < a + (bs.length + 1) := by omega
        obtain ⟨n, hn⟩ : ∃ n, j - a = n + 1 := ⟨j - a - 1, by omega⟩
        have hn' : j - (a + 1) = n := by omega
        simp [h2, h3, hn, hn']
      · have h3 : ¬ (a ≤ j ∧ j < a + (bs.length + 1)) := by omega
        rw [if_neg h2, if_neg h3, if_neg h]

/-- A store keeps the canonical form. -/
theorem wf_bytesPut (bs : List Byte) :
    ∀ (m : List (Nat × Byte)) (a : Nat), Memory.wf m = true → Memory.wf (bytesPut m a bs) = true := by
  induction bs with
  | nil => intro m a h; exact h
  | cons b bs ih => intro m a h; exact ih _ _ (mwf_mset 0 m a b h)

/-- A byte after a range is zeroed. -/
theorem mget_bytesClear (m : List (Nat × Byte)) (a n j : Nat) :
    mget 0 (bytesClear m a n) j = if a ≤ j ∧ j < a + n then 0 else mget 0 m j := by
  unfold bytesClear
  rw [mget_mkeep]
  by_cases h : a ≤ j ∧ j < a + n
  · have : (decide (j < a) || decide (a + n ≤ j)) = false := by simp; omega
    simp [h, this]
  · have : (decide (j < a) || decide (a + n ≤ j)) = true := by simp; omega
    simp [h, this]

/-- Zeroing a range keeps the canonical form. -/
theorem wf_bytesClear (m : List (Nat × Byte)) (a n : Nat) (h : Memory.wf m = true) :
    Memory.wf (bytesClear m a n) = true :=
  mwf_mkeep _ _ m h

@[simp] theorem length_bytesAt (m : List (Nat × Byte)) (n : Nat) :
    ∀ a, (bytesAt m a n).length = n := by
  induction n with
  | zero => intro a; rfl
  | succ n ih => intro a; simp [bytesAt, ih]

theorem getD_bytesAt (m : List (Nat × Byte)) (n : Nat) :
    ∀ a i, i < n → (bytesAt m a n).getD i 0 = mget 0 m (a + i) := by
  induction n with
  | zero => intro a i h; omega
  | succ n ih =>
    intro a i h
    cases i with
    | zero => rfl
    | succ i =>
      have := ih (a + 1) i (by omega)
      simp only [bytesAt, List.getD_cons_succ, this]
      congr 1; omega

/-- Reading back what was stored. -/
theorem bytesAt_bytesPut (m : List (Nat × Byte)) (a : Nat) (bs : List Byte) :
    bytesAt (bytesPut m a bs) a bs.length = bs := by
  apply List.ext_getElem (by simp)
  intro i h1 h2
  have h3 : i < bs.length := by simpa using h2
  have := getD_bytesAt (bytesPut m a bs) bs.length a i h3
  rw [mget_bytesPut] at this
  have h4 : a ≤ a + i ∧ a + i < a + bs.length := by omega
  simp only [h4, and_self, ite_true, Nat.add_sub_cancel_left] at this
  simpa [List.getD_eq_getElem?_getD, h1, h3] using this

end Sys2Proof.Machine
end

