-- ==== Sys2Proof/Laws/Ops.lean ====
section
/-!
SUPPORT. What each shared operation of Ops.lean can do: what a read after a write gives, and which
parts of the device it may change.
-/

namespace Sys2Proof.Machine

/-! ### Registers -/

theorem mget_mset_other {α : Type} [DecidableEq α] (d d' : α) (m : List (Nat × α)) {i j : Nat} (a : α)
    (h : j ≠ i) : mget d (mset d' m i a) j = mget d m j := by
  unfold mset
  split
  · rw [mget_merase, if_neg h]
  · rw [mget_mput, if_neg h]

@[simp] theorem rget_rset (d : Dev) (r : Reg) (n i : Nat) (v : Word) : rget (rset d r n i v) r n i = v := by
  simp [rget, rset]

theorem rget_rset_ne (d : Dev) (r r' : Reg) (n i n' i' : Nat) (v : Word) (h : r'.key n' i' ≠ r.key n i) :
    rget (rset d r n i v) r' n' i' = rget d r' n' i' := by
  simp only [rget, rset]
  exact mget_mset_other _ _ _ _ h

/-- A register write changes the register file alone. -/
theorem rset_frame (d : Dev) (r : Reg) (n i : Nat) (v : Word) :
    rset d r n i v = { d with regs := (rset d r n i v).regs } := rfl

@[simp] theorem rfield_rsetf (d : Dev) (r : Reg) (n i hi lo v : Nat) (h : hi < 64) :
    rfield (rsetf d r n i hi lo v) r n i hi lo = v % 2 ^ (hi + 1 - lo) := by
  simp [rfield, rsetf, wbits_wsetBits_same, h]

theorem rfield_rsetf_ne (d : Dev) (r : Reg) (n i hi lo v hi' lo' : Nat) (hh : hi < 64)
    (h : hi' < lo ∨ hi < lo') : rfield (rsetf d r n i hi lo v) r n i hi' lo' = rfield d r n i hi' lo' := by
  simp [rfield, rsetf, wbits_wsetBits_ne _ _ _ _ _ _ hh h]

theorem rget_rsetf_ne (d : Dev) (r r' : Reg) (n i n' i' hi lo v : Nat) (h : r'.key n' i' ≠ r.key n i) :
    rget (rsetf d r n i hi lo v) r' n' i' = rget d r' n' i' :=
  rget_rset_ne _ _ _ _ _ _ _ _ h

theorem rfield_rset_other (d : Dev) (r r' : Reg) (n i n' i' hi' lo' : Nat) (v : Word)
    (h : r'.key n' i' ≠ r.key n i) :
    rfield (rset d r n i v) r' n' i' hi' lo' = rfield d r' n' i' hi' lo' := by
  simp only [rfield, rget_rset_ne _ _ _ _ _ _ _ _ h]

theorem rfield_rsetf_other (d : Dev) (r r' : Reg) (n i n' i' hi lo v hi' lo' : Nat)
    (h : r'.key n' i' ≠ r.key n i) :
    rfield (rsetf d r n i hi lo v) r' n' i' hi' lo' = rfield d r' n' i' hi' lo' :=
  rfield_rset_other _ _ _ _ _ _ _ _ _ _ h

/-- A counting field after it counts. -/
theorem rfield_rcount (d : Dev) (r : Reg) (n i hi lo k : Nat) (h : hi < 64) :
    rfield (rcount d r n i hi lo k) r n i hi lo = min (2 ^ (hi + 1 - lo) - 1) (rfield d r n i hi lo + k) := by
  rw [rcount, rfield_rsetf _ _ _ _ _ _ _ h]
  apply Nat.mod_eq_of_lt
  have := Nat.two_pow_pos (hi + 1 - lo)
  omega

/-- Different registers have different keys. -/
theorem key_ne {r r' : Reg} {n n' i i' : Nat} (hn : n < 64) (hn' : n' < 64) (hi : i < 1024) (hi' : i' < 1024)
    (h : r.code ≠ r'.code ∨ n ≠ n' ∨ i ≠ i') : r.key n i ≠ r'.key n' i' := by
  unfold Reg.key
  omega

/-! ### Contexts -/

@[simp] theorem ctxAt_setCtx (d : Dev) (c : Nat) (x : Ctx) : ctxAt (setCtx d c x) c = x := by
  simp [ctxAt, setCtx]

theorem ctxAt_setCtx_ne (d : Dev) (c c' : Nat) (x : Ctx) (h : c' ≠ c) :
    ctxAt (setCtx d c x) c' = ctxAt d c' := by
  simp [ctxAt, setCtx, mget_mset, h]

@[simp] theorem ctxAt_updCtx (d : Dev) (c : Nat) (f : Ctx → Ctx) : ctxAt (updCtx d c f) c = f (ctxAt d c) := by
  simp [updCtx]

theorem setSreg_sreg (x : Ctx) (i j : Nat) (v : Word) :
    (x.setSreg i v).sreg j = if j = i ∧ j ≠ 0 then v else x.sreg j := by
  unfold Ctx.setSreg Ctx.sreg
  by_cases h0 : i = 0
  · by_cases hj : j = 0
    · simp [h0, hj]
    · simp [h0, hj]
  · simp only [if_neg h0, mget_mset]
    by_cases hj : j = 0
    · have : ¬ (j = i ∧ j ≠ 0) := by omega
      simp [hj]
    · by_cases hi : j = i
      · simp [hi, h0]
      · simp [hi, hj]

theorem setPred_pred (x : Ctx) (i j : Nat) (b : Bool) :
    (x.setPred i b).pred j = if j = i ∧ j ≠ 0 then b else x.pred j := by
  unfold Ctx.setPred Ctx.pred
  by_cases h0 : i = 0
  · by_cases hj : j = 0
    · simp [h0, hj]
    · simp [h0, hj]
  · by_cases hj : j = 0
    · simp [hj]
    · simp only [if_neg h0, if_neg hj, testBit_setBits]
      by_cases hi : j = i
      · subst hi
        have : j ≤ j ∧ j < j + (j + 1 - j) := by omega
        rw [if_pos this]
        cases b <;> simp [hj]
      · have : ¬ (i ≤ j ∧ j < i + (i + 1 - i)) := by omega
        rw [if_neg this]
        simp [hi]

/-- Changing a context's scalar register changes nothing else of it. -/
theorem setSreg_frame (x : Ctx) (i : Nat) (v : Word) :
    x.setSreg i v = { x with sregs := (x.setSreg i v).sregs } := by
  unfold Ctx.setSreg; split <;> rfl

theorem setPred_frame (x : Ctx) (i : Nat) (b : Bool) :
    x.setPred i b = { x with preds := (x.setPred i b).preds } := by
  unfold Ctx.setPred; split <;> rfl

@[simp] theorem setVreg_vreg (x : Ctx) (i : Nat) (v : VReg) : (x.setVreg i v).vreg i = v := by
  simp [Ctx.setVreg, Ctx.vreg]

theorem setVreg_vreg_ne (x : Ctx) (i j : Nat) (v : VReg) (h : j ≠ i) : (x.setVreg i v).vreg j = x.vreg j := by
  simp [Ctx.setVreg, Ctx.vreg, mget_mset, h]

/-- Moving on changes the PC and the loops alone. -/
theorem goto_frame (x : Ctx) (n : Nat) : x.goto n = { x with pc := (x.goto n).pc, loops := (x.goto n).loops } := rfl

/-! ### Slots, rings, tables, queues -/

@[simp] theorem slotAt_setSlot (d : Dev) (t n : Nat) (s : Slot) : slotAt (setSlot d t n s) t n = s := by
  simp [slotAt, setSlot]

theorem find_mput {α : Type} (m : List (Nat × α)) (i : Nat) (a : α) :
    ((mput m i a).find? fun e => e.1 == i) = some (i, a) := by
  induction m with
  | nil => simp [mput]
  | cons e m ih =>
    obtain ⟨k, v⟩ := e
    simp only [mput]
    split
    · simp
    · split
      · simp
      · next h _ => simp [ih, Ne.symm h]

@[simp] theorem ringAt_setRing (d : Dev) (t r : Nat) (x : Ring) : ringAt (setRing d t r x) t r = some x := by
  simp [ringAt, setRing, find_mput]

@[simp] theorem genAt_setGen (d : Dev) (k : TableKind) (p : Nat) (g : Gen) : genAt (setGen d k p g) k p = g := by
  simp [genAt, setGen]

@[simp] theorem queueAt_setQueue (d : Dev) (q : Nat) (x : Queue) : queueAt (setQueue d q x) q = x := by
  simp [queueAt, setQueue]

theorem queueAt_setQueue_ne (d : Dev) (q q' : Nat) (x : Queue) (h : q' ≠ q) :
    queueAt (setQueue d q x) q' = queueAt d q' := by
  simp [queueAt, setQueue, mget_mset, h]

/-- What ends a command changes its queue alone. -/
theorem finishCmd_frame (d : Dev) (q k st : Nat) (v : Word) :
    finishCmd d q k st v = { d with hub := { d.hub with queues := (finishCmd d q k st v).hub.queues } } := rfl

theorem updCmd_frame (d : Dev) (q k : Nat) (f : Cmd → Cmd) :
    updCmd d q k f = { d with hub := { d.hub with queues := (updCmd d q k f).hub.queues } } := rfl

/-! ### Messages and events -/

/-- Sending a message appends it to what leaves, and may count as traffic of the link. -/
theorem emit_frame (d : Dev) (o : Out) :
    emit d o = { d with out := d.out ++ [o], rnl := { d.rnl with lastTraffic := (emit d o).rnl.lastTraffic } } := by
  unfold emit
  cases o <;> first | rfl | (simp only; split <;> rfl)

theorem sendEvents_frame (n : Nat) : ∀ d : Dev,
    sendEvents n d = { d with rnl := (sendEvents n d).rnl, out := (sendEvents n d).out } := by
  induction n with
  | zero => intro d; rfl
  | succ n ih =>
    intro d
    unfold sendEvents
    split
    · rfl
    · split
      · rw [ih, emit_frame]
        rfl
      · rfl

/-- An event changes Ranolink's state, what leaves, and the count of lost events. -/
theorem postEvent_frame (d : Dev) (p c : Nat) (ws : List Word) :
    postEvent d p c ws = { d with
      regs := (postEvent d p c ws).regs, rnl := (postEvent d p c ws).rnl, out := (postEvent d p c ws).out } := by
  unfold postEvent
  simp only
  split
  · rfl
  · rw [sendEvents_frame]

/-! ### Free values -/

theorem freeW_frame (d : Dev) : (freeW d).2 = { d with free := d.free + 1 } := rfl
theorem freeBit_frame (d : Dev) : (freeBit d).2 = { d with free := d.free + 1 } := rfl

end Sys2Proof.Machine
end

