-- ==== Sys2Proof/Laws/Memory.lean ====
section
/-!
SUPPORT. What an access to memory can change, whatever it answers: the performance, error and event
registers, memory and its check state, elements in flight, Ranolink, what leaves, and free values.
-/

namespace Sys2Proof.Machine

/-- The parts of the device that an access may change. -/
def AccessFrame (d d' : Dev) : Prop :=
  d' = { d with
    regs := d'.regs, mem := d'.mem, rnl := d'.rnl, out := d'.out, free := d'.free,
    tiles := { d.tiles with slots := d'.tiles.slots } }

theorem AccessFrame.refl (d : Dev) : AccessFrame d d := rfl

theorem AccessFrame.trans {a b c : Dev} (h : AccessFrame a b) (h' : AccessFrame b c) : AccessFrame a c := by
  unfold AccessFrame at *
  rw [h] at h'
  exact h'

theorem AccessFrame.hub {d d' : Dev} (h : AccessFrame d d') : d'.hub = d.hub := by
  unfold AccessFrame at h; rw [h]

theorem AccessFrame.ctxAt {d d' : Dev} (h : AccessFrame d d') (c : Nat) : ctxAt d' c = ctxAt d c := by
  unfold AccessFrame at h; rw [h]; rfl

theorem AccessFrame.queueAt {d d' : Dev} (h : AccessFrame d d') (q : Nat) : queueAt d' q = queueAt d q := by
  simp only [Machine.queueAt, h.hub]

theorem AccessFrame.cmdAt {d d' : Dev} (h : AccessFrame d d') (q k : Nat) : cmdAt d' q k = cmdAt d q k := by
  simp only [Machine.cmdAt, h.queueAt]

/-- An access keeps the rest of the device. -/
def Keeps {α : Type} (a : Act α) : Prop := ∀ d, AccessFrame d (a.go d).2

@[simp] theorem go_pure {α : Type} (v : α) (d : Dev) : (pure v : Act α).go d = (.ok v, d) := rfl
@[simp] theorem go_throw {α : Type} (e : Stop) (d : Dev) : (throw e : Act α).go d = (.error e, d) := rfl
@[simp] theorem go_fail {α : Type} (st a : Nat) (d : Dev) :
    (Act.fail st a : Act α).go d = (.error (.err st a), d) := rfl
@[simp] theorem go_get (d : Dev) : (get : Act Dev).go d = (.ok d, d) := rfl
@[simp] theorem go_set (d d' : Dev) : (set d' : Act Unit).go d = (.ok (), d') := rfl

/-- What a sequence answers. -/
theorem go_bind {α β : Type} (a : Act α) (f : α → Act β) (d : Dev) :
    (a >>= f).go d = match a.go d with
      | (.ok v, d') => (f v).go d'
      | (.error e, d') => (.error e, d') := by
  show (ExceptT.run (ExceptT.bind a f)).run d = _
  unfold ExceptT.bind ExceptT.bindCont Act.go ExceptT.run ExceptT.mk
  simp only [StateT.run, bind, StateT.bind]
  generalize h : (a d : Id _) = r
  obtain ⟨r1, r2⟩ := r
  cases r1 <;> simp_all [pure, StateT.pure]

/-- What a sequence that answers did. -/
theorem go_bind_ok {α β : Type} {a : Act α} {f : α → Act β} {d d' : Dev} {v : β} :
    (a >>= f).go d = (.ok v, d') ↔ ∃ u d1, a.go d = (.ok u, d1) ∧ (f u).go d1 = (.ok v, d') := by
  rw [go_bind]
  generalize a.go d = r
  obtain ⟨r1, r2⟩ := r
  cases r1 <;> simp

theorem go_tryCatch {α : Type} (a : Act α) (f : Stop → Act α) (d : Dev) :
    (tryCatch a f).go d = match a.go d with
      | (.ok v, d') => (.ok v, d')
      | (.error e, d') => (f e).go d' := by
  show (ExceptT.run (ExceptT.tryCatch a f)).run d = _
  unfold ExceptT.tryCatch Act.go ExceptT.run ExceptT.mk
  simp only [StateT.run, bind, StateT.bind]
  generalize h : (a d : Id _) = r
  obtain ⟨r1, r2⟩ := r
  cases r1 <;> simp_all [pure, StateT.pure]

theorem Keeps.pure {α : Type} (v : α) : Keeps (Pure.pure v : Act α) := fun d => AccessFrame.refl d
theorem Keeps.throw {α : Type} (e : Stop) : Keeps (throw e : Act α) := fun d => AccessFrame.refl d
theorem Keeps.fail {α : Type} (st a : Nat) : Keeps (Act.fail st a : Act α) := fun d => AccessFrame.refl d

theorem Keeps.bind {α β : Type} {a : Act α} {f : α → Act β} (ha : Keeps a) (hf : ∀ v, Keeps (f v)) :
    Keeps (a >>= f) := by
  intro d
  rw [go_bind]
  have := ha d
  generalize a.go d = r at this
  obtain ⟨r1, r2⟩ := r
  cases r1 with
  | error e => exact this
  | ok v => exact this.trans (hf v r2)

theorem Keeps.tryCatch {α : Type} {a : Act α} {f : Stop → Act α} (ha : Keeps a) (hf : ∀ e, Keeps (f e)) :
    Keeps (tryCatch a f) := by
  intro d
  rw [go_tryCatch]
  have := ha d
  generalize a.go d = r at this
  obtain ⟨r1, r2⟩ := r
  cases r1 with
  | ok v => exact this
  | error e => exact this.trans (hf e r2)

theorem Keeps.ite {α : Type} {p : Prop} [Decidable p] {a b : Act α} (ha : Keeps a) (hb : Keeps b) :
    Keeps (if p then a else b) := by
  split <;> assumption

/-- After `get` the rest is judged at the device read. -/
theorem keeps_get {α : Type} {f : Dev → Act α} (h : ∀ d, AccessFrame d ((f d).go d).2) :
    Keeps (get >>= f) := by
  intro d
  rw [go_bind, go_get]
  exact h d

/-- A change of the device within what an access may change. -/
theorem keeps_modify {f : Dev → Dev} (h : ∀ d, AccessFrame d (f d)) : Keeps (modify f) := fun d => h d

/-! ### Device functions -/

theorem rset_access (d : Dev) (r : Reg) (n i : Nat) (v : Word) : AccessFrame d (rset d r n i v) := rfl
theorem rcount_access (d : Dev) (r : Reg) (n i hi lo k : Nat) : AccessFrame d (rcount d r n i hi lo k) := rfl
theorem rwrap_access (d : Dev) (r : Reg) (n i k : Nat) : AccessFrame d (rwrap d r n i k) := rfl
theorem freeW_access (d : Dev) : AccessFrame d (freeW d).2 := rfl
theorem freeBit_access (d : Dev) : AccessFrame d (freeBit d).2 := rfl

theorem emit_access (d : Dev) (o : Out) : AccessFrame d (emit d o) := by
  unfold AccessFrame; rw [emit_frame]

theorem postEvent_access (d : Dev) (p c : Nat) (ws : List Word) : AccessFrame d (postEvent d p c ws) := by
  unfold AccessFrame; rw [postEvent_frame]

theorem reportLine_access (d : Dev) (pa : Nat) (f : Finding) (b : Bool) :
    AccessFrame d (reportLine d pa f b) := by
  unfold reportLine
  split
  · exact .refl d
  · generalize channelOf pa = co
    obtain ⟨ch, off⟩ := co
    have rest (d1 : Dev) : AccessFrame d1 (
        if f.cls ≠ 0 then
          postEvent d1 (partOfQuarter d (pa / quarterBytes)) 0x0002 (dramWords pa f.cls b)
        else
          let n := mget 0 d1.mem.corrCnt pa + 1
          let d2 := { d1 with mem.corrCnt := mset 0 d1.mem.corrCnt pa (if n = 5 then 0 else n) }
          if n = 5 then postEvent d2 (partOfQuarter d (pa / quarterBytes)) 0x0003 (dramWords pa 0 b)
          else d2) := by
      split
      · exact postEvent_access _ _ _ _
      · simp only
        split
        · refine AccessFrame.trans ?_ (postEvent_access _ _ _ _)
          simp only [AccessFrame]
        · simp only [AccessFrame]
    exact AccessFrame.trans ((rcount_access d .mcErrCnt _ _ _ _ 1).trans (rset_access _ .mcErrLast _ 0 _)) (rest _)

theorem soundLine_access (d : Dev) (pa : Nat) : AccessFrame d (soundLine d pa) := by
  simp only [AccessFrame, soundLine]

theorem foldl_access {β : Type} (f : Dev → β → Dev) (hf : ∀ d x, AccessFrame d (f d x)) (xs : List β) :
    ∀ d, AccessFrame d (xs.foldl f d) := by
  induction xs with
  | nil => exact fun d => .refl d
  | cons x xs ih => exact fun d => (hf d x).trans (ih _)

theorem retakeElem_access (line : Nat) (now : List Byte) (p : Dev × List Elem) (e : Elem) :
    AccessFrame p.1 (retakeElem line now p e).1 := by
  unfold retakeElem
  obtain ⟨d, es⟩ := p
  simp only
  split
  · exact .refl d
  · split
    · exact .refl d
    · exact freeBit_access d

theorem retakeElems_access (line : Nat) (now : List Byte) (xs : List Elem) :
    ∀ p : Dev × List Elem, AccessFrame p.1 (xs.foldl (retakeElem line now) p).1 := by
  induction xs with
  | nil => exact fun p => .refl p.1
  | cons x xs ih => exact fun p => (retakeElem_access line now p x).trans (ih _)

theorem touchLine_access (d : Dev) (line : Nat) : AccessFrame d (touchLine d line) := by
  unfold touchLine
  simp only
  refine AccessFrame.trans (foldl_access _ ?_ d.tiles.slots d) (foldl_access _ ?_ _ _)
  · intro d1 e
    have h := retakeElems_access line (bytesAt d.mem.bytes line 64) e.2.flight (d1, [])
    revert h
    generalize e.2.flight.foldl (retakeElem line (bytesAt d.mem.bytes line 64)) (d1, []) = r
    obtain ⟨d2, fl⟩ := r
    intro h
    simp only
    split
    · exact h
    · exact h.trans (by simp only [AccessFrame])
  · intro d w
    split
    · simp only [AccessFrame]
    · split
      · generalize hb : freeBit d = r
        have := freeBit_access d
        rw [hb] at this
        obtain ⟨b, d1⟩ := r
        simp only
        split
        · exact this.trans (by simp only [AccessFrame])
        · exact this
      · rfl

theorem askLine_access (d : Dev) (pa : Nat) (coh : Bool) : AccessFrame d (askLine d pa coh) := by
  unfold askLine
  split
  · rfl
  · split
    · rfl
    · simp only
      refine AccessFrame.trans ?_ (emit_access _ _)
      simp only [AccessFrame, useCredit]

theorem sendSnoop_access (d : Dev) (line : Nat) (inv ev : Bool) : AccessFrame d (sendSnoop d line inv ev) := by
  unfold sendSnoop
  split
  · rfl
  · split
    · rfl
    · simp only
      refine AccessFrame.trans ?_ (emit_access _ _)
      simp only [AccessFrame, useCredit]

theorem pushWrites_access (n : Nat) : ∀ d, AccessFrame d (pushWrites n d) := by
  induction n with
  | zero => exact fun d => .refl d
  | succ n ih =>
    intro d
    unfold pushWrites
    split
    · exact .refl d
    · split
      · exact .refl d
      · refine AccessFrame.trans ?_ (ih _)
        refine AccessFrame.trans ?_ (emit_access _ _)
        simp only [AccessFrame, useCredit]

theorem qcPut_access (d : Dev) (x : QLine) : AccessFrame d (qcPut d x) := by
  simp only [AccessFrame, qcPut]

theorem qcBack_access (d : Dev) (pa : Nat) : AccessFrame d (qcBack d pa) :=
  (rwrap_access d .mcPerfWr _ 0 64).trans (soundLine_access _ _)

theorem failLine_access (d : Dev) (pa : Nat) : AccessFrame d (failLine d pa) := by
  refine (soundLine_access d pa).trans ?_
  simp only [AccessFrame, failLine]

theorem settleLine_access (d : Dev) (pa : Nat) (diff : BitVec 512) : AccessFrame d (settleLine d pa diff) := by
  simp only [AccessFrame, settleLine]

theorem qcScan_access (d : Dev) (x : QLine) (h : Nat) : AccessFrame d (qcScan d x h).1 := by
  have count (d : Dev) (pa hi lo n : Nat) : AccessFrame d (qcCount d pa hi lo n) := rcount_access _ _ _ _ _ _ _
  unfold qcScan
  simp only
  split
  · exact .refl d
  · split
    · exact (count _ _ _ _ _).trans (qcPut_access _ _)
    · split
      · exact ((count _ _ _ _ _).trans (failLine_access _ _)).trans (qcPut_access _ _)
      · exact (count _ _ _ _ _).trans (qcPut_access _ _)

theorem qcLeave_access (d : Dev) (x : QLine) : AccessFrame d (qcLeave d x) := by
  have one (d : Dev) (h : Nat) : AccessFrame d (
      if x.dirty.testBit h then
        let (d, there) := qcScan d x h
        if there then qcBack d (128 * x.line + 64 * h) else d
      else d) := by
    split
    · have := qcScan_access d x h
      generalize qcScan d x h = r at *
      obtain ⟨d1, b⟩ := r
      simp only
      split
      · exact this.trans (qcBack_access _ _)
      · exact this
    · exact .refl d
  unfold qcLeave
  simp only
  refine ((one d 0).trans (one _ 1)).trans ?_
  simp only [AccessFrame]

theorem qcRoom_access (d : Dev) (line : Nat) : AccessFrame d (qcRoom d line) := by
  unfold qcRoom
  simp only
  split
  · exact .refl d
  · split
    · exact .refl d
    · split
      · exact qcLeave_access _ _
      · split
        · exact (freeW_access d).trans (qcLeave_access _ _)
        · exact freeW_access d

theorem qcUse_access (d : Dev) (pa : Nat) (hint : Alloc) (w : Bool) : AccessFrame d (qcUse d pa hint w) := by
  unfold qcUse
  simp only
  split
  · split
    · simp only [AccessFrame]
    · exact qcPut_access _ _
  · split
    · exact .refl d
    · refine (qcRoom_access d (pa / 128)).trans ?_
      simp only [AccessFrame]

theorem putLine_access (d : Dev) (pa : Nat) (bs : List Byte) (hint : Alloc) : AccessFrame d (putLine d pa bs hint) := by
  unfold putLine
  simp only
  refine AccessFrame.trans ?_ (touchLine_access _ _)
  refine AccessFrame.trans (b := { d with mem.bytes := bytesPut d.mem.bytes pa bs }) (by simp only [AccessFrame]) ?_
  split
  · exact qcBack_access _ _
  · exact qcUse_access _ _ _ _

/-- An access that waits leaves the device but for the request it waits for. -/
theorem waitDev_access (d d' : Dev) (n : Need) : AccessFrame d (waitDev d d' n) := by
  unfold waitDev
  refine AccessFrame.trans (b := { d with free := d'.free }) rfl ?_
  cases n with
  | snoop line inv => exact sendSnoop_access _ _ _ _
  | line pa coh => exact askLine_access _ _ _
  | nothing => exact .refl _

/-! ### Accesses by physical address -/

theorem gate_keeps (line : Nat) (w : Bool) : Keeps (gate line w) := by
  refine keeps_get fun d => ?_
  simp only
  split <;> exact .refl d

theorem checkDram_keeps (pa : Nat) (w : Bool) (b : By) : Keeps (checkDram pa w b) := by
  refine keeps_get fun d => ?_
  simp only
  split
  · exact .refl d
  · split
    · exact .refl d
    · split <;> exact .refl d

theorem windowGate_keeps (pa : Nat) : Keeps (windowGate pa) := by
  refine keeps_get fun d => ?_
  split
  · exact .refl d
  · split <;> exact .refl d

theorem readWindow_keeps (pa : Nat) (coh : Bool) : Keeps (readWindow pa coh) := by
  refine Keeps.bind (windowGate_keeps _) fun _ => keeps_get fun d => ?_
  simp only
  split
  · exact .refl d
  · rw [go_bind, go_set]
    simp only
    split <;> simp only [AccessFrame, go_pure, go_fail]

theorem go_set_bind {β : Type} (d d' : Dev) (f : Act β) : (set d' >>= fun _ => f : Act β).go d = f.go d' := by
  rw [go_bind, go_set]

theorem fillLine_keeps (pa : Nat) : Keeps (fillLine pa) := by
  unfold fillLine
  refine keeps_get fun d => ?_
  have h := rwrap_access d .mcPerfRd ((channelOf pa).1 / 16) 0 64
  simp only
  generalize rwrap d .mcPerfRd ((channelOf pa).1 / 16) 0 64 = d1 at *
  refine h.trans ?_
  generalize findLine d1 pa = f
  obtain ⟨f, diff⟩ := f
  cases f <;> simp only
  · rw [go_set]; exact settleLine_access _ _ _
  · rw [go_set]
    exact ((reportLine_access _ _ _ _).trans (settleLine_access _ _ _)).trans (soundLine_access _ _)
  all_goals
    rw [go_set_bind, go_fail]
    dsimp only
    exact reportLine_access _ _ _ _

theorem findInCache_keeps (pa : Nat) : Keeps (findInCache pa) := by
  unfold findInCache
  refine keeps_get fun d => ?_
  split
  · next x _ =>
    split
    · have h := qcScan_access d x (halfOf pa)
      generalize qcScan d x (halfOf pa) = r at *
      obtain ⟨d1, there⟩ := r
      simp only
      rw [go_set_bind]
      refine h.trans ?_
      split
      · exact .refl _
      · exact fillLine_keeps pa _
    · exact fillLine_keeps pa d
  · exact fillLine_keeps pa d

theorem reachLine_keeps (pa : Nat) (hint : Alloc) : Keeps (reachLine pa hint) :=
  (findInCache_keeps pa).bind fun _ => keeps_modify fun d => qcUse_access d pa hint false

theorem readDramLine_keeps (pa : Nat) (hint : Alloc) : Keeps (readDramLine pa hint) :=
  (reachLine_keeps _ _).bind fun _ => keeps_get fun d => .refl d

theorem readLine_keeps (pa : Nat) (coh : Bool) (hint : Alloc) : Keeps (readLine pa coh hint) := by
  unfold readLine
  split
  · exact (checkDram_keeps _ _ _).bind fun _ => (gate_keeps _ _).bind fun _ => readDramLine_keeps _ _
  · exact readWindow_keeps _ _
  · exact .fail _ _
  · exact .fail _ _

theorem readLines_keeps (coh : Bool) (hint : Alloc) (n : Nat) : ∀ pa, Keeps (readLines coh hint pa n) := by
  induction n with
  | zero => exact fun _ => .pure _
  | succ n ih => exact fun pa => (readLine_keeps _ _ _).bind fun _ => (ih _).bind fun _ => .pure _

theorem readPhys_keeps (pa len : Nat) (coh : Bool) (hint : Alloc) : Keeps (readPhys pa len coh hint) := by
  unfold readPhys
  split
  · exact .pure _
  · exact (readLines_keeps _ _ _ _).bind fun _ => .pure _

theorem sentWrite_access (d : Dev) (line : Nat) (data : List Byte) (coh : Bool) :
    AccessFrame d (sentWrite d line data coh) := by
  unfold sentWrite
  refine AccessFrame.trans ?_ (pushWrites_access _ _)
  simp only [AccessFrame]

theorem writeWindow_keeps (pa : Nat) (bs : List Byte) (coh : Bool) : Keeps (writeWindow pa bs coh) := by
  have put (old : List Byte) : Keeps (modify fun d =>
      sentWrite d (alignDown 64 pa) (old.take (pa % 64) ++ bs ++ old.drop (pa % 64 + bs.length)) coh) :=
    keeps_modify fun d => sentWrite_access _ _ _ _
  unfold writeWindow
  refine (windowGate_keeps _).bind fun _ => ?_
  simp only
  split
  · exact (Keeps.pure _).bind fun old => put old
  · exact (readWindow_keeps _ _).bind fun old => put old

theorem writeLine_keeps (b : By) (pa : Nat) (bs : List Byte) (coh : Bool) (hint : Alloc) :
    Keeps (writeLine b pa bs coh hint) := by
  unfold writeLine
  split
  · refine (checkDram_keeps _ _ _).bind fun _ => (gate_keeps _ _).bind fun _ => ?_
    split
    · refine keeps_modify fun d => ?_
      simp only
      refine AccessFrame.trans ?_ (putLine_access _ _ _ _)
      split
      · exact qcPut_access _ _
      · exact .refl d
    · exact (reachLine_keeps _ _).bind fun _ => keeps_modify fun d => putLine_access _ _ _ _
  · exact writeWindow_keeps _ _ _
  · exact .fail _ _
  · exact .fail _ _

theorem writeLines_keeps (b : By) (coh : Bool) (hint : Alloc) (n : Nat) :
    ∀ pa bs, Keeps (writeLines b coh hint n pa bs) := by
  induction n with
  | zero => exact fun _ _ => .pure _
  | succ n ih =>
    intro pa bs
    unfold writeLines
    split
    · exact .pure _
    · exact (writeLine_keeps _ _ _ _ _).bind fun _ => ih _ _

theorem writePhys_keeps (b : By) (pa : Nat) (bs : List Byte) (coh : Bool) (hint : Alloc) :
    Keeps (writePhys b pa bs coh hint) :=
  writeLines_keeps _ _ _ _ _ _

/-! ### Translation and accesses by virtual address -/

theorem atVirtual_keeps {α : Type} (va : Nat) {a : Act α} (h : Keeps a) : Keeps (atVirtual va a) :=
  h.tryCatch fun e => by cases e <;> first | exact .fail _ _ | exact .throw _

theorem walkFrom_keeps (p va n : Nat) : ∀ lvl tbl, Keeps (walkFrom p va n lvl tbl) := by
  induction n with
  | zero => exact fun _ _ => .fail _ _
  | succ n ih =>
    intro lvl tbl
    unfold walkFrom
    refine (readPhys_keeps _ _ _ _).bind fun bs => keeps_get fun d => ?_
    simp only
    split
    · exact .refl d
    · split
      · split <;> exact .refl d
      · split
        · exact ih _ _ d
        · exact .refl d

theorem walk_keeps (asid va : Nat) : Keeps (walk asid va) := by
  unfold walk
  refine keeps_get fun d => ?_
  simp only
  split
  · exact .refl d
  · refine Keeps.tryCatch ?_ ?_ d
    · refine (readPhys_keeps _ _ _ _).bind fun bs => keeps_get fun d => ?_
      split
      · exact walkFrom_keeps _ _ _ _ _ d
      · exact .refl d
    · intro e
      cases e <;> first | exact .fail _ _ | exact .throw _

theorem tlbLook_access (asid va : Nat) : ∀ bs d, AccessFrame d (tlbLook asid va bs d).2
  | [], d => .refl d
  | b :: bs, d => by
    unfold tlbLook
    simp only
    split
    · exact tlbLook_access asid va bs d
    · have h := freeBit_access d
      generalize freeBit d = r at *
      obtain ⟨gone, d1⟩ := r
      simp only
      split
      · exact h.trans (tlbLook_access asid va bs d1)
      · exact h

theorem tlbRoom_access (d : Dev) (key : Nat) : AccessFrame d (tlbRoom d key) := by
  unfold tlbRoom
  extract_lets buffer mine ways
  split_ifs
  · exact .refl d
  · exact .refl d
  · refine (freeW_access d).trans ?_
    simp only [AccessFrame]

theorem tlbFill_access (d : Dev) (sp : Space) (va : Nat) (l : Leaf) : AccessFrame d (tlbFill d sp va l) := by
  refine foldl_access _ (fun d b => ?_) _ d
  simp only
  have h : AccessFrame d (if mget 0 d.mem.tlb (tlbKey b sp.asid va) = 0 then tlbRoom d (tlbKey b sp.asid va) else d) := by
    split
    · exact tlbRoom_access _ _
    · exact .refl d
  refine h.trans ?_
  simp only [AccessFrame]

theorem leafFor_keeps (sp : Space) (va : Nat) : Keeps (leafFor sp va) := by
  unfold leafFor
  refine keeps_get fun d => ?_
  split
  · exact .refl d
  · have h := tlbLook_access sp.asid va sp.buffers d
    generalize tlbLook sp.asid va sp.buffers d = r at *
    obtain ⟨l, d1⟩ := r
    simp only
    rw [go_set_bind]
    refine h.trans ?_
    have fill (l : Leaf) : Keeps (do
        modify fun d => tlbFill d sp va l
        Pure.pure l) := (keeps_modify fun d => tlbFill_access _ _ _ _).bind fun _ => .pure _
    cases l with
    | some l => exact (Keeps.pure l).bind (fun l => fill l) d1
    | none => exact (walk_keeps sp.asid va).bind (fun l => fill l) d1

theorem translate_keeps (sp : Space) (va : Nat) (w : Bool) : Keeps (translate sp va w) := by
  unfold translate
  split
  · exact .fail _ _
  · refine (leafFor_keeps _ _).bind fun l => ?_
    generalize (if w = true then 3 else 2) = b
    split
    · exact .fail _ _
    · exact .pure _

theorem mapM_keeps {α β : Type} (f : α → Act β) (h : ∀ x, Keeps (f x)) (xs : List α) : Keeps (xs.mapM f) := by
  induction xs with
  | nil => exact .pure _
  | cons x xs ih =>
    rw [List.mapM_cons]
    exact (h x).bind fun _ => ih.bind fun _ => .pure _

theorem vread_keeps (sp : Space) (va len : Nat) (hint : Alloc) : Keeps (vread sp va len hint) :=
  (mapM_keeps _ (fun _ => (translate_keeps _ _ _).bind fun _ => atVirtual_keeps _ (readPhys_keeps _ _ _ _)) _).bind
    fun _ => .pure _

theorem vwriteParts_keeps (sp : Space) (hint : Alloc) : ∀ ps bs, Keeps (vwriteParts sp hint ps bs)
  | [], _ => .pure _
  | _ :: ps, _ => (translate_keeps _ _ _).bind fun _ =>
      (atVirtual_keeps _ (writePhys_keeps _ _ _ _ _)).bind fun _ => vwriteParts_keeps sp hint ps _

theorem vwrite_keeps (sp : Space) (va : Nat) (bs : List Byte) (hint : Alloc) : Keeps (vwrite sp va bs hint) :=
  vwriteParts_keeps _ _ _ _

theorem dread_keeps (base o len : Nat) (hint : Alloc) : Keeps (dread base o len hint) :=
  keeps_get fun d => (mapM_keeps _ (fun _ => readPhys_keeps _ _ _ _) _).bind (fun _ => .pure _) d

theorem dwriteRuns_keeps (hint : Alloc) : ∀ rs bs, Keeps (dwriteRuns hint rs bs)
  | [], _ => .pure _
  | _ :: rs, _ => (writePhys_keeps _ _ _ _ _).bind fun _ => dwriteRuns_keeps hint rs _

theorem dwrite_keeps (base o : Nat) (bs : List Byte) (hint : Alloc) : Keeps (dwrite base o bs hint) :=
  keeps_get fun d => dwriteRuns_keeps _ _ _ d

/-- What an access that answers leaves alone. -/
theorem Keeps.of_go {α : Type} {a : Act α} (h : Keeps a) {d d' : Dev} {r : Except Stop α}
    (hg : a.go d = (r, d')) : AccessFrame d d' := by
  have := h d
  rwa [hg] at this

end Sys2Proof.Machine
end

