-- ==== Sys2Proof/Laws/Commands.lean ====
section
/-!
SUPPORT. What the operations that end a hub command do, once for every command.
-/

namespace Sys2Proof.Machine

/-- Every command of the hub that is guarded by its clocks completes. -/
theorem completes_onDev {i : Instr} {s : State} {f : Dev → Dev} {P : Dev → Prop} (hl : Live s)
    (he : exec i s = onDev s f) (hp : P (f s.dev)) : Completes i s P := by
  refine ⟨{ s with dev := f s.dev }, ?_, rfl, rfl, hp⟩
  rw [he]
  unfold onDev
  unfold Live at hl
  rw [if_pos hl]

/-- A started command is worked on. -/
theorem onStarted_runs {s : State} {q k op : Nat} {y : Cmd} (h : CmdRuns s q k op y) (f : Cmd → Dev) :
    onStarted s.dev q k op f = f y := by
  obtain ⟨_, hc, h1, h2, h3, h4⟩ := h
  have h5 : y.step ≠ visibleStep := by
    have : visibleStep = 2 ^ 32 := rfl
    omega
  unfold onStarted
  rw [hc]
  simp only [h1, h2, h3, and_self, if_true, if_neg h5]

/-! ### One command of a queue -/

theorem OnlyCmd.refl (d : Dev) (q k : Nat) : OnlyCmd d d q k := ⟨rfl, fun _ _ => rfl, rfl, fun _ _ => rfl⟩

theorem OnlyCmd.trans {a b c : Dev} {q k : Nat} (h : OnlyCmd a b q k) (h' : OnlyCmd b c q k) :
    OnlyCmd a c q k := by
  obtain ⟨h1, h2, h3, h4⟩ := h
  obtain ⟨g1, g2, g3, g4⟩ := h'
  refine ⟨?_, fun p hp => (g2 p hp).trans (h2 p hp), ?_, fun j hj => (g4 j hj).trans (h4 j hj)⟩
  · rw [h1] at g1; exact g1
  · rw [h3] at g3; exact g3

theorem find_map_seq (l : List Cmd) (f : Cmd → Cmd) (hf : ∀ y, (f y).seq = y.seq) (j : Nat) :
    (l.map f).find? (fun x => x.seq == j) = (l.find? fun x => x.seq == j).map f := by
  induction l with
  | nil => rfl
  | cons y l ih =>
    simp only [List.map_cons, List.find?_cons, hf]
    split <;> simp_all

theorem find_seq {l : List Cmd} {k : Nat} {y : Cmd} (h : l.find? (fun x => x.seq == k) = some y) : y.seq = k := by
  have := List.find?_some h
  simpa using this

/-- Replacing a command. -/
theorem updCmd_becomes {d : Dev} {q k : Nat} {y : Cmd} {f : Cmd → Cmd} (hc : cmdAt d q k = some y)
    (hf : ∀ y, (f y).seq = y.seq) : Becomes d (updCmd d q k f) q k (f y) := by
  have hq : (queueAt (updCmd d q k f) q).cmds =
      (queueAt d q).cmds.map fun y => if y.seq = k then f y else y := by
    simp [updCmd]
  have hs : ∀ y : Cmd, (if y.seq = k then f y else y).seq = y.seq := by
    intro y; split <;> simp [hf]
  refine ⟨⟨rfl, fun p hp => ?_, ?_, fun j hj => ?_⟩, ?_⟩
  · exact queueAt_setQueue_ne _ _ _ _ hp
  · simp [updCmd]
  · unfold cmdAt
    rw [hq, find_map_seq _ _ hs]
    cases h : (queueAt d q).cmds.find? (fun x => x.seq == j) with
    | none => rfl
    | some z =>
      have : z.seq ≠ k := by rw [find_seq h]; exact hj
      simp [this]
  · unfold cmdAt at hc ⊢
    rw [hq, find_map_seq _ _ hs, hc]
    simp [find_seq hc]

theorem noteHead_cmds (x : Queue) (now : Nat) : ∃ f : Cmd → Cmd,
    (∀ y, f y = { y with readyAt := (f y).readyAt }) ∧
      x.noteHead now = { x with cmds := x.cmds.map f, deficit := (x.noteHead now).deficit } := by
  unfold Queue.noteHead
  split
  · next h _ =>
    refine ⟨fun y => if y.seq = h.seq then { y with readyAt := some (h.readyAt.getD now) } else y, ?_, rfl⟩
    intro y; dsimp only; split <;> rfl
  · refine ⟨fun y => if y.st = .accepted then { y with readyAt := none } else y, ?_, rfl⟩
    intro y; dsimp only; split <;> rfl

/-- Noting a queue's head changes no command but in how long it has been ready. -/
theorem noteHead_only (d : Dev) (q k now : Nat) : OnlyCmd d (setQueue d q ((queueAt d q).noteHead now)) q k ∧
    ∀ y, cmdAt d q k = some y → ∃ r, cmdAt (setQueue d q ((queueAt d q).noteHead now)) q k =
      some { y with readyAt := r } := by
  obtain ⟨f, hf, hq⟩ := noteHead_cmds (queueAt d q) now
  have hs : ∀ y, (f y).seq = y.seq := fun y => by rw [hf y]
  have hcm : ∀ j, cmdAt (setQueue d q ((queueAt d q).noteHead now)) q j = (cmdAt d q j).map f := by
    intro j
    unfold cmdAt
    rw [queueAt_setQueue, hq, find_map_seq _ _ hs]
  refine ⟨⟨rfl, fun p hp => queueAt_setQueue_ne _ _ _ _ hp, ?_, fun j _ => ?_⟩, fun y hy => ?_⟩
  · rw [queueAt_setQueue, hq]
  · rw [hcm, Option.map_map]
    cases cmdAt d q j with
    | none => rfl
    | some z => simp only [Option.map_some, Function.comp]; rw [hf z]
  · refine ⟨(f y).readyAt, ?_⟩
    rw [hcm, hy, Option.map_some, ← hf y]

/-- Ending a command that is not finished ends it, and changes nothing else. -/
theorem finishCmd_finishes {d : Dev} {q k st : Nat} {v : Word} {y : Cmd} (hc : cmdAt d q k = some y)
    (hs : y.st ≠ .finished) : Finishes d (finishCmd d q k st v) q k st v := by
  have h1 := updCmd_becomes (f := fun x => if x.st = .finished then x else
    { x with st := .finished, status := st, result := v, finish := d.ns }) hc
    (fun y => by split <;> rfl)
  obtain ⟨h1, h2⟩ := h1
  rw [if_neg hs] at h2
  obtain ⟨g1, g2⟩ := noteHead_only (updCmd d q k fun x => if x.st = .finished then x else
    { x with st := .finished, status := st, result := v, finish := d.ns }) q k d.clock
  obtain ⟨r, g3⟩ := g2 _ h2
  exact ⟨h1.trans g1, _, g3, rfl, rfl, rfl⟩

theorem finishFree_finishes {d : Dev} {q k st : Nat} {y : Cmd} (hc : cmdAt d q k = some y)
    (hs : y.st ≠ .finished) : FinishesFree d (finishFree d q k st) q k st :=
  ⟨_, finishCmd_finishes (d := { d with free := d.free + 1 }) hc hs⟩

/-- A command whose work wrote nothing in the companion window ends at once. -/
theorem finishVisible_finishes {d : Dev} {q k st : Nat} {v : Word} {y : Cmd} (hf : d.rnl.fresh = [])
    (hc : cmdAt d q k = some y) (hs : y.st ≠ .finished) : Finishes d (finishVisible d q k st v) q k st v := by
  have hd : { d with rnl := { d.rnl with fresh := [] } } = d := by rw [← hf]
  unfold finishVisible
  simp only [hf, List.isEmpty_nil, if_true]
  rw [hd]
  exact finishCmd_finishes hc hs

/-! ### Accesses of a command -/

/-- An access that answers lets the command go on in the device it leaves. -/
theorem cmdAct_ok {α : Type} {s : State} {a : Act α} {v : α} {d1 : Dev} {bad : Nat → Nat → Dev → Dev}
    {ok : α → Dev → Dev} (h : a.go (clean s) = (.ok v, d1)) : cmdAct s.dev a bad ok = ok v d1 := by
  unfold cmdAct cmdActFrom
  unfold clean at h
  rw [h]

theorem cmdAct_err {α : Type} {s : State} {a : Act α} {st n : Nat} {d1 : Dev} {bad : Nat → Nat → Dev → Dev}
    {ok : α → Dev → Dev} (h : a.go (clean s) = (.error (.err st n), d1)) :
    cmdAct s.dev a bad ok = bad st n d1 := by
  unfold cmdAct cmdActFrom
  unfold clean at h
  rw [h]

/-- A command still stands where it stood after an access. -/
theorem CmdRuns.after {s : State} {q k op : Nat} {y : Cmd} (h : CmdRuns s q k op y) {d : Dev}
    (hd : AccessFrame (clean s) d) : cmdAt d q k = some y := by
  rw [hd.cmdAt]
  exact h.2.1

theorem CmdRuns.open {s : State} {q k op : Nat} {y : Cmd} (h : CmdRuns s q k op y) : y.st ≠ .finished := by
  rw [h.2.2.1]; decide

end Sys2Proof.Machine
end

