-- ==== Sys2Proof/Laws/State.lean ====
section
/-!
SUPPORT. The fields that each update of Ops.lean leaves alone, one lemma per field and update.
-/

namespace Sys2Proof.Machine

variable (d : Dev)

@[simp] theorem rset_tiles (r : Reg) (n i : Nat) (v : Word) : (rset d r n i v).tiles = d.tiles := rfl
@[simp] theorem rset_mem (r : Reg) (n i : Nat) (v : Word) : (rset d r n i v).mem = d.mem := rfl
@[simp] theorem rset_hub (r : Reg) (n i : Nat) (v : Word) : (rset d r n i v).hub = d.hub := rfl
@[simp] theorem rset_rnl (r : Reg) (n i : Nat) (v : Word) : (rset d r n i v).rnl = d.rnl := rfl
@[simp] theorem rset_fab (r : Reg) (n i : Nat) (v : Word) : (rset d r n i v).fab = d.fab := rfl
@[simp] theorem rset_ledger (r : Reg) (n i : Nat) (v : Word) : (rset d r n i v).ledger = d.ledger := rfl
@[simp] theorem rset_sets (r : Reg) (n i : Nat) (v : Word) : (rset d r n i v).sets = d.sets := rfl
@[simp] theorem rset_tally (r : Reg) (n i : Nat) (v : Word) : (rset d r n i v).tally = d.tally := rfl
@[simp] theorem rset_recov (r : Reg) (n i : Nat) (v : Word) : (rset d r n i v).recov = d.recov := rfl
@[simp] theorem rset_snp (r : Reg) (n i : Nat) (v : Word) : (rset d r n i v).snp = d.snp := rfl
@[simp] theorem rset_pwr (r : Reg) (n i : Nat) (v : Word) : (rset d r n i v).pwr = d.pwr := rfl
@[simp] theorem rset_np (r : Reg) (n i : Nat) (v : Word) : (rset d r n i v).np = d.np := rfl
@[simp] theorem rset_boot (r : Reg) (n i : Nat) (v : Word) : (rset d r n i v).boot = d.boot := rfl
@[simp] theorem rset_pins (r : Reg) (n i : Nat) (v : Word) : (rset d r n i v).pins = d.pins := rfl
@[simp] theorem rset_ns (r : Reg) (n i : Nat) (v : Word) : (rset d r n i v).ns = d.ns := rfl
@[simp] theorem rset_frac (r : Reg) (n i : Nat) (v : Word) : (rset d r n i v).frac = d.frac := rfl
@[simp] theorem rset_clock (r : Reg) (n i : Nat) (v : Word) : (rset d r n i v).clock = d.clock := rfl
@[simp] theorem rset_free (r : Reg) (n i : Nat) (v : Word) : (rset d r n i v).free = d.free := rfl
@[simp] theorem rset_out (r : Reg) (n i : Nat) (v : Word) : (rset d r n i v).out = d.out := rfl
@[simp] theorem rset_tripped (r : Reg) (n i : Nat) (v : Word) : (rset d r n i v).tripped = d.tripped := rfl
@[simp] theorem rset_power (r : Reg) (n i : Nat) (v : Word) : (rset d r n i v).power = d.power := rfl

@[simp] theorem setCtx_regs (c : Nat) (x : Ctx) : (setCtx d c x).regs = d.regs := rfl
@[simp] theorem setCtx_mem (c : Nat) (x : Ctx) : (setCtx d c x).mem = d.mem := rfl
@[simp] theorem setCtx_hub (c : Nat) (x : Ctx) : (setCtx d c x).hub = d.hub := rfl
@[simp] theorem setCtx_rnl (c : Nat) (x : Ctx) : (setCtx d c x).rnl = d.rnl := rfl
@[simp] theorem setCtx_fab (c : Nat) (x : Ctx) : (setCtx d c x).fab = d.fab := rfl
@[simp] theorem setCtx_ledger (c : Nat) (x : Ctx) : (setCtx d c x).ledger = d.ledger := rfl
@[simp] theorem setCtx_sets (c : Nat) (x : Ctx) : (setCtx d c x).sets = d.sets := rfl
@[simp] theorem setCtx_tally (c : Nat) (x : Ctx) : (setCtx d c x).tally = d.tally := rfl
@[simp] theorem setCtx_recov (c : Nat) (x : Ctx) : (setCtx d c x).recov = d.recov := rfl
@[simp] theorem setCtx_snp (c : Nat) (x : Ctx) : (setCtx d c x).snp = d.snp := rfl
@[simp] theorem setCtx_pwr (c : Nat) (x : Ctx) : (setCtx d c x).pwr = d.pwr := rfl
@[simp] theorem setCtx_np (c : Nat) (x : Ctx) : (setCtx d c x).np = d.np := rfl
@[simp] theorem setCtx_boot (c : Nat) (x : Ctx) : (setCtx d c x).boot = d.boot := rfl
@[simp] theorem setCtx_pins (c : Nat) (x : Ctx) : (setCtx d c x).pins = d.pins := rfl
@[simp] theorem setCtx_ns (c : Nat) (x : Ctx) : (setCtx d c x).ns = d.ns := rfl
@[simp] theorem setCtx_frac (c : Nat) (x : Ctx) : (setCtx d c x).frac = d.frac := rfl
@[simp] theorem setCtx_clock (c : Nat) (x : Ctx) : (setCtx d c x).clock = d.clock := rfl
@[simp] theorem setCtx_free (c : Nat) (x : Ctx) : (setCtx d c x).free = d.free := rfl
@[simp] theorem setCtx_out (c : Nat) (x : Ctx) : (setCtx d c x).out = d.out := rfl
@[simp] theorem setCtx_tripped (c : Nat) (x : Ctx) : (setCtx d c x).tripped = d.tripped := rfl
@[simp] theorem setCtx_power (c : Nat) (x : Ctx) : (setCtx d c x).power = d.power := rfl

@[simp] theorem updCtx_regs (c : Nat) (f : Ctx → Ctx) : (updCtx d c f).regs = d.regs := rfl
@[simp] theorem updCtx_mem (c : Nat) (f : Ctx → Ctx) : (updCtx d c f).mem = d.mem := rfl
@[simp] theorem updCtx_hub (c : Nat) (f : Ctx → Ctx) : (updCtx d c f).hub = d.hub := rfl
@[simp] theorem updCtx_rnl (c : Nat) (f : Ctx → Ctx) : (updCtx d c f).rnl = d.rnl := rfl
@[simp] theorem updCtx_fab (c : Nat) (f : Ctx → Ctx) : (updCtx d c f).fab = d.fab := rfl
@[simp] theorem updCtx_ledger (c : Nat) (f : Ctx → Ctx) : (updCtx d c f).ledger = d.ledger := rfl
@[simp] theorem updCtx_sets (c : Nat) (f : Ctx → Ctx) : (updCtx d c f).sets = d.sets := rfl
@[simp] theorem updCtx_tally (c : Nat) (f : Ctx → Ctx) : (updCtx d c f).tally = d.tally := rfl
@[simp] theorem updCtx_recov (c : Nat) (f : Ctx → Ctx) : (updCtx d c f).recov = d.recov := rfl
@[simp] theorem updCtx_snp (c : Nat) (f : Ctx → Ctx) : (updCtx d c f).snp = d.snp := rfl
@[simp] theorem updCtx_pwr (c : Nat) (f : Ctx → Ctx) : (updCtx d c f).pwr = d.pwr := rfl
@[simp] theorem updCtx_np (c : Nat) (f : Ctx → Ctx) : (updCtx d c f).np = d.np := rfl
@[simp] theorem updCtx_boot (c : Nat) (f : Ctx → Ctx) : (updCtx d c f).boot = d.boot := rfl
@[simp] theorem updCtx_pins (c : Nat) (f : Ctx → Ctx) : (updCtx d c f).pins = d.pins := rfl
@[simp] theorem updCtx_ns (c : Nat) (f : Ctx → Ctx) : (updCtx d c f).ns = d.ns := rfl
@[simp] theorem updCtx_frac (c : Nat) (f : Ctx → Ctx) : (updCtx d c f).frac = d.frac := rfl
@[simp] theorem updCtx_clock (c : Nat) (f : Ctx → Ctx) : (updCtx d c f).clock = d.clock := rfl
@[simp] theorem updCtx_free (c : Nat) (f : Ctx → Ctx) : (updCtx d c f).free = d.free := rfl
@[simp] theorem updCtx_out (c : Nat) (f : Ctx → Ctx) : (updCtx d c f).out = d.out := rfl
@[simp] theorem updCtx_tripped (c : Nat) (f : Ctx → Ctx) : (updCtx d c f).tripped = d.tripped := rfl
@[simp] theorem updCtx_power (c : Nat) (f : Ctx → Ctx) : (updCtx d c f).power = d.power := rfl

@[simp] theorem setSlot_regs (t n : Nat) (x : Slot) : (setSlot d t n x).regs = d.regs := rfl
@[simp] theorem setSlot_mem (t n : Nat) (x : Slot) : (setSlot d t n x).mem = d.mem := rfl
@[simp] theorem setSlot_hub (t n : Nat) (x : Slot) : (setSlot d t n x).hub = d.hub := rfl
@[simp] theorem setSlot_rnl (t n : Nat) (x : Slot) : (setSlot d t n x).rnl = d.rnl := rfl
@[simp] theorem setSlot_fab (t n : Nat) (x : Slot) : (setSlot d t n x).fab = d.fab := rfl
@[simp] theorem setSlot_ledger (t n : Nat) (x : Slot) : (setSlot d t n x).ledger = d.ledger := rfl
@[simp] theorem setSlot_sets (t n : Nat) (x : Slot) : (setSlot d t n x).sets = d.sets := rfl
@[simp] theorem setSlot_tally (t n : Nat) (x : Slot) : (setSlot d t n x).tally = d.tally := rfl
@[simp] theorem setSlot_recov (t n : Nat) (x : Slot) : (setSlot d t n x).recov = d.recov := rfl
@[simp] theorem setSlot_snp (t n : Nat) (x : Slot) : (setSlot d t n x).snp = d.snp := rfl
@[simp] theorem setSlot_pwr (t n : Nat) (x : Slot) : (setSlot d t n x).pwr = d.pwr := rfl
@[simp] theorem setSlot_np (t n : Nat) (x : Slot) : (setSlot d t n x).np = d.np := rfl
@[simp] theorem setSlot_boot (t n : Nat) (x : Slot) : (setSlot d t n x).boot = d.boot := rfl
@[simp] theorem setSlot_pins (t n : Nat) (x : Slot) : (setSlot d t n x).pins = d.pins := rfl
@[simp] theorem setSlot_ns (t n : Nat) (x : Slot) : (setSlot d t n x).ns = d.ns := rfl
@[simp] theorem setSlot_frac (t n : Nat) (x : Slot) : (setSlot d t n x).frac = d.frac := rfl
@[simp] theorem setSlot_clock (t n : Nat) (x : Slot) : (setSlot d t n x).clock = d.clock := rfl
@[simp] theorem setSlot_free (t n : Nat) (x : Slot) : (setSlot d t n x).free = d.free := rfl
@[simp] theorem setSlot_out (t n : Nat) (x : Slot) : (setSlot d t n x).out = d.out := rfl
@[simp] theorem setSlot_tripped (t n : Nat) (x : Slot) : (setSlot d t n x).tripped = d.tripped := rfl
@[simp] theorem setSlot_power (t n : Nat) (x : Slot) : (setSlot d t n x).power = d.power := rfl

@[simp] theorem setRing_regs (t n : Nat) (x : Ring) : (setRing d t n x).regs = d.regs := rfl
@[simp] theorem setRing_mem (t n : Nat) (x : Ring) : (setRing d t n x).mem = d.mem := rfl
@[simp] theorem setRing_hub (t n : Nat) (x : Ring) : (setRing d t n x).hub = d.hub := rfl
@[simp] theorem setRing_rnl (t n : Nat) (x : Ring) : (setRing d t n x).rnl = d.rnl := rfl
@[simp] theorem setRing_fab (t n : Nat) (x : Ring) : (setRing d t n x).fab = d.fab := rfl
@[simp] theorem setRing_ledger (t n : Nat) (x : Ring) : (setRing d t n x).ledger = d.ledger := rfl
@[simp] theorem setRing_sets (t n : Nat) (x : Ring) : (setRing d t n x).sets = d.sets := rfl
@[simp] theorem setRing_tally (t n : Nat) (x : Ring) : (setRing d t n x).tally = d.tally := rfl
@[simp] theorem setRing_recov (t n : Nat) (x : Ring) : (setRing d t n x).recov = d.recov := rfl
@[simp] theorem setRing_snp (t n : Nat) (x : Ring) : (setRing d t n x).snp = d.snp := rfl
@[simp] theorem setRing_pwr (t n : Nat) (x : Ring) : (setRing d t n x).pwr = d.pwr := rfl
@[simp] theorem setRing_np (t n : Nat) (x : Ring) : (setRing d t n x).np = d.np := rfl
@[simp] theorem setRing_boot (t n : Nat) (x : Ring) : (setRing d t n x).boot = d.boot := rfl
@[simp] theorem setRing_pins (t n : Nat) (x : Ring) : (setRing d t n x).pins = d.pins := rfl
@[simp] theorem setRing_ns (t n : Nat) (x : Ring) : (setRing d t n x).ns = d.ns := rfl
@[simp] theorem setRing_frac (t n : Nat) (x : Ring) : (setRing d t n x).frac = d.frac := rfl
@[simp] theorem setRing_clock (t n : Nat) (x : Ring) : (setRing d t n x).clock = d.clock := rfl
@[simp] theorem setRing_free (t n : Nat) (x : Ring) : (setRing d t n x).free = d.free := rfl
@[simp] theorem setRing_out (t n : Nat) (x : Ring) : (setRing d t n x).out = d.out := rfl
@[simp] theorem setRing_tripped (t n : Nat) (x : Ring) : (setRing d t n x).tripped = d.tripped := rfl
@[simp] theorem setRing_power (t n : Nat) (x : Ring) : (setRing d t n x).power = d.power := rfl

@[simp] theorem setQueue_regs (q : Nat) (x : Queue) : (setQueue d q x).regs = d.regs := rfl
@[simp] theorem setQueue_tiles (q : Nat) (x : Queue) : (setQueue d q x).tiles = d.tiles := rfl
@[simp] theorem setQueue_mem (q : Nat) (x : Queue) : (setQueue d q x).mem = d.mem := rfl
@[simp] theorem setQueue_rnl (q : Nat) (x : Queue) : (setQueue d q x).rnl = d.rnl := rfl
@[simp] theorem setQueue_fab (q : Nat) (x : Queue) : (setQueue d q x).fab = d.fab := rfl
@[simp] theorem setQueue_ledger (q : Nat) (x : Queue) : (setQueue d q x).ledger = d.ledger := rfl
@[simp] theorem setQueue_sets (q : Nat) (x : Queue) : (setQueue d q x).sets = d.sets := rfl
@[simp] theorem setQueue_tally (q : Nat) (x : Queue) : (setQueue d q x).tally = d.tally := rfl
@[simp] theorem setQueue_recov (q : Nat) (x : Queue) : (setQueue d q x).recov = d.recov := rfl
@[simp] theorem setQueue_snp (q : Nat) (x : Queue) : (setQueue d q x).snp = d.snp := rfl
@[simp] theorem setQueue_pwr (q : Nat) (x : Queue) : (setQueue d q x).pwr = d.pwr := rfl
@[simp] theorem setQueue_np (q : Nat) (x : Queue) : (setQueue d q x).np = d.np := rfl
@[simp] theorem setQueue_boot (q : Nat) (x : Queue) : (setQueue d q x).boot = d.boot := rfl
@[simp] theorem setQueue_pins (q : Nat) (x : Queue) : (setQueue d q x).pins = d.pins := rfl
@[simp] theorem setQueue_ns (q : Nat) (x : Queue) : (setQueue d q x).ns = d.ns := rfl
@[simp] theorem setQueue_frac (q : Nat) (x : Queue) : (setQueue d q x).frac = d.frac := rfl
@[simp] theorem setQueue_clock (q : Nat) (x : Queue) : (setQueue d q x).clock = d.clock := rfl
@[simp] theorem setQueue_free (q : Nat) (x : Queue) : (setQueue d q x).free = d.free := rfl
@[simp] theorem setQueue_out (q : Nat) (x : Queue) : (setQueue d q x).out = d.out := rfl
@[simp] theorem setQueue_tripped (q : Nat) (x : Queue) : (setQueue d q x).tripped = d.tripped := rfl
@[simp] theorem setQueue_power (q : Nat) (x : Queue) : (setQueue d q x).power = d.power := rfl

@[simp] theorem updCmd_regs (q k : Nat) (f : Cmd → Cmd) : (updCmd d q k f).regs = d.regs := rfl
@[simp] theorem updCmd_tiles (q k : Nat) (f : Cmd → Cmd) : (updCmd d q k f).tiles = d.tiles := rfl
@[simp] theorem updCmd_mem (q k : Nat) (f : Cmd → Cmd) : (updCmd d q k f).mem = d.mem := rfl
@[simp] theorem updCmd_rnl (q k : Nat) (f : Cmd → Cmd) : (updCmd d q k f).rnl = d.rnl := rfl
@[simp] theorem updCmd_fab (q k : Nat) (f : Cmd → Cmd) : (updCmd d q k f).fab = d.fab := rfl
@[simp] theorem updCmd_ledger (q k : Nat) (f : Cmd → Cmd) : (updCmd d q k f).ledger = d.ledger := rfl
@[simp] theorem updCmd_sets (q k : Nat) (f : Cmd → Cmd) : (updCmd d q k f).sets = d.sets := rfl
@[simp] theorem updCmd_tally (q k : Nat) (f : Cmd → Cmd) : (updCmd d q k f).tally = d.tally := rfl
@[simp] theorem updCmd_recov (q k : Nat) (f : Cmd → Cmd) : (updCmd d q k f).recov = d.recov := rfl
@[simp] theorem updCmd_snp (q k : Nat) (f : Cmd → Cmd) : (updCmd d q k f).snp = d.snp := rfl
@[simp] theorem updCmd_pwr (q k : Nat) (f : Cmd → Cmd) : (updCmd d q k f).pwr = d.pwr := rfl
@[simp] theorem updCmd_np (q k : Nat) (f : Cmd → Cmd) : (updCmd d q k f).np = d.np := rfl
@[simp] theorem updCmd_boot (q k : Nat) (f : Cmd → Cmd) : (updCmd d q k f).boot = d.boot := rfl
@[simp] theorem updCmd_pins (q k : Nat) (f : Cmd → Cmd) : (updCmd d q k f).pins = d.pins := rfl
@[simp] theorem updCmd_ns (q k : Nat) (f : Cmd → Cmd) : (updCmd d q k f).ns = d.ns := rfl
@[simp] theorem updCmd_frac (q k : Nat) (f : Cmd → Cmd) : (updCmd d q k f).frac = d.frac := rfl
@[simp] theorem updCmd_clock (q k : Nat) (f : Cmd → Cmd) : (updCmd d q k f).clock = d.clock := rfl
@[simp] theorem updCmd_free (q k : Nat) (f : Cmd → Cmd) : (updCmd d q k f).free = d.free := rfl
@[simp] theorem updCmd_out (q k : Nat) (f : Cmd → Cmd) : (updCmd d q k f).out = d.out := rfl
@[simp] theorem updCmd_tripped (q k : Nat) (f : Cmd → Cmd) : (updCmd d q k f).tripped = d.tripped := rfl
@[simp] theorem updCmd_power (q k : Nat) (f : Cmd → Cmd) : (updCmd d q k f).power = d.power := rfl

@[simp] theorem setGen_regs (k : TableKind) (p : Nat) (g : Gen) : (setGen d k p g).regs = d.regs := rfl
@[simp] theorem setGen_tiles (k : TableKind) (p : Nat) (g : Gen) : (setGen d k p g).tiles = d.tiles := rfl
@[simp] theorem setGen_mem (k : TableKind) (p : Nat) (g : Gen) : (setGen d k p g).mem = d.mem := rfl
@[simp] theorem setGen_rnl (k : TableKind) (p : Nat) (g : Gen) : (setGen d k p g).rnl = d.rnl := rfl
@[simp] theorem setGen_fab (k : TableKind) (p : Nat) (g : Gen) : (setGen d k p g).fab = d.fab := rfl
@[simp] theorem setGen_ledger (k : TableKind) (p : Nat) (g : Gen) : (setGen d k p g).ledger = d.ledger := rfl
@[simp] theorem setGen_sets (k : TableKind) (p : Nat) (g : Gen) : (setGen d k p g).sets = d.sets := rfl
@[simp] theorem setGen_tally (k : TableKind) (p : Nat) (g : Gen) : (setGen d k p g).tally = d.tally := rfl
@[simp] theorem setGen_recov (k : TableKind) (p : Nat) (g : Gen) : (setGen d k p g).recov = d.recov := rfl
@[simp] theorem setGen_snp (k : TableKind) (p : Nat) (g : Gen) : (setGen d k p g).snp = d.snp := rfl
@[simp] theorem setGen_pwr (k : TableKind) (p : Nat) (g : Gen) : (setGen d k p g).pwr = d.pwr := rfl
@[simp] theorem setGen_np (k : TableKind) (p : Nat) (g : Gen) : (setGen d k p g).np = d.np := rfl
@[simp] theorem setGen_boot (k : TableKind) (p : Nat) (g : Gen) : (setGen d k p g).boot = d.boot := rfl
@[simp] theorem setGen_pins (k : TableKind) (p : Nat) (g : Gen) : (setGen d k p g).pins = d.pins := rfl
@[simp] theorem setGen_ns (k : TableKind) (p : Nat) (g : Gen) : (setGen d k p g).ns = d.ns := rfl
@[simp] theorem setGen_frac (k : TableKind) (p : Nat) (g : Gen) : (setGen d k p g).frac = d.frac := rfl
@[simp] theorem setGen_clock (k : TableKind) (p : Nat) (g : Gen) : (setGen d k p g).clock = d.clock := rfl
@[simp] theorem setGen_free (k : TableKind) (p : Nat) (g : Gen) : (setGen d k p g).free = d.free := rfl
@[simp] theorem setGen_out (k : TableKind) (p : Nat) (g : Gen) : (setGen d k p g).out = d.out := rfl
@[simp] theorem setGen_tripped (k : TableKind) (p : Nat) (g : Gen) : (setGen d k p g).tripped = d.tripped := rfl
@[simp] theorem setGen_power (k : TableKind) (p : Nat) (g : Gen) : (setGen d k p g).power = d.power := rfl

@[simp] theorem setCtx_tiles_slots (c : Nat) (x : Ctx) : (setCtx d c x).tiles.slots = d.tiles.slots := rfl
@[simp] theorem setCtx_tiles_rings (c : Nat) (x : Ctx) : (setCtx d c x).tiles.rings = d.tiles.rings := rfl
@[simp] theorem setCtx_tiles_acc (c : Nat) (x : Ctx) : (setCtx d c x).tiles.acc = d.tiles.acc := rfl
@[simp] theorem setCtx_tiles_accRows (c : Nat) (x : Ctx) : (setCtx d c x).tiles.accRows = d.tiles.accRows := rfl
@[simp] theorem setCtx_tiles_mmaQ (c : Nat) (x : Ctx) : (setCtx d c x).tiles.mmaQ = d.tiles.mmaQ := rfl
@[simp] theorem setCtx_tiles_array (c : Nat) (x : Ctx) : (setCtx d c x).tiles.array = d.tiles.array := rfl
@[simp] theorem setCtx_tiles_sram (c : Nat) (x : Ctx) : (setCtx d c x).tiles.sram = d.tiles.sram := rfl
@[simp] theorem setCtx_tiles_sramBad (c : Nat) (x : Ctx) : (setCtx d c x).tiles.sramBad = d.tiles.sramBad := rfl
@[simp] theorem setCtx_tiles_l1 (c : Nat) (x : Ctx) : (setCtx d c x).tiles.l1 = d.tiles.l1 := rfl
@[simp] theorem setCtx_tiles_watch (c : Nat) (x : Ctx) : (setCtx d c x).tiles.watch = d.tiles.watch := rfl
@[simp] theorem setCtx_tiles_launches (c : Nat) (x : Ctx) : (setCtx d c x).tiles.launches = d.tiles.launches := rfl

@[simp] theorem setSlot_tiles_ctxs (t n : Nat) (x : Slot) : (setSlot d t n x).tiles.ctxs = d.tiles.ctxs := rfl
@[simp] theorem setSlot_tiles_rings (t n : Nat) (x : Slot) : (setSlot d t n x).tiles.rings = d.tiles.rings := rfl
@[simp] theorem setSlot_tiles_acc (t n : Nat) (x : Slot) : (setSlot d t n x).tiles.acc = d.tiles.acc := rfl
@[simp] theorem setSlot_tiles_accRows (t n : Nat) (x : Slot) : (setSlot d t n x).tiles.accRows = d.tiles.accRows := rfl
@[simp] theorem setSlot_tiles_mmaQ (t n : Nat) (x : Slot) : (setSlot d t n x).tiles.mmaQ = d.tiles.mmaQ := rfl
@[simp] theorem setSlot_tiles_array (t n : Nat) (x : Slot) : (setSlot d t n x).tiles.array = d.tiles.array := rfl
@[simp] theorem setSlot_tiles_sram (t n : Nat) (x : Slot) : (setSlot d t n x).tiles.sram = d.tiles.sram := rfl
@[simp] theorem setSlot_tiles_sramBad (t n : Nat) (x : Slot) : (setSlot d t n x).tiles.sramBad = d.tiles.sramBad := rfl
@[simp] theorem setSlot_tiles_l1 (t n : Nat) (x : Slot) : (setSlot d t n x).tiles.l1 = d.tiles.l1 := rfl
@[simp] theorem setSlot_tiles_watch (t n : Nat) (x : Slot) : (setSlot d t n x).tiles.watch = d.tiles.watch := rfl
@[simp] theorem setSlot_tiles_launches (t n : Nat) (x : Slot) : (setSlot d t n x).tiles.launches = d.tiles.launches := rfl

@[simp] theorem setRing_tiles_ctxs (t n : Nat) (x : Ring) : (setRing d t n x).tiles.ctxs = d.tiles.ctxs := rfl
@[simp] theorem setRing_tiles_slots (t n : Nat) (x : Ring) : (setRing d t n x).tiles.slots = d.tiles.slots := rfl
@[simp] theorem setRing_tiles_acc (t n : Nat) (x : Ring) : (setRing d t n x).tiles.acc = d.tiles.acc := rfl
@[simp] theorem setRing_tiles_accRows (t n : Nat) (x : Ring) : (setRing d t n x).tiles.accRows = d.tiles.accRows := rfl
@[simp] theorem setRing_tiles_mmaQ (t n : Nat) (x : Ring) : (setRing d t n x).tiles.mmaQ = d.tiles.mmaQ := rfl
@[simp] theorem setRing_tiles_array (t n : Nat) (x : Ring) : (setRing d t n x).tiles.array = d.tiles.array := rfl
@[simp] theorem setRing_tiles_sram (t n : Nat) (x : Ring) : (setRing d t n x).tiles.sram = d.tiles.sram := rfl
@[simp] theorem setRing_tiles_sramBad (t n : Nat) (x : Ring) : (setRing d t n x).tiles.sramBad = d.tiles.sramBad := rfl
@[simp] theorem setRing_tiles_l1 (t n : Nat) (x : Ring) : (setRing d t n x).tiles.l1 = d.tiles.l1 := rfl
@[simp] theorem setRing_tiles_watch (t n : Nat) (x : Ring) : (setRing d t n x).tiles.watch = d.tiles.watch := rfl
@[simp] theorem setRing_tiles_launches (t n : Nat) (x : Ring) : (setRing d t n x).tiles.launches = d.tiles.launches := rfl

@[simp] theorem setQueue_hub_sems (q : Nat) (x : Queue) : (setQueue d q x).hub.sems = d.hub.sems := rfl
@[simp] theorem setQueue_hub_waiters (q : Nat) (x : Queue) : (setQueue d q x).hub.waiters = d.hub.waiters := rfl
@[simp] theorem setQueue_hub_barriers (q : Nat) (x : Queue) : (setQueue d q x).hub.barriers = d.hub.barriers := rfl
@[simp] theorem setQueue_hub_gens (q : Nat) (x : Queue) : (setQueue d q x).hub.gens = d.hub.gens := rfl
@[simp] theorem setQueue_hub_rrAsid (q : Nat) (x : Queue) : (setQueue d q x).hub.rrAsid = d.hub.rrAsid := rfl
@[simp] theorem setQueue_hub_rrQueue (q : Nat) (x : Queue) : (setQueue d q x).hub.rrQueue = d.hub.rrQueue := rfl
@[simp] theorem setQueue_hub_rrPart (q : Nat) (x : Queue) : (setQueue d q x).hub.rrPart = d.hub.rrPart := rfl
@[simp] theorem setQueue_hub_shares (q : Nat) (x : Queue) : (setQueue d q x).hub.shares = d.hub.shares := rfl
@[simp] theorem setQueue_hub_accepted (q : Nat) (x : Queue) : (setQueue d q x).hub.accepted = d.hub.accepted := rfl
@[simp] theorem setQueue_hub_asidLocked (q : Nat) (x : Queue) : (setQueue d q x).hub.asidLocked = d.hub.asidLocked := rfl

@[simp] theorem setGen_hub_queues (k : TableKind) (p : Nat) (g : Gen) : (setGen d k p g).hub.queues = d.hub.queues := rfl
@[simp] theorem setGen_hub_sems (k : TableKind) (p : Nat) (g : Gen) : (setGen d k p g).hub.sems = d.hub.sems := rfl
@[simp] theorem setGen_hub_waiters (k : TableKind) (p : Nat) (g : Gen) : (setGen d k p g).hub.waiters = d.hub.waiters := rfl
@[simp] theorem setGen_hub_barriers (k : TableKind) (p : Nat) (g : Gen) : (setGen d k p g).hub.barriers = d.hub.barriers := rfl
@[simp] theorem setGen_hub_rrAsid (k : TableKind) (p : Nat) (g : Gen) : (setGen d k p g).hub.rrAsid = d.hub.rrAsid := rfl
@[simp] theorem setGen_hub_rrQueue (k : TableKind) (p : Nat) (g : Gen) : (setGen d k p g).hub.rrQueue = d.hub.rrQueue := rfl
@[simp] theorem setGen_hub_rrPart (k : TableKind) (p : Nat) (g : Gen) : (setGen d k p g).hub.rrPart = d.hub.rrPart := rfl
@[simp] theorem setGen_hub_shares (k : TableKind) (p : Nat) (g : Gen) : (setGen d k p g).hub.shares = d.hub.shares := rfl
@[simp] theorem setGen_hub_accepted (k : TableKind) (p : Nat) (g : Gen) : (setGen d k p g).hub.accepted = d.hub.accepted := rfl
@[simp] theorem setGen_hub_asidLocked (k : TableKind) (p : Nat) (g : Gen) : (setGen d k p g).hub.asidLocked = d.hub.asidLocked := rfl

end Sys2Proof.Machine
end

