-- ==== Sys2Proof/Tests/Slice0.lean ====
section
/-! SUPPORT. Tests: the well-formedness smoke test, one witness theorem for the hypotheses of each statement of
Certificates/Slice0/Obligations.lean, and a few single steps worked out by hand from the spec. -/

namespace Sys2Proof.Machine.Tests

set_option maxRecDepth 4000
set_option Elab.async false
open Sys2Proof Sys2Proof.Machine

/-! ### Well-formedness: one term for each check, which the check refuses -/

def wfF (f : Frame → Frame) : Instr := .caravanWrite 0 0 0 (f emptyFrame)

theorem refuses_ctx : wellFormed (.nop 512 0) = false ∧ wellFormed (.nop 511 0) = true := by decide
theorem refuses_tile : wellFormed (.droop 64) = false ∧ wellFormed (.droop 63) = true := by decide
theorem refuses_slot : wellFormed (.stride 0 16) = false ∧ wellFormed (.stride 0 15) = true := by decide
theorem refuses_ring : wellFormed (.mcastBind 0 32) = false ∧ wellFormed (.mcastBind 0 31) = true := by decide
theorem refuses_sram : wellFormed (.racc 0 0 0xC00000 1 0 0) = false ∧ wellFormed (.racc 0 0 0xBFFFFF 1 0 0) = true := by decide
theorem refuses_units : wellFormed (.rput 0 0 0 65536 0) = false ∧ wellFormed (.rput 0 0 0 65535 0) = true := by decide
theorem refuses_op : wellFormed (.racc 0 0 0 1 0 16) = false ∧ wellFormed (.racc 0 0 0 1 0 15) = true := by decide
theorem refuses_chip : wellFormed (.rsig 0 0 0x100000 0 0) = false ∧ wellFormed (.rsig 0 0 0xFFFFF 0 0) = true := by decide
theorem refuses_sem : wellFormed (.rsig 0 0 0 131072 0) = false ∧ wellFormed (.rsig 0 0 0 131071 0) = true := by decide
theorem refuses_elem : wellFormed (.parityRefetch 0 0 (2 ^ 32)) = false ∧ wellFormed (.parityRefetch 0 0 (2 ^ 32 - 1)) = true := by decide
theorem refuses_pa : wellFormed (.overwriteEvent (2 ^ 48)) = false ∧ wellFormed (.overwriteEvent (2 ^ 48 - 1)) = true := by decide
theorem refuses_queue : wellFormed (.queueStop 262144) = false ∧ wellFormed (.queueStop 262143) = true := by decide
theorem refuses_seq : wellFormed (.copy 0 (2 ^ 32)) = false ∧ wellFormed (.copy 0 (2 ^ 32 - 1)) = true := by decide
theorem refuses_width : wellFormed (.dbTailWrite 0 0 0 false) = false ∧ wellFormed (.dbTailWrite 0 8 0 false) = true := by decide
theorem refuses_time : wellFormed (.wake (2 ^ 64)) = false ∧ wellFormed (.wake (2 ^ 64 - 1)) = true := by decide
theorem refuses_part : wellFormed (.suspendRelease 4) = false ∧ wellFormed (.suspendRelease 3) = true := by decide
theorem refuses_engine : wellFormed (.commandStart 0 65536 0) = false ∧ wellFormed (.commandStart 0 65535 0) = true := by decide
theorem refuses_tile_engine : wellFormed (.engineReset 0 9) = false ∧ wellFormed (.engineReset 0 8) = true := by decide
theorem refuses_hung_engine : wellFormed (.engineReset (2 ^ 16 + 4) 0) = false ∧
    wellFormed (.engineReset (2 ^ 16 + 3) 0) = true := by decide
theorem refuses_quarter : wellFormed (.peakReset 4 0) = false ∧ wellFormed (.peakReset 3 0) = true := by decide
theorem refuses_channel : wellFormed (.channelTrain 384 true) = false ∧ wellFormed (.channelTrain 383 true) = true := by decide
theorem refuses_kind : wellFormed (.transferParityError 3 0) = false ∧ wellFormed (.transferParityError 2 0) = true := by decide
theorem refuses_resend : wellFormed (.transferParityError 0 9) = false ∧ wellFormed (.transferParityError 0 8) = true := by decide
theorem refuses_agent : wellFormed (.heartbeatLoss 6 0) = false ∧ wellFormed (.heartbeatLoss 5 0) = true := by decide
theorem refuses_domain : wellFormed (.holdEnd 6 0) = false ∧ wellFormed (.holdEnd 5 0) = true := by decide
theorem refuses_level : wellFormed (.escalation 4 0 0 0) = false ∧ wellFormed (.escalation 3 0 0 0) = true := by decide
theorem refuses_fab_engine : wellFormed (.retrain 8 0) = false ∧ wellFormed (.retrain 7 0) = true := by decide
theorem refuses_fibre : wellFormed (.laserInputLow 0 8 0 0) = false ∧ wellFormed (.laserInputLow 0 7 0 0) = true := by decide
theorem refuses_level8 : wellFormed (.laserInputLow 0 0 256 0) = false ∧ wellFormed (.laserInputLow 0 0 255 0) = true := by decide
theorem refuses_port : wellFormed (.portUp 32 0) = false ∧ wellFormed (.portUp 31 0) = true := by decide
theorem refuses_frame : ([fun f => { f with type := 8 }, fun f => { f with vc := 4 }, fun f => { f with tag := 65536 },
    fun f => { f with dst := 2 ^ 20 }, fun f => { f with src := 2 ^ 20 }, fun f => { f with fseq := 2 ^ 24 },
    fun f => { f with area := 2 ^ 160 }, fun f => { f with payload := [1] }].all fun g => !wellFormed (wfF g)) = true ∧
    wellFormed (wfF id) = true := by decide
theorem refuses_payload : wellFormed (wfF fun f => { f with payload := List.replicate 4160 0 }) = false := by decide +kernel
theorem refuses_group : wellFormed (.expDeadline 4096 0 0) = false ∧ wellFormed (.expDeadline 4095 0 0) = true := by decide
theorem refuses_ptp_kind : wellFormed (.ptp 0 0 0 emptyFrame 16 0 0 0 0 true 0) = false ∧
    wellFormed (.ptp 0 0 0 emptyFrame 15 0 0 0 0 true 0) = true := by decide
theorem refuses_ptp_time : wellFormed (.ptp 0 0 0 emptyFrame 0 0 0 (2 ^ 80) 0 true 0) = false ∧
    wellFormed (.ptp 0 0 0 emptyFrame 0 0 0 (2 ^ 80 - 1) 0 true 0) = true := by decide
theorem refuses_fseq : wellFormed (.retransmitTimeout 0 0 (2 ^ 24) 0) = false ∧
    wellFormed (.retransmitTimeout 0 0 (2 ^ 24 - 1) 0) = true := by decide
theorem refuses_line : wellFormed (.evict 32) = false ∧ wellFormed (.evict 64) = true := by decide
theorem refuses_rlen : wellFormed (.mrd 0 0 65) = false ∧ wellFormed (.mrd 0 0 0) = false ∧ wellFormed (.mrd 0 0 64) = true := by decide
theorem refuses_burst : wellFormed (.mwr 0 0 true []) = false ∧ wellFormed (.mwr 0 0 true (List.replicate 64 0)) = true := by decide
theorem refuses_line_data : wellFormed (.wb 0 [1]) = false ∧ wellFormed (.wb 0 (List.replicate 64 0)) = true := by decide
theorem refuses_data : wellFormed (.cplData 0 0 [1]) = false ∧ wellFormed (.cplData 0 0 []) = true := by decide
theorem refuses_rnl_width : wellFormed (.linkActive 0 true 0 0 0 0 0 0) = false ∧
    wellFormed (.linkActive 1 true 0 0 0 0 0 0) = true := by decide
theorem refuses_flit_seq : wellFormed (.flitNak true 1024 0) = false ∧ wellFormed (.flitNak true 1023 0) = true := by decide
theorem refuses_sct : wellFormed (.nvmeCompletion 0 8 0 0) = false ∧ wellFormed (.nvmeCompletion 0 7 0 0) = true := by decide
theorem refuses_speed : wellFormed (.snapshotPortTrain 5 1 [] 0) = false ∧ wellFormed (.snapshotPortTrain 4 1 [] 0) = true := by decide
theorem refuses_replica : wellFormed (.replicaChunk 0 3 0) = false ∧ wellFormed (.replicaChunk 0 2 0) = true := by decide
theorem refuses_readings : wellFormed (.npSample [none] 0) = false ∧ wellFormed (.npSample (List.replicate 249 none) 0) = true := by
  decide +kernel
theorem refuses_daa : wellFormed (.entdaa 128) = false ∧ wellFormed (.entdaa 127) = true := by decide
theorem refuses_tray_pos : wellFormed (.npStart 4 0) = false ∧ wellFormed (.npStart 3 0) = true := by decide
theorem refuses_ir : wellFormed (.jtagInstruction 256) = false ∧ wellFormed (.jtagInstruction 255) = true := by decide
theorem refuses_msg_type : wellFormed (.messageDropped 32) = false ∧ wellFormed (.messageDropped 31) = true := by decide

/-! ### Small states -/

def wOn (s : State) (f : Dev → Dev) : State := { s with dev := f s.dev }

/-- A running context with a few registers, SRAM from 0x100 to 0x20100 and accumulator tiles 1 and 2. -/
def wRun : Ctx :=
  { Ctx.reset with
    state := .running
    pc := 0x1000
    asid := 3
    sregs := [(1, 0x200010), (2, 0x40), (3, 7), (5, 0x200011), (6, 3), (31, 0x2004)]
    sramBase := 0x100
    sramSize := 0x20000
    acc := 6 }

/-- The machine after reset with context `c` as given. -/
def wCtx (c : Nat) (x : Ctx) : State := wOn State.reset fun d => setCtx d c x

/-- Words of Formats A, B, C and D, without a predicate. -/
def fA (d s1 s2 s3 fmt rnd : Nat) : TWord :=
  BitVec.ofNat 56 (d * 2 ^ 47 + s1 * 2 ^ 42 + s2 * 2 ^ 37 + s3 * 2 ^ 32 + fmt * 2 ^ 28 + rnd * 2 ^ 25)
def fB (d s1 m imm : Nat) : TWord := BitVec.ofNat 56 (d * 2 ^ 47 + s1 * 2 ^ 42 + m * 2 ^ 32 + imm)
def fC (s1 off : Nat) : TWord := BitVec.ofNat 56 (s1 * 2 ^ 47 + off)
def fD (at_ sa sb m fa fb : Nat) : TWord :=
  BitVec.ofNat 56 (at_ * 2 ^ 49 + sa * 2 ^ 44 + sb * 2 ^ 39 + (m - 1) * 2 ^ 31 + fa * 2 ^ 27 + fb * 2 ^ 23)

/-- Bytes in DRAM. -/
def wPut (a : Nat) (bs : List Byte) (d : Dev) : Dev := { d with mem.bytes := bytesPut d.mem.bytes a bs }

/-- Translation tables that map the 2 MiB at 0x20_0000 of ASID `n` to itself, readable and writable. -/
def wMap (n : Nat) (d : Dev) : Dev :=
  let d := rset d .chipAsidTbl 0 0 0x100001
  let d := wPut (0x100000 + 8 * n) (leBytes 8 0x110001) d
  let d := wPut 0x110000 (leBytes 8 0x111001) d
  let d := wPut 0x111000 (leBytes 8 0x112001) d
  wPut 0x112008 (leBytes 8 0x20000F) d

def wMem : State := wOn (wCtx 9 wRun) (wMap 3)

/-- What an access answers. -/
def answers {α : Type} (a : Act α) (d : Dev) : Option α :=
  match (a.go d).1 with
  | .ok v => some v
  | .error _ => none

/-- Command 2 of queue 5 is started with an opcode, as `CmdRuns` asks. -/
def runs (s : State) (op : Nat) : Bool :=
  s.dev.live && !isSuspect s.dev 5 2 && match cmdAt s.dev 5 2 with
    | some y => y.st == .started && y.opcode == op && decide (y.step < 2 ^ 32) && y.status == 0 && y.aux2.isEmpty
    | none => false

/-! ### A second access to a page

The buffered entry may have been evicted, which the model leaves free (R36): both ways are looked at. -/

def leafWay (sp : Space) (va : Nat) (d : Dev) (gone : Bool) : Except Stop Leaf × Dev :=
  let d1 := { d with free := d.free + 1 }
  let old := Leaf.unpack (mget 0 d.mem.tlb (tlbKey sp.unit sp.asid va))
  match if gone then (walk sp.asid va).go d1 else (.ok old, d1) with
  | (.ok l, d2) => (.ok l, tlbFill d2 sp va l)
  | (.error e, d2) => (.error e, d2)

def again (sp : Space) (va : Nat) (w : Bool) (d : Dev) (gone : Bool) : Except Stop (Nat × Bool) × Dev :=
  match leafWay sp va d gone with
  | (.ok l, d) =>
    if !bit l.entry (if w then 3 else 2) then (.error (.err stPermissionFault va), d)
    else (.ok (l.at_ va, bit l.entry 4), d)
  | (.error e, d) => (.error e, d)

theorem leafFor_again {sp : Space} {va : Nat} {d : Dev} (hb : 64 ≤ sp.unit)
    (h1 : wbit (rget d .chipAsidTbl 0 (partOfAsid d sp.asid)) 0 = true)
    (h0 : mget 0 d.mem.tlb (tlbKey sp.unit sp.asid va) ≠ 0) : ∃ g, (leafFor sp va).go d = leafWay sp va d g := by
  refine ⟨(freeBit d).1, ?_⟩
  have hbuf : sp.buffers = [sp.unit] := by
    have : ¬ sp.unit < 64 := by omega
    simp [Space.buffers, this]
  unfold leafFor leafWay
  rw [go_bind]
  simp only [go_get, h1, hbuf, tlbLook, h0, if_false, Bool.not_true, Bool.false_eq_true]
  cases hg : (freeBit d).1 <;> simp only [freeBit] at hg ⊢ <;> simp only [go_set, go_bind, Bool.false_eq_true, if_false, if_true]
  · rfl
  · generalize (walk sp.asid va).go _ = r
    obtain ⟨r, d2⟩ := r
    cases r <;> rfl

theorem translate_again {sp : Space} {va : Nat} {w : Bool} {d : Dev} (hv : va < 2 ^ 48) (hb : 64 ≤ sp.unit)
    (h1 : wbit (rget d .chipAsidTbl 0 (partOfAsid d sp.asid)) 0 = true)
    (h0 : mget 0 d.mem.tlb (tlbKey sp.unit sp.asid va) ≠ 0) : ∃ g, (translate sp va w).go d = again sp va w d g := by
  obtain ⟨g, h⟩ := leafFor_again (d := d) hb h1 h0
  refine ⟨g, ?_⟩
  have : ¬ 2 ^ 48 ≤ va := by omega
  unfold translate again
  simp only [this, if_false]
  rw [go_bind, h]
  cases leafWay sp va d g with
  | mk r d2 =>
    cases r with
    | error e => rfl
    | ok l => dsimp only; split <;> split <;> simp_all

/-- A second read of a page: what both ways lead to. -/
theorem vread_again {sp : Space} {va len pa : Nat} {coh : Bool} {d : Dev} (P : Except Stop (List Byte) × Dev → Prop)
    (hp : pagesOf va len = [(va, len)]) (hv : va < 2 ^ 48) (hb : 64 ≤ sp.unit)
    (h1 : wbit (rget d .chipAsidTbl 0 (partOfAsid d sp.asid)) 0 = true)
    (h0 : mget 0 d.mem.tlb (tlbKey sp.unit sp.asid va) ≠ 0)
    (hk : ∀ g, (again sp va false d g).1 = .ok (pa, coh))
    (hc : ∀ g, P ((atVirtual va (readPhys pa len coh)).go (again sp va false d g).2)) :
    P ((vread sp va len).go d) := by
  obtain ⟨g, h⟩ := translate_again (w := false) hv hb h1 h0
  have e : again sp va false d g = (.ok (pa, coh), (again sp va false d g).2) := Prod.ext (hk g) rfl
  have key : (vread sp va len).go d = (atVirtual va (readPhys pa len coh)).go (again sp va false d g).2 := by
    unfold vread
    rw [hp]
    simp only [List.mapM_cons, List.mapM_nil, bind_assoc, pure_bind]
    rw [go_bind, h, e]
    dsimp only
    rw [go_bind]
    cases hx : (atVirtual va (readPhys pa len coh)).go (again sp va false d g).2 with
    | mk r d2 => cases r <;> simp
  rw [key]
  exact hc g

/-- A second write to a page. -/
theorem vwrite_again {sp : Space} {va pa : Nat} {coh : Bool} {bs : List Byte} {d : Dev} (P : Except Stop Unit × Dev → Prop)
    (hp : pagesOf va bs.length = [(va, bs.length)]) (hv : va < 2 ^ 48) (hb : 64 ≤ sp.unit)
    (h1 : wbit (rget d .chipAsidTbl 0 (partOfAsid d sp.asid)) 0 = true)
    (h0 : mget 0 d.mem.tlb (tlbKey sp.unit sp.asid va) ≠ 0)
    (hk : ∀ g, (again sp va true d g).1 = .ok (pa, coh))
    (hc : ∀ g, P ((atVirtual va (writePhys .software pa bs coh)).go (again sp va true d g).2)) :
    P ((vwrite sp va bs).go d) := by
  obtain ⟨g, h⟩ := translate_again (w := true) hv hb h1 h0
  have e : again sp va true d g = (.ok (pa, coh), (again sp va true d g).2) := Prod.ext (hk g) rfl
  have key : (vwrite sp va bs).go d = (atVirtual va (writePhys .software pa bs coh)).go (again sp va true d g).2 := by
    unfold vwrite
    rw [hp]
    simp only [vwriteParts, List.take_length]
    rw [go_bind, h, e]
    dsimp only
    rw [go_bind]
    cases hx : (atVirtual va (writePhys .software pa bs coh)).go (again sp va true d g).2 with
    | mk r d2 => cases r <;> simp
  rw [key]
  exact hc g

/-- A second walk of a range within a page. -/
theorem physRuns_again {sp : Space} {va len pa : Nat} {coh w : Bool} {d : Dev}
    (hp : pagesOf va len = [(va, len)]) (hv : va < 2 ^ 48) (hb : 64 ≤ sp.unit)
    (h1 : wbit (rget d .chipAsidTbl 0 (partOfAsid d sp.asid)) 0 = true)
    (h0 : mget 0 d.mem.tlb (tlbKey sp.unit sp.asid va) ≠ 0) (hk : ∀ g, (again sp va w d g).1 = .ok (pa, coh)) :
    ∃ g, (physRuns sp va len w).go d = (.ok [(pa, len)], (again sp va w d g).2) := by
  obtain ⟨g, h⟩ := translate_again (w := w) hv hb h1 h0
  have e : again sp va w d g = (.ok (pa, coh), (again sp va w d g).2) := Prod.ext (hk g) rfl
  refine ⟨g, ?_⟩
  unfold physRuns
  rw [hp]
  simp only [List.mapM_cons, List.mapM_nil, bind_assoc, pure_bind]
  rw [go_bind, h, e]
  rfl

/-! ### Premises that are met: tile instructions -/

theorem witness_scalar : Issues wMem 9 (fA 4 1 2 0 0 0) .scalar ∧ aPlain (fA 4 1 2 0 0 0) = true ∧
    (fA 4 1 2 0 0 0).aRes = true ∧ ((ctxAt wMem.dev 9).sreg 2).toNat = 64 ∧ ((ctxAt wMem.dev 9).sreg 3).toNat < 64 := by
  unfold Issues Live; decide +kernel

/-- A transaction of the context is on its way. -/
def wSent : State := wCtx 9 { wRun with remoteOut := [4] }

theorem witness_illegal : Issues wMem 9 (fA 4 1 2 0 0 5) .scalar ∧ aPlain (fA 4 1 2 0 0 5) = false ∧
    Settled wMem.dev 9 ∧ reservedOpcode 0xFF = true ∧ reservedOpcode 0 = false ∧ (ctxAt wSent.dev 9).remoteOut ≠ [] ∧
    Issues wSent 9 (fA 4 1 2 0 0 5) .scalar ∧ (ctxAt wSent.dev 9).pend = none ∧ mmaBusy wSent.dev 9 = false := by
  unfold Issues Live Settled; decide +kernel

def wLoops : State := wCtx 9 { wRun with loops := [⟨0xFF8, 0x1008, 2⟩, ⟨0xFF0, 0x1010, 1⟩] }
def wLoop1 : State := wCtx 9 { wRun with loops := [⟨0xFF8, 0x1008, 1⟩] }

theorem witness_control : Issues wMem 9 (fC 3 (2 ^ 32 - 1)) .scalar ∧ (ctxAt wMem.dev 9).loops = [] ∧
    1 ≤ (fC 3 1).cOff ∧ ((ctxAt wMem.dev 9).sreg 3).toNat ≠ 0 ∧ ((ctxAt wMem.dev 9).sreg 4).toNat = 0 := by
  unfold Issues Live; decide +kernel

theorem witness_loops : Issues wLoops 9 (fA 0 0 0 0 0 0) .scalar ∧ Issues wLoop1 9 (fA 0 0 0 0 0 0) .scalar ∧
    ((ctxAt wLoops.dev 9).loops.map fun l => (l.stop, l.left)) = [(0x1008, 2), (0x1010, 1)] ∧
    ((ctxAt wLoop1.dev 9).loops.map fun l => (l.stop, l.left)) = [(0x1008, 1)] := by
  unfold Issues Live; decide +kernel

theorem witness_not_executed : Live wMem ∧ canIssue wMem.dev 9 = true ∧
    (ctxAt wMem.dev 9).executes (BitVec.ofNat 56 (2 ^ 55)) = false ∧ canIssue wMem.dev 10 = false := by
  unfold Live; decide +kernel

theorem witness_loads : Issues wMem 9 (fB 4 1 0 0) .mem ∧
    answers (translate ⟨3, 1⟩ 0x200010 false) wMem.dev = some (0x200010, false) ∧
    regionOf 0x200010 = .dram 0 ∧
    (answers (l1Read 1 3 0x200010 0x200010) ((translate ⟨3, 1⟩ 0x200010 false).go wMem.dev).2).isSome = true ∧
    (answers (atVirtual 0x200010 (readLine 0x200000 false)) ((translate ⟨3, 1⟩ 0x200010 false).go wMem.dev).2).isSome = true ∧
    ((ctxAt wMem.dev 9).sreg 5).toNat % 8 ≠ 0 := by
  unfold Issues Live; decide +kernel

theorem witness_stores : answers (translate ⟨3, 1⟩ 0x200010 true) wMem.dev = some (0x200010, false) ∧
    answers (atVirtual 0x200010 (writePhys .software 0x200010 (leBytes 8 7)))
      ((translate ⟨3, 1⟩ 0x200010 true).go wMem.dev).2 = some () ∧
    (answers (readPhys 0x200010 8) ((translate ⟨3, 1⟩ 0x200010 true).go wMem.dev).2).isSome = true := by
  decide +kernel

/-- A word of bad parity at 0x404. -/
def wBad : State := wOn wMem fun d => { d with tiles.sramBad := [(0xC00000 + 0x404) / 4] }

theorem witness_sram : Issues wMem 9 (fB 3 0 0 0x400) .mem ∧ Issues wMem 9 (fB 3 0 0 0x400) .vector ∧
    wRun.ownsSram 0x400 8 = true ∧ wRun.ownsSram 0x200F8 8 = true ∧ wRun.ownsSram 0x20100 8 = false ∧
    wRun.ownsSram 0x400 1024 = true ∧ parityOf wMem.dev 1 [(0x400, 1024)] = .ok ∧
    (ctxAt wMem.dev 9).unfenced = [] ∧ parityOf wBad.dev 1 [(0x400, 8)] = .bad 0x404 ∧ Issues wBad 9 (fB 3 0 0 0x400) .mem ∧
    Settled wBad.dev 9 ∧ (fB 3 0 0 0x410).bImm.toNat % 64 ≠ 0 := by
  unfold Issues Live Settled; decide +kernel

theorem witness_vector : Issues wMem 9 (fA 4 1 2 0 0xB 0) .vector ∧
    vecForm (fA 4 1 2 0 0xB 0) = some (.int32, .near) ∧ vecForm (fA 4 1 2 0 0 0) = some (.f fp32, .near) ∧
    vecForm (fA 4 1 2 0 0xF 0) = none ∧ (fB 4 1 0 0).bMod / 2 = 0 ∧ (fB 4 1 39 0).bMod / 64 = 0 ∧
    (fA 4 1 0 0 0 0).aS2 = 0 ∧ (fA 4 1 2 0 0xB 6).aRnd ≠ 7 := by
  unfold Issues Live; decide +kernel

/-- A table with program 2. -/
def wSfu : State := wOn wMem fun d =>
  setGen d .sfu 0 { genAt d .sfu 0 with image := leBytes 4 1 ++ leBytes 4 4 ++ List.replicate 17848 0 }

theorem witness_sfu : Issues wMem 9 (fA 4 1 2 0 0 0) .sfu ∧ sfuForm (fA 4 1 2 0 0 0) = true ∧
    imgPresent (sfuImage wMem.dev 1) 2 = false ∧ imgPresent (sfuImage wSfu.dev 1) 2 = true := by
  unfold Issues Live; decide +kernel

theorem witness_conversions : cvtForm (fA 4 6 0 0 1 0) = true ∧ cvtmxOp (fA 4 6 8 2 5 0) = 2 ∧
    cvtmxOp (fA 4 6 8 0 5 0) = 0 ∧ fmtMx 5 = true ∧ (fmtOf 5).isSome = true ∧ Rnd.ofCode 0 = some .near ∧
    (fA 4 6 8 2 5 0).aRes = true ∧ cvtForm (fA 4 6 8 0 0xC 0) = true ∧ (fA 4 6 8 0 0xC 0).aFmt = 0xC ∧
    cvtmxOp (fA 4 6 8 1 5 0) = 1 ∧ cvtmxOp (fA 4 6 8 3 5 0) = 3 := by
  decide

theorem witness_accumulators : Issues wMem 9 (fB 4 0 1 63) .matrix ∧ bit (ctxAt wMem.dev 9).acc 1 = true ∧
    bit (ctxAt wMem.dev 9).acc 3 = false ∧ accBusy wMem.dev 9 1 = false := by
  unfold Issues Live; decide +kernel

def wMmaCtx : Ctx := { wRun with sregs := [(1, 0x4000400), (2, 0x2002000), (4, 0x8000)] }

theorem witness_mma : let s := wCtx 9 wMmaCtx
    let w := fD 1 1 2 3 0xA 0xA
    Issues s 9 w .matrix ∧ mmaClass w.dFmtA w.dFmtB = some .int8 ∧ w.dRes = true ∧ w.dSparse = 0 ∧
      w.dBkeep = false ∧ accOk s.dev 9 w .int8 = true ∧ descAligned 0x4000400 0xA = true ∧
      descAligned 0x2002000 0xA = true ∧ outside (ctxAt s.dev 9) (mmaOperands wMmaCtx w .int8 []).ranges = none ∧
      parityOf s.dev 1 (mmaOperands wMmaCtx w .int8 []).ranges = .ok := by
  unfold Issues Live; decide +kernel

/-- The same context with the block it loaded still in the array; BKEEP, the 2:4 form and the masked form. -/
def wKeep : State := wOn (wCtx 9 wMmaCtx) fun d => { d with tiles.array := [(1, some ⟨9, 0xA, true, [5], []⟩)] }
def wForm (n : Nat) : TWord := BitVec.ofNat 56 ((fD 1 1 2 3 0xA 0xA).toNat + n)
def wSelOf (w : TWord) : List Nat :=
  selOf w.dSparse (wMmaCtx.sreg w.dSX).toNat (readRows 9 (selRows .int8 w.dSparse (wMmaCtx.sreg w.dSX).toNat) wKeep.dev).1

theorem witness_bkeep : let w := wForm (2 ^ 14)
    w.dBkeep = true ∧ w.dRes = true ∧ w.dSparse = 0 ∧ lastBlock wKeep.dev 1 = some (9, 0xA, true) ∧
    Issues wKeep 9 w .matrix ∧ accOk wKeep.dev 9 w .int8 = true ∧
    outside wMmaCtx (mmaOperands wMmaCtx w .int8 []).ranges = none := by
  unfold Issues Live; decide +kernel

theorem witness_sparse : ([wForm (2 ^ 21 + 4 * 2 ^ 16), wForm (2 ^ 22 + 2 ^ 16)].all fun w =>
    let desc := (wMmaCtx.sreg w.dSX).toNat
    let rows := pieceRanges (selRows .int8 w.dSparse desc)
    let os := (mmaOperands wMmaCtx w .int8 (wSelOf w)).ranges
    w.dRes && !w.dBkeep && accOk wKeep.dev 9 w .int8 && selOk w.dSparse desc && outside wMmaCtx rows == none &&
      parityOf wKeep.dev 1 rows == .ok && outside wMmaCtx os == none && parityOf wKeep.dev 1 os == .ok) = true ∧
    (wForm (2 ^ 21)).dSparse = 1 ∧ (wForm (2 ^ 22)).dSparse = 2 := by
  decide +kernel

/-- A queued dense INT8 MMA of one row. -/
def wMmaReq : MmaReq :=
  ⟨9, 1, 1, 0xA, 0xA, 0, false, false, none, [0x0302], [], ⟨9, 0xA, true, [5, 0xFF], []⟩, [], ⟨0, 0, 0, 0⟩⟩

def wMma : State := wOn wMem fun d => { d with tiles.mmaQ := [(1, [wMmaReq])] }

theorem witness_mma_streams : Live wMma ∧ tilesRun wMma.dev = true ∧ mmaQueue wMma.dev 1 = [wMmaReq] := by
  unfold Live; decide +kernel

/-- A chain of no steps into SRAM at 0x1000, rows 576 bytes apart, after DCHAIN and before. -/
def wChain : List Byte := leBytes 8 (0x1000 * 2 ^ 24 + 9 * 2 ^ 48) ++ List.replicate 120 0

def wDrain : State := wOn (wCtx 9 { wRun with sregs := [(2, 0x800), (3, 0x801)], chain := some wChain }) fun d =>
  sramPut d 1 0x800 wChain

theorem witness_drain : Issues wDrain 9 (fB 0 2 1 0) .drain ∧ sramGet wDrain.dev 1 0x800 128 = wChain ∧
    parityOf wDrain.dev 1 [(0x800, 128)] = .ok ∧ chainOk wDrain.dev 9 wChain = true ∧ chainSteps wChain = 0 ∧
    chainRing wChain = false ∧ 512 ≤ chainStride wChain ∧ accBusy wDrain.dev 9 1 = false ∧
    (ctxAt wMem.dev 9).chain = none ∧ ((ctxAt wDrain.dev 9).sreg 3).toNat % 64 ≠ 0 := by
  unfold Issues Live; decide +kernel

/-! ### Premises that are met: synchronisation, itineraries, the fabric unit -/

/-- A ring of eight 128-byte elements of context 9 at SRAM 0x1000. -/
def wRing (k : RingKind) (pub rel : Nat) : Ring :=
  ⟨9, k, 0x1000, 128, 8, pub, rel, some 4, 0, 0, false, [], []⟩

/-- Context 9 with S1 naming a ring or semaphore, S2 to S4 counts, two rings and one itinerary. -/
def wSyncCtx : Ctx :=
  { wRun with
    sregs := [(1, 1), (2, 2), (3, 7), (4, 9)], rings := [6, 7], itins := [4], semRanges := [(1, 2)] }

def wSync : State := wOn (wCtx 9 wSyncCtx) fun d =>
  setRing (setRing { d with hub.sems := [(1, 8)] } 1 6 (wRing .load 5 3)) 1 7 (wRing .local 5 3)

theorem witness_rings : Issues wSync 9 (fB 2 0 0 0) .sync ∧ Settled wSync.dev 9 ∧ (fB 2 0 0 0).bImmRaw = 0 ∧ (ctxAt wSync.dev 9).ringNum 0 = some 6 ∧
    (ctxAt wSync.dev 9).ringNum 1 = some 7 ∧ ringAt wSync.dev 1 6 = some (wRing .load 5 3) ∧
    ringAt wSync.dev 1 7 = some (wRing .local 5 3) ∧ storeFault wSync.dev 1 6 = none ∧
    viewOk .load false = true ∧ viewOk .local true = true ∧ heldIn (wRing .load 5 3) 2 = none ∧
    (ctxAt wSync.dev 9).dueOn 6 = 0 ∧ mmaBusy wSync.dev 9 = false ∧ (fB 0 0 127 0).bMod < 128 ∧
    128 ≤ (fB 0 0 128 0).bMod ∧ (ctxAt wSync.dev 9).ringNum 2 = none ∧
    ((ctxAt wSync.dev 9).sreg 2).toNat = 2 := by
  unfold Issues Live Settled; decide +kernel

theorem witness_semaphores : Issues wSync 9 (fB 3 1 0 0) .sync ∧ semPlain (fB 3 1 0 0) = true ∧
    (ctxAt wSync.dev 9).declares 1 = true ∧ (ctxAt wSync.dev 9).declares 3 = false ∧ semAt wSync.dev 1 = 8 ∧
    ((ctxAt wSync.dev 9).sreg 3).toNat = 7 ∧ ((ctxAt wSync.dev 9).sreg 4).toNat = 9 ∧
    (ctxAt wSync.dev 9).quiet = true ∧ storesWritten wSync.dev 9 = true ∧ wSync.dev.hub.waiters = [] := by
  unfold Issues Live; decide +kernel

def wEpisode : State := wOn wSync fun d => setEpisode d 0 5 (some ⟨4, [.ctx 8]⟩)

/-- A ring whose first element to come is held, and a STORE ring whose slot holds a write fault. -/
def wHeldRing : State := wOn wSync fun d =>
  let d := setRing d 1 6 { wRing .load 5 3 with held := [(4, 0x0421, 0x200040)] }
  let d := setRing d 1 7 { wRing .store 5 3 with slot := some 5 }
  setSlot d 1 5 { Slot.reset with state := .held, owner := 9, ring := 7, store := true, fault := 0x0415, faultAddr := 8 }

theorem witness_held : heldIn { wRing .load 5 3 with held := [(4, 0x0421, 0x200040)] } 2 = some (0x0421, 0x200040) ∧
    storeFault wHeldRing.dev 1 7 = some (0x0415, 8) ∧ Settled wHeldRing.dev 9 ∧ Issues wHeldRing 9 (fB 2 0 0 0) .sync := by
  unfold Issues Live Settled; decide +kernel

theorem witness_barrier : Issues wSync 9 (fB 0 0 0 0x105) .sync ∧ episodeAt wSync.dev 0 5 = none ∧
    partOfCtx wSync.dev 9 = 0 ∧ Issues wEpisode 9 (fB 0 0 0 0x105) .sync ∧
    episodeAt wEpisode.dev 0 5 = some ⟨4, [.ctx 8]⟩ ∧ (ctxAt wEpisode.dev 9).pend = none ∧ (fB 0 0 0 0x105).f 51 32 = 0 ∧ exitFault wMem.dev 9 = none ∧
    Issues wMem 9 (fB 0 0 0 0) .scalar ∧ (ctxAt wMem.dev 9).itins = [] := by
  unfold Issues Live; decide +kernel

/-- Slot 4 of tile 1, of context 9 and its ring 6, in a state and at one word. -/
def wSlot (st : SlotState) (word : Nat) (f : Slot → Slot) : State := wOn wSync fun d =>
  setSlot d 1 4 (f { Slot.reset with
    state := st
    owner := 9
    ring := 6
    elements := 100
    instrs := [toW word]
    shapes := [⟨1, 1, 2, 0⟩]
    addrs := [0x200000, 0, 0, 0, 0, 0, 0, 0]
    base := 5 })

/-- A slot whose FETCH reads from A0 and whose only window lies elsewhere. -/
def wWindowed (base : Nat) : Slot :=
  { slotAt (wSlot .loaded (4 * 2 ^ 60) id).dev 1 4 with windows := [⟨base, 4096, true, true⟩] }

theorem witness_slots : let s := wSlot .loaded 0 id
    Issues s 9 (fB 0 1 0 0) .stream ∧ (ctxAt s.dev 9).itins[0]? = some 4 ∧ (slotAt s.dev 1 4).state = .loaded ∧
    startOk (slotAt s.dev 1 4) 1 1 0 = true ∧ startOk (wWindowed 0x400000) 1 1 0 = false ∧
    (slotAt wSync.dev 1 4).state = .free ∧ Issues wSync 9 (fB 0 1 0 0) .stream ∧
    (ctxAt wSync.dev 9).itins[1]? = none ∧ Settled wSync.dev 9 := by
  unfold Issues Live Settled; decide +kernel

/-- An element on its way, with its bytes. -/
def wElem (n : Nat) : Elem :=
  ⟨n, 5, 0x200000, ⟨1, 1, 2, 0⟩, 0, (List.range 128).map (BitVec.ofNat 8), [], 0, 0, [], false, 0⟩

theorem witness_stop : let s := wSlot .running 0 fun x => { x with flight := [wElem 0] }
    Issues s 9 (fB 0 1 0 0) .stream ∧ (slotAt s.dev 1 4).state = .running ∧ (slotAt s.dev 1 4).flight ≠ [] := by
  unfold Issues Live; decide +kernel

/-- LOOP, STRIDE, SETA, WAITSEM of semaphore 1 at 8 and at 9, SIGSEM, END. -/
def wWords : List (Nat × Nat) :=
  [(1, 2 ^ 60 + 2 * 2 ^ 48 + 4), (2, 2 * 2 ^ 60 + 3 * 2 ^ 57 + 2 ^ 54 + (2 ^ 40 - 64)),
    (3, 3 * 2 ^ 60 + 7 * 2 ^ 57 + (2 ^ 40 - 64)), (6, 6 * 2 ^ 60 + 2 ^ 43 + 8), (6, 6 * 2 ^ 60 + 2 ^ 43 + 9),
    (7, 7 * 2 ^ 60 + 2 ^ 43 + 5), (0, 0)]

theorem witness_steps : wWords.all (fun w =>
    let s := wSlot .running w.2 id
    s.dev.live && tilesRun s.dev && (slotAt s.dev 1 4).state == .running && itOp (slotAt s.dev 1 4).word == w.1 &&
      (slotAt s.dev 1 4).stopReq == false && (slotAt s.dev 1 4).flight == [] && (slotAt s.dev 1 4).signals == [] &&
      (slotAt s.dev 1 4).addrs.length == 8 && s.dev.hub.waiters == [] && (ctxAt s.dev 9).ledger == []) = true := by
  decide +kernel

/-- The same slot at FETCH of A0, shape 0, and at GATHER of A2 from A0, with memory mapped. -/
def wFetch : State := wOn (wSlot .running (4 * 2 ^ 60) id) (wMap 3)
def wGather : State := wOn (wSlot .running (5 * 2 ^ 60 + 2 * 2 ^ 57) id) (wMap 3)

theorem witness_fetch : let sl := slotAt wFetch.dev 1 4
    tilesRun wFetch.dev = true ∧ itOp sl.word = 4 ∧ bits sl.word 47 32 = 0 ∧
    ringAt wFetch.dev 1 6 = some (wRing .load 5 3) ∧ sl.shapes[fetchShape sl.word]? = some ⟨1, 1, 2, 0⟩ ∧
    sl.base + sl.issued < 3 + 8 ∧ sl.issued < sl.elements ∧ sl.addrOf 1 (fetchReg sl.word) = 0x200000 ∧
    elemAllowed sl (fetchReg sl.word) ⟨1, 1, 2, 0⟩ 0x200000 = true ∧
    sl.remote = false ∧ sl.stopReq = false ∧ sl.state = .running ∧
    (answers (readElem ⟨3, 1⟩ .normal ⟨1, 1, 2, 0⟩ 0x200000) wFetch.dev).isSome = true ∧
    elemAllowed { wWindowed 0x400000 with gathered := 0xFF } 0 ⟨1, 1, 2, 0⟩ 0x200000 = false := by
  decide +kernel

theorem witness_gather : let sl := slotAt wGather.dev 1 4
    itOp sl.word = 5 ∧ bit sl.gathered (gatherB sl.word) = false ∧ gatherD sl.word = 2 ∧
    (answers (vread ⟨3, 1⟩ (sl.addrOf 1 (gatherB sl.word)) (gatherSize sl.word)) wGather.dev).isSome = true ∧
    slotAt ((vread ⟨3, 1⟩ 0x200000 4).go wGather.dev).2 1 4 = sl := by
  decide +kernel

theorem witness_delivery : [false, true].all (fun b =>
    let s := wSlot .running 0 fun x => { x with flight := [wElem 7], store := b }
    s.dev.live && tilesRun s.dev && (slotAt s.dev 1 4).flight == [wElem 7] && (slotAt s.dev 1 4).remote == false &&
      (slotAt s.dev 1 4).store == b) = true := by
  decide +kernel

/-- Partition 0 with chip ID 0x12345. -/
def wChip (d : Dev) : Dev := rset d .fabId 0 0 0x112345

def wRput : State := wOn wMem wChip

theorem witness_remote : let s := wRput
    Issues s 9 (fA 0 0 0 0 0 0) .fabric ∧ chipIdValid s.dev 0 = true ∧ chipId s.dev 0 = 0x12345 ∧
    wRun.ownsSram 0x400 64 = true ∧ wRun.ownsSram 0x80 64 = false ∧ parityOf s.dev 1 [(0x400, 64)] = .ok ∧
    (ctxAt s.dev 9).unfenced = [] ∧ inPartDram s.dev 0 0x200000 64 = true ∧
    inPartDram s.dev 0 0x400000000000 64 = false ∧
    answers (writePhys .software 0x200000 (sramGet s.dev 1 0x400 64)) s.dev = some () ∧ accumBits 0 ≠ none ∧
    answers (accumAt .software 0x200000 0 (sramGet s.dev 1 0x400 64)) s.dev = some () ∧
    partOfSem s.dev 32767 = 0 ∧ Settled s.dev 9 ∧ chipBad 0x12346 = false ∧
    fenced s.dev 0 0x12346 = false ∧ (freeTid s.dev 0).isSome = true := by
  unfold Issues Live Settled; decide +kernel

/-! ### Premises that are met: contexts, queues, commands -/

/-- A queue descriptor: rings at `pa` and `pa` + 0x2000 of 64 entries, ASID 3, INFLIGHT 8, QUANTUM 1. -/
def wDesc (pa : Nat) (flags : Nat) : List Byte :=
  leBytes 8 pa ++ leBytes 8 (pa + 0x2000) ++
    leBytes 8 (6 + 6 * 2 ^ 5 + flags * 2 ^ 10 + 3 * 2 ^ 16 + 2 ^ 32 + 8 * 2 ^ 48) ++ List.replicate 40 0

/-- A command's packet: opcode, FLAGS, SEQ and parameters. -/
def wPacket (op flags k : Nat) (ps : List Nat) : List Byte :=
  leBytes 2 op ++ leBytes 2 flags ++ leBytes 4 k ++ List.replicate 8 0 ++
    ((List.range 6).map fun i => leBytes 8 (ps.getD i 0)).flatten

def wCmd (st : CmdState) (op flags k : Nat) (ps : List Nat) : Cmd :=
  { seq := k, acc := 0, data := wPacket op flags k ps, st := st, gateFail := false, status := 0, result := 0, engine := 0,
    start := 0, finish := 0, startClock := 0, readyAt := none, began := st == .started, replayed := false, opcode := op, step := 0,
    aux := [], aux2 := [], buf := [] }

def wQueue (st : QState) (cmds : List Cmd) : Queue :=
  { Queue.reset with state := st, desc := wDesc 0x300000 0, tail := 4, retire := 2, reply := 2, cqhead := 2, cmds := cmds }

/-- Partition 0 READY, campus time 1 s, queue 5 as given. -/
def wQ (x : Queue) : State := wOn wMem fun d =>
  setQueue (rsetf { d with ns := 1000000000, clock := 1000000000 } .chipPartStatus 0 0 20 20 1) 5 x

/-- Command 2 of queue 5, started. -/
def wStarted (y : Cmd) : State := wQ (wQueue .run [y])

/-- The doorbells of the first 512 queues at 0x40_0000. -/
def wEnq : State := wOn (wQ { wQueue .run [] with tail := 2 }) fun d =>
  wPut 0x112010 (leBytes 8 0x40010000000F) (updCtx d 9 fun x => { x with sregs := [(1, 0x405000), (2, 0x400)] })

theorem witness_enq : let s := wEnq
    let d1 := ((translate ⟨3, 1⟩ 0x405000 true).go s.dev).2
    Issues s 9 (fB 2 1 0 0) .fabric ∧ answers (translate ⟨3, 1⟩ 0x405000 true) s.dev = some (0x400100005000, false) ∧
    regionOf 0x400100005000 = .doorbell 5 ∧ (ctxAt d1 9).unfenced = [] ∧ (ctxAt s.dev 9).quiet = true ∧
    parityOf s.dev 1 [(0x400, 64)] = .ok ∧ Settled s.dev 9 ∧ wRun.ownsSram 0x400 64 = true ∧
    wRun.ownsSram 0x40 64 = false ∧ (fB 2 1 0 0).bMod = 0 ∧
    (match enqueue d1 5 3 (sramGet d1 1 0x400 64) with
      | .done _ st seq => st == 0 && seq == some 2
      | .wait _ => false) = true := by
  unfold Issues Live Settled; decide +kernel

/-- A scan of one row against one signboard, parameter set 0. -/
def wScan : State := wOn (wCtx 9 { wRun with sregs := [(1, 0x400)] }) fun d =>
  let d := sramPut d 1 0x400 (leBytes 8 (0x1000 + 0x2000 * 2 ^ 32) ++ leBytes 8 0 ++ leBytes 8 0x3000)
  setGen d .signboard 0 { genAt d .signboard 0 with image := List.replicate 8 0 ++ [1] ++ List.replicate 1079 0 }

theorem witness_scan : let desc := sramGet wScan.dev 1 0x400 64
    let sc := scanOf desc
    Issues wScan 9 (fB 2 1 0 0) .matrix ∧ scanOk desc = true ∧ wRun.ownsSram sc.qaddr (256 * sc.rows) = true ∧
    wRun.ownsSram sc.sbaddr (512 * sc.boards) = true ∧ wRun.ownsSram sc.out (4 * min sc.k sc.boards) = true ∧
    parityOf wScan.dev 1 [(0x400, 64)] = .ok ∧
    parityOf wScan.dev 1 [(sc.qaddr, 256 * sc.rows), (sc.sbaddr, 512 * sc.boards)] = .ok ∧
    (scanParams (genAt wScan.dev .signboard 0).image sc.pset).isSome = true ∧
    scanParams (genAt wMem.dev .signboard 0).image sc.pset = none ∧ Settled wScan.dev 9 ∧
    (ctxAt wScan.dev 9).unfenced = [] := by
  unfold Issues Live Settled; decide +kernel

/-- Partition 0 THREADED or not. -/
def wMode (b : Nat) (x : Ctx) : State := wOn (wCtx 9 x) fun d => rsetf d .chipPartStatus 0 0 4 4 b

theorem witness_contexts : let s := wMode 1 { wRun with wait := .sem }
    let r := wMode 0 { wRun with state := .ready }
    Live r ∧ tilesRun r.dev = true ∧ tileOpen r.dev 1 = true ∧ nextReady r.dev 9 = true ∧
    threaded s.dev (partOfCtx s.dev 9) = true ∧ (ctxAt s.dev 9).state = .running ∧ roundRobin s.dev 9 = none ∧
    roundRobin (wOn s fun d => setCtx d 10 { wRun with state := .ready }).dev 9 = some 10 := by
  unfold Live; decide +kernel

def wRetire : State := wOn (wQ (wQueue .run [{ wCmd .started 0x0201 0 2 [] with aux := [9] }])) fun d =>
  setCtx d 9 { wRun with state := .draining, queue := 5, seq := 2 }

theorem witness_retire : drained wRetire.dev 9 = true ∧
    ((queueAt wRetire.dev 5).cmds.map fun y => (y.seq, y.opcode, y.aux, y.wantsReply)) = [(2, 0x0201, [9], false)] ∧
    (queueAt wRetire.dev 5).shadowPa = 0 ∧ wRetire.dev.rnl.fresh = [] := by
  decide +kernel

def wRefetch : State := wOn wMem fun d =>
  setRing (updCtx d 9 fun x => { x with wait := .refetch 6 5 1 }) 1 6 { wRing .load 6 3 with slot := none, src := [wElem 0] }

/-- A DEPLOYED part without a debug scope. -/
def wLocked : State := wOn wMem fun d => rsetf d .secLcStatus 0 0 1 0 2

theorem witness_halt_and_refetch : Live wRefetch ∧ debugOpen wLocked.dev = false ∧
    debugOpen wMem.dev = true ∧
    (ctxAt wRefetch.dev 9).wait.onElem 6 5 = true ∧
    ((wRing .load 6 3).src ++ [wElem 0]).find? (fun e => e.ringElem == 5) = some (wElem 0) ∧
    (answers (readElem ⟨3, 1⟩ .normal (wElem 0).shape (wElem 0).addr) wRefetch.dev).isSome = true ∧
    (match ((readElem ⟨3, 1⟩ .normal (wElem 0).shape 0x900000000).go wRefetch.dev).1 with
      | .error (.err _ _) => true
      | _ => false) = true := by
  unfold Live; decide +kernel

/-- Ring 3 of tile 2, of context 17, receives what ring 6 of tile 1 leads. -/
def wMcast (elem : Nat) : State := wOn wSync fun d =>
  setRing (setCtx d 17 { wRun with rings := [3] }) 2 3
    ⟨17, .mcastRecv, 0x1000, elem, 8, 0, 0, none, 9, 0, false, [], []⟩

theorem witness_mcast : [128, 64].all (fun e =>
    let s := wMcast e
    (ctxAt s.dev 9).state.launched && (ctxAt s.dev 17).state.launched && (ctxAt s.dev 9).ringNum 0 == some 6 &&
      ((ringAt s.dev 1 6).map (·.elem)) == some 128 && ((ringAt s.dev 2 3).map (·.elem)) == some e) = true := by
  decide +kernel

def wOver : State := wOn (wSlot .running 0 fun x => { x with watch := 2 }) fun d =>
  { d with mem.overwritten := [(0x200000, 1, 4, 7)] }

theorem witness_overwrite : (wOver.dev.mem.overwritten.find? fun w => w.1 == 0x200010 / 64 * 64) =
    some (0x200000, 1, 4, 7) ∧ (slotAt wOver.dev 1 4).watch = 2 := by
  decide +kernel

theorem witness_doorbells : let x := wQueue .run []
    let s := wQ x
    Live s ∧ isReady s.dev (partOfQueue s.dev 5) = true ∧ queueAt s.dev 5 = x ∧ cdiff 5 x.tail < 2 ^ 31 ∧
    cdiff 5 x.retire ≤ x.size ∧ cdiff 66 x.retire ≤ x.size ∧ cdiff 2 x.cqhead < 2 ^ 31 ∧ cdiff x.reply 2 ≤ x.csize ∧ 2 ^ 31 ≤ cdiff 3 x.tail ∧ x.size < cdiff 67 x.retire ∧
    isReady wMem.dev 0 = false ∧ s.dev.rnl.reqs = [] ∧
    (queueAt s.dev 6).state = .off := by
  unfold Live; decide +kernel

/-- A descriptor of queue 5 in its table. -/
def wTable : State := wOn (wQ Queue.reset) fun d =>
  wPut (0x600000 + 5 * 64) (wDesc 0x300000 0) (rset d .qtrQtbl 0 0 0x600001)

theorem witness_enable : let d1 := ((readPhys (0x600000 + 5 * 64) 64).go wTable.dev).2
    regionOf 0x600000 ≠ .window ∧ descOk d1 5 (List.replicate 64 0) = false ∧ (queueAt wTable.dev 5).state = .off ∧ isReady wTable.dev 0 = true ∧
    wbits (rget wTable.dev .qtrQtbl 0) 47 16 * 2 ^ 16 = 0x600000 ∧
    answers (readPhys (0x600000 + 5 * 64) 64) wTable.dev = some (wDesc 0x300000 0) ∧ descOk d1 5 (wDesc 0x300000 0) = true := by
  decide +kernel

theorem witness_table_placed : ringPlaced wTable.dev 0 0x600000 0x400000 = true := by decide +kernel

/-- A stopped queue with one command accepted and one finished; a stopped, drained queue. -/
def wStopped : State := wQ (wQueue .stopped [wCmd .finished 1 0 2 [], wCmd .accepted 1 0 3 []])
def wDrained : State := wQ { wQueue .stopped [] with tail := 2 }

theorem witness_actions : (queueAt wStopped.dev 5).tail =
      ((queueAt wStopped.dev 5).retire + (queueAt wStopped.dev 5).cmds.length) % 2 ^ 32 ∧
    ((queueAt wStopped.dev 5).cmds.all fun y => y.opcode != 0x0110 && y.opcode != 0x0111) = true ∧
    (queueAt wDrained.dev 5).inflight = 0 ∧ (queueAt wDrained.dev 5).state = .stopped := by
  decide +kernel

def wNotify : State := wQ { wQueue .run [] with desc := wDesc 0x300000 8, notifyDue := some 0x0103 }

theorem witness_notify : (queueAt wNotify.dev 5).notifyDue = some 0x0103 ∧ (queueAt wNotify.dev 5).notify = true ∧
    notifyOpen (advanceTo wNotify.dev 0) (queueAt wNotify.dev 5) = true ∧ (queueAt wStopped.dev 5).notifyDue = none := by
  decide +kernel

/-- Queue 5 with command 2 in its ring: NOP, a NOP of another SEQ, an opcode that is reserved. -/
def wAccept (op k : Nat) : State := wOn (wQ (wQueue .run [])) fun d => wPut 0x300080 (wPacket op 0 k [7]) d

theorem witness_accept : [(1, 2, 0), (1, 3, 0), (0x77, 2, 0x0101)].all (fun c =>
    let s := wAccept c.1 c.2.1
    let d0 := advanceTo s.dev 5
    let r := (readPhys 0x300080 64).go { d0 with rnl.fresh := [] }
    let y := newCmd r.2 2 (wPacket c.1 0 c.2.1 [7]) false stOk 0
    s.dev.live && isReady d0 0 && (queueAt d0 5).ringPa + 2 % (queueAt d0 5).size * 64 == 0x300080 &&
      answers (readPhys 0x300080 64) { d0 with rnl.fresh := [] } == some y.data &&
      (answers (readList (spaceOf r.2 5) y) r.2 == some []) &&
      (c.2.1 != 2 || acceptCheck r.2 5 y == c.2.2) && (answers (cmdEngine r.2 5 y) r.2).isSome) = true := by
  decide +kernel

def wArb : State := wQ (wQueue .run [{ wCmd .accepted 1 0 2 [] with readyAt := some 1000000000 }])

/-- A LAUNCH of the IDLE context 12 at the head. -/
def wArbLaunch : State := wQ (wQueue .run [{ wCmd .accepted 0x0201 0 2 [0, 0, 0, 0, 0, 257] with engine := 0x201 }])

theorem witness_start : Live wArb ∧ startsIn (advanceTo wArb.dev 0) 0 = true ∧
    (takeShare wArb.dev 0 0 1).2 = true ∧ launchCtx wArbLaunch.dev (wCmd .accepted 0x0201 0 2 [0, 0, 0, 0, 0, 257]) = some 12 ∧
    (ctxAt wArbLaunch.dev 12).state = .idle ∧ ((arbitrate wArbLaunch.dev 0 0x201).2.map fun b => b.y.opcode) = some 0x0201 ∧
    startsIn wMem.dev 0 = false ∧
    ((arbitrate (advanceTo wArb.dev 0) 0 0).2.map fun b => (b.q, b.y.seq)) = some (5, 2) ∧
    ((arbitrate (advanceTo wArb.dev 0) 0 0).2.bind fun b => cmdAt (arbitrate (advanceTo wArb.dev 0) 0 0).1 b.q b.y.seq).isSome = true ∧
    (arbitrate (advanceTo wArb.dev 0) 0 9).2.isNone = true ∧ agedBid wArb.dev (bids wArb.dev 0 0) = none := by
  unfold Live; decide +kernel

/-- Heads that have finished: SEM_SIGNAL of semaphore 7 by 2^40 with no reply, a NOP that failed. -/
def wHead (op st : Nat) (flags : Nat) : State :=
  wQ { wQueue .run [{ wCmd .finished op 0 2 [7, 2 ^ 40] with status := st }] with desc := wDesc 0x300000 flags }

theorem witness_head : (queueAt (wHead 0x0301 0 0).dev 5).shadowPa = 0 ∧ (wHead 0x0301 0 0).dev.hub.waiters = [] ∧
    canRetire (queueAt wArb.dev 5) = none ∧ (wCmd .finished 0x0301 0 2 [7, 2 ^ 40]).param 2 % 2 ^ 20 = 0 ∧
    queueAt (retireEffect { (wHead 1 0x0104 4).dev with rnl.fresh := [] } 5 { wCmd .finished 1 0 2 [7, 2 ^ 40] with status := 0x0104 }).1 5 =
      queueAt (wHead 1 0x0104 4).dev 5 ∧ statusClass 0x0104 = 1 ∧
    (queueAt (wHead 1 0x0104 4).dev 5).stopOnError = true ∧ (queueAt (wHead 1 0x0104 4).dev 5).notify = false ∧
    ((hubWrite (wHead 1 0x0104 4).dev 0x302040 (List.replicate 32 0)).map fun d => d.rnl.fresh) = some [] := by
  decide +kernel

/-! ### Premises that are met: commands of the hub and of memory -/

theorem witness_started : [0x0001, 0x0002, 0x0301, 0x0302, 0x0303, 0x0304, 0x0401, 0x0402, 0x0403].all (fun op =>
    let y := wCmd .started op 0 2 [5, 2]
    let s := wStarted y
    s.dev.live && cmdAt s.dev 5 2 == some y && y.st == .started && y.opcode == op && !isSuspect s.dev 5 2) = true := by
  decide +kernel

theorem witness_queue_ctl : let s := wOn (wStarted (wCmd .started 0x0002 0 2 [6, 2])) fun d => setQueue d 6 (wQueue .run [])
    (wCmd .started 0x0002 0 2 [6, 2]).param 0 % 262144 = 6 ∧ (wCmd .started 0x0002 0 2 [6, 2]).param 1 % 8 = 2 ∧
    (queueAt s.dev 6).state = .run := by
  decide +kernel

/-- COPY of 128 bytes from 0x200000 to 0x210000. -/
def wCopy : State := wStarted (wCmd .started 0x0101 0 2 [0x200000, 0x210000, 128])

def wFill : State := wStarted (wCmd .started 0x0102 0 2 [0x200000, 64, 0x1122334455667788])

theorem witness_fill : let bs := (List.replicate 8 (leBytes 8 0x1122334455667788)).flatten
    answers (vwrite ⟨3, 64⟩ 0x200000 bs) (clean wFill) = some () ∧
    ((vwrite ⟨3, 64⟩ 0x200000 bs).go (clean wFill)).2.rnl.fresh = [] ∧ spaceOf wFill.dev 5 = ⟨3, 64⟩ ∧
    answers (junkRange ⟨3, 64⟩ 0x900000000 1) wFill.dev = some () := by
  decide +kernel

def wBand : State := wOn (wStarted { wCmd .started 0x0108 0 2 [0x600000, 1, 1] with step := 1 }) fun d =>
  { d with mem.busy := [(1, 1)] }

theorem witness_band : heldIn_ wBand.dev 0x600000 0xC00000 = none ∧ wBand.dev.tiles.slots = [] ∧
    (wBand.dev.tiles.ctxs.all fun e => e.2.writesOut == []) = true := by
  decide +kernel

theorem witness_copy_runs : runs wCopy 0x0101 = true ∧
    answers (physRuns ⟨3, 64⟩ 0x200000 128 false) (clean wCopy) = some [(0x200000, 128)] ∧
    answers (physRuns ⟨3, 64⟩ 0x210000 128 true) ((physRuns ⟨3, 64⟩ 0x200000 128 false).go (clean wCopy)).2 = some [(0x210000, 128)] := by
  decide +kernel

/-- After source and destination were walked, and after the source was read, in either way. -/
def wCopy2 : Dev := ((physRuns ⟨3, 64⟩ 0x210000 128 true).go ((physRuns ⟨3, 64⟩ 0x200000 128 false).go (clean wCopy)).2).2
def wCopy3 (g : Bool) : Dev :=
  ((atVirtual 0x200000 (readPhys 0x200000 128)).go (again ⟨3, 64⟩ 0x200000 false wCopy2 g).2).2

theorem witness_copy : ∃ g, (vread ⟨3, 64⟩ 0x200000 128).go wCopy2 = (.ok (List.replicate 128 0), wCopy3 g) ∧
    ((vwrite ⟨3, 64⟩ 0x210000 (List.replicate 128 0)).go (wCopy3 g)).1 = .ok () ∧
    cmdAt ((vwrite ⟨3, 64⟩ 0x210000 (List.replicate 128 0)).go (wCopy3 g)).2 5 2 = cmdAt wCopy.dev 5 2 := by
  have k0 : ∀ g, wbit (rget (wCopy3 g) .chipAsidTbl 0 (partOfAsid (wCopy3 g) 3)) 0 = true ∧
      mget 0 (wCopy3 g).mem.tlb (tlbKey 64 3 0x210000) ≠ 0 := by decide +kernel
  have k1 : ∀ g h, (again ⟨3, 64⟩ 0x210000 true (wCopy3 g) h).1 = .ok (0x210000, false) := by decide +kernel
  have k2 : ∀ g h,
      let r := (atVirtual 0x210000 (writePhys .software 0x210000 (List.replicate 128 0))).go
        (again ⟨3, 64⟩ 0x210000 true (wCopy3 g) h).2
      r.1 = .ok () ∧ cmdAt r.2 5 2 = cmdAt wCopy.dev 5 2 := by
    decide +kernel
  have k3 : ∀ g, ((atVirtual 0x200000 (readPhys 0x200000 128)).go (again ⟨3, 64⟩ 0x200000 false wCopy2 g).2).1 =
      .ok (List.replicate 128 0) := by
    decide +kernel
  obtain ⟨g, h⟩ := vread_again (sp := ⟨3, 64⟩) (pa := 0x200000) (coh := false) (d := wCopy2)
    (fun r => ∃ g, r = (.ok (List.replicate 128 0), wCopy3 g)) (va := 0x200000) (len := 128)
    (by decide +kernel) (by decide) (by decide) (by decide +kernel) (by decide +kernel) (by decide +kernel)
    (fun g => ⟨g, Prod.ext (k3 g) (by simp only [wCopy3])⟩)
  exact ⟨g, h, vwrite_again (sp := ⟨3, 64⟩) (fun r => r.1 = .ok () ∧ cmdAt r.2 5 2 = cmdAt wCopy.dev 5 2)
    (by decide +kernel) (by decide) (by decide) (k0 g).1 (k0 g).2 (k1 g) (k2 g)⟩

/-- Queue 5's doorbell page at 0x405000 and a line of the companion window that has arrived at 0x600000. -/
def wDevices : State := wOn (wQ (wQueue .run [])) fun d =>
  let d := wPut 0x112018 (leBytes 8 (0x800000000000 + 0x1F)) (wPut 0x112010 (leBytes 8 (0x400100000000 + 0xF)) d)
  rsetf { d with rnl.arrived := [(0x800000000000, 0, List.replicate 64 7)] } .rnlLinkStatus 0 0 3 0 4

theorem witness_device_loads : let d := wDevices.dev
    let seen (va : Nat) (w : Bool) := (translate ⟨3, 1⟩ va w).go d
    Issues wDevices 9 (fB 4 1 0 0x204FF0) .mem ∧ Issues wDevices 9 (fB 4 1 0 0x3FFFF0) .mem ∧ ctxSpace d 9 = ⟨3, 1⟩ ∧
    ((ctxAt d 9).sreg 1 + (fB 4 1 0 0x204FF0).bImm).toNat = 0x405000 ∧
    ((ctxAt d 9).sreg 1 + (fB 4 1 0 0x3FFFF0).bImm).toNat = 0x600000 ∧
    ([false, true].all fun w => (answers (translate ⟨3, 1⟩ 0x405000 w) d == some (0x400100005000, false)) &&
      !doorbellDenied (seen 0x405000 w).2 3 0x400100005000 &&
      answers (translate ⟨3, 1⟩ 0x600000 w) d == some (0x800000000000, true)) = true ∧
    regionOf 0x400100005000 = .doorbell 5 ∧ regionOf 0x800000000000 = .window ∧
    answers (atVirtual 0x600000 (readLine 0x800000000000 true)) (seen 0x600000 false).2 = some (List.replicate 64 7) ∧
    answers (atVirtual 0x600000 (writePhys .software 0x800000000000 (leBytes 8 5) true)) (seen 0x600000 true).2 = some () := by
  unfold Issues Live; decide +kernel

/-! ### Premises that are met: launches, tables, pages, banks -/

/-- A manifest of 64 bytes: entry 0x1000, SRAM from 0 on, 0x10000 bytes, accumulator tile 0. -/
def wManifest (size : Nat) : List Byte :=
  leBytes 4 1 ++ leBytes 4 64 ++ leBytes 8 0x1000 ++ leBytes 4 0 ++ leBytes 4 size ++ leBytes 1 1 ++ List.replicate 39 0

def wLaunch : State := wOn (wStarted (wCmd .started 0x0201 0 2 [0x200000, 11, 12, 13, 14, 1 + 2 ^ 6])) fun d => setCtx d 9 Ctx.reset

/-- Context 9 is being checked for command 2 of queue 5. -/
def wCheck (size : Nat) : State := wOn (wStarted { wCmd .started 0x0201 0 2 [0x200000, 11, 12, 13, 14, 9] with aux := [9] })
  fun d => wPut 0x200000 (wManifest size) (setCtx d 9 { Ctx.reset with
    state := .checking
    asid := 3
    queue := 5
    seq := 2
    params := [0x200000, 11, 12, 13, 14, 9] })

/-- The second step of a table load. -/
def wLoad (kind len : Nat) : State := wStarted { wCmd .started 0x0203 0 2 [kind, 0x200000, len] with step := 1 }

/-- A started page command; frame 5 and 6 as given. -/
def wPg (op : Nat) (ps : List Nat) (f : Cmd → Cmd) (a b : KvFrame) : State :=
  wOn (wStarted (f (wCmd .started op 0 2 ps))) fun d => setFrame (setFrame d 5 a) 6 b

def wFree (i : Nat) : KvFrame := { KvFrame.reset with state := .free, pa := 0x300000 + 0x10000 * i, scPa := 0x500000 + 0x1000 * i }
def wActive (i n : Nat) : KvFrame := { wFree i with state := .active, refcnt := n, fmt := 1 }

/-- PAGE_MAP: ALLOC of the entry at 0x200040; WRITE with one and with two references; the end of the copy; DEFINE of
frames 7 and 8. -/
def wAlloc : State := wOn (wPg 0x0401 [0x200040, 0x10] id (wFree 0) (wFree 1)) (wPut 0x200040 (leBytes 4 0xFFFFFFFF))
def wWrite (n : Nat) : State := wOn (wPg 0x0401 [0x200040, 1] id (wActive 0 n) (wFree 1)) (wPut 0x200040 (leBytes 4 5))
def wCopied : State := wOn (wPg 0x0401 [0x200040, 1] (fun y => { y with step := 1, aux := [5, 6] })
    { wActive 0 2 with state := .copying } (wFree 1)) fun d => wPut 0x200040 (leBytes 4 5) { d with ledger.taken := [6] }
def wDefine : State := wPg 0x0401 [7, 2, 2, 0x320000, 0x502000] id (wFree 0) (wFree 1)

/-- BANK of frames 6 and 5; PAGE_SHARE of one entry; RELEASE. -/
def wBank : State := wOn (wPg 0x0401 [0x200040, 3, 2, 0x2003, 17, 18] id (wFree 0) (wFree 1)) (wPut 0x200040 (leBytes 4 6 ++ leBytes 4 5))
def wShare : State := wOn (wPg 0x0402 [0x200040, 0x200080, 1] id (wActive 0 1) (wFree 1)) fun d =>
  wPut 0x200080 (leBytes 4 0xFFFFFFFF) (wPut 0x200040 (leBytes 4 5) d)
def wEntries (n : Nat) : State := wOn (wPg 0x0403 [0x200040, 0, 1] id (wActive 0 n) (wFree 1)) (wPut 0x200040 (leBytes 4 5))
def wUndefine : State := wPg 0x0403 [5, 3, 2] id (wFree 0) (wFree 1)
def wBanked (op : Nat) (b : FrameState) : State := wOn (wPg 0x0403 [0, op, 0, 3] id
    { wFree 0 with state := b, group := 3, bank := 0 } { wFree 1 with state := .banked, group := 3 }) fun d =>
  setBank d 6 ⟨[5, 6], 17, 18, 1, []⟩

/-- A LAUNCH of a context that runs. -/
def wCheck0 : State := wOn (wStarted (wCmd .started 0x0201 0 2 [0x200000, 11, 12, 13, 14, 1 + 2 ^ 6])) (wPut 0x200000 (wManifest 0x10000))

theorem witness_launch : let y := wCmd .started 0x0201 0 2 [0x200000, 11, 12, 13, 14, 1 + 2 ^ 6]
    runs wLaunch 0x0201 = true ∧ cmdAt wLaunch.dev 5 2 = some y ∧ launchAny y = false ∧ launchTile y = 1 ∧
    launchSlot y = 1 ∧ (ctxAt wLaunch.dev 9).state = .idle ∧ launchCtx wLaunch.dev y = some 9 ∧
    (match runChecker wCheck0.dev 9 3 0x200000 with
      | .pass _ m => m.entry == 0x1000
      | _ => false) = true ∧ (ctxAt wCheck0.dev 9).state ≠ .idle := by
  decide +kernel

theorem witness_checker : let x := ctxAt (wCheck 0x10000).dev 9
    (wCheck 0x10000).dev.live = true ∧ x.state = .checking ∧ x.preds = 0 ∧ x.vregs = [] ∧
    (match runChecker (wCheck 0x10000).dev 9 x.asid (x.params.headD 0).toNat with
      | .pass d m => m.entry == 0x1000 && ctxAt d 9 == x
      | _ => false) = true ∧
    (match runChecker (wCheck 0x10000000).dev 9 x.asid (x.params.headD 0).toNat with
      | .fail d _ _ => ctxAt d 9 == ctxAt (wCheck 0x10000000).dev 9 && (cmdAt d 5 2).any fun y => y.st == .started
      | _ => false) = true := by
  decide +kernel

/-- A signboard image with one set, all its parameters 0. -/
def wBoard : List Byte := leBytes 4 1 ++ List.replicate 1084 0

theorem wBoard_ok : signboardBad wBoard = none := by decide +kernel

def wBoards : State := wOn (wLoad 2 1088) (wPut 0x200000 (leBytes 4 1))

theorem witness_tables : runs wBoards 0x0203 = true ∧ loadTurn wBoards.dev 5 (wCmd .started 0x0203 0 2 [2, 0x200000, 1088]) .signboard = true ∧ runs (wLoad 1 64) 0x0203 = true ∧
    answers (vread ⟨3, 64⟩ 0x200000 1088) (clean wBoards) = some wBoard := by
  decide +kernel

theorem witness_alloc : let r1 := (readEntry ⟨3, 64⟩ 0x200040).go (clean wAlloc)
    runs wAlloc 0x0401 = true ∧ answers (readEntry ⟨3, 64⟩ 0x200040) (clean wAlloc) = some absentEntry ∧
    lowestFree r1.2 0 = some 5 := by
  decide +kernel

theorem witness_alloc_write : let r1 := (readEntry ⟨3, 64⟩ 0x200040).go (clean wAlloc)
    let r2 := (writeEntry ⟨3, 64⟩ 0x200040 5).go r1.2
    r2.1 = .ok () ∧ r2.2.rnl.fresh = [] := by
  simp only [writeEntry]
  exact vwrite_again (sp := ⟨3, 64⟩) (pa := 0x200040) (coh := false) (fun r => r.1 = .ok () ∧ r.2.rnl.fresh = []) (by decide +kernel)
    (by decide) (by decide) (by decide +kernel) (by decide +kernel) (by decide +kernel) (by decide +kernel)

theorem witness_write : [1, 2].all (fun n =>
    let d1 := ((readEntry ⟨3, 64⟩ 0x200040).go (clean (wWrite n))).2
    runs (wWrite n) 0x0401 && answers (readEntry ⟨3, 64⟩ 0x200040) (clean (wWrite n)) == some 5 && frameIn d1 0 5 &&
      (frameAt d1 5).state == .active && (frameAt d1 5).refcnt == n && (frameAt d1 5).pins == 0 && entryTurn d1 5 2 5 &&
      lowestFree d1 0 == some 6) = true := by
  decide +kernel

/-- The copy meets a line that fails its check. -/
theorem witness_copied : let s := wOn wCopied fun d => failLine d 0x300000
    runs s 0x0401 = true ∧ (match ((do
        copyFrame s.dev 0 (frameAt s.dev 5) (frameAt s.dev 6)
        writeEntry ⟨3, 64⟩ 0x200040 6 : Act Unit).go (clean s)).1 with
      | .error (.err st _) => st != 0
      | _ => false) = true := by
  decide +kernel

theorem witness_define : let s := wDefine
    runs s 0x0401 = true ∧ s.dev.rnl.fresh = [] ∧
    [0, 1].all (fun i => framePlaced s.dev 0 (7 + i) (0x320000 + i * pageSize s.dev 0) (0x502000 + i * sideSize s.dev 0) &&
      (frameAt s.dev (7 + i)).state == .absent) = true := by
  decide +kernel

theorem witness_bank : let d1 := ((vread ⟨3, 64⟩ 0x200040 8).go (clean wBank)).2
    runs wBank 0x0401 = true ∧ answers (vread ⟨3, 64⟩ 0x200040 8) (clean wBank) = some (leBytes 4 6 ++ leBytes 4 5) ∧
    d1.rnl.fresh = [] ∧
    [6, 5].all (fun f => frameIn d1 0 f && (frameAt d1 f).state == .free && !d1.ledger.taken.contains f) = true := by
  decide +kernel

/-- A shared entry in another page than the one it comes from. -/
def wShared : State := wOn (wPg 0x0402 [0x200040, 0x210080, 1] id (wActive 0 1) (wFree 1)) fun d =>
  wPut 0x210080 (leBytes 4 0xFFFFFFFF) (wPut 0x200040 (leBytes 4 5) d)

theorem witness_share : let r1 := (readEntry ⟨3, 64⟩ 0x200040).go (clean wShared)
    let r2 := (readEntry ⟨3, 64⟩ 0x210080).go r1.2
    runs wShared 0x0402 = true ∧ answers (readEntry ⟨3, 64⟩ 0x200040) (clean wShared) = some 5 ∧
    answers (readEntry ⟨3, 64⟩ 0x210080) r1.2 = some absentEntry ∧ frameIn r2.2 0 5 = true ∧
    (frameAt r2.2 5).state = .active ∧ (frameAt r2.2 5).refcnt = 1 ∧ entryTurn r2.2 5 2 5 = true := by
  decide +kernel

theorem witness_share_write : let r1 := (readEntry ⟨3, 64⟩ 0x200040).go (clean wShared)
    let r2 := (readEntry ⟨3, 64⟩ 0x210080).go r1.2
    let r3 := (writeEntry ⟨3, 64⟩ 0x210080 5).go { r2.2 with rnl.fresh := [] }
    r3.1 = .ok () ∧ r3.2.rnl.fresh = [] := by
  simp only [writeEntry]
  exact vwrite_again (sp := ⟨3, 64⟩) (pa := 0x210080) (coh := false) (fun r => r.1 = .ok () ∧ r.2.rnl.fresh = []) (by decide +kernel)
    (by decide) (by decide) (by decide +kernel) (by decide +kernel) (by decide +kernel) (by decide +kernel)

theorem witness_entries : let r1 := (readEntry ⟨3, 64⟩ 0x200040).go (clean (wEntries 1))
    runs (wEntries 1) 0x0403 = true ∧ answers (readEntry ⟨3, 64⟩ 0x200040) (clean (wEntries 1)) = some 5 ∧
    frameIn r1.2 0 5 = true ∧ (frameAt r1.2 5).state = .active ∧ (frameAt r1.2 5).pins = 0 ∧ entryTurn r1.2 5 2 5 = true := by
  decide +kernel

theorem witness_entries_write : let r1 := (readEntry ⟨3, 64⟩ 0x200040).go (clean (wEntries 1))
    let r2 := (writeEntry ⟨3, 64⟩ 0x200040 absentEntry).go { r1.2 with rnl.fresh := [] }
    r2.1 = .ok () ∧ r2.2.rnl.fresh = [] := by
  simp only [writeEntry]
  exact vwrite_again (sp := ⟨3, 64⟩) (pa := 0x200040) (coh := false) (fun r => r.1 = .ok () ∧ r.2.rnl.fresh = []) (by decide +kernel)
    (by decide) (by decide) (by decide +kernel) (by decide +kernel) (by decide +kernel) (by decide +kernel)

theorem witness_undefine : runs wUndefine 0x0403 = true ∧ wUndefine.dev.rnl.fresh = [] ∧
    [5, 6].all (fun f => (frameAt wUndefine.dev f).state == .free && !wUndefine.dev.ledger.taken.contains f) = true := by
  decide +kernel

theorem witness_banked : [(1, FrameState.circulating), (2, .banked)].all (fun c =>
    let s := wBanked c.1 c.2
    runs s 0x0403 && bankAt s.dev (bankKey 3) == some ⟨[5, 6], 17, 18, 1, []⟩ && groupAt s.dev 3 == none &&
      [5, 6].all fun f => (frameAt s.dev f).pins == 0) = true := by
  decide +kernel

/-! ### Premises that are met: sets, Satchel, scales, Tally, groups -/

def wAct (op : Nat) (st : SetState) : State :=
  wOn (wStarted (wCmd .started 0x0206 0 2 [9, op + 2 * 16, 4096, 77])) fun d =>
    { d with sets := mset ActSet.reset d.sets 9 (if st = .free then ActSet.reset else ⟨st, 2, 77, 4096, 0, 0⟩) }

/-- SATCHEL_STORE of 64 bytes at 0x200000 to 0x210000 and the RESTORE of its stream, tracked by set 9. -/
def wSource : List Byte := (List.range 64).map fun i => BitVec.ofNat 8 (i * i)
/-- Its stream: header, directory, one chunk. -/
def wStream : List Byte :=
  leBytes 8 1 ++ leBytes 8 64 ++ leBytes 8 1 ++ leBytes 8 256 ++ List.replicate 28 0 ++ [121, 86, 156, 130] ++
    leBytes 8 2 ++ List.replicate 56 0 ++ leBytes 8 64 ++ leBytes 4 64 ++ [134, 95, 219, 41] ++ wSource ++
    List.replicate 48 0
def wStore : State := wOn (wStarted (wCmd .started 0x0110 0 2 [0x200000, 64, 0x210000, 0, 4096 + 9])) fun d =>
  wPut 0x200000 wSource { d with sets := mset ActSet.reset d.sets 9 ⟨.storing, 2, 77, 64, 0, 0⟩ }
def wRestore (bad : Nat) : State := wOn (wStarted (wCmd .started 0x0111 0 2 [0x20FFC0, 0x220000, 64, 0, 4096 + 9])) fun d =>
  wPut 0x20FFC0 (setAt wStream 6 (BitVec.ofNat 8 bad))
    { d with sets := mset ActSet.reset d.sets 9 ⟨.restoring, 2, 77, 64, 192, 0⟩ }

/-- A scale record of one block and one amax at 0x200000: R at step `n`, W. -/
def wSlotRec (n : Nat) : List Byte :=
  leBytes 4 0 ++ leBytes 1 5 ++ leBytes 1 0 ++ leBytes 2 0 ++ leBytes 8 n ++ leBytes 8 0x210000 ++ leBytes 8 0x220000 ++
    leBytes 8 0x230000 ++ leBytes 8 0x240000 ++ leBytes 4 1 ++ leBytes 2 1
def wScale (n : Nat) : State := wOn (wStarted (wCmd .started 0x0207 0 2 [0x200000, 1, 6])) fun d =>
  wPut 0x240000 (leBytes 4 0x3F800000) (wPut 0x200080 (wSlotRec 7) (wPut 0x200000 (wSlotRec n) d))

/-- Group 7 of chips 0x12345 and 0x12346, itself the first, its image at 0x200000. -/
def wImage : List Byte :=
  leBytes 4 1 ++ leBytes 4 2 ++ leBytes 4 0 ++ leBytes 4 0 ++ leBytes 8 99 ++ List.replicate 40 0 ++
    leBytes 8 0x112345 ++ leBytes 8 0x112346
def wGroup : Group := ⟨0x200000, [(0x200000, 80)], 2, 0, 99⟩
def wGroupOf (d : Dev) : Dev :=
  let d := wPut 0x200000 wImage (wChip d)
  { d with
    fab.groups := [(7, wGroup)]
    mem.bandMap := [(0, true), (1, true)] }

def wTally : TallyCtx := ⟨true, false, 0x600000, 1, 3, 100000, 5000, 3, [], [], []⟩
def wOpen : State := wOn (wStarted (wCmd .started 0x0503 0 2 [7 + 2 ^ 16, 0x600000, 1, 3, 100000 + 5000 * 2 ^ 32])) wGroupOf
def wWithTally (s : State) : State := wOn s fun d => { wGroupOf d with
  tally.ctxs := [(7, wTally), (8, wTally)]
  tally.pubs := [⟨7, 3, 0, []⟩, ⟨7, 4, 0, []⟩] }
def wClose : State := wWithTally (wStarted (wCmd .started 0x0503 0 2 [7 + 2 ^ 18]))
def wContrib : State := wWithTally (wStarted { wCmd .started 0x0501 0 2 [7, 3, 0x210000, 2 * 2 ^ 32] with
  step := 2
  aux2 := [1, 2]
  status := 0x0604 })
def wFinish (n : Nat) : State := wWithTally (wStarted { wCmd .started 0x0502 0 2 [7, 3, 0x700000, 0x800000] with
  step := n
  aux := [0] })

/-- The Bell of partition 0 has rung step 3 at campus time 0.9 s. -/
def wDue (waits : List TallyWait) : State := wOn (wWithTally (wQ (wQueue .run []))) fun d =>
  let d := setFabPart d 0 { fabPart d 0 with bell := some ⟨900000000, 3, 1000000, 5, [], 4⟩ }
  updTally d 7 fun x => { x with waits := waits }

def wGroupSet : State := wOn (wStarted (wCmd .started 0x0A01 0 2 [7, 0x200000])) fun d => { wGroupOf d with fab.groups := [] }
def wGroupClear : State := wOn (wStarted (wCmd .started 0x0A01 0 2 [7 + 2 ^ 16])) wGroupOf

def wBell (dis : Nat) : State := wOn (wStarted (wCmd .started 0x0702 0 2 [2000000000, 3, 1000000, 5, dis])) fun d =>
  rsetf d .fabTimeStatus 0 0 1 0 2

/-- A dispatch image of one expert at chip 0x12346: group 7, semaphore 5, quota 2. -/
def wDspImage (v : Nat) : List Byte :=
  leBytes 4 v ++ leBytes 4 1 ++ leBytes 4 7 ++ leBytes 4 5 ++ List.replicate 48 0 ++
    leBytes 8 (0x12346 + 2 * 2 ^ 32) ++ leBytes 8 0x300000 ++ leBytes 8 0x380000 ++ List.replicate 8 0
def wDspLoad (v : Nat) : State := wOn (wStarted { wCmd .started 0x0A02 0 2 [0x200000, 96] with step := 1 })
  (wPut 0x200000 (wDspImage v))

/-- Four tokens, three of them dropped; all handed out. -/
def wDisp : State := wOn (wStarted { wCmd .started 0x0A04 0 2 [0, 0, 4 + 2 ^ 32 + 2 ^ 43 + 2 ^ 47] with
  step := 7
  aux2 := [3, 1]
  buf := wDspImage 1 }) wGroupOf
def wGatherCmd : State := wOn (wStarted { wCmd .started 0x0A03 0 2 [0x600000, 0x700000, 4096, 7 + 7 * 2 ^ 16, 30 * 2 ^ 32, 5 * 2 ^ 32] with
  aux2 := [3, 0, 0] }) fun d => { wGroupOf d with hub.sems := [(30, 6)] }
def wPass : State := wStarted { wCmd .started 0x0404 0 2 [5, 2, 7] with step := 2 }

theorem witness_sets : [SetState.free, .hot, .lost, .restoring].all (fun st =>
    [0, 1].all fun op => runs (wAct op st) 0x0206 && (setAt_ (wAct op st).dev 9).state == st) = true := by
  decide +kernel

def wStore1 : Dev := ((vread ⟨3, 64⟩ 0x200000 64).go (clean wStore)).2
def wStore2 : Dev := ((translate ⟨3, 64⟩ 0x210000 true).go wStore1).2

theorem witness_store : runs wStore 0x0110 = true ∧ answers (vread ⟨3, 64⟩ 0x200000 64) (clean wStore) = some wSource ∧
    wStore1.rnl.fresh = [] ∧ answers (translate ⟨3, 64⟩ 0x210000 true) wStore1 = some (0x210000, false) ∧
    (setAt_ wStore.dev 9).state = .storing ∧ (streamOf 0 0 wSource).1 = wStream := by
  decide +kernel

theorem witness_store_write : let r := (vwrite ⟨3, 64⟩ 0x210000 wStream).go wStore2
    r.1 = .ok () ∧ r.2.rnl.fresh = [] :=
  vwrite_again (sp := ⟨3, 64⟩) (va := 0x210000) (bs := wStream) (d := wStore2) (pa := 0x210000) (coh := false)
    (fun r => r.1 = .ok () ∧ r.2.rnl.fresh = []) (by decide +kernel)
    (by decide) (by decide) (by decide +kernel) (by decide +kernel) (by decide +kernel) (by decide +kernel)

theorem witness_restore : let r1 := (vread ⟨3, 64⟩ 0x20FFC0 64).go (clean (wRestore 0))
    let r2 := (vread ⟨3, 64⟩ 0x210000 192).go r1.2
    runs (wRestore 0) 0x0111 = true ∧ answers (vread ⟨3, 64⟩ 0x20FFC0 64) (clean (wRestore 0)) = some (wStream.take 64) ∧
    headOk (wStream.take 64) 64 = true ∧ leAt (wStream.take 64) 0x18 8 - 64 = 192 ∧
    answers (vread ⟨3, 64⟩ 0x210000 192) r1.2 = some (wStream.drop 64) ∧ r2.2.rnl.fresh = [] ∧
    dirOk (wStream.take 64 ++ wStream.drop 64) = true ∧
    chunksDecode (wStream.take 64 ++ wStream.drop 64) 1 0 = (wSource, none) ∧
    answers (vwrite ⟨3, 64⟩ 0x220000 wSource) r2.2 = some () := by
  decide +kernel

theorem witness_restore_bad : runs (wRestore 1) 0x0111 = true ∧
    (answers (vread ⟨3, 64⟩ 0x20FFC0 64) (clean (wRestore 1))).map (fun h => headOk h 64) = some false := by
  decide +kernel

theorem witness_scale_bad : runs (wScale 8) 0x0207 = true ∧
    answers (scaleRecord ⟨3, 64⟩ 0x200000 6) (clean (wScale 8)) = some none ∧
    ((scaleRecord ⟨3, 64⟩ 0x200000 6).go (clean (wScale 8))).2.rnl.fresh = [] := by
  decide +kernel

theorem witness_open : let y := wCmd .started 0x0503 0 2 [7 + 2 ^ 16, 0x600000, 1, 3, 100000 + 5000 * 2 ^ 32]
    runs wOpen 0x0503 = true ∧ cmdAt wOpen.dev 5 2 = some y ∧ tallyOf y = wTally ∧
    groupAt wOpen.dev 7 = some wGroup ∧ tallyAt wOpen.dev 7 = none ∧ tallyOpenOk wOpen.dev 0 wTally wGroup = true ∧
    answers (dclear 0x600000 0 (tallyRegion wTally wGroup)) (clean wOpen) = some () := by
  decide +kernel

theorem witness_close : runs wClose 0x0503 = true ∧ (tallyAt wClose.dev 7).isSome = true ∧
    (wClose.dev.hub.queues.all fun e => e.2.cmds.all fun z => z.opcode != 0x0501 && z.opcode != 0x0502) = true := by
  decide +kernel

theorem witness_contribute : (match cmdAt wContrib.dev 5 2 with
    | some y =>
      let z := contribOf wContrib.dev 5 y wTally wGroup
      y.opcode == 0x0501 && y.aux == [] && z.count == 2 && z.first + z.count == 2 && z.va % 64 == 0 &&
        !selfFilling wContrib.dev wGroup && decide (z.order.length ≤ y.step) &&
        z.order.all fun e => isBad y e.1 || isSent y e.1
    | none => false) = true := by
  decide +kernel

theorem witness_finish : runs (wFinish 0) 0x0502 = true ∧ runs (wFinish 1) 0x0502 = true ∧
    finishAreasOk (wFinish 0).dev 0 wTally wGroup 0x700000 0x800000 = true ∧
    answers (finishChunk ⟨0, 7, wTally, wGroup, 3, 0⟩ 0x700000 0x800000) (clean (wFinish 0)) = some none ∧
    answers (dclear 0x600000 (1 * 131328) 131328) (clean (wFinish 1)) = some () := by
  decide +kernel

theorem witness_deadlines : let d := advanceTo (wDue []).dev 1000000009
    (wDue []).dev.live = true ∧ (dueRecords d 7 3 TallyCtx.expLead).length = 1 ∧
    (dueRecords d 7 3 fun _ => 0).length = 1 ∧
    answers ((dueRecords d 7 3 TallyCtx.expLead).forM closeExp) d = some () ∧
    answers ((dueRecords d 7 3 fun _ => 0).forM deadlineMain) d = some () := by
  decide +kernel

theorem witness_waits : [999000000, 999000010].all (fun since =>
    let w : TallyWait := ⟨false, 3, 0, since⟩
    let d := advanceTo (wDue [w]).dev 1000000009
    (tallyAt d 7).map (·.waits) == some [w] && groupAt d 7 == some wGroup &&
      (decide (since + 1000000 ≤ d.ns) == (since == 999000000)) &&
      answers (partialEnds w ⟨0, 7, { wTally with waits := [w] }, wGroup, 3, 0⟩) d == some ()) = true := by
  decide +kernel

theorem witness_group : runs wGroupSet 0x0A01 = true ∧ groupBusy wGroupSet.dev 7 5 2 = false ∧
    runs wGroupClear 0x0A01 = true ∧ groupBusy wGroupClear.dev 7 5 2 = false := by
  decide +kernel

/-- After the head of the image, and after its pages. -/
def wGroup1 : Dev := ((vread ⟨3, 64⟩ 0x200000 64).go (clean wGroupSet)).2

theorem witness_group_head : answers (vread ⟨3, 64⟩ 0x200000 64) (clean wGroupSet) = some (wImage.take 64) ∧
    groupImageOk wGroup1 0 wImage = true ∧ imagePlaced wGroup1 0 [(0x200000, 80)] = true := by
  decide +kernel

/-- After the runs were found, in either way. -/
def wGroup2 (b : Bool) : Dev := (again ⟨3, 64⟩ 0x200000 true wGroup1 b).2

theorem witness_group_image : ∃ d, (groupImage ⟨3, 64⟩ 0x200000).go (clean wGroupSet) = (.ok ([(0x200000, 80)], wImage), d) ∧
    groupImageOk d 0 wImage = true ∧ imagePlaced d 0 [(0x200000, 80)] = true := by
  have e0 : ((vread ⟨3, 64⟩ 0x200000 64).go (clean wGroupSet)).1 = .ok (wImage.take 64) := by decide +kernel
  have e1 : (vread ⟨3, 64⟩ 0x200000 64).go (clean wGroupSet) = (.ok (wImage.take 64), wGroup1) :=
    Prod.ext e0 (by simp only [wGroup1])
  obtain ⟨b1, h1⟩ := physRuns_again (sp := ⟨3, 64⟩) (va := 0x200000) (len := 80) (pa := 0x200000) (coh := false) (w := true)
    (d := wGroup1) (by decide +kernel) (by decide) (by decide) (by decide +kernel) (by decide +kernel) (by decide +kernel)
  have kb : ∀ b, wbit (rget (wGroup2 b) .chipAsidTbl 0 (partOfAsid (wGroup2 b) 3)) 0 = true := by decide +kernel
  have k0 : ∀ b, mget 0 (wGroup2 b).mem.tlb (tlbKey 64 3 0x200000) ≠ 0 := by decide +kernel
  have k1 : ∀ b c, (again ⟨3, 64⟩ 0x200000 false (wGroup2 b) c).1 = .ok (0x200000, false) := by decide +kernel
  have k2 : ∀ b c,
      let r := (atVirtual 0x200000 (readPhys 0x200000 80)).go (again ⟨3, 64⟩ 0x200000 false (wGroup2 b) c).2
      r.1 = .ok wImage ∧ groupImageOk r.2 0 wImage = true ∧ imagePlaced r.2 0 [(0x200000, 80)] = true := by
    decide +kernel
  obtain ⟨h2, h3, h4⟩ := vread_again (sp := ⟨3, 64⟩) (va := 0x200000) (len := 80) (pa := 0x200000) (coh := false) (d := wGroup2 b1)
    (fun r => r.1 = .ok wImage ∧ groupImageOk r.2 0 wImage = true ∧ imagePlaced r.2 0 [(0x200000, 80)] = true)
    (by decide +kernel) (by decide) (by decide) (kb b1) (k0 b1) (k1 b1) (k2 b1)
  refine ⟨_, ?_, h3, h4⟩
  unfold groupImage
  rw [go_bind, e1]
  have h5 : leAt (wImage.take 64) 4 4 = 2 := by decide +kernel
  simp only [h5]
  rw [if_neg (by decide), go_bind, h1]
  simp only [Nat.reduceMul, Nat.reduceAdd]
  rw [go_bind]
  have h6 : (again ⟨3, 64⟩ 0x200000 true wGroup1 b1).2 = wGroup2 b1 := by unfold wGroup2; rfl
  rw [h6]
  generalize hr : (vread ⟨3, 64⟩ 0x200000 80).go (wGroup2 b1) = r at *
  obtain ⟨r1, r2⟩ := r
  cases h2
  rfl

theorem witness_bell : [0, 1].all (fun n => runs (wBell n) 0x0702 && timeUsable (wBell n).dev) = true ∧
    (wBell 0).dev.ns ≤ 2000000000 := by
  decide +kernel

theorem witness_dispatch_table : [1, 2].all (fun v => runs { wDspLoad v with pending := [] } 0x0A02 &&
    answers (vread ⟨3, 64⟩ 0x200000 96) (clean (wDspLoad v)) == some (wDspImage v) &&
      dispatchBad 1 (wDspImage v) == if v == 1 then none else some 0) = true := by
  decide +kernel

theorem witness_dispatch : (match cmdAt wDisp.dev 5 2, cmdAt wGatherCmd.dev 5 2, cmdAt wPass.dev 5 2 with
    | some y, some z, some w =>
      y.opcode == 0x0A04 && (groupAt wDisp.dev (dspGroup y.buf)).isSome && y.aux == [] && y.status == 0 &&
        decide ((dispOf wDisp.dev 5 y).n + dspCount y.buf + (dspTargets y.buf).length < y.step) &&
      z.opcode == 0x0A03 && z.aux2 == [3, 0, 0] && (match gatherOf wGatherCmd.dev z with
        | some g => decide (bits (z.param 5) 63 32 + g.gy.members - 1 ≤ (semAt wGatherCmd.dev (bits (z.param 4) 48 32)).toNat)
        | none => false) &&
      w.opcode == 0x0404 && w.step == w.param 1
    | _, _, _ => false) = true := by
  decide +kernel

/-! ### Premises that are met: registers, frames, ports -/

/-- Port 0 UP in partition 0 with chip ID 0x12345, group 7 and a flow from its member 0x12346, which is at FSEQ 10. -/
def wPort : State := wOn (wWithTally (wQ (wQueue .run []))) fun d =>
  let d := rsetf d .fabPortStatus 0 0 2 0 2
  let d := setPort d 0 { portAt d 0 with
    credit := vcCredits 9 9 9
    bucket := ⟨2 ^ 26, 0⟩
    unacked := [(3, emptyFrame, .fixed), (4, emptyFrame, .fixed)]
    lseq := 5 }
  { d with fab.rx := [⟨0, 0x12346, 1, 10, [], [], [], 0⟩] }

/-- A frame from the member. -/
def wFrame (type area : Nat) (tly resp : Bool) (bs : List Byte) : Frame :=
  { emptyFrame with
    type := type
    dst := 0x12345
    src := 0x12346
    fseq := 10
    area := area
    tly := tly
    resp := resp
    payload := bs }

def w64 : List Byte := (List.range 64).map (BitVec.ofNat 8)

/-- A packet of each kind. -/
def wPackets : List ((Nat → Nat → Word → Frame → Instr) × Frame) :=
  let at_ := dataArea 0 0 0 0x250000 1
  [(.caravanWrite, wFrame 0 at_ false false w64), (.caravanRead, wFrame 1 at_ false false []),
    (.caravanReadResponse, wFrame 1 at_ false true w64), (.caravanAccumulate, wFrame 2 at_ false false w64),
    (.caravanTallyExp, { tallyFrame ⟨0, 7, 1, 3, 0, 0, 0, 0, List.replicate 128 1⟩ with dst := 0x12345, src := 0x12346, fseq := 10 }),
    (.caravanTallyMant, { tallyFrame ⟨1, 7, 1, 99, 0, 0, 0, 0, List.replicate 128 1⟩ with dst := 0x12345, src := 0x12346, fseq := 10 }),
    (.caravanTallyPublish, { tallyFrame ⟨2, 7, 1, 3, 0, 0, 0, 0, List.replicate 128 1⟩ with dst := 0x12345, src := 0x12346, fseq := 10 }),
    (.caravanKvPass, wFrame 4 (7 * 2 ^ 22) false false w64), (.caravanDispatch, wFrame 5 at_ false false w64),
    (.caravanSemSignal, wFrame 3 (30 + 5 * 2 ^ 32) false false [])]

/-- What applying a packet answers. -/
def wTakes (s : State) (f : Frame) : Dev := (linkIn (advanceTo s.dev 1000000001) 0 (frameTrailer f 0) f).2
def wQueued (s : State) (f : Frame) : Dev := updRx (wTakes s f) 0 f.src fun y =>
  { y with waiting := y.waiting ++ [(0, f)], usedAt := (wTakes s f).clock }

/-- A send flow to the member with packets 5 and 6 sent, the first of transaction 3. -/
def wFlow : State := wOn wPort fun d =>
  let pkt (n : Nat) : OutPkt := ⟨{ emptyFrame with dst := 0x12346, src := 0x12345, fseq := n }, .fixed, some 3, true, 0, 100, 0⟩
  { d with
    fab.tx := [⟨0, 0x12346, .ready, 7, 7, [pkt 5, pkt 6], none, 0, 0, 0, 0⟩]
    fab.xacts := [(3, ⟨0, 0x12346, .none, 2, 0, 0, 0, 0⟩)] }

theorem witness_hardwired : Issues wLoops 9 (fC 0 3) .scalar ∧ runs wLaunch 0x0201 = true ∧
    (cmdAt wLaunch.dev 5 2).map (fun y => y.aux.isEmpty && !launchAny y &&
      decide ((ctxAt wLaunch.dev (8 * launchTile y + launchSlot y)).state = .idle)) = some true := by
  unfold Issues Live; decide +kernel

theorem witness_unmapped : regionOf 0xC00000000000 = .unmapped ∧ regionOf 0x4000FFFFFFF8 = .mmio ∧
    registerAt 0x4000FFFFFFF8 = none ∧ State.reset.dev.live = true := by
  decide +kernel

theorem witness_life : State.reset.dev.live = true ∧ bootStage State.reset.dev = 0 := by decide +kernel

/-- What `Taken` and `Fresh` ask, as far as they do not name the device that they find. -/
def wFresh (s : State) (f : Frame) : Bool :=
  let r := linkIn (advanceTo s.dev 1000000001) 0 (frameTrailer f 0) f
  s.dev.live && portIn s.dev 0 .up && r.1 && partOfPort r.2 0 == 0 && chipIdValid r.2 0 && f.dst == chipId r.2 0 &&
    !sourceShut r.2 0 f.src && f.tag == jobTag r.2 0 && match findRx r.2 0 f.src with
      | some x => !x.seen f.fseq && x.waiting == [] && inTurn x f
      | none => false

theorem witness_packets : wPackets.all (fun r => wFresh wPort r.2 &&
    packetRefusal (wQueued wPort r.2) 0 r.2 == none) = true := by
  decide +kernel

/-- What each packet does answers a status. -/
def wPkt (f : Frame) : Act Nat :=
  if f.type == 0 || f.type == 5 then do writePhys .software (frameAddr f) f.payload; pure 0
  else if f.type == 1 && !f.resp then do
    let bs ← readPhys (frameAddr f) (frameSpan f)
    modify fun d => submit d 0 f.src none [readReply f bs] fun _ => .dram (frameAddr f)
    pure 0
  else if f.type == 1 then do modify fun d => takeResponse d 0 f; pure 0
  else if f.type == 2 && !f.tly then do accumAt .software (frameAddr f) (bits f.area 25 22) f.payload; pure 0
  else if f.type == 4 then kvArrive 0 f
  else if isTally 2 f then do
    let d ← get
    set (publishArrive d (tallyPkt f)).2
    pure (publishArrive d (tallyPkt f)).1
  else tallyArrive 0 (tallyPkt f)

theorem witness_packets_act : wPackets.all (fun r => r.2.type == 3 ||
    (answers (wPkt r.2) (wQueued wPort r.2)).isSome) = true := by
  decide +kernel

/-- The port's partition without a flow, with a copy already handled, with the source shut out. -/
def wNoFlow : State := wOn wPort fun d => { d with fab.rx := [] }
def wCopied6 : State := wOn wPort fun d => { d with fab.rx := [⟨0, 0x12346, 1, 5, [10, 11], [(10, 0x0641)], [], 0⟩] }
def wShutOut : State := wOn wPort fun d => setFabPart d 0 { fabPart d 0 with fence := [0x12346] }
def wUnknownChip : State := wOn wPort fun d => rset d .fabId 0 0 0x111111

theorem witness_refused : wPackets.all (fun r =>
    let f := r.2
    let bad := { f with area := f.area ||| (2 ^ 75 + 2 ^ 5 + 2 ^ 25) }
    let d1 (s : State) : Dev := (linkIn (advanceTo s.dev 1000000001) 0 (frameTrailer f 0) f).2
    f.dst != chipId (d1 wUnknownChip) 0 && (findRx (d1 wNoFlow) 0 f.src).isNone &&
      (findRx (d1 wCopied6) 0 f.src).map (·.seen 10) == some true &&
      sourceShut (d1 wShutOut) 0 f.src && jobTag (d1 wPort) 0 != 4 &&
      (f.type == 3 || f.resp || wFresh wPort bad && (packetRefusal (wQueued wPort bad) 0 bad).isSome)) = true := by
  decide +kernel

theorem witness_link : portIn wPort.dev 0 .up = true ∧ (portAt wPort.dev 0).rxSeq = 0 ∧
    isCtl 3 (wFrame 6 0x303 false false []) = true ∧
    portIn (wOn wPort fun d => rsetf d .fabPortStatus 0 0 2 0 1).dev 0 .training = true := by
  decide +kernel

theorem witness_flows : ([0x10, 0x11, 0x12, 0x13].all fun sub =>
    let f := wFrame 6 sub false false []
    let r := linkIn (advanceTo wFlow.dev 1000000001) 0 (frameTrailer f 0) f
    wFlow.dev.live && portIn wFlow.dev 0 .up && r.1 && chipIdValid r.2 0 && f.dst == chipId r.2 0 && isCtl sub f &&
      (findTx r.2 0 f.src).isSome && decide (rxHeld { r.2 with
        fab.rx := r.2.fab.rx.filter fun x => !(x.part == 0 && x.src == f.src)
        fab.opens := r.2.fab.opens.filter fun e => !(e.1 == 0 && e.2.1 == f.src) } 0 < flowLimit r.2 0)) = true := by
  decide +kernel

/-- The send flow idle, or its packet 5 due again after `n` sends. -/
def wIdle : State := wOn wFlow fun d => updTx d 0 0x12346 fun x => { x with pkts := [] }
def wResent (n : Nat) : State := wOn wFlow fun d => updTx d 0 0x12346 fun x =>
  { x with pkts := [⟨{ emptyFrame with dst := 0x12346, src := 0x12345, fseq := 5 }, .fixed, some 3, true, 0, 100, n⟩] }

theorem witness_flow_timers : let d := advanceTo wIdle.dev 1000000001
    (findTx d 0 0x12346).map (fun x => x.state == .ready && x.pkts.isEmpty && decide (x.usedAt + 100000000 ≤ d.clock)) = some true ∧
    (findRx d 0 0x12346).map (fun x => x.waiting.isEmpty && decide (x.usedAt + 100000000 ≤ d.clock)) = some true ∧
    ([0, 8].all fun n =>
      let d := advanceTo (wResent n).dev 1000000001
      match findTx d 0 0x12346 with
      | some x => match x.pkts.find? fun y => y.frame.fseq == 5 && y.sent with
        | some y => x.state != .opening && decide (y.sentAt + x.timeout ≤ d.clock) && y.tries == n &&
          (n == 8 || (resend d x y).isSome)
        | none => false
      | none => false) = true ∧
    (let d := advanceTo (wOn wFlow fun d => rsetf d .fabPortStatus 0 0 2 0 0).dev 1000000001
      ∀ i ∈ routePorts d 0 0x12346, portUp d i = false ∧ (portAt d i).downAt + 10000000 ≤ d.clock) := by
  decide +kernel

/-! ### Premises that are met: the manager, port states, campus time -/

/-- A message of the fabric manager, and one that is not its. -/
def wManager (sub : Nat) : Frame := { wFrame 6 sub false false [] with src := 0xFFF00 }

/-- A Bell of partition 0 at step 4 in 0.1 s, and 0x12346 on the fence list. -/
def wShift : State := wOn wPort fun d =>
  setFabPart d 0 { fabPart d 0 with
    bell := some ⟨900000000, 3, 100000000, 5, [], 4⟩
    lastBell := some 900000000
    fence := [0x12346] }

/-- Port 1 in a state since 0.5 s, calibrated then. -/
def wPortIn (st : PortState) : State := wOn wPort fun d =>
  setPortState (setPort d 1 { portAt d 1 with
    init := true
    trainAt := 980000000
    calAt := 500000000
    startAt := 900000000 }) 1 st

/-- Campus time 1.00000005 s in a state, with SRC as given. -/
def wTime (st src : Nat) : State := wOn wShift fun d =>
  rsetf (rsetf { d with
    ns := 1000000050
    clock := 1000000050
    fab.measuredAt := 100
    fab.goodRun := 15
    fab.interval := 1000
    fab.sync := some (7, 900000000, 5)
    fab.delayReq := some (7, 900000100) } .fabTimeStatus 0 0 1 0 st) .fabTimeCtl 0 0 1 0 src

/-- A frame of the manager, or of a member, that is taken, with what the clause asks of the device then. -/
def wTaken (s : State) (f : Frame) (p : Dev → Bool) : Bool :=
  let r := linkIn (advanceTo s.dev 1000000001) 0 (frameTrailer f 0) f
  s.dev.live && portIn s.dev 0 .up && r.1 && partOfPort r.2 0 == 0 && p r.2

theorem witness_manager : ([0x30, 0x31, 0x32, 0x33, 0x34, 0x35, 0x36].all fun sub =>
      isCtl sub (wManager sub) && isCtl sub (wFrame 6 sub false false []) &&
        wTaken wShift (wFrame 6 sub false false []) (fun _ => true) && wTaken wShift (wManager sub) fun d =>
          fenced d 0 0x12346 && !fenced d 0 0x12347 && decide ((fabPart d 0).fence.length < 4096) &&
          decide (chipId d 0 ≠ 2) && decide ((portsOf d 0).length = 32) && (fabPart d 0).bell.isSome) = true ∧
    wTaken (wOn wShift fun d => rset d .fabId 0 0 0) (wManager 0x30) (fun d => !chipIdValid d 0 && !chipBad 5) = true ∧
    wTaken wShift (wFrame 6 0x77 false false []) (fun _ => !listedCtl.contains 0x77) = true := by
  decide +kernel

theorem witness_ports : let t := 1000000001
    ([PortState.down, .fault, .training, .cal].all fun st =>
      let s := wPortIn st
      portIn s.dev 1 st && decide ((portAt s.dev 1).startAt ≤ t) && (portAt s.dev 1).init &&
        decide (t ≤ (portAt s.dev 1).trainAt + 50000000) && decide ((portAt s.dev 1).trainAt + 50000000 ≤ 1030000000) &&
        decide ((portAt s.dev 1).calAt + 20000 ≤ t)) = true ∧
    sext 8 128 < laserMin State.reset.dev 0 ∧ (fibresOf 0).contains 0 = true ∧ portIn wPort.dev 0 .up = true ∧
    (let s := wOn (wPortIn .up) fun d => setFabPart (rsetf d .fabEngineCtl 0 0 15 8 1) 0 { fabPart d 0 with
        bell := some ⟨900000000, 3, 100000000, 5, [], 4⟩
        lastBell := some 999800000 }
      let d0 := advanceTo s.dev t
      portIn s.dev 1 .up = true ∧ calFree s.dev 1 = true ∧ calWindow d0 1 = true ∧
        (portAt s.dev 1).calAt + calPeriod d0 1 ≤ d0.clock ∧ (portAt s.dev 1).calAt + 2 * calPeriod d0 1 < d0.clock) := by
  decide +kernel

theorem witness_time : ([(0, TimeState.freeRun), (1, .acquiring), (2, .locked), (3, .holdover)].all fun e =>
      timeIn (wTime e.1 2).dev e.2 && timeSrc (wTime e.1 2).dev == 2 && (wTime e.1 2).dev.fab.setNext == none) = true ∧
    mayStepBack (wOn (wTime 1 2) fun d => rsetf d .fabTimeStatus 0 0 2 2 1).dev = false ∧
    (let s := wTime 2 1
      let f := wFrame 6 0x20 false false []
      wTaken s f (fun d => chipIdValid d 0 && f.dst == chipId d 0 && isCtl 0x20 f && timeSrc d == 1 &&
        rfield d .fabTimeCtl 0 0 20 16 == 0 && rfield d .fabTimeCtl 0 0 15 8 == 0 && timeIn d .locked &&
        d.fab.sync == some (7, 900000000, 5) && d.fab.delayReq == some (7, 900000100)) = true ∧
      s.dev.fab.measuredAt + 8 * s.dev.fab.interval ≤ s.dev.clock) ∧
    timeIn (wTime 0 1).dev .freeRun = true ∧ timeSrc (wTime 0 1).dev = 1 ∧
    (match (fabPart wShift.dev 0).bell with
      | some b => decide (b.time b.next ≤ wShift.dev.ns)
      | none => false) = true := by
  decide +kernel

/-! ### Premises that are met: the companion and its link -/

/-- The link in a state, with credit; lines 0x250040 in S, 0x250080 in M at the companion. -/
def wLink (st : Nat) : State := wOn (wQ (wQueue .run [])) fun d =>
  setLine (setLine (rsetf { d with
    rnl.credit := [(0, 5), (1, 5), (2, 5), (3, 5), (4, 5)]
    rnl.downAt := 800000000
    rnl.trainAt := 850000000
    rnl.recoverAt := 850000000
    rnl.naks := [(3, 5)] } .rnlLinkStatus 0 0 3 0 st) 0x250040 true false) 0x250080 false true

/-- The snoop of the line in M is out. -/
def wSnoop (inv : Bool) : State := wOn (wLink 4) fun d => { d with rnl.snoops := [⟨0x250080, inv, false, false, 998000000⟩] }

/-- Requests of the device to the window. -/
def wAsked (r : Bool) : State := wOn (wLink 4) fun d =>
  { d with rnl.devReqs := [⟨9, r, 0x800000000000⟩, ⟨10, false, 0x800000000040⟩] }

def wMsg (type word : Nat) (ack : Bool) (addr : Nat) (data : List Byte) : Msg := ⟨type, ack, false, 7, 0, addr, word, data⟩
def wServes (s : State) (m : Msg) : Dev := { s.dev with rnl.reqs := [m], rnl.lastTraffic := s.dev.ns }

theorem witness_companion : let s := wLink 4
    s.dev.live = true ∧ linkUp s.dev = true ∧ Quiet s.dev ∧ s.dev.rnl.snoops = [] ∧
    (∀ i, i < 64 → snooped s.dev (0x250000 + 64 * i) = false) ∧ hasEntry s.dev 0x250040 = true ∧
    (heldLine s.dev 0x250080).2 = true ∧ heldLine s.dev 0x250040 = (true, false) ∧
    s.dev.rnl.filter.length < filterSize := by
  unfold Quiet; decide +kernel

theorem witness_companion_lines : ([0x250000, 0x250040, 0x250080].all fun a =>
      (answers (companionRead a) (wServes (wLink 4) (wMsg 2 0 false a []))).isSome &&
        (answers (companionRead a) (wServes (wLink 4) (wMsg 3 0 false a []))).isSome) = true ∧
    (answers (companionWrite 0x250000 (cut 64 w64)) (wServes (wLink 4) (wMsg 4 0 true 0x250000 w64))).isSome = true ∧
    w64.length = 64 ∧ (wSnoop true).dev.rnl.snoops.map (·.line) = [0x250080] ∧
    (heldLine (wSnoop true).dev 0x250080).2 = true := by
  decide +kernel

theorem witness_window : linkUp (wAsked true).dev = true ∧ Quiet (wAsked true).dev ∧
    ((wAsked true).dev.rnl.devReqs.find? fun x => x.tag == 9).map (·.read) = some true ∧
    (wAsked false).dev.rnl.devReqs = [⟨9, false, 0x800000000000⟩, ⟨10, false, 0x800000000040⟩] ∧
    (wLink 4).dev.rnl.rspQ = [] ∧ (wLink 4).dev.rnl.evtQ = [] := by
  unfold Quiet; decide +kernel

theorem witness_link_states : (∀ n, n < 8 → linkState (wLink n).dev = n ∧ (wLink n).dev.rnl.devReqs = []) ∧
    Quiet (wLink 4).dev ∧ (wLink 4).dev.fab.edits = [] ∧ (wLink 0).dev.rnl.downAt + 100000000 ≤ (wLink 0).dev.ns ∧ training (wLink 1).dev = true ∧
    (wLink 1).dev.ns < (wLink 1).dev.rnl.trainAt + 200000000 ∧
    (wLink 1).dev.rnl.trainAt + 200000000 ≤ 1100000000 ∧
    (wLink 5).dev.rnl.recoverAt + 100000000 ≤ (wLink 5).dev.ns ∧ (∃ e ∈ (wLink 4).dev.rnl.naks, 5 ≤ e.2) ∧
    (let s := (wOn (wLink 4) fun d => rsetf d .rnlLinkCtl 0 0 1 1 1);
      wbit (rget s.dev .rnlLinkCtl) 1 = true ∧ s.dev.rnl.lastTraffic + l1Idle s.dev ≤ s.dev.ns) ∧
    (∃ x ∈ (wSnoop true).dev.rnl.snoops, x.since + 1000000 ≤ (wSnoop true).dev.ns) := by
  unfold Quiet; decide +kernel

/-! ### Premises that are met: hangs, dumps, resets, agents -/

/-- An engine in recovery, with its suspects. -/
def wRec (e t : Nat) (stage : RecStage) (sus : List (Nat × Nat)) (probing : Option (Nat × Nat)) : Recovery :=
  ⟨e, t, 0, stage, sus, [], [], probing, 999999000, 999000000, { DumpHead.empty with cause := 1, id := 3 }⟩
def wHung (r : Recovery) (past : List Nat) (s : State) : State := wOn s fun d =>
  { d with
    recov.engines := [r]
    recov.entries := [(r.engine * 16 + r.tileEng, past)] }

/-- A command of an engine, and one of the SYNC unit, whose timer began at 1 s. -/
def wLate (op : Nat) : State := wStarted { wCmd .started op 0 2 [0x200000, 0x210000, 128] with startClock := 1000000000 }

/-- A faulted context whose LAUNCH is command 2 of queue 5. -/
def wFaulted : State := wOn (wQ (wQueue .run [{ wCmd .started 0x0201 0 2 [] with aux := [9] }])) fun d =>
  setCtx d 9 { ctxAt d 9 with state := .faulted, queue := 5, seq := 2, fStatus := 0x0207 }

/-- A dump is asked for. -/
def wDumped (o : DumpFor) (qs : List Nat) : State := wOn (wStarted { wCmd .started 0x0801 0 2 [1] with step := 1 }) fun d =>
  { d with recov.dumps := [⟨o, { DumpHead.empty with cause := 4, outcome := 1, quarters := qs, queue := 5, seq := 2 }, []⟩] }

/-- A reset of a domain at a stage. -/
def wReset (dom : Nat) (st : ResetStage) : State := wOn (wStarted (wCmd .started 0x0801 0 2 [1])) fun d =>
  let d := { d with recov.resets := [⟨dom, 4, st, 900000000, { DumpHead.empty with cause := 4 }, 0⟩] }
  rsetf d .dbgDumpCtl 0 0 9 0 50

theorem witness_timeouts : ([0x0101, 0x0302].all fun op => match cmdAt (wLate op).dev 5 2 with
      | some y => y.st == .started && !isSuspect (wLate op).dev 5 2 && isGate y == (op == 0x0302) && y.opcode != 0x0201 &&
        (recoveryOf (wLate op).dev y.engine 0).isNone &&
        decide (y.startClock + timeLimit (wLate op).dev 5 y ≤ 10 ^ 13) && decide ((wLate op).dev.clock < y.startClock + timeLimit (wLate op).dev 5 y)
      | none => false) = true := by
  decide +kernel

/-- Engine 0x100 with its dump written and a suspect that no replay settles. -/
def wUnsafe (op : Nat) : State :=
  wHung (wRec 0x100 0 .dumped [(5, 2)] none) [] (wStarted (wCmd .started op 0 2 [0x200000, 64, 0x210000]))

theorem witness_hangs : (recoveryOf (wUnsafe 0x0601).dev 0x100 0).map (fun r => r.stage == .dumped && r.head.outcome != 4 &&
      r.again == [] && r.suspects == [(5, 2)]) = some true ∧ wbit (rget (wUnsafe 0x0601).dev .dbgRecoveryCtl) 16 = false ∧
    ([0x0110, 0x0111, 0x0501, 0x0601, 0x0603, 0x0A04].all fun op =>
      (cmdAt (wUnsafe op).dev 5 2).map (fun y => y.st == .started && !y.replayable && y.opcode == op) == some true) = true ∧
    (let s := wHung (wRec 0x201 2 .dumped [] none) [999999990, 999999991, 999999992] wMma
      let past := (mget [] s.dev.recov.entries (0x201 * 16 + 2)).filter fun u => (advanceTo s.dev 1000000001).clock < u + 1000000000
      s.dev.live = true ∧ (recoveryOf s.dev 0x201 2).map (·.stage) = some .dumped ∧ 3 ≤ past.length) ∧
    (let r := wRec 0x100 0 .settling [] (some (5, 2))
      let s (st : CmdState) := wHung r [] (wStarted (wCmd st 0x0101 0 2 []))
      recoveryOf (s .started).dev 0x100 0 = some r ∧
      (s .started).dev.clock < r.probeAt + 1000 * rfield (s .started).dev .dbgRecoveryCtl 0 0 15 0 ∧
      (cmdAt (s .started).dev 5 2).map (·.st == .started) = some true ∧
      (cmdAt (s .finished).dev 5 2).map (·.st == .started) = some false) ∧
    (ctxAt wFaulted.dev 9).state = .faulted ∧ ctxStill wFaulted.dev 9 = true ∧
    (cmdAt wFaulted.dev (ctxAt wFaulted.dev 9).queue (ctxAt wFaulted.dev 9).seq).map (·.st) = some .started := by
  decide +kernel

theorem witness_dumps : runs (wStarted (wCmd .started 0x0801 0 2 [1])) 0x0801 = true ∧
    (wDumped (.command 5 2) [0]).dev.live = true ∧
    (wDumped (.command 5 2) [0]).dev.recov.dumps.map (·.owner) = [.command 5 2] ∧
    (cmdAt (wDumped (.command 5 2) [0]).dev 5 2).map (·.st) = some .started ∧
    (wDumped (.domain 4) []).dev.recov.dumps.map (·.owner) = [.domain 4] := by
  decide +kernel

theorem witness_reset_requests :
    ([(0xA5C30001, 1, 0), (0xA5C30002, 2, 4), (0xA5C30003, 3, 5)].all fun (e : Nat × Nat × Nat) =>
      wbits (toW e.1) 1 0 == e.2.1 && wbits (toW e.1) 31 16 == 0xA5C3 && wbits (toW e.1) 3 2 == 0 &&
        !resetAsked (wQ (wQueue .run [])).dev e.2.2) = true ∧
    0 < partCount (wQ (wQueue .run [])).dev ∧ resetAsked (wReset 5 .due).dev 4 = true := by
  decide +kernel

theorem witness_resets : ([0, 4].all fun dom =>
      let s := wReset dom .holding
      s.dev.recov.resets.map (fun r => (r.dom, r.stage)) == [(dom, .holding)] &&
        decide (900000000 + 1000000 * rfield s.dev .dbgDumpCtl 0 0 9 0 ≤ s.dev.clock) &&
        decide ((wOn s fun d => { d with clock := 900000001 }).dev.clock < 900000000 + 1000000 * rfield s.dev .dbgDumpCtl 0 0 9 0)) = true ∧
    wbit (0x10 : Word) 4 = true ∧ wbit (1 : Word) 0 = true ∧
    (resetOf (wReset 0 .replying).dev 0).map (·.stage) = some .replying ∧
    repliesLeft (postReplies (wReset 0 .replying).dev 0) 0 = false ∧
    (postReplies (wReset 0 .replying).dev 0).rnl.reqs = [] ∧
    (resetOf (wReset 4 .replying).dev 4).map (·.stage) = some .replying ∧
    (let d := (wReset 4 .replying).dev;
      (List.range (partCount d)).any (repliesLeft ((List.range (partCount d)).foldl postReplies d)) = false) ∧
    (let d := advanceTo (wReset 0 .running).dev 2000000000;
      overdue d 0 = true ∧ wipeFailed d 0 = false ∧ resetAsked (dropReset d 0) 4 = false) ∧
    (wOn (wReset 5 .due) fun d => { d with np.cycleAsked := true }).dev.tripped = false := by
  decide +kernel

/-- Firmware runs, agent 1 last beat long ago, channel 35 in service or not. -/
def wAgents (trained : List Nat) : State := wOn (wQ (wQueue .run [])) fun d =>
  rsetf (rsetf (rsetf { d with recov.beats := [(1, 7, 5)], mem.chanTrained := trained } .secBootStatus 0 0 2 0 6)
    .dbgHbStatus 0 0 1 1 1) .chipPartStatus 0 0 16 0 0x10002

theorem witness_agents : let s := wAgents []
    s.dev.live = true ∧ rfield s.dev .secBootStatus 0 0 2 0 = 6 ∧ wbit (rget s.dev .dbgHbStatus) 1 = true ∧
    (s.dev.recov.beats.find? fun e => e.1 == 1) = some (1, 7, 5) ∧ 5 + 3000000 ≤ s.dev.clock ∧ s.dev.np.on = true ∧
    s.dev.mem.chanTrained.contains 35 = false ∧ s.dev.mem.chanFailed.contains 35 = false ∧
    rfield State.reset.dev .secBootStatus 0 0 2 0 ≠ 6 ∧ State.reset.dev.mem.chanTrained = [] ∧
    inReset (wAgents [35]).dev (partOfQuarter (wAgents [35]).dev (35 / 96)) = true ∧
    (wAgents [35]).dev.mem.chanWiped.contains 35 = false ∧ 0 < partCount s.dev ∧
    (let d := (wAgents (List.range 96)).dev
      ∀ c ∈ channelsOf d 0, d.mem.chanTrained.contains c = true ∧ d.mem.chanFailed.contains c = false ∧
        d.mem.chanWiped.contains c = false) := by
  decide +kernel

/-! ### Premises that are met: boot, security, registers, scrub -/

/-- The boot at a stage, a life-cycle state shown. -/
def wBoot (stage : Nat) (s : State) : State := wOn s fun d => rsetf d .secBootStatus 0 0 2 0 stage
def wLc (n : Nat) (s : State) : State := wOn s fun d => rsetf d .secLcStatus 0 0 1 0 n
def wLife (n : Nat) (s : State) : State := wLc n { s with fuses := { s.fuses with
  prov := if 1 ≤ n then BitVec.allOnes 32 else 0
  depl := if n = 2 then BitVec.allOnes 32 else 0 } }

/-- A security command with its parameters, state DEPLOYED shown. -/
def wSec (op : Nat) (ps : List Nat) : State := wLc 2 (wStarted (wCmd .started op 0 2 ps))

/-- The same with a challenge outstanding and a token at 0x20_0000 that is valid in nothing but its length. -/
def wToken (op : Nat) : State := wOn (wSec op [0x200000]) fun d => { d with boot.challenge := some (List.replicate 48 7) }

/-- Channel 0 scrubs, two granules on, with a period of 1 hour begun long ago. -/
def wScrub : State := wOn (wQ (wQueue .run [])) fun d =>
  { d with
    ns := 10000000000000
    mem.chanTrained := [0]
    mem.chanWiped := [0]
    mem.scrubPos := [(0, 2)]
    mem.scrubPeriod := [(0, 1)]
    mem.scrubStart := [(0, 1)]
    mem.busy := [(0, 1)] }

theorem witness_boot : ([0, 2, 3, 5].all fun n => bootStage (wBoot n (wLink 4)).dev == n && linkUp (wBoot n (wLink 4)).dev) = true ∧
    (wLink 4).dev.boot.helloAt + 100000000 ≤ (wLink 4).dev.ns ∧ (wLife 1 (wLink 4)).fuses.state = 1 ∧
    (wBoot 3 (wLink 4)).dev.boot.offerLen = (wBoot 3 (wLink 4)).dev.boot.store.length ∧
    imageStatus (wLink 4).fuses 0 [] 0 ≠ 0 ∧
    (∀ p, p < 4 → inReset (wOn (wBoot 5 (wLink 4)) fun d => rsetf d .chipPartStatus 0 0 19 16 0).dev p = false) := by
  decide +kernel

theorem witness_security : ([0x0901, 0x0902, 0x0903, 0x0904, 0x0905, 0x0906, 0x0907].all fun op =>
      runs (wSec op [0x200000, 0x210000, 40000]) op && !(wSec op []).dev.boot.moving &&
        runs (wOn (wSec op []) fun d => { d with boot.moving := true }) op) = true ∧
    hasIdentity (wSec 0x0901 []).dev = true ∧ hasIdentity (wLc 0 (wSec 0x0901 [])).dev = false ∧
    (cmdAt (wSec 0x0901 [0x200000, 0x210000, 40000]).dev 5 2).map (fun y =>
      y.param 1 % 64 == 0 && decide (36304 ≤ y.param 2) && y.param 0 % 64 == 0) = some true ∧
    rfield (wSec 0x0903 []).dev .secLcStatus 0 0 1 0 = 2 ∧ rfield (wLc 0 (wSec 0x0903 [])).dev .secLcStatus 0 0 1 0 = 0 ∧
    (wLife 1 (wStarted (wCmd .started 0x0905 0 2 [2]))).fuses.state = 1 ∧
    ((wLife 2 (wStarted (wCmd .started 0x0905 0 2 [2]))).fuses.state, 2) ∉ [(0, 1), (1, 2), (1, 3), (2, 3)] ∧
    (wSec 0x0907 []).dev.boot.challenge = none ∧ (wToken 0x0907).dev.boot.challenge.isSome = true ∧
    runs (wToken 0x0907) 0x0907 = true := by
  decide +kernel

theorem witness_svn : let f : Fuses := { State.reset.fuses with svn := 7 }
    f.svn = BitVec.ofNat 64 (2 ^ f.svnValue - 1) ∧ f.svnValue = 3 := by
  decide +kernel

theorem witness_registers : regionOf 0x400000000004 = .mmio ∧ badAccess 0x400000000004 8 = true ∧
    regionOf 0x4000FFFFFFF8 = .mmio ∧ badAccess 0x4000FFFFFFF8 8 = false ∧ registerAt 0x4000FFFFFFF8 = none ∧
    (Reg.all.any fun r => registerAt (r.info.blk.range.1 + r.info.off) == some (r, 0, 0) &&
      r == .dbgDumpCtl && ignoredBits r 5 == 0) = true := by
  decide +kernel

theorem witness_scrub : let d0 := advanceTo wScrub.dev 20000000000000
    wScrub.dev.live = true ∧ scrubRuns wScrub.dev 0 = true ∧ granuleLines wScrub.dev (granulePa 0 (mget 0 wScrub.dev.mem.scrubPos 0)) = [] ∧
    mget 0 wScrub.dev.mem.scrubPos 0 + 1 < scrubGranules ∧ 0x3000000 < scrubLag d0 0 := by
  decide +kernel

/-! ### Premises that are met: power, the Night Porter, pins -/

def wHint (start cls : Nat) (fired inForce : Bool) : Hint := ⟨0, start, 2000, cls, fired, inForce⟩
def wPower (f : Pwr → Pwr) (s : State) : State := wOn s fun d => { d with pwr := f d.pwr }
def wHinted (h : Hint) : State := wPower (fun p => { p with hints := [h] }) (wQ (wQueue .run []))

/-- POWER_HINT of `dur` µs from campus time 1.1 s on, with `n` hints in the table of partition 0. -/
def wHintCmd (dur n : Nat) : State :=
  wPower (fun p => { p with hints := (List.range n).map fun i => wHint (5000000000 + 10000000 * i) 2 false false })
    (wStarted (wCmd .started 0x0701 0 2 [1100000000, dur, 3]))

/-- Queue 5 OFF and no link: nothing keeps the device from NIGHT; and the device in NIGHT. -/
def wQuietQ : State := wOn (wQ (wQueue .off [])) fun d => rsetf d .rnlLinkStatus 0 0 3 0 0
def wNight (off : Nat) : State := wOn wQuietQ fun d =>
  rset (rsetf { d with power := .night, np.timeHeld := true } .pwrStateStatus 0 0 2 2 off) .npWakeTime 0 0 500000000

theorem witness_power : (wPower (fun p => { p with oneSince := some 5 }) wPort).dev.pwr.oneSince = some 5 ∧
    5 + 10000000 ≤ wPort.dev.clock ∧ tilesRun wPort.dev = true ∧
    (wPort.dev.pwr.soft.find? fun e => e.1 == 3) = none ∧ noSoftStart wPort.dev = false ∧
    ((wPower (fun p => { p with soft := [(3, (16, 5))] }) wPort).dev.pwr.soft.find? fun e => e.1 == 3) = some (3, 16, 5) ∧
    ([(0, 0), (500, 16), (500, 0)].all fun e => runs (wHintCmd e.1 e.2) 0x0701 &&
      (cmdAt (wHintCmd e.1 e.2).dev 5 2).map (fun y =>
        let stop := y.param 0 + 1000 * bits (y.param 1) 31 0
        bits (y.param 1) 31 0 == e.1 && decide ((wHintCmd e.1 e.2).dev.ns ≤ y.param 0) &&
          ((wHintCmd e.1 e.2).dev.pwr.hints.filter fun x =>
            !(x.part == 0 && decide (x.start < stop) && decide (y.param 0 < x.stop))).length == e.2) == some true) = true ∧
    (wHinted (wHint 1000040000 2 false false)).dev.pwr.hints = [wHint 1000040000 2 false false] ∧
    1000000000 ≤ (wQ (wQueue .run [])).dev.ns ∧ wPort.dev.pwr.failHold = false ∧ wPort.dev.pwr.held = [] ∧
    2000 ≤ clockTarget wPort.dev ∧ 1 ≤ capLimit wPort.dev ∧ capLimit wPort.dev ≤ 64 ∧ (wHint 900000000 2 true true).stop ≤ 1000000000 := by
  decide +kernel

theorem witness_power_states : mayIdle (wOn (wQ { wQueue .run [] with tail := 2 }) fun d => { d with tiles.ctxs := [] }).dev = true ∧
    wQuietQ.dev.live = true ∧ wQuietQ.dev.np.on = true ∧ wQuietQ.dev.pwr.nightOff = none ∧ queuesOff wQuietQ.dev = true ∧
    linkKept wQuietQ.dev = false ∧ wQuietQ.dev.pwr.wakeHeld = false ∧ queuesOff (wQ (wQueue .run [])).dev = false ∧
    wbits (3 : Word) 1 0 = 3 ∧ wbits (3 : Word) 31 16 = 0 ∧ wbits (2 : Word) 1 0 = 2 ∧ wbits (1 : Word) 1 0 = 1 ∧
    (wNight 0).dev.power = .night ∧ (wNight 0).dev.np.timeHeld = true ∧ (wNight 0).dev.np.on = true ∧
    (wNight 0).dev.tripped = false ∧ (rget (wNight 0).dev .npWakeTime).toNat = 500000000 ∧
    wbit (rget (wNight 0).dev .pwrStateStatus) 2 = false := by
  decide +kernel

/-- Tile 3 read 110 °C or more in four of the last samples. -/
def wHotTile : State := wOn wPort fun d => { d with np.samples := [(3, [1800, 1800, 1700, 1800])] }

theorem witness_porter : wPort.dev.np.on = true ∧ wPort.dev.np.failAsserted = false ∧ wPort.dev.live = true ∧
    portUp wPort.dev 0 = true ∧ (wOn wPort fun d => { d with np.on := false }).dev.np.on = false ∧
    marked wHotTile.dev (npMark 3 0) = false ∧ wPort.dev.pins.railGood = true ∧ wPort.dev.pins.resetHeld = false ∧
    (wOn wPort fun d => { d with pins.resetHeld := true }).dev.pins.railGood = true := by
  decide +kernel

theorem witness_trip : (filtered (takeSamples (advanceTo wHotTile.dev 5) [none, none, none, some 1700]) 3).map
    (fun v => decide (1760 ≤ v)) = some true := by
  decide +kernel

/-! ### Premises that are met: snapshots and the drive -/

/-- Four usable namespaces of 2^20 blocks behind a trained port. -/
def wSpaces (d : Dev) : Dev :=
  (List.range 4).foldl (fun d n => rset d .snpNsInfo 0 n (toW (2 ^ 20 + 2 ^ 48)))
    (rsetf d .snpPortStatus 0 0 11 0 (2 + 4 + 32 + 128 + 15 * 256))

/-- A snapshot of step 9 of 64 bytes: one chunk to namespace 0, of which `n` are drained. -/
def wSnap (n : Nat) (forced : Bool) : Snap where
  queue := 5
  seq := 2
  step := 9
  nsmask := 1
  gen := 4
  slot := 1
  regions := [(0x200000, 64)]
  devSection := []
  nchunk := 1
  next := n
  hashes := List.replicate n (List.replicate 48 1)
  offset := 1000
  length := 2000
  deadline := 999999999
  sem := 30
  forced := forced
  window := false
  drained := false
  done := decide (n = 1)
  commitAt := none
  buddies := [⟨0, false⟩, ⟨0, false⟩]

def wSnapOf (x : Snap) (d : Dev) : Dev := wSpaces { d with snp.snaps := [(0, x)] }
def wBegin (step : Nat) (x : Snap) : State := wOn (wStarted { wCmd .started 0x0601 0 2 [] with step := step }) fun d =>
  setFabPart (wSnapOf x d) 0 { fabPart d 0 with bell := some ⟨900000000, 3, 100000000, 5, [], 4⟩, lastBell := some 900000000 }
def wCommit (step : Nat) (x : Snap) : State :=
  wOn (wStarted { wCmd .started 0x0602 0 2 [9, 0] with step := step }) (wSnapOf x)

/-- RESTORE, SPARE_FILL from chip 0x12346 and SPARE_ADMIT. -/
def wRestoreCmd (step : Nat) : State :=
  wOn (wStarted { wCmd .started 0x0603 0 2 [16 * 16, 0, 0, 0x200000, 0, 0x200400] with step := step }) wSpaces
def wFillCmd (lost : Bool) : State := wOn (wStarted { wCmd .started 0x0604 0 2 [0, 0x12346 * 2 ^ 20, 0, 0x200000, 0, 0] with
    step := 112 }) fun d =>
  setFabPart (wSpaces d) 0 { fabPart d 0 with fence := if lost then [0x12346] else [] }
def wAdmit (st : Nat) : State := wOn (wStarted (wCmd .started 0x0604 0 2 [1])) fun d => rsetf (wGroupOf d) .snpFill 0 0 1 0 st

/-- One NVMe command, submitted at `t` for command 2 of queue 5. -/
def wNvme (op : NvOp) (t : Nat) : State := wOn (wStarted (wCmd .started 0x0603 0 2 [])) fun d =>
  { wSpaces d with snp.nvme := [⟨3, 0, op, 0, .cmd 5 2, t, false⟩] }

/-- A signal of chip 0x12346 to the replica service. -/
def wRepl (i : Nat) : State := wOn wFlow fun d =>
  rset { d with snp.repls := [(i, { Repl.reset with todo := [(0x12346, 1), (7, 2)] })] } .snpReplCtl 0 0
    (toW (if i = 2 then 0 else 1))

theorem witness_snap_begin : let s := wOn (wStarted (wCmd .started 0x0601 0 2 [])) wSpaces
    runs s 0x0601 = true ∧ (cmdAt s.dev 5 2).map (fun y => y.step == 0 && !snapParamOk s.dev 0 y) = some true ∧
    runs (wBegin 5 (wSnap 0 false)) 0x0601 = true ∧ snapAt (wBegin 5 (wSnap 0 false)).dev 0 = some (wSnap 0 false) ∧
    (fabPart (wBegin 5 (wSnap 0 false)).dev 0).bell.isSome = true ∧
    snapAt (wBegin 5 (wSnap 1 true)).dev 0 = some (wSnap 1 true) ∧
    nvBusy (wBegin 5 (wSnap 1 true)).dev (.cmd 5 2) = false ∧ (wSnap 0 false).deadline ≤ (wBegin 5 (wSnap 0 false)).dev.ns := by
  decide +kernel

/-- The drain's turn, with its chunk read. -/
def wDrainDev : Dev :=
  let d0 := setSnpBits (putSnap (wBegin 5 (wSnap 0 true)).dev 0 (wSnap 0 true)) 0 (wSnap 0 true)
  { d0 with rnl := { d0.rnl with fresh := [] } }

theorem witness_snap_drain : let r := (streamRead (spaceOf wDrainDev 5) (wSnap 0 true) 0 snapChunk).go wDrainDev
    (match r.1 with
      | .ok _ => nsUsable r.2 0 && nvRoom (wBegin 5 (wSnap 0 true)).dev 0
      | .error _ => false) = true ∧ chunkPlace (maskList 1) 1 0 = (0, 256) := by
  decide +kernel

theorem witness_snap_commit : runs (wCommit 0 (wSnap 0 false)) 0x0602 = true ∧
    snapAt (wCommit 0 (wSnap 0 false)).dev 0 = some (wSnap 0 false) ∧ (wSnap 0 false).done = false ∧
    ([2, 4].all fun n => (cmdAt (wCommit n (wSnap 1 true)).dev 5 2).map (fun y => y.step == n && y.status == 0) == some true &&
      !nvBusy (wCommit n (wSnap 1 true)).dev (.cmd 5 2)) = true ∧
    maskList (wSnap 1 true).nsmask = [0] ∧ nsUsable (wCommit 2 (wSnap 1 true)).dev 0 = true ∧
    ∀ b ∈ (wSnap 1 true).buddies, b.live = false ∧ b.chip = 0 := by
  decide +kernel

theorem witness_snap_restore : ([96, 112].all fun n => runs (wRestoreCmd n) 0x0603 &&
      (cmdAt (wRestoreCmd n).dev 5 2).map (fun y => y.step == n && (restoreHolders y).isEmpty) == some true) = true ∧
    runs (wFillCmd true) 0x0604 = true ∧ runs (wFillCmd false) 0x0604 = true ∧
    (cmdAt (wFillCmd true).dev 5 2).map (fun y => y.step == 112 && y.param 0 % 4 == 0 && fillSources y == [0x12346]) = some true ∧
    fenced (wFillCmd true).dev 0 0x12346 = true ∧ fenced (wFillCmd false).dev 0 0x12346 = false ∧
    ([0, 2].all fun n => runs (wAdmit n) 0x0604 && rfield (wAdmit n).dev .snpFill 0 0 1 0 == n &&
      !snapOpen (wAdmit n).dev 0 5 2 && (cmdAt (wAdmit n).dev 5 2).map (fun y => y.param 0 % 4 == 1 && !y.replayed) == some true) = true := by
  decide +kernel

theorem witness_restore_ends : let sp := spaceOf (wRestoreCmd 112).dev 5
    (match cmdAt (wRestoreCmd 112).dev 5 2 with
    | some y => (answers (do
        let reps ← readReplacements sp (y.param 3) (y.param 4 % 32)
        let st ← applySection 0 sp reps none (rDev y)
        vwrite sp (y.param 5) ((rHead y).take 512)
        pure st : Act Nat) (clean (wRestoreCmd 112))) == some 0
    | none => false) = true := by
  decide +kernel

theorem witness_fill_ends : let sp := spaceOf (wFillCmd false).dev 5
    (match cmdAt (wFillCmd false).dev 5 2 with
    | some y => (answers (do
        let reps ← readReplacements sp (y.param 3) (y.param 4 % 32)
        applySection 0 sp reps (some (chipId (wFillCmd false).dev 0)) (rDev y) : Act Nat) (clean (wFillCmd false))) == some 0
    | none => false) = true := by
  decide +kernel

theorem witness_drive : ([NvOp.write 7 (List.replicate 4096 1), .read 7 2].all fun op =>
      (wNvme op 5).dev.live && (wNvme op 5).dev.snp.nvme == [⟨3, 0, op, 0, .cmd 5 2, 5, false⟩] &&
        decide (5 + 5000000000 ≤ (6000000000 : Nat)) && decide ((wNvme op 5).dev.ns < 5 + 5000000000) &&
        (cmdAt (wNvme op 5).dev 5 2).map (·.st) == some .started && snpLink (wNvme op 5).dev == 2) = true ∧
    snpLink State.reset.dev ≠ 2 ∧ State.reset.dev.snp.trainFrom ≤ State.reset.dev.ns := by
  decide +kernel

theorem witness_replica : ([0, 1, 2].all fun i => let s := wRepl i
    (replAt s.dev 0 i).todo == [(0x12346, 1), (7, 2)] && (stageOn s.dev 0 == (i != 2)) &&
      replSource s.dev 0 i != 0x12346 &&
      (signalBack s.dev 0 0x12346 (semBase s.dev 0 + 3) sigRefusal).isSome) = true := by
  decide +kernel

/-! ### Premises that are met: the whole machine -/

theorem witness_step : State.reset.pending = [] ∧ needsHub (.barrier 9 0) = true ∧ (wNight 0).dev.live = false := by
  decide +kernel

/-- A step that burns fuses: PROVISIONED to DEPLOYED. -/
theorem witness_burn : (match step { wLife 1 (wStarted (wCmd .started 0x0905 0 2 [2])) with pending := [.lcTransition 5 2] } with
    | .next t => t.pending.isEmpty && t.fuses.state == 2
    | _ => false) = true := by
  decide +kernel

theorem witness_memory : (∀ i, i < 100 → regionOf (0x210020 + i) = .dram 0) ∧ wMem.dev.mem.lineErr = [] ∧
    wMem.dev.mem.qc = [] ∧ wMem.dev.clock ≤ wMem.dev.clock + 1 ∧ wMem.dev.fab.freq = 0 ∧ wMem.dev.fab.slew = 0 ∧
    answers (readPhys 0x210020 100) wMem.dev = some (List.replicate 100 0) ∧ Memory.wf wMem.dev.mem.bytes = true ∧
    answers (writePhys .software 0x210020 (List.replicate 100 7)) wMem.dev = some () := by
  decide +kernel

theorem witness_stream : wSource ≠ [] ∧ wSource.length % 64 = 0 ∧ wSource.length < 2 ^ 36 ∧ [1, 2, 3, 4].length % 2 = 0 := by
  decide +kernel

/-! ### Single steps, by hand from the spec -/

/-- The context after an instruction. -/
def after (i : Instr) (s : State) : Ctx :=
  match exec i s with
  | .next t => ctxAt t.dev 9
  | _ => Ctx.reset

/-- 2^64 − 1 + 2 is 1 modulo 2^64. -/
theorem test_add_wraps : let s := wCtx 9 { wRun with sregs := [(1, BitVec.allOnes 64), (2, 2)] }
    (after (.add 9 (fA 6 1 2 0 0 0)) s).sreg 6 = 1 ∧ (after (.add 9 (fA 6 1 2 0 0 0)) s).pc = 0x1008 := by
  decide +kernel

/-- R45: a write to S0 is ignored. -/
theorem test_zero_register : (after (.add 9 (fA 0 1 2 0 0 0)) (wCtx 9 wRun)).sreg 0 = 0 := by decide +kernel

/-- SRA keeps the sign: −16 shifted by 2 is −4. -/
theorem test_sra : (after (.sra 9 (fA 6 1 2 0 0 0)) (wCtx 9 { wRun with
    sregs := [(1, 0xFFFFFFFFFFFFFFF0), (2, 2)] })).sreg 6 = 0xFFFFFFFFFFFFFFFC := by
  decide +kernel

/-- R55: with two passes left the end of the body leads back to its start. -/
theorem test_loop_end : (after (.nop 9 0) (wCtx 9 { wRun with loops := [⟨0xFF0, 0x1008, 2⟩] })).pc = 0xFF0 := by
  decide +kernel

/-- A command that waits behind another is left alone by the step. -/
theorem test_queue_order : (match step { State.reset with pending := [.npHeartbeat, .chipReset 0] } with
    | .next t => t.pending.length == 1 && rfield t.dev .npStatus 0 0 31 0 == 1
    | _ => false) = true := by
  decide +kernel

end Sys2Proof.Machine.Tests
end

section
/-!
PROOF. What every tile instruction shares: it issues, it completes with the PC moved on, it is held back, or it
faults (R44, R51, R53). The proofs about single instructions go through these lemmas.
-/

namespace Sys2Proof.Machine

theorem merase_mput {α : Type} (m : List (Nat × α)) (i : Nat) (a : α) : merase (mput m i a) i = merase m i := by
  induction m with
  | nil => simp [mput, merase]
  | cons e m ih =>
    obtain ⟨k, v⟩ := e
    by_cases h : i = k
    · simp [mput, merase, h]
    · by_cases h' : i < k <;> simp [mput, merase, h, h', ih]

theorem mput_mput {α : Type} (m : List (Nat × α)) (i : Nat) (a b : α) : mput (mput m i a) i b = mput m i b := by
  induction m with
  | nil => simp [mput]
  | cons e m ih =>
    obtain ⟨k, v⟩ := e
    by_cases h : i = k
    · simp [mput, h]
    · by_cases h' : i < k <;> simp [mput, h, h', ih]

/-- The later of two writes to one key stands, where the earlier one wrote an entry. -/
theorem mset_mset {α : Type} [DecidableEq α] {d : α} {a : α} (ha : a ≠ d) (m : List (Nat × α)) (i : Nat) (b : α) :
    mset d (mset d m i a) i b = mset d m i b := by
  unfold mset
  rw [if_neg ha]
  split
  · exact merase_mput m i a
  · exact mput_mput m i a b

theorem setCtx_setCtx {x : Ctx} (hx : x ≠ Ctx.reset) (d : Dev) (c : Nat) (y : Ctx) :
    setCtx (setCtx d c x) c y = setCtx d c y := by
  simp only [setCtx, mset_mset hx]

/-! ### An instruction that issues -/

/-- A command whose meaning `m` issues a tile instruction runs the body of that instruction. -/
theorem completes_issue {i : Instr} {s : State} {c : Nat} {w : TWord} {e : Eng} {body : Dev → Ctx → Dev}
    {P : Dev → Prop} (m : State → Host.Outcome State Fault Refusal) (h : Issues s c w e) (hi : exec i s = m s)
    (hm : m s = onDev s fun d => issue d c w e (body d)) (hp : P (body s.dev (ctxAt s.dev c))) :
    Completes i s P := by
  obtain ⟨hl, hc, hx, he⟩ := h
  refine completes_onDev hl (hi.trans hm) ?_
  simpa only [issue, hc, hx, he, Bool.not_true, Bool.false_eq_true, if_true, if_false] using hp

/-- The context after an instruction that completes. -/
theorem ctxAt_complete (d : Dev) (c : Nat) (f : Ctx → Ctx) :
    ctxAt (complete d c f) c = { (f (ctxAt d c)).advance with wait := .none } := by
  simp [complete]

theorem complete_onlyCtx (d : Dev) (c : Nat) (f : Ctx → Ctx) : OnlyCtx d (complete d c f) c := by
  simp [OnlyCtx, complete, updCtx]

theorem advance_nextPc {x y : Ctx} (hp : y.pc = x.pc) (hl : y.loops = x.loops) :
    NextPc x { y.advance with wait := .none } := by
  simp [NextPc, Ctx.advance, Ctx.goto, hp, hl]

theorem complete_setsSreg (d : Dev) (c i : Nat) (v : Ctx → Word) :
    SetsSreg d (complete d c fun x => x.setSreg i (v x)) c i (v (ctxAt d c)) := by
  have hf := setSreg_frame (ctxAt d c) i (v (ctxAt d c))
  refine ⟨complete_onlyCtx _ _ _, ?_, fun j => ?_, ?_⟩ <;> rw [ctxAt_complete]
  · exact advance_nextPc (by rw [hf]) (by rw [hf])
  · exact setSreg_sreg _ _ _ _
  · rw [hf]; rfl

theorem complete_movesOn (d : Dev) (c : Nat) : MovesOn d (complete d c id) c :=
  complete_setsSreg d c 0 fun _ => 0

theorem complete_setsPred (d : Dev) (c i : Nat) (b : Bool) :
    SetsPred d (complete d c fun x => x.setPred i b) c i b := by
  have hf := setPred_frame (ctxAt d c) i b
  refine ⟨complete_onlyCtx _ _ _, ?_, fun j => ?_, ?_⟩ <;> rw [ctxAt_complete]
  · exact advance_nextPc (by rw [hf]) (by rw [hf])
  · exact setPred_pred _ _ _ _
  · rw [hf]; rfl

/-! ### An instruction that faults -/

theorem drainMma_of_not_busy (n : Nat) {d : Dev} {c : Nat} (h : mmaBusy d c = false) : drainMma n c d = d := by
  cases n with
  | zero => rfl
  | succ n => unfold drainMma; unfold mmaBusy at h; rw [h]; rfl

theorem drainCtxMma_of_not_busy {d : Dev} {c : Nat} (h : mmaBusy d c = false) : drainCtxMma d c = d :=
  drainMma_of_not_busy _ h

/-- A fault with nothing queued and no older fault pending is kept, with its PC, until what was issued before has
its end. -/
theorem faultOn_raises {d : Dev} {c st e a : Nat} (hb : mmaBusy d c = false) (hp : (ctxAt d c).pend = none) :
    faultOn d c st e a = settleFault (setCtx d c { ctxAt d c with
      wait := .fault, pend := some ⟨none, st, (ctxAt d c).pc, a % 2 ^ 64, e⟩ }) c := by
  simp only [faultOn, drainCtxMma_of_not_busy hb, updCtx, Ctx.raise, hp]

theorem enterFaulted_regs (d : Dev) (c : Nat) (f : Pend) (key : Nat) (h : key ≠ Reg.tileNumFlags.key (tileOf c) 0) :
    mget 0 (enterFaulted d c f).regs key = mget 0 d.regs key :=
  mget_mset_other _ _ _ _ h

theorem ctxAt_enterFaulted (d : Dev) (c : Nat) (f : Pend) :
    ctxAt (enterFaulted d c f) c = { ctxAt d c with
      state := .faulted, wait := .none, pc := f.pc, fStatus := f.status, fEngine := f.eng, fAddr := f.addr,
      ops := [], pend := none, faultAt := d.clock } := by
  simp only [enterFaulted, ctxAt_updCtx]; rfl

theorem enterFaulted_frame (d : Dev) (c : Nat) (f : Pend) :
    enterFaulted d c f = { setCtx d c (ctxAt (enterFaulted d c f) c) with regs := (enterFaulted d c f).regs } := by
  rw [ctxAt_enterFaulted]; rfl

theorem faultOn_faults {d : Dev} {c st : Nat} {e : Eng} {a : Nat} (h : Settled d c) :
    FaultsAt d (faultOn d c st e.code a) c st e a := by
  obtain ⟨hw, hr, hp, hb⟩ := h
  rw [faultOn_raises hb hp]
  set x : Ctx := { ctxAt d c with
    wait := .fault, pend := some ⟨none, st, (ctxAt d c).pc, a % 2 ^ 64, e.code⟩ } with hx
  have hne : x ≠ Ctx.reset := fun h => by simpa [hx, Ctx.reset] using congrArg Ctx.pend h
  have hs : settleFault (setCtx d c x) c =
      enterFaulted (setCtx d c x) c ⟨none, st, (ctxAt d c).pc, a % 2 ^ 64, e.code⟩ := by
    simp [settleFault, hx, hw, hr]
  rw [hs]
  refine ⟨?_, fun key hk => enterFaulted_regs _ _ _ _ hk, ?_⟩
  · conv_lhs => rw [enterFaulted_frame, setCtx_setCtx hne]
  · rw [ctxAt_enterFaulted, ctxAt_setCtx]; rfl

theorem faultCtx_faults {d : Dev} {c st : Nat} {e : Eng} {a : Nat} (h : Settled d c) :
    FaultsAt d (faultCtx d c st e a) c st e a := faultOn_faults h

end Sys2Proof.Machine
end

section
/-!
PROOF. Lanes and accumulator rows, and what a dense INT8 MMA leaves in every one of them (R58 to R62): O10.
-/

namespace Sys2Proof.Machine

/-! ### Packed lanes -/

theorem packElems_lt (b : Nat) (xs : List Nat) : packElems b xs < 2 ^ (b * xs.length) := by
  induction xs with
  | nil => simp [packElems]
  | cons x xs ih =>
    have hx : x % 2 ^ b < 2 ^ b := Nat.mod_lt _ (Nat.two_pow_pos b)
    calc packElems b (x :: xs) < 2 ^ b + 2 ^ b * packElems b xs := Nat.add_lt_add_right hx _
      _ = 2 ^ b * (packElems b xs + 1) := by ring
      _ ≤ 2 ^ b * 2 ^ (b * xs.length) := Nat.mul_le_mul_left _ ih
      _ = 2 ^ (b * (x :: xs).length) := by rw [← pow_add, List.length_cons, Nat.mul_succ, Nat.add_comm]

theorem elemAt_packElems (b : Nat) (xs : List Nat) (j : Nat) :
    elemAt (packElems b xs) b j = xs.getD j 0 % 2 ^ b := by
  induction xs generalizing j with
  | nil => simp [packElems, elemAt]
  | cons x xs ih =>
    have hx : x % 2 ^ b < 2 ^ b := Nat.mod_lt _ (Nat.two_pow_pos b)
    cases j with
    | zero => simp [packElems, elemAt]
    | succ j =>
      have h : (x % 2 ^ b + 2 ^ b * packElems b xs) / 2 ^ (b * (j + 1)) = packElems b xs / 2 ^ (b * j) := by
        rw [Nat.mul_succ, Nat.add_comm (b * j), pow_add, ← Nat.div_div_eq_div_mul,
          Nat.add_mul_div_left _ _ (Nat.two_pow_pos b), Nat.div_eq_of_lt hx, Nat.zero_add]
      simpa [elemAt, packElems, h] using ih j

/-- A register or an accumulator row of packed elements gives each of them back, in its width. -/
theorem elemAt_ofNat_packElems {w b : Nat} {xs : List Nat} (h : b * xs.length ≤ w) (j : Nat) :
    elemAt (BitVec.ofNat w (packElems b xs)).toNat b j = xs.getD j 0 % 2 ^ b := by
  have hlt : packElems b xs < 2 ^ w :=
    Nat.lt_of_lt_of_le (packElems_lt b xs) (Nat.pow_le_pow_right (by omega) h)
  rw [BitVec.toNat_ofNat, Nat.mod_eq_of_lt hlt, elemAt_packElems]

theorem getD_map_range {α : Type} (n j : Nat) (f : Nat → α) (d : α) (h : j < n) :
    ((List.range n).map f).getD j d = f j := by
  simp [List.getD_eq_getElem?_getD, h]

theorem wrapN_lt (n : Nat) (x : Int) : wrapN n x < 2 ^ n := by
  have h1 : (0 : Int) < (2 ^ n : Nat) := by exact_mod_cast Nat.two_pow_pos n
  have h2 := Int.emod_nonneg x h1.ne'
  have h3 := Int.emod_lt_of_pos x h1
  unfold wrapN
  omega

/-! ### Accumulator rows -/

theorem accRow_setAccRow (d : Dev) (t a r t' a' r' : Nat) (v : BitVec 4096) :
    accRow (setAccRow d t a r v) t' a' r' =
      if (8 * t' + a') * 128 + r' = (8 * t + a) * 128 + r then v else accRow d t' a' r' := by
  simp [accRow, setAccRow, mget_mset]

theorem foldl_setAccInfo_accRows (t : Nat) (f : Dev → Nat → AccInfo) (as : List Nat) (d : Dev) :
    (as.foldl (fun d a => setAccInfo d t a (f d a)) d).tiles.accRows = d.tiles.accRows := by
  induction as generalizing d with
  | nil => rfl
  | cons a as ih => exact ih _

theorem foldl_bumpAcc_accRows (t k n : Nat) (as : List Nat) (d : Dev) :
    (as.foldl (fun d a => bumpAcc d t a k n) d).tiles.accRows = d.tiles.accRows :=
  foldl_setAccInfo_accRows t (fun d a => { accInfo d t a with
    k := (accInfo d t a).k + k, n := ((accInfo d t a).n + n) % 2 ^ 32 }) as d

theorem ringRelease_accRows (d : Dev) (t rn n : Nat) :
    (ringRelease d t rn n).tiles.accRows = d.tiles.accRows := by
  unfold ringRelease
  split
  · rfl
  · dsimp only; split <;> rfl

theorem foldl_ringRelease_accRows (t : Nat) (es : List (Nat × Nat × Nat)) (d : Dev) :
    (es.foldl (fun d e => ringRelease d t e.1 e.2.2) d).tiles.accRows = d.tiles.accRows := by
  induction es generalizing d with
  | nil => rfl
  | cons e es ih => exact (ih _).trans (ringRelease_accRows _ _ _ _)

theorem relStreamed_accRows (d : Dev) (c : Nat) : (relStreamed d c).tiles.accRows = d.tiles.accRows :=
  foldl_ringRelease_accRows _ _ _

theorem clearRetry_accRows (d : Dev) (t : Nat) : (clearRetry d t).tiles.accRows = d.tiles.accRows := by
  unfold clearRetry
  induction tileCtxs t generalizing d with
  | nil => rfl
  | cons c cs ih =>
    refine (ih _).trans ?_
    dsimp only
    split <;> rfl

/-! ### A dense INT8 pass (R58, R62) -/

/-- The one pass of a dense INT8 MMA: element k of a row of A meets row k of B. -/
def int8Pass : Pass := ⟨fun _ => (List.range 256).map fun k => (k, k), 0, 256⟩

/-- Lane `n` of row `i` after the pass: the lane before it plus the sum of the products, in 32 bits. -/
def int8Lane (r : MmaReq) (b : BBlock) (i n old : Nat) : Nat :=
  wrapN 32 (sext 32 old + ((List.range 256).map fun k =>
    sext 8 (elemAt (r.aRows.getD i 0) 8 k) * sext 8 (elemAt (b.rows.getD k 0) 8 n)).sum)

/-- Row `i` after the pass. -/
def int8Row (r : MmaReq) (b : BBlock) (i : Nat) (old : BitVec 4096) : BitVec 4096 :=
  BitVec.ofNat 4096 (packElems 32 ((List.range 128).map fun n => int8Lane r b i n (elemAt old.toNat 32 n)))

theorem elemAt_int8Row (r : MmaReq) (b : BBlock) (i n : Nat) (old : BitVec 4096) (h : n < 128) :
    elemAt (int8Row r b i old).toNat 32 n = int8Lane r b i n (elemAt old.toNat 32 n) := by
  rw [int8Row, elemAt_ofNat_packElems (by simp), getD_map_range _ _ _ _ h]
  exact Nat.mod_eq_of_lt (wrapN_lt _ _)

theorem toInt_ofInt (x : Int) : (Fx.ofInt x).toInt = x := by
  unfold Fx.ofInt Fx.toInt
  rcases lt_or_ge x 0 with h | h
  · simp only [h, decide_true, if_true]; omega
  · simp only [Int.not_lt.2 h, decide_false, Bool.false_eq_true, if_false]; omega

/-- The exact integers that a dense INT8 pass multiplies. -/
theorem int8_products (r : MmaReq) (b : BBlock) (i n : Nat) (hA : r.fmtA = 0xA) (hB : b.fmt = 0xA) :
    (passProducts .int8 int8Pass (passOperands r b int8Pass i n)).map (fun p => p.1.toInt * p.2.toInt) =
      (List.range 256).map fun k =>
        sext 8 (elemAt (r.aRows.getD i 0) 8 k) * sext 8 (elemAt (b.rows.getD k 0) 8 n) := by
  simp only [passProducts, passOperands, int8Pass, List.map_map]
  refine List.map_congr_left fun k _ => ?_
  simp only [Function.comp, hA, hB, operand, fmtBits, partA, partB, toInt_ofInt]

theorem accRow_passRow_int8 (r : MmaReq) (b : BBlock) (first : Bool) (d : Dev) (i t a j : Nat)
    (hA : r.fmtA = 0xA) (hB : b.fmt = 0xA) :
    accRow (passRow r b .int8 int8Pass first d i) t a j =
      if (8 * t + a) * 128 + j = (8 * tileOf r.ctx + (r.acc + i / 128)) * 128 + i % 128 then
        int8Row r b i (accRow d (tileOf r.ctx) (r.acc + i / 128) (i % 128))
      else accRow d t a j := by
  rw [← accRow_setAccRow]
  unfold passRow
  extract_lets t' at' info mode old scale outs d1 fl d2
  have hrow : outs.map (·.1) = (List.range 128).map fun n =>
      int8Lane r b i n (elemAt (accRow d (tileOf r.ctx) (r.acc + i / 128) (i % 128)).toNat 32 n) := by
    simp only [outs, List.map_map]
    refine List.map_congr_left fun n _ => ?_
    simp only [Function.comp, accumulate, int8_products r b i n hA hB, int8Lane, old, t', at']
  have hd : d1 = setAccRow d (tileOf r.ctx) (r.acc + i / 128) (i % 128)
      (int8Row r b i (accRow d (tileOf r.ctx) (r.acc + i / 128) (i % 128))) := by
    simp only [d1, hrow, int8Row, t', at']
  rw [← hd]
  clear_value d1
  split <;> rfl

/-- The first `m` rows of the pass: row `i` lies at place `i` from the start of accumulator tile AT on. -/
theorem accRow_foldl_passRow_int8 (r : MmaReq) (b : BBlock) (first : Bool) (d : Dev) (t a j : Nat)
    (hA : r.fmtA = 0xA) (hB : b.fmt = 0xA) (m : Nat) :
    accRow ((List.range m).foldl (passRow r b .int8 int8Pass first) d) t a j =
      if (8 * tileOf r.ctx + r.acc) * 128 ≤ (8 * t + a) * 128 + j ∧
          (8 * t + a) * 128 + j < (8 * tileOf r.ctx + r.acc) * 128 + m then
        int8Row r b ((8 * t + a) * 128 + j - (8 * tileOf r.ctx + r.acc) * 128) (accRow d t a j)
      else accRow d t a j := by
  induction m with
  | zero => rw [if_neg (by omega)]; rfl
  | succ m ih =>
    rw [List.range_succ, List.foldl_append, List.foldl_cons, List.foldl_nil,
      accRow_passRow_int8 r b first _ m t a j hA hB]
    have hm : m / 128 * 128 + m % 128 = m := Nat.div_add_mod' m 128
    by_cases h : (8 * t + a) * 128 + j = (8 * tileOf r.ctx + (r.acc + m / 128)) * 128 + m % 128
    · have hrow : ∀ e : Dev, accRow e (tileOf r.ctx) (r.acc + m / 128) (m % 128) = accRow e t a j := fun e => by
        unfold accRow; rw [h]
      have hi : (8 * t + a) * 128 + j - (8 * tileOf r.ctx + r.acc) * 128 = m := by omega
      rw [if_pos h, if_pos (by omega), hi, hrow, ih, if_neg (by omega)]
    · rw [if_neg h, ih]
      by_cases h' : (8 * tileOf r.ctx + r.acc) * 128 ≤ (8 * t + a) * 128 + j ∧
          (8 * t + a) * 128 + j < (8 * tileOf r.ctx + r.acc) * 128 + m
      · rw [if_pos h', if_pos (by omega)]
      · rw [if_neg h', if_neg (by omega)]

/-- What stands in the accumulator tiles when an MMA begins: with ZERO the tiles it names are cleared (R60). -/
def zeroedFor (d : Dev) (r : MmaReq) : Dev :=
  if r.zero then (accTiles r.acc r.m).foldl (fun d a => accClear d (tileOf r.ctx) a) d else d

theorem foldl_accClear_array (t : Nat) (as : List Nat) (d : Dev) :
    (as.foldl (fun d a => accClear d t a) d).tiles.array = d.tiles.array := by
  induction as generalizing d with
  | nil => rfl
  | cons a as ih => exact ih _

theorem zeroedFor_array (d : Dev) (r : MmaReq) : (zeroedFor d r).tiles.array = d.tiles.array := by
  unfold zeroedFor
  split
  · exact foldl_accClear_array _ _ _
  · rfl

/-- The device in which the passes of a dense INT8 MMA run: what the MMA names is INT32 (R60). -/
def typedInt32 (d : Dev) (r : MmaReq) : Dev :=
  (accTiles r.acc r.m).foldl
    (fun d a => setAccInfo d (tileOf r.ctx) a { accInfo d (tileOf r.ctx) a with ty := .int32 }) (zeroedFor d r)

theorem typedInt32_accRows (d : Dev) (r : MmaReq) : (typedInt32 d r).tiles.accRows = (zeroedFor d r).tiles.accRows :=
  foldl_setAccInfo_accRows _ (fun d a => { accInfo d (tileOf r.ctx) a with ty := .int32 }) _ _

theorem typedInt32_array (d : Dev) (r : MmaReq) : (typedInt32 d r).tiles.array = d.tiles.array := by
  rw [← zeroedFor_array d r]
  unfold typedInt32
  generalize zeroedFor d r = e
  induction accTiles r.acc r.m generalizing e with
  | nil => rfl
  | cons a as ih => exact ih _

/-- The block of B that an MMA uses: its own or, with BKEEP, the one in the array (R61). -/
def usesBlock (d : Dev) (r : MmaReq) (b : BBlock) : Prop :=
  r.bkeep = false ∧ b = r.b ∨ r.bkeep = true ∧ mget none d.tiles.array (tileOf r.ctx) = some b

theorem streamMma_int8_accRows {d : Dev} {r : MmaReq} {b : BBlock} (hA : r.fmtA = 0xA) (hB : r.fmtB = 0xA)
    (hs : r.sparse = 0) (hb : usesBlock d r b) :
    (streamMma d r).tiles.accRows =
      ((List.range r.m).foldl (passRow r b .int8 int8Pass true) (typedInt32 d r)).tiles.accRows := by
  have hcls : mmaClass r.fmtA r.fmtB = some .int8 := by rw [hA, hB]; rfl
  have hp : mmaPasses .int8 0 r.sel = ([int8Pass], 0) := rfl
  have hact : (if r.bkeep = true then
      (mget none (typedInt32 d r).tiles.array (tileOf r.ctx)).getD ⟨r.ctx, r.fmtB, true, [], []⟩ else r.b) = b := by
    rw [typedInt32_array]
    rcases hb with ⟨h, h'⟩ | ⟨h, h'⟩ <;> simp [h, h']
  have hrun : (streamMma d r).tiles.accRows = ((accTiles r.acc r.m).foldl
      (fun d a => bumpAcc d (tileOf r.ctx) a 0 0) (runPass r
        (if r.bkeep = true then
          (mget none (typedInt32 d r).tiles.array (tileOf r.ctx)).getD ⟨r.ctx, r.fmtB, true, [], []⟩ else r.b)
        .int8 (typedInt32 d r) (int8Pass, true))).tiles.accRows := by
    unfold streamMma
    rw [hcls, hs]
    rfl
  rw [hrun, hact, foldl_bumpAcc_accRows]
  exact foldl_bumpAcc_accRows _ _ _ _ _

/-- Every row of the device after a dense INT8 MMA has streamed. -/
theorem accRow_streamMma_int8 {d : Dev} {r : MmaReq} {b : BBlock} (hA : r.fmtA = 0xA) (hB : r.fmtB = 0xA)
    (hs : r.sparse = 0) (hu : usesBlock d r b) (hb : b.fmt = 0xA) (t a j : Nat) :
    accRow (streamMma d r) t a j =
      if (8 * tileOf r.ctx + r.acc) * 128 ≤ (8 * t + a) * 128 + j ∧
          (8 * t + a) * 128 + j < (8 * tileOf r.ctx + r.acc) * 128 + r.m then
        int8Row r b ((8 * t + a) * 128 + j - (8 * tileOf r.ctx + r.acc) * 128) (accRow (zeroedFor d r) t a j)
      else accRow (zeroedFor d r) t a j := by
  have hz : accRow (typedInt32 d r) t a j = accRow (zeroedFor d r) t a j := by
    simp only [accRow, typedInt32_accRows]
  rw [← hz, ← accRow_foldl_passRow_int8 r b true _ t a j hA hb]
  simp only [accRow, streamMma_int8_accRows hA hB hs hu]

/-- The accumulator rows after the oldest queued MMA of a tile has streamed. -/
theorem accRow_streamNext {d : Dev} {t : Nat} {r : MmaReq} {rest : List MmaReq} (h : mmaQueue d t = r :: rest)
    (t' a j : Nat) : accRow (streamNext d t) t' a j =
      accRow (streamMma { d with tiles.mmaQ := mset [] d.tiles.mmaQ t rest } r) t' a j := by
  unfold mmaQueue at h
  simp only [accRow, streamNext, h, clearRetry_accRows, relStreamed_accRows]

/-! ### An MMA of more rows than its accumulator tiles hold -/

/-- A dense INT8 MMA of 257 rows of A, the last with a 1 as its first element, against a first row of B that
begins with a 1. -/
def wideMma : MmaReq where
  ctx := 0
  acc := 0
  m := 257
  fmtA := 0xA
  fmtB := 0xA
  sparse := 0
  zero := false
  bkeep := false
  rowScales := none
  aRows := List.replicate 256 0 ++ [1]
  aScales := []
  b := ⟨0, 0xA, true, [1], []⟩
  sel := []
  key := ⟨0, 0, 0, 0⟩

/-- The machine after reset with that MMA queued at tile 0. -/
def wideState : State := { State.reset with dev := { Dev.reset with tiles.mmaQ := [(0, [wideMma])] } }

/-- Row 256 of the MMA lands in row 0 of accumulator tile 2, whose first element becomes 1. -/
theorem wideState_streams_into_tile_two :
    elemAt (accRow (streamNext wideState.dev 0) 0 2 0).toNat 32 0 = 1 := by
  have hq : mmaQueue wideState.dev 0 = wideMma :: [] := rfl
  rw [accRow_streamNext hq, accRow_streamMma_int8 rfl rfl rfl (.inl ⟨rfl, rfl⟩) rfl,
    if_pos (by decide), elemAt_int8Row _ _ _ _ _ (by decide)]
  decide +kernel

/-- Refutes O10: the clause that leaves every accumulator tile alone that the MMA does not name does not ask for at
most 256 rows, and row 256 of a longer MMA is added into the tile after the two named ones. -/
theorem not_mmaInt8Result : ¬ Obligations.MmaInt8Result := by
  unfold Obligations.MmaInt8Result
  intro h
  obtain ⟨s, hs, -, -, -, hkeep, -⟩ := h wideState 0 wideMma [] rfl rfl rfl rfl
  have hdev : s.dev = streamNext wideState.dev 0 := by
    have : exec (.mmaStreamStart 0) wideState = .next { wideState with dev := streamNext wideState.dev 0 } := rfl
    rw [this] at hs
    injection hs with hs
    rw [← hs]
  have hrow := hkeep 0 2 0 (by decide) (by decide) (.inr (by decide)) (by decide)
  rw [hdev] at hrow
  have hreset : accRow wideState.dev 0 2 0 = 0 := rfl
  have hzero : elemAt (accRow wideState.dev 0 2 0).toNat 32 0 = 0 := by
    rw [hreset, show (0 : BitVec 4096).toNat = 0 from BitVec.toNat_zero]
    rfl
  rw [← hrow, wideState_streams_into_tile_two] at hzero
  exact absurd hzero (by decide)

end Sys2Proof.Machine
end

section
/-!
PROOF. The scalar ALU, the control flow and what a false predicate does (R45, R50, R53 to R55): O1, O2, O3, O6.
-/

namespace Sys2Proof.Machine

/-! ### The ALU -/

theorem completes_aluA {i : Instr} {s : State} {c : Nat} {w : TWord} {op : Word → Word → Word}
    (h : Issues s c w .scalar) (hw : aPlain w = true) (hi : exec i s = onDev s (aluA c w op)) :
    Completes i s fun d =>
      SetsSreg s.dev d c w.aD (op ((ctxAt s.dev c).sreg w.aS1) ((ctxAt s.dev c).sreg w.aS2)) := by
  refine completes_issue (fun s => onDev s (aluA c w op)) h hi rfl ?_
  rw [if_pos hw]
  exact complete_setsSreg s.dev c w.aD fun x => op (x.sreg w.aS1) (x.sreg w.aS2)

theorem completes_shiftA {i : Instr} {s : State} {c : Nat} {w : TWord} {op : Word → Nat → Word}
    (h : Issues s c w .scalar) (hw : aPlain w = true) (hi : exec i s = onDev s (shiftA c w op)) :
    let n := ((ctxAt s.dev c).sreg w.aS2).toNat
    (n < 64 → Completes i s fun d => SetsSreg s.dev d c w.aD (op ((ctxAt s.dev c).sreg w.aS1) n)) ∧
    (64 ≤ n → Completes i s fun d => ∃ v, SetsSreg { s.dev with free := s.dev.free + 1 } d c w.aD v) := by
  refine ⟨fun hn => completes_issue (fun s => onDev s (shiftA c w op)) h hi rfl ?_,
    fun hn => completes_issue (fun s => onDev s (shiftA c w op)) h hi rfl ?_⟩
  · rw [if_pos hw, if_pos hn]
    exact complete_setsSreg s.dev c w.aD fun x => op (x.sreg w.aS1) _
  · rw [if_pos hw, if_neg (by omega)]
    exact ⟨_, complete_setsSreg { s.dev with free := s.dev.free + 1 } c w.aD fun _ => (freeW s.dev).1⟩

theorem execNop_eq (c : Nat) (u : BitVec 64) (s : State) :
    execNop c u s = onDev s fun d => issue d c (u.setWidth 56) .scalar fun _ =>
      if reservedOpcode (bits u.toNat 63 56) || !aPlain (u.setWidth 56) then illegal d c .scalar
      else complete d c id := rfl

theorem completes_nop {s : State} {c : Nat} {w : TWord} {u : BitVec 64} (h : Issues s c w .scalar)
    (hu : u.setWidth 56 = w) (ho : reservedOpcode (bits u.toNat 63 56) = false) (hw : aPlain w = true) :
    Completes (.nop c u) s fun d => d = complete s.dev c id := by
  subst hu
  refine completes_issue (execNop c u) h rfl (execNop_eq c u s) ?_
  simp [ho, hw]

theorem completes_addi {s : State} {c : Nat} {w : TWord} (h : Issues s c w .scalar) :
    Completes (.addi c w) s fun d => SetsSreg s.dev d c w.bD ((ctxAt s.dev c).sreg w.bS1 + w.bImm) :=
  completes_issue (execAddi c w) h rfl rfl (complete_setsSreg s.dev c w.bD fun x => x.sreg w.bS1 + w.bImm)

theorem completes_movi {s : State} {c : Nat} {w : TWord} (h : Issues s c w .scalar) :
    Completes (.movi c w) s fun d =>
      if w.bMod % 2 = 0 then SetsSreg s.dev d c w.bD w.bImm
      else ∃ v : Word, SetsSreg s.dev d c w.bD v ∧ wbits v 63 32 = w.bImmRaw ∧
        wbits v 31 0 = wbits ((ctxAt s.dev c).sreg w.bD) 31 0 := by
  refine completes_issue (execMovi c w) h rfl rfl ?_
  have hs := complete_setsSreg s.dev c w.bD fun x =>
    if w.bMod % 2 = 0 then w.bImm else wsetBits (x.sreg w.bD) 63 32 w.bImmRaw
  by_cases hm : w.bMod % 2 = 0
  · simpa only [hm, if_true] using hs
  · simp only [hm, if_false] at hs ⊢
    refine ⟨_, hs, ?_, wbits_wsetBits_ne _ _ _ _ _ _ (by omega) (by omega)⟩
    rw [wbits_wsetBits_same _ _ _ _ (by omega)]
    exact Nat.mod_eq_of_lt (bits_lt _ _ _)

/-! ### Comparisons -/

/-- What each of the six conditions holds of two values (Table TIL-4). -/
def conditions (a b : Word) : List Bool :=
  [a == b, a != b, decide (a.toInt < b.toInt), decide (b.toInt ≤ a.toInt), decide (a.toNat < b.toNat),
    decide (b.toNat ≤ a.toNat)]

theorem condScalar_eq (n : Nat) (a b : Word) : condScalar n a b = (conditions a b)[n]? := by
  have hs : (!BitVec.slt a b) = decide (b.toInt ≤ a.toInt) := by
    rw [BitVec.slt_eq_decide, ← decide_not]; simp
  have hu : (!BitVec.ult a b) = decide (b.toNat ≤ a.toNat) := by
    rw [BitVec.ult_eq_decide, ← decide_not]; simp
  match n with
  | 0 | 1 => rfl
  | 2 => simp [condScalar, conditions, BitVec.slt_eq_decide]
  | 3 => simp [condScalar, conditions, hs]
  | 4 => simp [condScalar, conditions, BitVec.ult_eq_decide]
  | 5 => simp [condScalar, conditions, hu]
  | n + 6 => simp [condScalar, conditions]

/-- What a comparison with outcome `o`, none for a reserved condition, leaves. -/
def Compares (d d' : Dev) (c i : Nat) (o : Option Bool) : Prop :=
  match o with
  | some b => SetsPred d d' c i b
  | none => Settled d c → FaultsAt d d' c 0x0401 .scalar 0

theorem completes_cmp {s : State} {c : Nat} {w : TWord} (h : Issues s c w .scalar) (hr : w.aRes = true)
    (hn : w.aRnd ≤ 4) : Completes (.cmp c w) s fun d => Compares s.dev d c (w.aD % 8)
      (conditions ((ctxAt s.dev c).sreg w.aS1) ((ctxAt s.dev c).sreg w.aS2))[w.aFmt]? := by
  refine completes_issue (execCmp c w) h rfl rfl ?_
  simp only [condScalar_eq, hr, hn, decide_true, Bool.and_true]
  cases (conditions ((ctxAt s.dev c).sreg w.aS1) ((ctxAt s.dev c).sreg w.aS2))[w.aFmt]? with
  | some b => exact complete_setsPred _ _ _ _
  | none => exact fun hs => faultCtx_faults hs

theorem completes_cmpi {s : State} {c : Nat} {w : TWord} (h : Issues s c w .scalar) :
    Completes (.cmpi c w) s fun d => Compares s.dev d c (w.bD % 8)
      (conditions ((ctxAt s.dev c).sreg w.bS1) w.bImm)[w.bMod % 16]? := by
  refine completes_issue (execCmpi c w) h rfl rfl ?_
  simp only [condScalar_eq]
  cases (conditions ((ctxAt s.dev c).sreg w.bS1) w.bImm)[w.bMod % 16]? with
  | some b => exact complete_setsPred _ _ _ _
  | none => exact fun hs => faultCtx_faults hs

/-- Settles O1, one lemma for the two-operand instructions, one for the shifts and one for each of the others. -/
theorem scalarAluResults : Obligations.ScalarAluResults := by
  unfold Obligations.ScalarAluResults
  refine ⟨fun s c w h hw => ?_, fun s c w h hw => ?_, fun s c w h => ⟨fun u hu ho hw => ?_, ?_, ?_⟩,
    fun s c w h => ⟨fun hr hn => ?_, ?_⟩⟩
  · simp only [List.forall_mem_cons]
    exact ⟨completes_aluA h hw rfl, completes_aluA h hw rfl, completes_aluA h hw rfl, completes_aluA h hw rfl,
      completes_aluA h hw rfl, completes_aluA h hw rfl, List.forall_mem_nil _⟩
  · simp only [List.forall_mem_cons]
    exact ⟨completes_shiftA h hw rfl, completes_shiftA h hw rfl, completes_shiftA h hw rfl, List.forall_mem_nil _⟩
  · obtain ⟨t, ht, hp, hf, hd⟩ := completes_nop h hu ho hw
    exact ⟨t, ht, hp, hf, hd ▸ complete_movesOn _ _⟩
  · exact completes_addi h
  · exact completes_movi h
  · exact completes_cmp h hr hn
  · exact completes_cmpi h

/-! ### Control flow -/

theorem updCtx_onlyCtx (d : Dev) (c : Nat) (f : Ctx → Ctx) : OnlyCtx d (updCtx d c f) c := by
  simp [OnlyCtx, updCtx]

theorem loopNext_of_ne {n : Nat} {ls : List Loop} (h : ∀ l ∈ ls, l.stop ≠ n) : loopNext n ls = (n, ls) := by
  cases ls with
  | nil => rfl
  | cons l ls => simp [loopNext, Ne.symm (h l (by simp))]

/-- A jump outside the end of every loop body goes to its target and keeps the loops. -/
theorem goto_of_ne {x : Ctx} {n : Nat} (h : ∀ l ∈ x.loops, l.stop ≠ n % 2 ^ 48) :
    x.goto n = { x with pc := n % 2 ^ 48 } := by
  simp only [Ctx.goto, loopNext_of_ne h]

theorem branchTo_mod (pc : Nat) (off : Int) : branchTo pc off % 2 ^ 48 = branchTo pc off :=
  Nat.mod_eq_of_lt (wrapN_lt _ _)

theorem completes_br {s : State} {c : Nat} {w : TWord} (h : Issues s c w .scalar)
    (hl : ∀ l ∈ (ctxAt s.dev c).loops, l.stop ≠ branchTo (ctxAt s.dev c).pc w.cOff) :
    Completes (.br c w) s fun d => OnlyCtx s.dev d c ∧
      ctxAt d c = { ctxAt s.dev c with pc := branchTo (ctxAt s.dev c).pc w.cOff, wait := .none } := by
  refine completes_issue (execBr c w) h rfl rfl ⟨updCtx_onlyCtx _ _ _, ?_⟩
  rw [ctxAt_updCtx, goto_of_ne (by rwa [branchTo_mod]), branchTo_mod]

theorem completes_call {s : State} {c : Nat} {w : TWord} (h : Issues s c w .scalar)
    (hl : ∀ l ∈ (ctxAt s.dev c).loops, l.stop ≠ branchTo (ctxAt s.dev c).pc w.cOff) :
    Completes (.call c w) s fun d => OnlyCtx s.dev d c ∧
      (∀ j, (ctxAt d c).sreg j = if j = 31 then toW ((ctxAt s.dev c).pc + 8) else (ctxAt s.dev c).sreg j) ∧
      ctxAt d c = { ctxAt s.dev c with
        sregs := (ctxAt d c).sregs, pc := branchTo (ctxAt s.dev c).pc w.cOff, wait := .none } := by
  refine completes_issue (execCall c w) h rfl rfl ⟨updCtx_onlyCtx _ _ _, fun j => ?_, ?_⟩ <;> rw [ctxAt_updCtx]
  · refine (setSreg_sreg _ 31 j _).trans ?_
    by_cases hj : j = 31 <;> simp [hj]
  · rw [setSreg_frame, goto_of_ne (by rwa [branchTo_mod]), branchTo_mod]

theorem completes_ret {s : State} {c : Nat} {w : TWord} (h : Issues s c w .scalar)
    (hl : ∀ l ∈ (ctxAt s.dev c).loops, l.stop ≠ ((ctxAt s.dev c).sreg 31).toNat / 8 * 8 % 2 ^ 48) :
    Completes (.ret c w) s fun d => OnlyCtx s.dev d c ∧ ctxAt d c =
      { ctxAt s.dev c with pc := ((ctxAt s.dev c).sreg 31).toNat / 8 * 8 % 2 ^ 48, wait := .none } := by
  refine completes_issue (execRet c w) h rfl rfl ⟨updCtx_onlyCtx _ _ _, ?_⟩
  rw [ctxAt_updCtx, alignDown, goto_of_ne hl]

/-- A body of at least one instruction ends past its start. -/
theorem branchTo_ne_start {pc : Nat} {off : Int} (h1 : 1 ≤ off) (h2 : off < 2 ^ 31) :
    branchTo pc off ≠ pc % 2 ^ 48 := by
  unfold branchTo wrapN
  omega

theorem cOff_lt (w : TWord) : w.cOff < 2 ^ 31 := by
  unfold TWord.cOff sext
  extract_lets u
  split <;> omega

theorem completes_loop {s : State} {c : Nat} {w : TWord} (h : Issues s c w .scalar) (h1 : 1 ≤ w.cOff)
    (h2 : (ctxAt s.dev c).loops.length < 2) :
    let x := ctxAt s.dev c
    let stop := branchTo (x.pc + 8) w.cOff
    let n := (x.sreg w.cS1).toNat
    (n = 0 → (∀ l ∈ x.loops, l.stop ≠ stop) →
      Completes (.loop c w) s fun d => OnlyCtx s.dev d c ∧ ctxAt d c = { x with pc := stop, wait := .none }) ∧
    (n ≠ 0 → Completes (.loop c w) s fun d => OnlyCtx s.dev d c ∧
      ctxAt d c = { x with
        pc := (x.pc + 8) % 2 ^ 48, loops := ⟨x.pc + 8, stop, n⟩ :: x.loops, wait := .none }) := by
  intro x stop n
  have hok : ¬ (w.cOff < 1 ∨ 2 ≤ (ctxAt s.dev c).loops.length) := by omega
  refine ⟨fun hn hl => completes_issue (execLoop c w) h rfl rfl ?_,
    fun hn => completes_issue (execLoop c w) h rfl rfl ?_⟩ <;> rw [if_neg hok]
  · rw [if_pos hn]
    refine ⟨updCtx_onlyCtx _ _ _, ?_⟩
    rw [ctxAt_updCtx, goto_of_ne (by rwa [branchTo_mod]), branchTo_mod]
  · rw [if_neg hn]
    refine ⟨complete_onlyCtx _ _ _, ?_⟩
    have hne := branchTo_ne_start (pc := (ctxAt s.dev c).pc + 8) h1 (cOff_lt w)
    rw [ctxAt_complete]
    simp only [Ctx.advance, Ctx.goto, loopNext, if_neg (Ne.symm hne)]
    rfl

/-- The instruction at the end of the innermost loop body: the next pass starts, or the loop is left. -/
theorem loopNext_at_end {l : Loop} {ls : List Loop} :
    (1 < l.left → loopNext l.stop (l :: ls) = (l.start, { l with left := l.left - 1 } :: ls)) ∧
    (l.left ≤ 1 → (∀ m ∈ ls, m.stop ≠ l.stop) → loopNext l.stop (l :: ls) = (l.stop, ls)) := by
  refine ⟨fun h => by simp [loopNext, h], fun h hs => ?_⟩
  rw [loopNext, if_pos rfl, if_neg (by omega), loopNext_of_ne hs]

theorem ctxAt_complete_id (d : Dev) (c : Nat) : ctxAt (complete d c id) c = { ctxAt d c with
    pc := (loopNext (((ctxAt d c).pc + 8) % 2 ^ 48) (ctxAt d c).loops).1
    loops := (loopNext (((ctxAt d c).pc + 8) % 2 ^ 48) (ctxAt d c).loops).2
    wait := .none } := ctxAt_complete d c id

/-- Settles O2: each control instruction by its own lemma, the end of a body by what `loopNext` does there. -/
theorem controlFlowResults : Obligations.ControlFlowResults := by
  unfold Obligations.ControlFlowResults
  refine ⟨fun s c w h => ⟨fun hl => ⟨completes_br h hl, completes_call h hl⟩, fun hl => completes_ret h hl,
    fun h1 h2 => completes_loop h h1 h2⟩, fun s c w l ls h hw hloops hstop => ?_⟩
  have hu : (w.setWidth 64).setWidth 56 = w := by simp
  have ho : reservedOpcode (bits (w.setWidth 64).toNat 63 56) = false := by
    have : w.toNat < 2 ^ 56 := w.isLt
    rw [BitVec.toNat_setWidth_of_le (by decide)]
    simp only [bits, Nat.div_eq_of_lt this, Nat.zero_mod]
    rfl
  obtain ⟨t, ht, hp, hf, hd⟩ := completes_nop h hu ho hw
  have hx := ctxAt_complete_id s.dev c
  rw [← hd, ← hstop, hloops] at hx
  have hc : OnlyCtx s.dev t.dev c := hd ▸ complete_onlyCtx _ _ _
  refine ⟨fun hl => ⟨t, ht, hp, hf, hc, ?_⟩, fun hl hs => ⟨t, ht, hp, hf, hc, ?_⟩⟩
  · rw [hx, loopNext_at_end.1 hl]
  · rw [hx, loopNext_at_end.2 hl hs]

/-! ### A false predicate (R53) -/

/-- An instruction of meaning `m` that goes through `issue`, with a false predicate or in a context that cannot
issue. -/
theorem without_effect {i : Instr} {s : State} {c : Nat} {w : TWord} {e : Eng} {body : Dev → Ctx → Dev}
    (hl : Live s) (m : State → Host.Outcome State Fault Refusal) (hi : exec i s = m s)
    (hm : m s = onDev s fun d => issue d c w e (body d)) :
    (canIssue s.dev c = true → (ctxAt s.dev c).executes w = false → Completes i s fun d => MovesOn s.dev d c) ∧
    (canIssue s.dev c = false → exec i s = .next s) := by
  refine ⟨fun hc hx => completes_onDev hl (hi.trans hm) ?_, fun hc => ?_⟩
  · simpa only [issue, hc, hx, Bool.not_false, if_true] using complete_movesOn s.dev c
  · have hlive : s.dev.live = true := hl
    rw [hi, hm]
    simp only [onDev, hlive, issue, hc, if_true, Bool.false_eq_true, if_false]

/-- Settles O3: every tile instruction goes through `issue`, which tests the predicate before anything else. -/
theorem notExecutedHasNoEffect : Obligations.NotExecutedHasNoEffect := by
  unfold Obligations.NotExecutedHasNoEffect
  intro s c w hl sram units op chip sem target amount
  have hu : (w.setWidth 64).setWidth 56 = w := by simp
  simp only [List.forall_mem_cons]
  exact ⟨without_effect hl (execNop c (w.setWidth 64)) rfl ((execNop_eq _ _ _).trans (by rw [hu])),
    without_effect hl (execAdd c w) rfl rfl, without_effect hl (execSub c w) rfl rfl,
    without_effect hl (execMul c w) rfl rfl, without_effect hl (execAnd c w) rfl rfl,
    without_effect hl (execOr c w) rfl rfl, without_effect hl (execXor c w) rfl rfl,
    without_effect hl (execShl c w) rfl rfl, without_effect hl (execShr c w) rfl rfl,
    without_effect hl (execSra c w) rfl rfl, without_effect hl (execCmp c w) rfl rfl,
    without_effect hl (execAddi c w) rfl rfl, without_effect hl (execMovi c w) rfl rfl,
    without_effect hl (execCmpi c w) rfl rfl, without_effect hl (execLd c w) rfl rfl,
    without_effect hl (execLdu c w) rfl rfl, without_effect hl (execSt c w) rfl rfl,
    without_effect hl (execL1inv c w) rfl rfl, without_effect hl (execLds c w) rfl rfl,
    without_effect hl (execSts c w) rfl rfl, without_effect hl (execAadd c w) rfl rfl,
    without_effect hl (execBr c w) rfl rfl, without_effect hl (execCall c w) rfl rfl,
    without_effect hl (execRet c w) rfl rfl, without_effect hl (execLoop c w) rfl rfl,
    without_effect hl (execExit c w) rfl rfl, without_effect hl (execSemwait c w) rfl rfl,
    without_effect hl (execSemsig c w) rfl rfl, without_effect hl (execBarrier c w) rfl rfl,
    without_effect hl (execFence c w) rfl rfl, without_effect hl (execRingwait c w) rfl rfl,
    without_effect hl (execRingrel c w) rfl rfl, without_effect hl (execItstart c w) rfl rfl,
    without_effect hl (execItstop c w) rfl rfl, without_effect hl (execItstat c w) rfl rfl,
    without_effect hl (execMma c w) rfl rfl, without_effect hl (execMdrain c w) rfl rfl,
    without_effect hl (execMzero c w) rfl rfl, without_effect hl (execMread c w) rfl rfl,
    without_effect hl (execMwrite c w) rfl rfl, without_effect hl (execVadd c w) rfl rfl,
    without_effect hl (execVsub c w) rfl rfl, without_effect hl (execVmul c w) rfl rfl,
    without_effect hl (execVfma c w) rfl rfl, without_effect hl (execVmax c w) rfl rfl,
    without_effect hl (execVmin c w) rfl rfl, without_effect hl (execVcmp c w) rfl rfl,
    without_effect hl (execVsel c w) rfl rfl, without_effect hl (execVrsum c w) rfl rfl,
    without_effect hl (execVrmax c w) rfl rfl, without_effect hl (execVamax c w) rfl rfl,
    without_effect hl (execVld c w) rfl rfl, without_effect hl (execVst c w) rfl rfl,
    without_effect hl (execVbcast c w) rfl rfl, without_effect hl (execVperm c w) rfl rfl,
    without_effect hl (execSexp c w) rfl rfl, without_effect hl (execSlog c w) rfl rfl,
    without_effect hl (execSrcp c w) rfl rfl, without_effect hl (execSrsq c w) rfl rfl,
    without_effect hl (execSprog c w) rfl rfl, without_effect hl (execDchain c w) rfl rfl,
    without_effect hl (execCvt c w) rfl rfl, without_effect hl (execCvtmx c w) rfl rfl,
    without_effect hl (execEnq c w) rfl rfl, without_effect hl (execSignboardScan c w) rfl rfl,
    without_effect hl (execRput c w sram units target) rfl rfl,
    without_effect hl (execRacc c w sram units target op) rfl rfl,
    without_effect hl (execRsig c w chip sem amount) rfl rfl, List.forall_mem_nil _⟩

/-! ### Illegal scalar words (R51, R54) -/

/-- ILLEGAL_INSTRUCTION at the scalar engine: at once where nothing is on its way, else pending. -/
theorem illegal_scalar (d : Dev) (c : Nat) :
    (Settled d c → FaultsAt d (illegal d c .scalar) c 0x0401 .scalar 0) ∧
    ((ctxAt d c).writesOut ≠ [] ∨ (ctxAt d c).remoteOut ≠ [] → (ctxAt d c).pend = none → mmaBusy d c = false →
      OnlyCtx d (illegal d c .scalar) c ∧ ctxAt (illegal d c .scalar) c = { ctxAt d c with
        wait := .fault, pend := some ⟨none, 0x0401, (ctxAt d c).pc, 0, Eng.code .scalar⟩ }) := by
  refine ⟨fun h => faultCtx_faults h, fun ho hp hb => ?_⟩
  have hn : ¬ ((ctxAt d c).writesOut = [] ∧ (ctxAt d c).remoteOut = []) := by tauto
  have he : illegal d c .scalar = setCtx d c { ctxAt d c with
      wait := .fault, pend := some ⟨none, 0x0401, (ctxAt d c).pc, 0, Eng.code .scalar⟩ } := by
    rw [illegal, faultCtx, faultOn_raises hb hp]
    simp only [settleFault, ctxAt_setCtx, if_neg hn]
    rfl
  rw [he]
  simp [OnlyCtx]

theorem completes_aluA_illegal {i : Instr} {s : State} {c : Nat} {w : TWord} {op : Word → Word → Word}
    (h : Issues s c w .scalar) (hw : aPlain w = false) (hi : exec i s = onDev s (aluA c w op)) :
    Completes i s fun d => d = illegal s.dev c .scalar := by
  refine completes_issue (fun s => onDev s (aluA c w op)) h hi rfl ?_
  simp [hw]

theorem completes_shiftA_illegal {i : Instr} {s : State} {c : Nat} {w : TWord} {op : Word → Nat → Word}
    (h : Issues s c w .scalar) (hw : aPlain w = false) (hi : exec i s = onDev s (shiftA c w op)) :
    Completes i s fun d => d = illegal s.dev c .scalar := by
  refine completes_issue (fun s => onDev s (shiftA c w op)) h hi rfl ?_
  simp [hw]

theorem completes_nop_illegal {s : State} {c : Nat} {w : TWord} {u : BitVec 64} (h : Issues s c w .scalar)
    (hu : u.setWidth 56 = w) (hw : aPlain w = false ∨ reservedOpcode (bits u.toNat 63 56) = true) :
    Completes (.nop c u) s fun d => d = illegal s.dev c .scalar := by
  subst hu
  refine completes_issue (execNop c u) h rfl (execNop_eq c u s) ?_
  have : (reservedOpcode (bits u.toNat 63 56) || !aPlain (u.setWidth 56)) = true := by
    rcases hw with h | h <;> simp [h]
  rw [if_pos this]

theorem completes_scalar_illegal {s : State} {c : Nat} {w : TWord} {u : BitVec 64} (h : Issues s c w .scalar)
    (hu : u.setWidth 56 = w) {i : Instr}
    (hi : i ∈ [Instr.nop c u, .add c w, .sub c w, .mul c w, .and c w, .or c w, .xor c w, .shl c w, .shr c w, .sra c w])
    (hw : aPlain w = false ∨ i = .nop c u ∧ reservedOpcode (bits u.toNat 63 56) = true) :
    Completes i s fun d => d = illegal s.dev c .scalar := by
  rcases hw with hw | ⟨rfl, ho⟩
  · revert i
    simp only [List.forall_mem_cons]
    exact ⟨completes_nop_illegal h hu (.inl hw), completes_aluA_illegal h hw rfl, completes_aluA_illegal h hw rfl,
      completes_aluA_illegal h hw rfl, completes_aluA_illegal h hw rfl, completes_aluA_illegal h hw rfl,
      completes_aluA_illegal h hw rfl, completes_shiftA_illegal h hw rfl, completes_shiftA_illegal h hw rfl,
      completes_shiftA_illegal h hw rfl, List.forall_mem_nil _⟩
  · exact completes_nop_illegal h hu (.inr ho)

theorem Completes.imp {i : Instr} {s : State} {P Q : Dev → Prop} (h : Completes i s P) (hpq : ∀ d, P d → Q d) :
    Completes i s Q := by
  obtain ⟨t, ht, hp, hf, hd⟩ := h
  exact ⟨t, ht, hp, hf, hpq _ hd⟩

/-- Settles O6: each of the instructions becomes `illegal` at the scalar engine, which is precise. -/
theorem faultIsPrecise : Obligations.FaultIsPrecise := by
  unfold Obligations.FaultIsPrecise
  intro s c w u h hu x i hi hw
  have hc := completes_scalar_illegal h hu hi hw
  obtain ⟨hnow, hlater⟩ := illegal_scalar s.dev c
  exact ⟨fun hs => hc.imp fun d hd => hd ▸ hnow hs, fun ho hp hb => hc.imp fun d hd => hd ▸ hlater ho hp hb⟩

end Sys2Proof.Machine
end

section
/-!
PROOF. Scalar memory: loads, stores and AADD through translation, and L1INV (R29, R30, R52, R464): O4.
-/

namespace Sys2Proof.Machine

theorem scalarAddr_aligned {d : Dev} {c : Nat} {w : TWord} {k : Nat → Dev}
    (h : ((ctxAt d c).sreg w.bS1 + w.bImm).toNat % 8 = 0) :
    scalarAddr d c w k = k ((ctxAt d c).sreg w.bS1 + w.bImm).toNat := by
  simp only [scalarAddr, h, ne_eq, not_true_eq_false, if_false]

theorem scalarAddr_misaligned {d : Dev} {c : Nat} {w : TWord} {k : Nat → Dev}
    (h : ((ctxAt d c).sreg w.bS1 + w.bImm).toNat % 8 ≠ 0) :
    scalarAddr d c w k = faultCtx d c stMisaligned .mem ((ctxAt d c).sreg w.bS1 + w.bImm).toNat := by
  simp only [scalarAddr, if_pos h]

theorem ended_ok {α : Type} {d0 d : Dev} {c : Nat} {e : Eng} {r : Except Stop α × Dev} {a : α} {k : α → Dev → Dev}
    (h : r = (.ok a, d)) : ended d0 c e r k = k a d := by
  rw [h]; rfl

/-- An access that answers answers the same at its virtual address. -/
theorem atVirtual_ok {α : Type} {va : Nat} {a : Act α} {d d' : Dev} {v : α} (h : a.go d = (.ok v, d')) :
    (atVirtual va a).go d = (.ok v, d') := by
  unfold atVirtual
  rw [go_tryCatch, h]

/-- Every scalar memory instruction checks its address first (R464). -/
theorem misaligned_faults {s : State} {c : Nat} {w : TWord} (h : Issues s c w .mem)
    (ha : ((ctxAt s.dev c).sreg w.bS1 + w.bImm).toNat % 8 ≠ 0) (hs : Settled s.dev c) :
    ∀ i ∈ [Instr.ld c w, .ldu c w, .st c w, .aadd c w, .lds c w, .sts c w], Completes i s fun d =>
      FaultsAt s.dev d c 0x0415 .mem ((ctxAt s.dev c).sreg w.bS1 + w.bImm).toNat := by
  have hf : ∀ k, FaultsAt s.dev (scalarAddr s.dev c w k) c 0x0415 .mem
      ((ctxAt s.dev c).sreg w.bS1 + w.bImm).toNat := fun k => by
    rw [scalarAddr_misaligned ha]
    exact faultCtx_faults hs
  simp only [List.forall_mem_cons]
  exact ⟨completes_issue (execLd c w) h rfl rfl (hf _), completes_issue (execLdu c w) h rfl rfl (hf _),
    completes_issue (execSt c w) h rfl rfl (hf _), completes_issue (execAadd c w) h rfl rfl (hf _),
    completes_issue (execLds c w) h rfl rfl (hf _), completes_issue (execSts c w) h rfl rfl (hf _),
    List.forall_mem_nil _⟩

/-! ### Loads -/

section Loads

variable {d0 d1 d2 : Dev} {c va dst pa q : Nat} {coh : Bool} {bs : List Byte}

theorem loadAt_l1 (ht : (translate (ctxSpace d0 c) va false).go d0 = (.ok (pa, coh), d1))
    (hr : regionOf pa = .dram q) (hl : (l1Read (tileOf c) (ctxAt d0 c).asid va pa).go d1 = (.ok bs, d2)) :
    loadAt d0 c va dst true = complete d2 c fun x => x.setSreg dst (toW (leAt bs (va % 64) 8)) := by
  rw [loadAt, ended_ok ht]
  simp only [hr]
  exact ended_ok hl

theorem loadAt_dram (ht : (translate (ctxSpace d0 c) va false).go d0 = (.ok (pa, coh), d1))
    (hr : regionOf pa = .dram q) (hl : (atVirtual va (readLine (alignDown 64 pa) coh)).go d1 = (.ok bs, d2)) :
    loadAt d0 c va dst false = complete d2 c fun x => x.setSreg dst (toW (leAt bs (va % 64) 8)) := by
  rw [loadAt, ended_ok ht]
  simp only [hr]
  exact ended_ok hl

theorem loadAt_window (l1 : Bool) (ht : (translate (ctxSpace d0 c) va false).go d0 = (.ok (pa, coh), d1))
    (hr : regionOf pa = .window) (hl : (atVirtual va (readLine (alignDown 64 pa) coh)).go d1 = (.ok bs, d2)) :
    loadAt d0 c va dst l1 = complete d2 c fun x => x.setSreg dst (toW (leAt bs (va % 64) 8)) := by
  rw [loadAt, ended_ok ht]
  simp only [hr, ne_eq, not_true_eq_false, and_false, if_false]
  exact ended_ok hl

theorem loadAt_doorbell (l1 : Bool) (ht : (translate (ctxSpace d0 c) va false).go d0 = (.ok (pa, coh), d1))
    (hr : regionOf pa = .doorbell q) (hd : doorbellDenied d1 (ctxAt d0 c).asid pa = false) :
    loadAt d0 c va dst l1 = complete d1 c fun x => x.setSreg dst (readDoorbell d1 pa) := by
  rw [loadAt, ended_ok ht]
  simp only [hr, hd, Bool.false_eq_true, if_false]

end Loads

theorem completes_ld {s : State} {c : Nat} {w : TWord} {P : Dev → Prop} (h : Issues s c w .mem)
    (ha : ((ctxAt s.dev c).sreg w.bS1 + w.bImm).toNat % 8 = 0)
    (hp : P (loadAt s.dev c ((ctxAt s.dev c).sreg w.bS1 + w.bImm).toNat w.bD true)) : Completes (.ld c w) s P :=
  completes_issue (execLd c w) h rfl rfl (by rwa [scalarAddr_aligned ha])

theorem completes_ldu {s : State} {c : Nat} {w : TWord} {P : Dev → Prop} (h : Issues s c w .mem)
    (ha : ((ctxAt s.dev c).sreg w.bS1 + w.bImm).toNat % 8 = 0)
    (hp : P (loadAt s.dev c ((ctxAt s.dev c).sreg w.bS1 + w.bImm).toNat w.bD false)) : Completes (.ldu c w) s P :=
  completes_issue (execLdu c w) h rfl rfl (by rwa [scalarAddr_aligned ha])

/-! ### Stores -/

section Stores

variable {d0 d1 d2 : Dev} {c va pa q : Nat} {coh : Bool} {v : Word}

theorem storeAt_memory (ht : (translate (ctxSpace d0 c) va true).go d0 = (.ok (pa, coh), d1))
    (hr : regionOf pa = .dram q ∨ regionOf pa = .window)
    (hw : (atVirtual va (writePhys .software pa (leBytes 8 v.toNat) coh)).go d1 = (.ok (), d2)) :
    storeAt d0 c va v =
      complete (l1Update (ownWrites d2 c va) (tileOf c) (ctxAt d0 c).asid va (leBytes 8 v.toNat)) c id := by
  rw [storeAt, ended_ok ht]
  rcases hr with hr | hr <;> simp only [hr] <;> exact ended_ok hw

theorem storeAt_doorbell (ht : (translate (ctxSpace d0 c) va true).go d0 = (.ok (pa, coh), d1))
    (hr : regionOf pa = .doorbell q) (hd : doorbellDenied d1 (ctxAt d0 c).asid pa = false) :
    storeAt d0 c va v = complete (writeDoorbell d1 pa v) c id := by
  rw [storeAt, ended_ok ht]
  simp only [hr, hd, Bool.false_eq_true, if_false]

theorem addAt_dram {dst : Nat} {bs : List Byte} {dr : Dev}
    (ht : (translate (ctxSpace d0 c) va true).go d0 = (.ok (pa, coh), d1)) (hr : regionOf pa = .dram q)
    (hb : (readPhys pa 8).go d1 = (.ok bs, dr))
    (hw : (writePhys .software pa (leBytes 8 (leNat bs + v.toNat))).go dr = (.ok (), d2)) :
    addAt d0 c va dst v =
      complete (l1Update d2 (tileOf c) (ctxAt d0 c).asid va (leBytes 8 (leNat bs + v.toNat))) c
        fun x => x.setSreg dst (toW (leNat bs)) := by
  rw [addAt, ended_ok ht]
  simp only [hr]
  refine ended_ok (atVirtual_ok ?_)
  rw [go_bind, hb]
  dsimp only
  rw [go_bind, hw]
  rfl

end Stores

theorem completes_st {s : State} {c : Nat} {w : TWord} {P : Dev → Prop} (h : Issues s c w .mem)
    (ha : ((ctxAt s.dev c).sreg w.bS1 + w.bImm).toNat % 8 = 0)
    (hp : P (storeAt s.dev c ((ctxAt s.dev c).sreg w.bS1 + w.bImm).toNat ((ctxAt s.dev c).sreg w.bD))) :
    Completes (.st c w) s P :=
  completes_issue (execSt c w) h rfl rfl (by rwa [scalarAddr_aligned ha])

theorem completes_aadd {s : State} {c : Nat} {w : TWord} {P : Dev → Prop} (h : Issues s c w .mem)
    (ha : ((ctxAt s.dev c).sreg w.bS1 + w.bImm).toNat % 8 = 0)
    (hp : P (addAt s.dev c ((ctxAt s.dev c).sreg w.bS1 + w.bImm).toNat w.bD ((ctxAt s.dev c).sreg w.bD))) :
    Completes (.aadd c w) s P :=
  completes_issue (execAadd c w) h rfl rfl (by rwa [scalarAddr_aligned ha])

/-! ### L1INV -/

theorem mem_l1Inval (d : Dev) (t asid : Nat) (e : Nat × Nat × Nat × List Byte) :
    e ∈ (l1Inval d t asid).tiles.l1 ↔ e ∈ d.tiles.l1 ∧ ¬ (e.1 = t ∧ e.2.1 = asid) := by
  simp [l1Inval, imp_iff_not_or]

theorem completes_l1inv {s : State} {c : Nat} {w : TWord} (h : Issues s c w .mem) :
    Completes (.l1inv c w) s fun d => ∃ l : List (Nat × Nat × Nat × List Byte),
      MovesOn { s.dev with tiles.l1 := l } d c ∧
      (∀ e, e ∈ d.tiles.l1 ↔ e ∈ s.dev.tiles.l1 ∧ ¬ (e.1 = tileOf c ∧ e.2.1 = (ctxAt s.dev c).asid)) :=
  completes_issue (execL1inv c w) h rfl rfl
    ⟨(l1Inval s.dev (tileOf c) (ctxAt s.dev c).asid).tiles.l1,
      complete_movesOn (l1Inval s.dev (tileOf c) (ctxAt s.dev c).asid) c, fun e => mem_l1Inval _ _ _ e⟩

/-- Settles O4: by the region the address translates to. -/
theorem scalarMemoryResults : Obligations.ScalarMemoryResults := by
  unfold Obligations.ScalarMemoryResults
  refine ⟨fun s c w h => ⟨fun ha hs => misaligned_faults h ha hs, fun ha pa q coh d1 ht => ⟨fun d2 bs => ⟨?_, ?_⟩, ?_⟩⟩,
    fun s c w h => ?_, fun s c w h => completes_l1inv h⟩
  · intro hr hl
    refine completes_ld h ha ?_
    rw [loadAt_l1 ht hr hl]
    exact complete_setsSreg _ _ _ _
  · refine fun hl => ⟨fun hr => completes_ldu h ha ?_, fun hr => completes_ld h ha ?_⟩
    · rcases hr with hr | hr
      · rw [loadAt_dram ht hr hl]
        exact complete_setsSreg _ _ _ _
      · rw [loadAt_window _ ht hr hl]
        exact complete_setsSreg _ _ _ _
    · rw [loadAt_window _ ht hr hl]
      exact complete_setsSreg _ _ _ _
  · intro hr hd
    simp only [List.forall_mem_cons]
    refine ⟨completes_ld h ha ?_, completes_ldu h ha ?_, List.forall_mem_nil _⟩ <;>
    · rw [loadAt_doorbell _ ht hr hd]
      exact complete_setsSreg _ _ _ _
  · intro x a v ha pa q coh d1 d2 ht
    refine ⟨fun hr hw => completes_st h ha ?_, fun hr hd => completes_st h ha ?_,
      fun hr bs dr hb hw => completes_aadd h ha ?_⟩
    · rw [storeAt_memory ht hr hw]
      exact complete_movesOn _ _
    · rw [storeAt_doorbell ht hr hd]
      exact complete_movesOn _ _
    · rw [addAt_dram ht hr hb hw]
      exact complete_setsSreg _ _ _ _

end Sys2Proof.Machine
end

section
/-!
PROOF. Tile SRAM: what a write by a context's engine leaves (R47, R73), what a read may see (R47), and the parity
check before a read (R73). LDS, STS, VLD and VST: O5.
-/

namespace Sys2Proof.Machine

/-! ### Contexts that run -/

theorem running_of_issues {s : State} {c : Nat} {w : TWord} {e : Eng} (h : Issues s c w e) :
    (ctxAt s.dev c).state = .running := by
  obtain ⟨-, hc, -⟩ := h
  simp only [canIssue, Bool.and_eq_true, beq_iff_eq] at hc
  exact hc.1.1.1.1.2

theorem ne_reset_of_running {x : Ctx} (h : x.state = .running) : x ≠ Ctx.reset := by
  rintro rfl
  cases h

theorem complete_setCtx {x : Ctx} (hx : x ≠ Ctx.reset) (d : Dev) (c : Nat) :
    complete (setCtx d c x) c id = setCtx d c { x.advance with wait := .none } := by
  simp only [complete, updCtx, ctxAt_setCtx, setCtx_setCtx hx, id]

theorem complete_setsVreg (d : Dev) (c i : Nat) (v : VReg) (fl : Flags) :
    SetsVreg d (complete d c fun x => (x.setVreg i v).addFlags fl) c i v fl := by
  refine ⟨complete_onlyCtx _ _ _, ?_, ?_, fun j hj => ?_, ?_⟩ <;> rw [ctxAt_complete]
  · exact advance_nextPc rfl rfl
  · exact setVreg_vreg _ _ _
  · exact setVreg_vreg_ne _ _ _ _ hj
  · rfl

theorem Flags.or_none (f : Flags) : f.or {} = f := by
  cases f; simp [Flags.or]

/-- Writing a register with no flag raised. -/
theorem complete_setsVreg_quiet (d : Dev) (c i : Nat) (v : VReg) :
    SetsVreg d (complete d c fun x => x.setVreg i v) c i v {} := by
  have h := complete_setsVreg d c i v {}
  have hf : (fun x : Ctx => (x.setVreg i v).addFlags {}) = fun x => x.setVreg i v := by
    funext x
    simp only [Ctx.addFlags, Flags.or_none]
  rwa [hf] at h

/-! ### Writes -/

theorem sramGet_sramPut (d : Dev) (t a : Nat) (bs : List Byte) : sramGet (sramPut d t a bs) t a bs.length = bs :=
  bytesAt_bytesPut _ _ _

theorem mget_sramPut_ne (d : Dev) (t a k : Nat) (bs : List Byte)
    (h : k < sramKey t a ∨ sramKey t a + bs.length ≤ k) :
    mget 0 (sramPut d t a bs).tiles.sram k = mget 0 d.tiles.sram k := by
  have : ¬ (sramKey t a ≤ k ∧ k < sramKey t a + bs.length) := by omega
  exact (mget_bytesPut bs _ _ k).trans (if_neg this)

theorem mem_sramBad_sramPut (d : Dev) (t a k : Nat) (bs : List Byte) :
    k ∈ (sramPut d t a bs).tiles.sramBad ↔
      k ∈ d.tiles.sramBad ∧ (k < sramKey t a / 4 ∨ (sramKey t a + bs.length + 3) / 4 ≤ k) := by
  simp [sramPut]

/-- What was written has good parity. -/
theorem parityOf_sramPut (d : Dev) (t a : Nat) (bs : List Byte) :
    parityOf (sramPut d t a bs) t [(a, bs.length)] = .ok := by
  have hnone : (sramPut d t a bs).tiles.sramBad.find?
      (fun k => sramKey t a < 4 * k + 4 && 4 * k < sramKey t a + bs.length) = none := by
    refine List.find?_eq_none.2 fun k hk => ?_
    have := ((mem_sramBad_sramPut d t a k bs).1 hk).2
    simp only [Bool.and_eq_true, decide_eq_true_eq]
    omega
  simp only [parityOf, sramBadIn, hnone, Option.map_none]

/-- A store by an engine of a running context that then moves on. -/
theorem sramWrite_stores {d : Dev} {c a : Nat} {e : Eng} {bs : List Byte} (hr : (ctxAt d c).state = .running) :
    StoresSram d (complete (sramWrite d c e a bs) c id) c a bs := by
  obtain ⟨un, hun⟩ : ∃ un, sramWrite d c e a bs =
      sramPut (setCtx d c { ctxAt d c with unfenced := un }) (tileOf c) a bs := ⟨_, rfl⟩
  have hx : ({ ctxAt d c with unfenced := un } : Ctx) ≠ Ctx.reset := ne_reset_of_running hr
  have hd : complete (sramWrite d c e a bs) c id =
      sramPut (setCtx d c { ({ ctxAt d c with unfenced := un } : Ctx).advance with wait := .none }) (tileOf c) a bs := by
    rw [hun, ← complete_setCtx hx]
    rfl
  rw [hd]
  refine ⟨sramGet_sramPut _ _ _ _, fun k hk => mget_sramPut_ne _ _ _ _ _ hk, parityOf_sramPut _ _ _ _,
    fun k hk => ?_, ?_, ?_, ?_⟩
  · rw [mem_sramBad_sramPut]
    exact ⟨fun h => h.1, fun h => ⟨h, by omega⟩⟩
  · have hc : ctxAt (sramPut (setCtx d c { ({ ctxAt d c with unfenced := un } : Ctx).advance with wait := .none })
        (tileOf c) a bs) c = { ({ ctxAt d c with unfenced := un } : Ctx).advance with wait := .none } :=
      ctxAt_setCtx _ _ _
    rw [hc]; rfl
  all_goals
    have hc : ctxAt (sramPut (setCtx d c { ({ ctxAt d c with unfenced := un } : Ctx).advance with wait := .none })
        (tileOf c) a bs) c = { ({ ctxAt d c with unfenced := un } : Ctx).advance with wait := .none } :=
      ctxAt_setCtx _ _ _
    rw [hc]
  · exact advance_nextPc rfl rfl
  · rfl

/-! ### Reads -/

/-- A byte that engine `e` may see at SRAM address `a`, where the byte in the array is `now` (R47). -/
def SeenAs (un : List Unfenced) (e : Eng) (a : Nat) (now b : Byte) : Prop :=
  b = now ∨ ∃ u ∈ un, u.eng ≠ e.code ∧ u.addr ≤ a ∧ a < u.addr + u.old.length ∧ b = u.old.getD (a - u.addr) 0

theorem getD_undoWrite (g i : Nat) (u : Unfenced) (seen : List Bool) (bs : List Byte) (h : i < bs.length) :
    (undoWrite g u seen bs).getD i 0 =
      if u.addr ≤ g + i ∧ g + i < u.addr + u.old.length ∧ seen.getD i true = false then
        u.old.getD (g + i - u.addr) 0
      else bs.getD i 0 := by
  simp [undoWrite, List.getD_eq_getElem?_getD, h]

/-- A read that found the bytes `now` from address `a` on took free values and changed nothing else, and
answers bytes that the engine may see. -/
def ReadsAs (un : List Unfenced) (e : Eng) (a : Nat) (d : Dev) (now : List Byte) (r : Dev × List Byte) : Prop :=
  (∃ n, r.1 = { d with free := n }) ∧ r.2.length = now.length ∧
    ∀ i, i < now.length → SeenAs un e (a + i) (now.getD i 0) (r.2.getD i 0)

theorem SeenAs.cons {un : List Unfenced} {u : Unfenced} {e : Eng} {a : Nat} {now b : Byte}
    (h : SeenAs un e a now b) : SeenAs (u :: un) e a now b := by
  rcases h with h | ⟨v, hv, h⟩
  · exact .inl h
  · exact .inr ⟨v, List.mem_cons_of_mem _ hv, h⟩

theorem ReadsAs.cons {un : List Unfenced} {u : Unfenced} {e : Eng} {a : Nat} {d : Dev} {m : Nat} {now : List Byte}
    {r : Dev × List Byte} (h : ReadsAs un e a { d with free := m } now r) : ReadsAs (u :: un) e a d now r := by
  obtain ⟨⟨n, hd⟩, hl, hs⟩ := h
  exact ⟨⟨n, hd⟩, hl, fun i hi => (hs i hi).cons⟩

/-- A granule read goes back over the writes one by one; undoing one of another engine shows bytes from before it. -/
theorem ReadsAs.undo {un : List Unfenced} {u : Unfenced} {e : Eng} {g : Nat} {d : Dev} {m : Nat} {now : List Byte}
    {seen : List Bool} {r : Dev × List Byte} (hu : u.eng ≠ e.code)
    (h : ReadsAs un e g { d with free := m } (undoWrite g u seen now) r) : ReadsAs (u :: un) e g d now r := by
  have hlen : (undoWrite g u seen now).length = now.length := by simp [undoWrite]
  obtain ⟨⟨n, hd⟩, hl, hs⟩ := h
  refine ⟨⟨n, hd⟩, hl.trans hlen, fun i hi => ?_⟩
  rcases hs i (by omega) with h | ⟨v, hv, h⟩
  · rw [h, getD_undoWrite _ _ _ _ _ hi]
    split
    · next hin => exact .inr ⟨u, List.mem_cons_self, hu, hin.1, hin.2.1, rfl⟩
    · exact .inl rfl
  · exact .inr ⟨v, List.mem_cons_of_mem _ hv, h⟩

theorem granuleRead_readsAs (e : Eng) (g : Nat) (un : List Unfenced) :
    ∀ (seen : List Bool) (d : Dev) (bs : List Byte), ReadsAs un e g d bs (granuleRead e g un seen (d, bs)) := by
  induction un with
  | nil => exact fun seen d bs => ⟨⟨d.free, rfl⟩, rfl, fun i _ => .inl rfl⟩
  | cons u rest ih =>
    intro seen d bs
    unfold granuleRead
    split
    · exact (ih seen d bs).cons
    · split
      · exact (ih (markRead g u.addr u.old.length seen) d bs).cons
      · next hu =>
        dsimp only [freeBit]
        split
        · exact (ih seen { d with free := d.free + 1 } (undoWrite g u seen bs)).undo hu
        · exact (ih (markRead g u.addr u.old.length seen) { d with free := d.free + 1 } bs).cons

/-- A granule that no other engine wrote without a fence reads as it stands. -/
theorem granuleRead_fenced (e : Eng) (g : Nat) (un : List Unfenced) :
    ∀ (seen : List Bool) (d : Dev) (bs : List Byte), (∀ u ∈ un, u.addr / 64 * 64 = g → u.eng = e.code) →
      granuleRead e g un seen (d, bs) = (d, bs) := by
  induction un with
  | nil => exact fun _ _ _ _ => rfl
  | cons u rest ih =>
    intro seen d bs h
    have hrest : ∀ v ∈ rest, v.addr / 64 * 64 = g → v.eng = e.code := fun v hv => h v (List.mem_cons_of_mem _ hv)
    unfold granuleRead
    split
    · exact ih _ _ _ hrest
    · next hg => rw [if_pos (h u List.mem_cons_self (not_not.1 hg))]; exact ih _ _ _ hrest

/-- One step of a read: the granule at `g` after the bytes read so far. -/
def readStep (c : Nat) (e : Eng) (un : List Unfenced) (p : Dev × List Byte) (g : Nat) : Dev × List Byte :=
  ((granuleRead e g un (List.replicate 64 false) (p.1, sramGet p.1 (tileOf c) g 64)).1,
    p.2 ++ (granuleRead e g un (List.replicate 64 false) (p.1, sramGet p.1 (tileOf c) g 64)).2)

/-- The bytes of `n` granules read in turn. -/
def readSteps (c : Nat) (e : Eng) (un : List Unfenced) (b n : Nat) (d : Dev) : Dev × List Byte :=
  ((List.range n).map fun i => (b + i) * 64).foldl (readStep c e un) (d, [])

theorem sramRead_eq (d : Dev) (c : Nat) (e : Eng) (a len : Nat) :
    let r := readSteps c e (ctxAt d c).unfenced (a / 64) ((a + len + 63) / 64 - a / 64) d
    sramRead d c e a len = (r.1, (r.2.drop (a % 64)).take len) := rfl

theorem readSteps_succ (c : Nat) (e : Eng) (un : List Unfenced) (b n : Nat) (d : Dev) :
    readSteps c e un b (n + 1) d = readStep c e un (readSteps c e un b n d) ((b + n) * 64) := by
  simp only [readSteps, List.range_succ, List.map_append, List.foldl_append, List.map_cons, List.map_nil,
    List.foldl_cons, List.foldl_nil]

theorem length_sramGet (d : Dev) (t a len : Nat) : (sramGet d t a len).length = len := length_bytesAt _ _ _

theorem getD_sramGet (d : Dev) (t a len i : Nat) (h : i < len) :
    (sramGet d t a len).getD i 0 = mget 0 d.tiles.sram (sramKey t (a + i)) := by
  have hk : sramKey t a + i = sramKey t (a + i) := by unfold sramKey; omega
  rw [sramGet, getD_bytesAt _ _ _ _ h, hk]

theorem sramGet_append (d : Dev) (t a m n : Nat) :
    sramGet d t a (m + n) = sramGet d t a m ++ sramGet d t (a + m) n := by
  refine List.ext_getElem (by simp only [List.length_append, length_sramGet]) fun i h1 h2 => ?_
  have hi : i < m + n := by simpa only [length_sramGet] using h1
  have hb : (sramGet d t a (m + n)).getD i 0 = (sramGet d t a m ++ sramGet d t (a + m) n).getD i 0 := by
    rw [getD_sramGet _ _ _ _ _ hi]
    rcases Nat.lt_or_ge i m with h | h
    · rw [List.getD_append _ _ _ _ (by rwa [length_sramGet]), getD_sramGet _ _ _ _ _ h]
    · rw [List.getD_append_right _ _ _ _ (by rwa [length_sramGet]), length_sramGet,
        getD_sramGet _ _ _ _ _ (by omega)]
      congr 2
      omega
  rwa [List.getD_eq_getElem _ _ h1, List.getD_eq_getElem _ _ h2] at hb

theorem ReadsAs.append {un : List Unfenced} {e : Eng} {a : Nat} {d : Dev} {x y : List Byte} {p r : Dev × List Byte}
    (h : ReadsAs un e a d x p) (h' : ReadsAs un e (a + x.length) p.1 y r) :
    ReadsAs un e a d (x ++ y) (r.1, p.2 ++ r.2) := by
  obtain ⟨⟨m, hm⟩, hl, hs⟩ := h
  obtain ⟨⟨n, hn⟩, hl', hs'⟩ := h'
  refine ⟨⟨n, by rw [hn, hm]⟩, by simp only [List.length_append, hl, hl'], fun i hi => ?_⟩
  rw [List.length_append] at hi
  rcases Nat.lt_or_ge i x.length with h | h
  · rw [List.getD_append _ _ _ _ h, List.getD_append _ _ _ _ (by omega)]
    exact hs i h
  · rw [List.getD_append_right _ _ _ _ h, List.getD_append_right _ _ _ _ (by omega), hl]
    have := hs' (i - x.length) (by omega)
    rwa [show a + x.length + (i - x.length) = a + i by omega] at this

theorem readSteps_readsAs (d : Dev) (c : Nat) (e : Eng) (un : List Unfenced) (b n : Nat) :
    ReadsAs un e (64 * b) d (sramGet d (tileOf c) (64 * b) (64 * n)) (readSteps c e un b n d) := by
  induction n with
  | zero => exact ⟨⟨d.free, rfl⟩, rfl, fun i hi => absurd hi (Nat.not_lt_zero i)⟩
  | succ n ih =>
    have hfree : ∃ m, (readSteps c e un b n d).1 = { d with free := m } := ih.1
    have hget : sramGet (readSteps c e un b n d).1 (tileOf c) ((b + n) * 64) 64 =
        sramGet d (tileOf c) (64 * b + 64 * n) 64 := by
      obtain ⟨m, hm⟩ := hfree
      rw [hm, Nat.add_mul, Nat.mul_comm b, Nat.mul_comm n]
      rfl
    have hstep := granuleRead_readsAs e ((b + n) * 64) un (List.replicate 64 false) (readSteps c e un b n d).1
      (sramGet (readSteps c e un b n d).1 (tileOf c) ((b + n) * 64) 64)
    rw [readSteps_succ, Nat.mul_succ, sramGet_append]
    refine ih.append ?_
    rw [length_sramGet, show 64 * b + 64 * n = (b + n) * 64 by omega]
    rwa [hget, show 64 * b + 64 * n = (b + n) * 64 by omega] at hstep ⊢

theorem getD_take_drop {α : Type} (xs : List α) (o n i : Nat) (d : α) (h : i < n) :
    ((xs.drop o).take n).getD i d = xs.getD (o + i) d := by
  simp [List.getD_eq_getElem?_getD, h]

/-- A read of SRAM by an engine of the context takes free values and changes nothing else; it answers bytes
that the engine may see. -/
theorem sramRead_spec (d : Dev) (c : Nat) (e : Eng) (a len : Nat) :
    (∃ n, (sramRead d c e a len).1 = { d with free := n }) ∧ (sramRead d c e a len).2.length = len ∧
      MayRead d c e a (sramRead d c e a len).2 := by
  obtain ⟨hd, hlen, hseen⟩ :=
    readSteps_readsAs d c e (ctxAt d c).unfenced (a / 64) ((a + len + 63) / 64 - a / 64)
  rw [length_sramGet] at hlen hseen
  have hl : (sramRead d c e a len).2.length = len := by
    rw [sramRead_eq, List.length_take, List.length_drop, hlen]
    omega
  refine ⟨hd, hl, fun i hi => ?_⟩
  rw [hl] at hi
  have h := hseen (a % 64 + i) (by omega)
  rw [getD_sramGet _ _ _ _ _ (by omega), show 64 * (a / 64) + (a % 64 + i) = a + i by omega] at h
  rw [sramRead_eq, getD_take_drop _ _ _ _ _ hi]
  rwa [show sramKey (tileOf c) (a + i) = sramKey (tileOf c) a + i by unfold sramKey; omega] at h

theorem readSteps_fenced (d : Dev) (c : Nat) (e : Eng) (un : List Unfenced) (b n : Nat)
    (h : ∀ u ∈ un, b ≤ u.addr / 64 → u.addr / 64 < b + n → u.eng = e.code) :
    readSteps c e un b n d = (d, sramGet d (tileOf c) (64 * b) (64 * n)) := by
  induction n with
  | zero => rfl
  | succ n ih =>
    rw [readSteps_succ, ih fun u hu h1 h2 => h u hu h1 (by omega), Nat.mul_succ 64 n, sramGet_append]
    simp only [readStep]
    rw [granuleRead_fenced e ((b + n) * 64) un (List.replicate 64 false) d _ fun u hu hu' => h u hu (by omega) (by omega),
      show (b + n) * 64 = 64 * b + 64 * n by omega]

/-- Where no other engine wrote a granule of it without a fence, a range reads as it stands. -/
theorem sramRead_fenced {d : Dev} {c : Nat} {e : Eng} {a len : Nat}
    (h : ∀ u ∈ (ctxAt d c).unfenced, a / 64 ≤ u.addr / 64 → u.addr / 64 < (a + len + 63) / 64 → u.eng = e.code) :
    sramRead d c e a len = (d, sramGet d (tileOf c) a len) := by
  have hl := (sramRead_spec d c e a len).2.1
  rw [sramRead_eq, readSteps_fenced d c e _ _ _ fun u hu h1 h2 => h u hu h1 (by omega)] at hl ⊢
  refine Prod.ext rfl (List.ext_getElem (by rw [hl, length_sramGet]) fun i h1 h2 => ?_)
  have hi : i < len := by simpa only [length_sramGet] using h2
  have hb : (((sramGet d (tileOf c) (64 * (a / 64)) (64 * ((a + len + 63) / 64 - a / 64))).drop (a % 64)).take
      len).getD i 0 = (sramGet d (tileOf c) a len).getD i 0 := by
    rw [getD_take_drop _ _ _ _ _ hi, getD_sramGet _ _ _ _ _ (by omega), getD_sramGet _ _ _ _ _ hi,
      show 64 * (a / 64) + (a % 64 + i) = a + i by omega]
  rwa [List.getD_eq_getElem _ _ h1, List.getD_eq_getElem _ _ h2] at hb

/-! ### The parity check -/

section Parity

variable {d : Dev} {c : Nat} {e : Eng} {rs : List (Nat × Nat)} {k : Unit → Dev}

theorem withParity_ok (h : parityOf d (tileOf c) rs = .ok) : withParity d c e rs k = k () := by
  simp only [withParity, h]

theorem withParity_bad {b : Nat} (h : parityOf d (tileOf c) rs = .bad b) :
    withParity d c e rs k = faultCtx (noteParity d (tileOf c) b true) c stSramParity e b := by
  simp only [withParity, h]

theorem withParity_refetch {ring el b : Nat} (h : parityOf d (tileOf c) rs = .refetch ring el b)
    (hw : (ctxAt d c).wait = .none) : withParity d c e rs k =
      updCtx (noteParity d (tileOf c) b false) c fun x => { x with wait := .refetch ring el e.code } := by
  simp only [withParity, h, hw, Wait.onElem, Bool.false_eq_true, if_false]

end Parity

theorem noteParity_tiles (d : Dev) (t a : Nat) (f : Bool) : (noteParity d t a f).tiles = d.tiles :=
  rset_tiles _ _ _ _ _

theorem ctxAt_noteParity (d : Dev) (t a : Nat) (f : Bool) (c : Nat) : ctxAt (noteParity d t a f) c = ctxAt d c := by
  simp only [ctxAt, noteParity_tiles]

theorem settled_of_tiles {d d' : Dev} {c : Nat} (ht : d'.tiles = d.tiles) (h : Settled d c) : Settled d' c := by
  simpa only [Settled, ctxAt, mmaBusy, mmaQueue, ht] using h

/-! ### LDS, STS, VLD and VST -/

theorem completes_sts {s : State} {c : Nat} {w : TWord} (h : Issues s c w .mem)
    (ha : ((ctxAt s.dev c).sreg w.bS1 + w.bImm).toNat % 8 = 0)
    (ho : (ctxAt s.dev c).ownsSram ((ctxAt s.dev c).sreg w.bS1 + w.bImm).toNat 8 = true) :
    Completes (.sts c w) s fun d => StoresSram s.dev d c ((ctxAt s.dev c).sreg w.bS1 + w.bImm).toNat
      (leBytes 8 ((ctxAt s.dev c).sreg w.bD).toNat) :=
  completes_issue (execSts c w) h rfl rfl (by
    rw [scalarAddr_aligned ha, if_pos ho]
    exact sramWrite_stores (running_of_issues h))

/-- LDS of an owned, aligned address is the parity check with what follows it. -/
theorem completes_lds {s : State} {c : Nat} {w : TWord} {P : Dev → Prop} (h : Issues s c w .mem)
    (ha : ((ctxAt s.dev c).sreg w.bS1 + w.bImm).toNat % 8 = 0)
    (ho : (ctxAt s.dev c).ownsSram ((ctxAt s.dev c).sreg w.bS1 + w.bImm).toNat 8 = true)
    (hp : P (withParity s.dev c .mem [(((ctxAt s.dev c).sreg w.bS1 + w.bImm).toNat, 8)] fun _ =>
      complete (sramRead s.dev c .mem ((ctxAt s.dev c).sreg w.bS1 + w.bImm).toNat 8).1 c fun x =>
        x.setSreg w.bD
          (toW (leNat (sramRead s.dev c .mem ((ctxAt s.dev c).sreg w.bS1 + w.bImm).toNat 8).2)))) :
    Completes (.lds c w) s P :=
  completes_issue (execLds c w) h rfl rfl (by rw [scalarAddr_aligned ha, if_pos ho]; exact hp)

theorem unowned_scalar_faults {s : State} {c : Nat} {w : TWord} (h : Issues s c w .mem)
    (ha : ((ctxAt s.dev c).sreg w.bS1 + w.bImm).toNat % 8 = 0)
    (ho : (ctxAt s.dev c).ownsSram ((ctxAt s.dev c).sreg w.bS1 + w.bImm).toNat 8 = false)
    (hs : Settled s.dev c) : ∀ i ∈ [Instr.lds c w, .sts c w], Completes i s fun d =>
      FaultsAt s.dev d c 0x0402 .mem ((ctxAt s.dev c).sreg w.bS1 + w.bImm).toNat := by
  have hn : ¬ (ctxAt s.dev c).ownsSram ((ctxAt s.dev c).sreg w.bS1 + w.bImm).toNat 8 = true := by
    rw [ho]; exact Bool.false_ne_true
  simp only [List.forall_mem_cons]
  refine ⟨completes_issue (execLds c w) h rfl rfl ?_, completes_issue (execSts c w) h rfl rfl ?_,
    List.forall_mem_nil _⟩ <;>
  · rw [scalarAddr_aligned ha, if_neg hn]
    exact faultCtx_faults hs

theorem vecSpan_ok {d : Dev} {c : Nat} {w : TWord} {k : Nat → Dev} (hm : w.bMod = 0)
    (ha : ((ctxAt d c).sreg w.bS1 + w.bImm).toNat % 64 = 0)
    (ho : (ctxAt d c).ownsSram ((ctxAt d c).sreg w.bS1 + w.bImm).toNat 1024 = true) :
    vecSpan d c w k = k ((ctxAt d c).sreg w.bS1 + w.bImm).toNat := by
  simp only [vecSpan, hm, ha, ho, ne_eq, not_true_eq_false, Bool.true_eq_false, or_self, if_false]

theorem vecSpan_outside {d : Dev} {c : Nat} {w : TWord} {k : Nat → Dev} (hm : w.bMod = 0)
    (ha : ((ctxAt d c).sreg w.bS1 + w.bImm).toNat % 64 ≠ 0 ∨
      (ctxAt d c).ownsSram ((ctxAt d c).sreg w.bS1 + w.bImm).toNat 1024 = false) :
    vecSpan d c w k = operandFault d c .vector ((ctxAt d c).sreg w.bS1 + w.bImm).toNat := by
  simp only [vecSpan, hm, ne_eq, not_true_eq_false, if_false]
  exact if_pos ha

theorem completes_vst {s : State} {c : Nat} {w : TWord} (h : Issues s c w .vector) (hm : w.bMod = 0)
    (ha : ((ctxAt s.dev c).sreg w.bS1 + w.bImm).toNat % 64 = 0)
    (ho : (ctxAt s.dev c).ownsSram ((ctxAt s.dev c).sreg w.bS1 + w.bImm).toNat 1024 = true) :
    Completes (.vst c w) s fun d => StoresSram s.dev d c ((ctxAt s.dev c).sreg w.bS1 + w.bImm).toNat
      (leBytes 1024 ((ctxAt s.dev c).vreg w.bD).toNat) :=
  completes_issue (execVst c w) h rfl rfl (by
    rw [vecSpan_ok hm ha ho]
    exact sramWrite_stores (running_of_issues h))

theorem completes_vld {s : State} {c : Nat} {w : TWord} {P : Dev → Prop} (h : Issues s c w .vector)
    (hm : w.bMod = 0) (ha : ((ctxAt s.dev c).sreg w.bS1 + w.bImm).toNat % 64 = 0)
    (ho : (ctxAt s.dev c).ownsSram ((ctxAt s.dev c).sreg w.bS1 + w.bImm).toNat 1024 = true)
    (hok : parityOf s.dev (tileOf c) [(((ctxAt s.dev c).sreg w.bS1 + w.bImm).toNat, 1024)] = .ok)
    (hp : P (complete (sramRead s.dev c .vector ((ctxAt s.dev c).sreg w.bS1 + w.bImm).toNat 1024).1 c fun x =>
      x.setVreg w.bD (BitVec.ofNat 8192
        (leNat (sramRead s.dev c .vector ((ctxAt s.dev c).sreg w.bS1 + w.bImm).toNat 1024).2)))) :
    Completes (.vld c w) s P :=
  completes_issue (execVld c w) h rfl rfl (by rw [vecSpan_ok hm ha ho, withParity_ok hok]; exact hp)

theorem unowned_vector_faults {s : State} {c : Nat} {w : TWord} (h : Issues s c w .vector) (hm : w.bMod = 0)
    (ha : ((ctxAt s.dev c).sreg w.bS1 + w.bImm).toNat % 64 ≠ 0 ∨
      (ctxAt s.dev c).ownsSram ((ctxAt s.dev c).sreg w.bS1 + w.bImm).toNat 1024 = false)
    (hs : Settled s.dev c) : ∀ i ∈ [Instr.vld c w, .vst c w], Completes i s fun d =>
      FaultsAt s.dev d c 0x0402 .vector ((ctxAt s.dev c).sreg w.bS1 + w.bImm).toNat := by
  simp only [List.forall_mem_cons]
  refine ⟨completes_issue (execVld c w) h rfl rfl ?_, completes_issue (execVst c w) h rfl rfl ?_,
    List.forall_mem_nil _⟩ <;>
  · rw [vecSpan_outside hm ha]
    exact faultCtx_faults hs

/-- Settles O5: a write is `sramWrite_stores`, a read `sramRead_spec` or, fenced, `sramRead_fenced`. -/
theorem tileSramAccesses : Obligations.TileSramAccesses := by
  unfold Obligations.TileSramAccesses
  refine ⟨fun s c w h ha => ⟨fun ho => ⟨completes_sts h ha ho, fun hok => ⟨completes_lds h ha ho ?_,
      fun hf => completes_lds h ha ho ?_⟩, fun b hb hs => completes_lds h ha ho ?_,
      fun ring el b hb hw => completes_lds h ha ho ?_⟩, fun ho hs => unowned_scalar_faults h ha ho hs⟩,
    fun s c w h hm => ⟨fun ha ho => ⟨completes_vst h hm ha ho, fun hok => ⟨completes_vld h hm ha ho hok ?_,
      fun hf => completes_vld h hm ha ho hok ?_⟩⟩, fun ha hs => unowned_vector_faults h hm ha hs⟩⟩
  · obtain ⟨⟨n, hd⟩, hlen, hmay⟩ := sramRead_spec s.dev c .mem ((ctxAt s.dev c).sreg w.bS1 + w.bImm).toNat 8
    rw [withParity_ok hok, hd]
    exact ⟨_, n, hlen, hmay, complete_setsSreg _ _ _ _⟩
  · rw [withParity_ok hok, sramRead_fenced fun u hu h1 h2 => hf u hu (by omega)]
    exact complete_setsSreg _ _ _ _
  · rw [withParity_bad hb]
    exact faultCtx_faults (settled_of_tiles (noteParity_tiles _ _ _ _) hs)
  · rw [withParity_refetch hb hw]
    refine ⟨updCtx_onlyCtx _ _ _, ?_⟩
    rw [ctxAt_updCtx, ctxAt_noteParity]
  · obtain ⟨⟨n, hd⟩, hlen, hmay⟩ :=
      sramRead_spec s.dev c .vector ((ctxAt s.dev c).sreg w.bS1 + w.bImm).toNat 1024
    rw [hd]
    exact ⟨_, n, hlen, hmay, complete_setsVreg_quiet _ _ _ _⟩
  · rw [sramRead_fenced fun u hu h1 h2 => (hf u hu).resolve_right (by omega)]
    exact complete_setsVreg_quiet _ _ _ _

end Sys2Proof.Machine
end

section
/-!
PROOF. The Vector Engine lane by lane, and its reductions (R68, R88, R463): O7.
-/

namespace Sys2Proof.Machine

/-! ### Lanes of a result -/

theorem width_count_of_laneFmt {n : Nat} {lf : LaneFmt} (h : laneFmt n = some lf) : lf.width * lf.count ≤ 8192 := by
  unfold laneFmt at h
  split at h
  · cases h; decide
  · cases h; decide
  · cases h; decide
  · cases h

theorem width_le_of_laneFmt {n : Nat} {lf : LaneFmt} (h : laneFmt n = some lf) : lf.width ≤ 8192 := by
  unfold laneFmt at h
  split at h
  · cases h; decide
  · cases h; decide
  · cases h; decide
  · cases h

theorem laneFmt_of_vecForm {w : TWord} {lf : LaneFmt} {m : Rnd} (h : vecForm w = some (lf, m)) :
    laneFmt w.aFmt = some lf := by
  unfold vecForm at h
  split at h
  · split at h
    · cases h; assumption
    · cases h
  · cases h; assumption
  · cases h

/-- Element `j` of a register made of `n` lanes is lane `j`, in its width. -/
theorem elemAt_ofLanes {b n : Nat} (f : Nat → Nat) (h : b * n ≤ 8192) {j : Nat} (hj : j < n) :
    elemAt (ofLanes b ((List.range n).map f)).toNat b j = f j % 2 ^ b := by
  rw [ofLanes, elemAt_ofNat_packElems (by simpa using h), getD_map_range _ _ _ _ hj]

theorem elemAt_mod (v b j : Nat) : elemAt v b j % 2 ^ b = elemAt v b j := Nat.mod_mod _ _

theorem putVec_sets (d : Dev) (c dst : Nat) (r : VReg × Flags) : SetsVreg d (putVec d c dst r) c dst r.1 r.2 :=
  complete_setsVreg d c dst r.1 r.2

/-! ### Lane-wise arithmetic -/

/-- Lane `j` of the result of a lane-wise instruction. -/
def arithLane (nm : NumMode) (lf : LaneFmt) (m : Rnd) (op : VecOp) (a b z : VReg) (j : Nat) : Nat × Flags :=
  match lf with
  | .f fmt => laneF nm fmt m j (op.exact m) (elemAt a.toNat lf.width j) (elemAt b.toNat lf.width j)
      (if op = .fma then elemAt z.toNat lf.width j else 0)
  | .int32 => (op.int (elemAt a.toNat lf.width j) (elemAt b.toNat lf.width j)
      (if op = .fma then elemAt z.toNat lf.width j else 0), {})

theorem vecArith_eq (nm : NumMode) (lf : LaneFmt) (m : Rnd) (op : VecOp) (a b z : VReg) :
    vecArith nm lf m op a b z = packLanes lf.width ((List.range lf.count).map (arithLane nm lf m op a b z)) := by
  cases lf <;> rfl

theorem completes_lanes {i : Instr} {s : State} {c : Nat} {w : TWord} {op : VecOp} {lf : LaneFmt} {m : Rnd}
    {lane : Nat → Nat × Flags} (h : Issues s c w .vector) (hi : exec i s = onDev s (laneInstr op c w))
    (hf : vecForm w = some (lf, m)) (hr : w.aRes = true) (h3 : op = .fma ∨ w.aS3 = 0)
    (hl : ∀ j, lane j = arithLane (ctxAt s.dev c).numMode lf m op ((ctxAt s.dev c).vreg w.aS1)
      ((ctxAt s.dev c).vreg w.aS2) ((ctxAt s.dev c).vreg w.aS3) j) :
    Completes i s fun d => ∃ v, SetsVreg s.dev d c w.aD v (joinFlags ((List.range lf.count).map lane)) ∧
      ∀ j, j < lf.count → elemAt v.toNat lf.width j = (lane j).1 % 2 ^ lf.width := by
  obtain rfl : lane = _ := funext hl
  refine completes_issue (fun s => onDev s (laneInstr op c w)) h hi rfl ?_
  have hok : w.aRes = true ∧ (op = .fma ∨ w.aS3 = 0) := ⟨hr, h3⟩
  simp only [hf, if_pos hok]
  rw [vecArith_eq]
  refine ⟨_, putVec_sets _ _ _ _, fun j hj => ?_⟩
  rw [packLanes, List.map_map]
  exact elemAt_ofLanes _ (width_count_of_laneFmt (laneFmt_of_vecForm hf)) hj

theorem completes_lanes_illegal {i : Instr} {s : State} {c : Nat} {w : TWord} {op : VecOp}
    (h : Issues s c w .vector) (hi : exec i s = onDev s (laneInstr op c w)) (hf : vecForm w = none)
    (hs : Settled s.dev c) : Completes i s fun d => FaultsAt s.dev d c 0x0401 .vector 0 := by
  refine completes_issue (fun s => onDev s (laneInstr op c w)) h hi rfl ?_
  simp only [hf]
  exact faultCtx_faults hs

/-! ### Comparison, selection and movement -/

theorem foldl_or_flush (fs : List Flags) (hf : ∀ f ∈ fs, f = { flush := f.flush }) :
    ∀ b : Bool, fs.foldl Flags.or { flush := b } = { flush := b || fs.any (·.flush) } := by
  induction fs with
  | nil => simp
  | cons f fs ih =>
    intro b
    have h : (Flags.or { flush := b } f) = { flush := b || f.flush } := by
      rw [hf f List.mem_cons_self]; simp [Flags.or]
    rw [List.foldl_cons, h, ih (fun g hg => hf g (List.mem_cons_of_mem _ hg)), List.any_cons, Bool.or_assoc]

/-- Whether lane `j` of a comparison reads a subnormal as zero. -/
def cmpFlushed (subn : Bool) (lf : LaneFmt) (a b : VReg) (j : Nat) : Bool :=
  match lf with
  | .f fmt => (readF subn fmt (elemAt a.toNat lf.width j)).2 || (readF subn fmt (elemAt b.toNat lf.width j)).2
  | .int32 => false

/-- Whether the condition holds in lane `j`. -/
def cmpHolds (subn : Bool) (lf : LaneFmt) (cond : Nat) (a b : VReg) (j : Nat) : Bool :=
  match lf with
  | .f fmt => condHolds cond (cmpX (readF subn fmt (elemAt a.toNat lf.width j)).1
      (readF subn fmt (elemAt b.toNat lf.width j)).1)
  | .int32 => condHolds cond
      (some (compare (sext 32 (elemAt a.toNat lf.width j)) (sext 32 (elemAt b.toNat lf.width j))))

theorem vecCmp_eq (nm : NumMode) (lf : LaneFmt) (cond : Nat) (a b : VReg) :
    vecCmp nm lf cond a b = packLanes lf.width ((List.range lf.count).map fun j =>
      (if cmpHolds nm.subn lf cond a b j then 2 ^ lf.width - 1 else 0,
        ({ flush := cmpFlushed nm.subn lf a b j } : Flags))) := by
  cases lf <;> rfl

theorem vecCmp_flags (nm : NumMode) (lf : LaneFmt) (cond : Nat) (a b : VReg) :
    (vecCmp nm lf cond a b).2 = { flush := (List.range lf.count).any (cmpFlushed nm.subn lf a b) } := by
  rw [vecCmp_eq, packLanes, joinFlags, List.map_map]
  refine (foldl_or_flush _ (by simp) false).trans ?_
  simp [List.any_map, Function.comp_def]

theorem elemAt_vecCmp {nm : NumMode} {lf : LaneFmt} {cond : Nat} {a b : VReg} (h : lf.width * lf.count ≤ 8192)
    {j : Nat} (hj : j < lf.count) : elemAt (vecCmp nm lf cond a b).1.toNat lf.width j =
      if cmpHolds nm.subn lf cond a b j then 2 ^ lf.width - 1 else 0 := by
  rw [vecCmp_eq, packLanes, List.map_map, elemAt_ofLanes _ h hj]
  refine Nat.mod_eq_of_lt ?_
  have := Nat.two_pow_pos lf.width
  dsimp only [Function.comp]
  split <;> omega

theorem completes_vcmp {s : State} {c : Nat} {w : TWord} {lf : LaneFmt} (h : Issues s c w .vector)
    (hf : laneFmt w.aFmt = some lf) (hr : w.aRes = true) (h3 : w.aS3 = 0) (hc : w.aRnd ≠ 7) :
    let x := ctxAt s.dev c
    let a := x.vreg w.aS1
    let b := x.vreg w.aS2
    Completes (.vcmp c w) s fun d => ∃ v,
      SetsVreg s.dev d c w.aD v { flush := (List.range lf.count).any (cmpFlushed x.subn lf a b) } ∧
      ∀ j, j < lf.count → elemAt v.toNat lf.width j =
        if cmpHolds x.subn lf w.aRnd a b j then 2 ^ lf.width - 1 else 0 := by
  intro x a b
  refine completes_issue (execVcmp c w) h rfl rfl ?_
  have hok : w.aRes = true ∧ w.aS3 = 0 ∧ w.aRnd ≠ 7 := ⟨hr, h3, hc⟩
  simp only [hf, if_pos hok]
  have hs := putVec_sets s.dev c w.aD (vecCmp x.numMode lf w.aRnd a b)
  rw [vecCmp_flags] at hs
  exact ⟨_, hs, fun j hj => elemAt_vecCmp (width_count_of_laneFmt hf) hj⟩

theorem completes_vsel {s : State} {c : Nat} {w : TWord} {lf : LaneFmt} {m : Rnd} (h : Issues s c w .vector)
    (hf : vecForm w = some (lf, m)) (hr : w.aRes = true) :
    let x := ctxAt s.dev c
    Completes (.vsel c w) s fun d => ∃ v, SetsVreg s.dev d c w.aD v {} ∧
      ∀ j, j < lf.count → elemAt v.toNat lf.width j =
        if elemAt (x.vreg w.aS1).toNat lf.width j ≠ 0 then elemAt (x.vreg w.aS2).toNat lf.width j
        else elemAt (x.vreg w.aS3).toNat lf.width j := by
  intro x
  refine completes_issue (execVsel c w) h rfl rfl ?_
  simp only [hf, if_pos hr]
  refine ⟨_, putVec_sets _ _ _ _, fun j hj => ?_⟩
  rw [vecSel, elemAt_ofLanes _ (width_count_of_laneFmt (laneFmt_of_vecForm hf)) hj]
  split <;> exact elemAt_mod _ _ _

theorem elemAt_replicate {b n v j : Nat} (h : b * n ≤ 8192) (hj : j < n) :
    elemAt (ofLanes b (List.replicate n v)).toNat b j = v % 2 ^ b := by
  rw [ofLanes, elemAt_ofNat_packElems (by rwa [List.length_replicate]), List.getD_eq_getElem?_getD,
    List.getElem?_replicate_of_lt hj, Option.getD_some]

theorem elemAt_vecBcast (half : Bool) (v : Word) (j : Nat) :
    if half then j < 512 → elemAt (vecBcast half v).toNat 16 j = v.toNat % 2 ^ 16
    else j < 256 → elemAt (vecBcast half v).toNat 32 j = v.toNat % 2 ^ 32 := by
  cases half
  · intro hj
    rw [vecBcast, if_neg Bool.false_ne_true, elemAt_replicate (by decide) hj, Nat.mod_mod]
  · intro hj
    rw [vecBcast, if_pos rfl, elemAt_replicate (by decide) hj, Nat.mod_mod]

theorem completes_vbcast {s : State} {c : Nat} {w : TWord} (h : Issues s c w .vector) (hm : w.bMod / 2 = 0)
    (hi : w.bImmRaw = 0) :
    let v := (ctxAt s.dev c).sreg w.bS1
    Completes (.vbcast c w) s fun d => ∃ r, SetsVreg s.dev d c w.bD r {} ∧
      ∀ j, if bit w.bMod 0 then j < 512 → elemAt r.toNat 16 j = v.toNat % 2 ^ 16
        else j < 256 → elemAt r.toNat 32 j = v.toNat % 2 ^ 32 := by
  intro v
  refine completes_issue (execVbcast c w) h rfl rfl ?_
  rw [if_neg (by omega)]
  exact ⟨_, complete_setsVreg_quiet _ _ _ _, elemAt_vecBcast _ _⟩

theorem elemAt_vecPerm (half : Bool) (src idx : VReg) (j : Nat) :
    if half then j < 512 →
      elemAt (vecPerm half src idx).toNat 16 j = elemAt src.toNat 16 (elemAt idx.toNat 16 j % 512)
    else j < 256 →
      elemAt (vecPerm half src idx).toNat 32 j = elemAt src.toNat 32 (elemAt idx.toNat 32 j % 256) := by
  cases half
  · intro hj
    exact (elemAt_ofLanes _ (by decide) hj).trans (elemAt_mod _ _ _)
  · intro hj
    exact (elemAt_ofLanes _ (by decide) hj).trans (elemAt_mod _ _ _)

theorem completes_vperm {s : State} {c : Nat} {w : TWord} (h : Issues s c w .vector) (hm : w.bMod / 64 = 0)
    (hi : w.bImmRaw = 0) :
    let i := (ctxAt s.dev c).vreg (w.bMod % 32)
    let src := (ctxAt s.dev c).vreg w.bS1
    Completes (.vperm c w) s fun d => ∃ v, SetsVreg s.dev d c w.bD v {} ∧
      ∀ j, if bit w.bMod 5 then j < 512 → elemAt v.toNat 16 j = elemAt src.toNat 16 (elemAt i.toNat 16 j % 512)
        else j < 256 → elemAt v.toNat 32 j = elemAt src.toNat 32 (elemAt i.toNat 32 j % 256) := by
  intro i src
  refine completes_issue (execVperm c w) h rfl rfl ?_
  rw [if_neg (by omega)]
  exact ⟨_, complete_setsVreg_quiet _ _ _ _, elemAt_vecPerm _ _ _⟩

/-! ### Reductions -/

theorem vecReduce_lanes {nm : NumMode} {lf : LaneFmt} {m : Rnd} {op : RedOp} {a : VReg} {j : Nat}
    (hw : lf.width ≤ 8192) (hj : 0 < j) : elemAt (vecReduce nm lf m op a).1.toNat lf.width j = 0 := by
  obtain ⟨n, hn⟩ : ∃ n, (vecReduce nm lf m op a).1 = ofLanes lf.width [n] := ⟨_, rfl⟩
  rw [hn, ofLanes, elemAt_ofNat_packElems (by simpa using hw)]
  obtain ⟨k, rfl⟩ : ∃ k, j = k + 1 := ⟨j - 1, by omega⟩
  simp

theorem completes_reduction {i : Instr} {s : State} {c : Nat} {w : TWord} {op : RedOp} {lf : LaneFmt} {m : Rnd}
    (h : Issues s c w .vector) (hi : exec i s = onDev s (redInstr op c w)) (hf : vecForm w = some (lf, m))
    (hr : w.aRes = true) (h2 : w.aS2 = 0) (h3 : w.aS3 = 0) :
    Completes i s fun d =>
      let res := vecReduce (ctxAt s.dev c).numMode lf m op ((ctxAt s.dev c).vreg w.aS1)
      SetsVreg s.dev d c w.aD res.1 res.2 ∧
        ∀ j, 0 < j → elemAt ((ctxAt d c).vreg w.aD).toNat lf.width j = 0 := by
  refine completes_issue (fun s => onDev s (redInstr op c w)) h hi rfl ?_
  have hok : w.aRes = true ∧ w.aS2 = 0 ∧ w.aS3 = 0 := ⟨hr, h2, h3⟩
  simp only [hf, if_pos hok]
  have hs := putVec_sets s.dev c w.aD (vecReduce (ctxAt s.dev c).numMode lf m op ((ctxAt s.dev c).vreg w.aS1))
  refine ⟨hs, fun j hj => ?_⟩
  obtain ⟨-, -, hv, -⟩ := hs
  rw [hv]
  exact vecReduce_lanes (width_le_of_laneFmt (laneFmt_of_vecForm hf)) hj

/-- Settles O7: one lemma for the lane-wise operations, one for the reductions, one for each of the others. -/
theorem vectorLaneResults : Obligations.VectorLaneResults := by
  unfold Obligations.VectorLaneResults
  refine ⟨fun s c w h => ?_, fun s c w h => ⟨fun lf hf hr h3 hc => ?_, fun lf m hf hr => completes_vsel h hf hr,
    fun hm hi => completes_vbcast h hm hi, fun hm hi => completes_vperm h hm hi⟩, fun s c w h => ?_⟩
  · intro x a b z r hr
    simp only [List.mem_cons, List.not_mem_nil, or_false] at hr
    rcases hr with rfl | rfl | rfl | rfl | rfl | rfl
    all_goals
      exact ⟨fun lf m hf hr h3 => completes_lanes h rfl hf hr h3 fun j => by cases lf <;> rfl,
        fun hf hs => completes_lanes_illegal h rfl hf hs⟩
  · cases lf <;> exact completes_vcmp h hf hr h3 hc
  · simp only [List.forall_mem_cons]
    exact ⟨fun lf m hf hr h2 h3 => completes_reduction h rfl hf hr h2 h3,
      fun lf m hf hr h2 h3 => completes_reduction h rfl hf hr h2 h3,
      fun lf m hf hr h2 h3 => completes_reduction h rfl hf hr h2 h3, List.forall_mem_nil _⟩

end Sys2Proof.Machine
end

section
/-!
PROOF. FENCE and the rings (R48, R132, R133, R145): what an instruction that is held back leaves, what a ring's
counters become.
-/

namespace Sys2Proof.Machine

/-! ### Completing and holding back -/

theorem complete_spec {d : Dev} {c : Nat} {f : Ctx → Ctx} (hp : (f (ctxAt d c)).pc = (ctxAt d c).pc)
    (hl : (f (ctxAt d c)).loops = (ctxAt d c).loops) :
    OnlyCtx d (complete d c f) c ∧ NextPc (ctxAt d c) (ctxAt (complete d c f) c) ∧
      ctxAt (complete d c f) c = { f (ctxAt d c) with
        pc := (ctxAt (complete d c f) c).pc, loops := (ctxAt (complete d c f) c).loops, wait := .none } := by
  refine ⟨complete_onlyCtx _ _ _, ?_, ?_⟩ <;> rw [ctxAt_complete]
  · exact advance_nextPc hp hl
  · rfl

theorem updCtx_spec (d : Dev) (c : Nat) (f : Ctx → Ctx) :
    OnlyCtx d (updCtx d c f) c ∧ ctxAt (updCtx d c f) c = f (ctxAt d c) :=
  ⟨updCtx_onlyCtx _ _ _, ctxAt_updCtx _ _ _⟩

/-! ### FENCE -/

/-- The engines that the bits of a FENCE name (R48). -/
def fencedEngines (m : Nat) : List Nat :=
  ((List.range 7).filter (bit m)).map fun i => [2, 3, 4, 5, 6, 1, 8].getD i 0

theorem contains_fencedEngines (m e : Nat) : (fencedEngines m).contains e =
    match e with
    | 1 => bit m 5
    | 2 => bit m 0
    | 3 => bit m 1
    | 4 => bit m 2
    | 5 => bit m 3
    | 6 => bit m 4
    | 8 => bit m 6
    | _ => false := by
  have h : (fencedEngines m).contains e =
      [0, 1, 2, 3, 4, 5, 6].any fun i => bit m i && [2, 3, 4, 5, 6, 1, 8].getD i 0 == e := by
    have : ∀ l : List Nat, ((l.filter (bit m)).map fun i => [2, 3, 4, 5, 6, 1, 8].getD i 0).contains e =
        l.any fun i => bit m i && [2, 3, 4, 5, 6, 1, 8].getD i 0 == e := fun l => by
      induction l with
      | nil => rfl
      | cons i l ih =>
        rw [List.any_cons, ← ih, List.filter_cons]
        cases bit m i with
        | false => simp
        | true => simp only [if_true, List.map_cons, List.contains_cons, Bool.true_and]; rw [BEq.comm]
    exact this (List.range 7)
  rw [h]
  match e with
  | 0 | 1 | 2 | 3 | 4 | 5 | 6 | 7 | 8 => simp
  | n + 9 => simp

theorem completes_fence {s : State} {c : Nat} {w : TWord} (h : Issues s c w .sync) (hm : w.bMod < 128) :
    let x := ctxAt s.dev c
    Completes (.fence c w) s fun d =>
      if (bit w.bMod 0 && mmaBusy s.dev c || bit w.bMod 5 && decide (x.writesOut ≠ [])) = true then
        OnlyCtx s.dev d c ∧ ctxAt d c = { x with wait := .retry false Eng.sync.code }
      else if (bit w.bMod 6 && decide (x.remoteOut ≠ [])) = true then
        OnlyCtx s.dev d c ∧ ctxAt d c = { x with wait := .retry true Eng.sync.code }
      else OnlyCtx s.dev d c ∧ NextPc x (ctxAt d c) ∧
        ctxAt d c = { x with
          unfenced := x.unfenced.filter fun u => !(fencedEngines w.bMod).contains u.eng
          pc := (ctxAt d c).pc, loops := (ctxAt d c).loops, wait := .none } := by
  intro x
  refine completes_issue (execFence c w) h rfl rfl ?_
  have hm' : ¬ w.bMod / 128 ≠ 0 := by omega
  have hempty : ∀ l : List Nat, (!l.isEmpty) = decide (l ≠ []) := fun l => by cases l <;> simp
  simp only [if_neg hm', hempty]
  cases h0 : bit w.bMod 0 && mmaBusy s.dev c with
  | true =>
    simp only [if_true, Bool.true_or]
    exact updCtx_spec _ _ _
  | false =>
    cases h5 : bit w.bMod 5 && decide ((ctxAt s.dev c).writesOut ≠ []) with
    | true =>
      simp only [if_true, Bool.false_or, Bool.false_eq_true, if_false]
      exact updCtx_spec _ _ _
    | false =>
      cases h6 : bit w.bMod 6 && decide ((ctxAt s.dev c).remoteOut ≠ []) with
      | true =>
        simp only [if_true, Bool.false_or, Bool.false_eq_true, if_false]
        exact updCtx_spec _ _ _
      | false =>
        simp only [Bool.false_or, Bool.false_eq_true, if_false, contains_fencedEngines]
        exact complete_spec rfl rfl

theorem completes_fence_illegal {s : State} {c : Nat} {w : TWord} (h : Issues s c w .sync) (hm : 128 ≤ w.bMod)
    (hs : Settled s.dev c) : Completes (.fence c w) s fun d => FaultsAt s.dev d c 0x0401 .sync 0 := by
  refine completes_issue (execFence c w) h rfl rfl ?_
  have hm' : w.bMod / 128 ≠ 0 := by omega
  simp only [if_pos hm']
  exact faultCtx_faults hs

/-! ### The checks of RINGWAIT and RINGREL -/

section RingOp

variable {i : Instr} {s : State} {c : Nat} {w : TWord} {k : Dev → Ctx → Nat → Ring → Nat → Dev}
  (h : Issues s c w .sync) (hi : exec i s = onDev s fun d => ringOp d c w (k d))
  (hm : w.bMod < 2) (hr : w.bImmRaw = 0)
include h hi hm hr

theorem ringOp_none (hn : ((ctxAt s.dev c).sreg w.bD).toNat = 0) :
    Completes i s fun d => MovesOn s.dev d c := by
  refine completes_issue (fun s => onDev s fun d => ringOp d c w (k d)) h hi rfl ?_
  have hok : ¬ (w.bMod / 2 ≠ 0 ∨ w.bImmRaw ≠ 0) := by omega
  simp only [if_neg hok, if_pos hn]
  exact complete_movesOn _ _

theorem ringOp_undeclared (hn : ((ctxAt s.dev c).sreg w.bD).toNat ≠ 0)
    (hx : (ctxAt s.dev c).ringNum ((ctxAt s.dev c).sreg w.bS1).toNat = none) (hs : Settled s.dev c) :
    Completes i s fun d => FaultsAt s.dev d c 0x0408 .sync 0 := by
  refine completes_issue (fun s => onDev s fun d => ringOp d c w (k d)) h hi rfl ?_
  have hok : ¬ (w.bMod / 2 ≠ 0 ∨ w.bImmRaw ≠ 0) := by omega
  simp only [if_neg hok, if_neg hn, hx]
  exact faultCtx_faults hs

variable {rn : Nat} {r : Ring} (hn : ((ctxAt s.dev c).sreg w.bD).toNat ≠ 0)
  (hx : (ctxAt s.dev c).ringNum ((ctxAt s.dev c).sreg w.bS1).toNat = some rn)
  (hring : ringAt s.dev (tileOf c) rn = some r)
include hn hx hring

theorem ringOp_storeFault {e : Nat × Nat} (he : storeFault s.dev (tileOf c) rn = some e) (hs : Settled s.dev c) :
    Completes i s fun d => FaultsAt s.dev d c e.1 .stream e.2 := by
  refine completes_issue (fun s => onDev s fun d => ringOp d c w (k d)) h hi rfl ?_
  have hok : ¬ (w.bMod / 2 ≠ 0 ∨ w.bImmRaw ≠ 0) := by omega
  simp only [if_neg hok, if_neg hn, hx, hring, he]
  exact faultCtx_faults hs

variable (he : storeFault s.dev (tileOf c) rn = none)
include he

theorem ringOp_bad (hb : r.depth < ((ctxAt s.dev c).sreg w.bD).toNat ∨ viewOk r.kind (bit w.bMod 0) = false)
    (hs : Settled s.dev c) : Completes i s fun d => FaultsAt s.dev d c 0x0408 .sync 0 := by
  refine completes_issue (fun s => onDev s fun d => ringOp d c w (k d)) h hi rfl ?_
  have hok : ¬ (w.bMod / 2 ≠ 0 ∨ w.bImmRaw ≠ 0) := by omega
  simp only [if_neg hok, if_neg hn, hx, hring, he, if_pos hb]
  exact faultCtx_faults hs

/-- An operation that passes the checks does its own work. -/
theorem ringOp_runs {P : Dev → Prop} (hd : ((ctxAt s.dev c).sreg w.bD).toNat ≤ r.depth)
    (hv : viewOk r.kind (bit w.bMod 0) = true)
    (hp : P (k s.dev (ctxAt s.dev c) rn r ((ctxAt s.dev c).sreg w.bD).toNat)) : Completes i s P := by
  refine completes_issue (fun s => onDev s fun d => ringOp d c w (k d)) h hi rfl ?_
  have hok : ¬ (w.bMod / 2 ≠ 0 ∨ w.bImmRaw ≠ 0) := by omega
  have hg : ¬ (r.depth < ((ctxAt s.dev c).sreg w.bD).toNat ∨ viewOk r.kind (bit w.bMod 0) = false) := by
    simp only [hv, Bool.true_eq_false, or_false]; omega
  simp only [if_neg hok, if_neg hn, hx, hring, he, if_neg hg]
  exact hp

end RingOp

/-! ### The counters of a ring -/

theorem find_mput_ne {α : Type} (m : List (Nat × α)) {i j : Nat} (a : α) (h : j ≠ i) :
    ((mput m i a).find? fun e => e.1 == j) = m.find? fun e => e.1 == j := by
  induction m with
  | nil => simp [mput, Ne.symm h]
  | cons e m ih =>
    obtain ⟨k, v⟩ := e
    simp only [mput]
    split
    · next hk => subst hk; simp [Ne.symm h]
    · split
      · simp [Ne.symm h]
      · simp only [List.find?_cons, ih]

theorem ringAt_setRing_ne (d : Dev) {t rn u m : Nat} (x : Ring) (h : 32 * u + m ≠ 32 * t + rn) :
    ringAt (setRing d t rn x) u m = ringAt d u m := by
  simp only [ringAt, setRing, find_mput_ne _ _ h]

theorem ringAt_of_rings {d d' : Dev} (h : d'.tiles.rings = d.tiles.rings) (t rn : Nat) :
    ringAt d' t rn = ringAt d t rn := by
  simp only [ringAt, h]

/-- What of the rings of all tiles changes when one becomes `r'`. -/
def SetsRing (d d' : Dev) (t rn : Nat) (r' : Ring) : Prop :=
  ringAt d' t rn = some r' ∧ ∀ u m, 32 * u + m ≠ 32 * t + rn → ringAt d' u m = ringAt d u m

theorem setsRing_of_rings {d d' : Dev} {t rn : Nat} {r' : Ring}
    (h : d'.tiles.rings = (setRing d t rn r').tiles.rings) : SetsRing d d' t rn r' := by
  refine ⟨(ringAt_of_rings h t rn).trans (ringAt_setRing _ _ _ _), fun u m hu => ?_⟩
  rw [ringAt_of_rings h, ringAt_setRing_ne _ _ hu]

section Counters

variable {d : Dev} {t rn : Nat} {r : Ring} (n : Nat) (h : ringAt d t rn = some r)
include h

theorem ringRelease_rings : (ringRelease d t rn n).tiles.rings = (setRing d t rn { r with
    rel := r.rel + n, held := r.held.filter fun h => r.rel + n ≤ h.1
    src := r.src.filter fun e => r.rel + n ≤ e.ringElem }).tiles.rings := by
  unfold ringRelease
  simp only [h]
  cases r.slot <;> rfl

theorem ringRelease_slot {sn : Nat} (hs : r.slot = some sn) : slotAt (ringRelease d t rn n) t sn =
    { slotAt d t sn with consumed := (slotAt d t sn).consumed + n } := by
  unfold ringRelease
  simp only [h, hs]
  exact slotAt_setSlot _ _ _ _

theorem ringPublish_rings : (ringPublish d t rn n).tiles.rings =
    (setRing d t rn { r with pub := r.pub + n }).tiles.rings := by
  unfold ringPublish
  simp only [h]
  cases r.slot <;> rfl

theorem ringPublish_slot {sn : Nat} (hs : r.slot = some sn) : slotAt (ringPublish d t rn n) t sn =
    { slotAt d t sn with delivered := (slotAt d t sn).delivered + n } := by
  unfold ringPublish
  simp only [h, hs]
  exact slotAt_setSlot _ _ _ _

end Counters

theorem ringRelease_frame (d : Dev) (t rn n : Nat) : ringRelease d t rn n = { d with
    tiles.rings := (ringRelease d t rn n).tiles.rings, tiles.slots := (ringRelease d t rn n).tiles.slots
    tiles.watch := (ringRelease d t rn n).tiles.watch } := by
  unfold ringRelease
  split
  · rfl
  · dsimp only; split <;> rfl

theorem ringPublish_frame (d : Dev) (t rn n : Nat) : ringPublish d t rn n = { d with
    tiles.rings := (ringPublish d t rn n).tiles.rings, tiles.slots := (ringPublish d t rn n).tiles.slots } := by
  unfold ringPublish
  split
  · rfl
  · dsimp only; split <;> rfl

/-- Work on one context after a change of rings and slots changes these and the context. -/
theorem onlyCtx_rings_slots {d₀ d₁ d : Dev} {c : Nat} {rs : List (Nat × Ring)} {ss : List (Nat × Slot)}
    (h₁ : d₁ = { d₀ with tiles.rings := rs, tiles.slots := ss }) (h : OnlyCtx d₁ d c) :
    d = { setCtx d₀ c (ctxAt d c) with tiles.rings := d.tiles.rings, tiles.slots := d.tiles.slots } := by
  unfold OnlyCtx at h
  generalize ctxAt d c = y at h
  subst h₁ h
  rfl

theorem ringPublish_ctxAt (d : Dev) (t rn n c : Nat) : ctxAt (ringPublish d t rn n) c = ctxAt d c := by
  rw [ringPublish_frame]; rfl

/-! ### RINGWAIT and RINGREL past their checks -/

/-- What RINGWAIT does with a ring that passes the checks. -/
def waitWork (c : Nat) (w : TWord) (d : Dev) (_ : Ctx) (_ : Nat) (r : Ring) (n : Nat) : Dev :=
  if bit w.bMod 0 then
    if r.pub + n ≤ r.rel + r.depth then complete d c id else holdLong d c .sync
  else
    match heldIn r n with
    | some (st, a) => faultCtx d c st .stream a
    | none =>
      if r.rel + n ≤ r.pub then
        complete d c fun x => { x with unfenced := x.unfenced.filter fun u =>
          !(u.handed && r.holds r.rel n u.addr) }
      else holdLong d c .sync

/-- What RINGREL does with a ring that passes the checks. -/
def relWork (c : Nat) (w : TWord) (d : Dev) (x : Ctx) (rn : Nat) (r : Ring) (n : Nat) : Dev :=
  if bit w.bMod 0 then
    if r.rel + r.depth < r.pub + n then faultCtx d c stRingFault .sync 0
    else complete (ringPublish d (tileOf c) rn n) c fun x =>
      { x with unfenced := x.unfenced.map (Unfenced.handOver r n) }
  else if r.pub < r.rel + x.dueOn rn + n then faultCtx d c stRingFault .sync 0
  else if mmaBusy d c then
    complete d c fun x => { x with relDue := x.relDue ++ [(rn, mmaLeft d c, n)] }
  else complete (ringRelease d (tileOf c) rn n) c id

theorem exec_ringwait (s : State) (c : Nat) (w : TWord) :
    exec (.ringwait c w) s = onDev s fun d => ringOp d c w (waitWork c w d) := rfl

theorem exec_ringrel (s : State) (c : Nat) (w : TWord) :
    exec (.ringrel c w) s = onDev s fun d => ringOp d c w (relWork c w d) := rfl

section Ring

variable {s : State} {c : Nat} {w : TWord} {rn : Nat} {r : Ring} (h : Issues s c w .sync)
  (hm : w.bMod < 2) (hr : w.bImmRaw = 0) (hn : ((ctxAt s.dev c).sreg w.bD).toNat ≠ 0)
  (hx : (ctxAt s.dev c).ringNum ((ctxAt s.dev c).sreg w.bS1).toNat = some rn)
  (hring : ringAt s.dev (tileOf c) rn = some r) (he : storeFault s.dev (tileOf c) rn = none)
  (hd : ((ctxAt s.dev c).sreg w.bD).toNat ≤ r.depth)
include h hm hr hn hx hring he hd

section Consumer

variable (hb : bit w.bMod 0 = false) (hv : viewOk r.kind false = true)
include hb hv

theorem completes_ringwait_held {e : Nat × Nat} (hh : heldIn r ((ctxAt s.dev c).sreg w.bD).toNat = some e)
    (hs : Settled s.dev c) : Completes (.ringwait c w) s fun d => FaultsAt s.dev d c e.1 .stream e.2 := by
  refine ringOp_runs h (exec_ringwait s c w) hm hr hn hx hring he hd (hb ▸ hv) ?_
  simp only [waitWork, hb, Bool.false_eq_true, if_false, hh]
  exact faultCtx_faults hs

theorem completes_ringwait_consumer (hh : heldIn r ((ctxAt s.dev c).sreg w.bD).toNat = none) :
    let x := ctxAt s.dev c
    let n := (x.sreg w.bD).toNat
    Completes (.ringwait c w) s fun d =>
      if r.rel + n ≤ r.pub then OnlyCtx s.dev d c ∧ NextPc x (ctxAt d c) ∧
        ctxAt d c = { x with
          unfenced := x.unfenced.filter fun u => !(u.handed && r.holds r.rel n u.addr)
          pc := (ctxAt d c).pc, loops := (ctxAt d c).loops, wait := .none }
      else OnlyCtx s.dev d c ∧ ctxAt d c = { x with wait := .retry true Eng.sync.code } := by
  intro x n
  refine ringOp_runs h (exec_ringwait s c w) hm hr hn hx hring he hd (hb ▸ hv) ?_
  simp only [waitWork, hb, Bool.false_eq_true, if_false, hh]
  split
  · exact complete_spec rfl rfl
  · exact updCtx_spec _ _ _

theorem completes_ringrel_past (hp : r.pub < r.rel + (ctxAt s.dev c).dueOn rn + ((ctxAt s.dev c).sreg w.bD).toNat)
    (hs : Settled s.dev c) : Completes (.ringrel c w) s fun d => FaultsAt s.dev d c 0x0408 .sync 0 := by
  refine ringOp_runs h (exec_ringrel s c w) hm hr hn hx hring he hd (hb ▸ hv) ?_
  simp only [relWork, hb, Bool.false_eq_true, if_false, if_pos hp]
  exact faultCtx_faults hs

theorem completes_ringrel_due (hp : r.rel + (ctxAt s.dev c).dueOn rn + ((ctxAt s.dev c).sreg w.bD).toNat ≤ r.pub)
    (hbusy : mmaBusy s.dev c = true) :
    let x := ctxAt s.dev c
    Completes (.ringrel c w) s fun d => OnlyCtx s.dev d c ∧ NextPc x (ctxAt d c) ∧ ctxAt d c = { x with
      relDue := x.relDue ++ [(rn, mmaLeft s.dev c, (x.sreg w.bD).toNat)]
      pc := (ctxAt d c).pc, loops := (ctxAt d c).loops, wait := .none } := by
  intro x
  refine ringOp_runs h (exec_ringrel s c w) hm hr hn hx hring he hd (hb ▸ hv) ?_
  simp only [relWork, hb, Bool.false_eq_true, if_false, if_neg (Nat.not_lt.2 hp), hbusy, if_true]
  exact complete_spec rfl rfl

theorem completes_ringrel_consumer
    (hp : r.rel + (ctxAt s.dev c).dueOn rn + ((ctxAt s.dev c).sreg w.bD).toNat ≤ r.pub)
    (hbusy : mmaBusy s.dev c = false) :
    let n := ((ctxAt s.dev c).sreg w.bD).toNat
    Completes (.ringrel c w) s fun d =>
      SetsRing s.dev d (tileOf c) rn { r with
        rel := r.rel + n, held := r.held.filter fun h => r.rel + n ≤ h.1
        src := r.src.filter fun e => r.rel + n ≤ e.ringElem } ∧
      (∀ sn, r.slot = some sn → slotAt d (tileOf c) sn =
        { slotAt s.dev (tileOf c) sn with consumed := (slotAt s.dev (tileOf c) sn).consumed + n }) ∧
      MovesOn { s.dev with
        tiles.rings := d.tiles.rings, tiles.slots := d.tiles.slots, tiles.watch := d.tiles.watch } d c := by
  intro n
  refine ringOp_runs h (exec_ringrel s c w) hm hr hn hx hring he hd (hb ▸ hv) ?_
  simp only [relWork, hb, Bool.false_eq_true, if_false, if_neg (Nat.not_lt.2 hp), hbusy]
  refine ⟨setsRing_of_rings (ringRelease_rings n hring), fun sn hs => ringRelease_slot n hring hs, ?_⟩
  have hf := ringRelease_frame s.dev (tileOf c) rn n
  have hmove := complete_movesOn (ringRelease s.dev (tileOf c) rn n) c
  conv at hmove => arg 1; rw [hf]
  exact hmove

end Consumer

section Producer

variable (hb : bit w.bMod 0 = true) (hv : viewOk r.kind true = true)
include hb hv

theorem completes_ringwait_producer :
    let n := ((ctxAt s.dev c).sreg w.bD).toNat
    Completes (.ringwait c w) s fun d =>
      if r.pub + n ≤ r.rel + r.depth then MovesOn s.dev d c
      else OnlyCtx s.dev d c ∧ ctxAt d c = { ctxAt s.dev c with wait := .retry true Eng.sync.code } := by
  intro n
  refine ringOp_runs h (exec_ringwait s c w) hm hr hn hx hring he hd (hb ▸ hv) ?_
  simp only [waitWork, hb, if_true]
  split
  · exact complete_movesOn _ _
  · exact updCtx_spec _ _ _

theorem completes_ringrel_full (hp : r.rel + r.depth < r.pub + ((ctxAt s.dev c).sreg w.bD).toNat)
    (hs : Settled s.dev c) : Completes (.ringrel c w) s fun d => FaultsAt s.dev d c 0x0408 .sync 0 := by
  refine ringOp_runs h (exec_ringrel s c w) hm hr hn hx hring he hd (hb ▸ hv) ?_
  simp only [relWork, hb, if_true, if_pos hp]
  exact faultCtx_faults hs

theorem completes_ringrel_producer (hp : r.pub + ((ctxAt s.dev c).sreg w.bD).toNat ≤ r.rel + r.depth) :
    let x := ctxAt s.dev c
    let n := (x.sreg w.bD).toNat
    Completes (.ringrel c w) s fun d =>
      SetsRing s.dev d (tileOf c) rn { r with pub := r.pub + n } ∧
      (∀ sn, r.slot = some sn → slotAt d (tileOf c) sn =
        { slotAt s.dev (tileOf c) sn with delivered := (slotAt s.dev (tileOf c) sn).delivered + n }) ∧
      d = { setCtx s.dev c (ctxAt d c) with tiles.rings := d.tiles.rings, tiles.slots := d.tiles.slots } ∧
      NextPc x (ctxAt d c) ∧ ctxAt d c = { x with
        unfenced := x.unfenced.map (Unfenced.handOver r n)
        pc := (ctxAt d c).pc, loops := (ctxAt d c).loops, wait := .none } := by
  intro x n
  refine ringOp_runs h (exec_ringrel s c w) hm hr hn hx hring he hd (hb ▸ hv) ?_
  simp only [relWork, hb, if_true, if_neg (Nat.not_lt.2 hp)]
  have hc : ctxAt (ringPublish s.dev (tileOf c) rn n) c = x := ringPublish_ctxAt _ _ _ _ _
  have hspec := complete_spec (d := ringPublish s.dev (tileOf c) rn n) (c := c)
    (f := fun x => { x with unfenced := x.unfenced.map (Unfenced.handOver r n) }) rfl rfl
  rw [hc] at hspec
  obtain ⟨honly, hnext, hctx⟩ := hspec
  exact ⟨setsRing_of_rings (ringPublish_rings n hring), fun sn hs => ringPublish_slot n hring hs,
    onlyCtx_rings_slots (ringPublish_frame _ _ _ _) honly, hnext, hctx⟩

end Producer

end Ring

end Sys2Proof.Machine
end

section
/-!
PROOF. Semaphores of contexts (R342, R344, R374): what a wake leaves as it was, and what SEMWAIT and SEMSIG do.
-/

namespace Sys2Proof.Machine

/-! ### What letting waiters go changes -/

/-- Besides contexts, slots and queues everything is as it was. -/
def WakeFrame (d d' : Dev) : Prop :=
  d' = { d with tiles.ctxs := d'.tiles.ctxs, tiles.slots := d'.tiles.slots, hub.queues := d'.hub.queues }

theorem WakeFrame.refl (d : Dev) : WakeFrame d d := rfl

theorem WakeFrame.trans {a b c : Dev} (h : WakeFrame a b) (g : WakeFrame b c) : WakeFrame a c := by
  unfold WakeFrame at *
  rw [g, h]

theorem release_frame (d : Dev) (v : Word) (who : Who) : WakeFrame d (release d v who) := by
  cases who with
  | cmd q k => rfl
  | ctx o => simp only [release]; split <;> rfl
  | slot t n => simp only [release]; split <;> rfl

theorem ctxAt_release {d : Dev} {c : Nat} (v : Word) (who : Who) (hw : (ctxAt d c).wait ≠ .sem) :
    ctxAt (release d v who) c = ctxAt d c := by
  cases who with
  | cmd q k => rfl
  | slot t n => simp only [release]; split <;> rfl
  | ctx o =>
    simp only [release]
    split
    · next ho => exact ctxAt_setCtx_ne _ _ _ _ fun e => hw (e ▸ ho)
    · rfl

theorem releaseAll_keeps {c : Nat} (v : Word) (ws : List Waiter) (d : Dev) (hw : (ctxAt d c).wait ≠ .sem) :
    WakeFrame d (ws.foldl (fun d w => release d v w.who) d) ∧
      ctxAt (ws.foldl (fun d w => release d v w.who) d) c = ctxAt d c := by
  induction ws generalizing d with
  | nil => exact ⟨.refl d, rfl⟩
  | cons q ws ih =>
    have hc := ctxAt_release v q.who hw
    obtain ⟨hf, hk⟩ := ih (release d v q.who) (hc ▸ hw)
    exact ⟨(release_frame d v q.who).trans hf, hk.trans hc⟩

/-- Adding to a semaphore sets it, keeps a context that does not wait for one, and changes besides semaphores and
waiters only what it lets go. -/
theorem semAdd_keeps {d : Dev} {c : Nat} (n : Nat) (a : Word) (hw : (ctxAt d c).wait ≠ .sem) :
    WakeFrame { d with hub.sems := mset 0 d.hub.sems n (semAt d n + a), hub.waiters := (semAdd d n a).hub.waiters }
        (semAdd d n a) ∧
      ctxAt (semAdd d n a) c = ctxAt d c := by
  unfold semAdd semSet wakeWaiters
  obtain ⟨hf, hc⟩ := releaseAll_keeps (c := c) (semAt d n + a)
    (d.hub.waiters.filter fun w => w.sem == n && decide (w.threshold ≤ (semAt d n + a).toNat))
    { d with
      hub.sems := mset 0 d.hub.sems n (semAt d n + a)
      hub.waiters := d.hub.waiters.filter fun w =>
        !(w.sem == n && decide (w.threshold ≤ (semAt d n + a).toNat)) } hw
  refine ⟨?_, hc⟩
  unfold WakeFrame at hf ⊢
  conv_lhs => rw [hf]
  rw [hf]

theorem semAdd_unwoken {d : Dev} {n : Nat} {a : Word}
    (hw : ∀ q ∈ d.hub.waiters, q.sem = n → (semAt d n + a).toNat < q.threshold) :
    semAdd d n a = { d with hub.sems := mset 0 d.hub.sems n (semAt d n + a) } := by
  have hmiss : ∀ q ∈ d.hub.waiters, (q.sem == n && decide (q.threshold ≤ (semAt d n + a).toNat)) = false := by
    intro q hq
    by_cases hs : q.sem = n
    · simp only [Bool.and_eq_false_iff, decide_eq_false_iff_not, Nat.not_le]
      exact .inr (hw q hq hs)
    · simp [hs]
  have hnone : d.hub.waiters.filter (fun q => q.sem == n && decide (q.threshold ≤ (semAt d n + a).toNat)) = [] :=
    List.filter_eq_nil_iff.2 fun q hq => by simp only [hmiss q hq, Bool.false_eq_true, not_false_eq_true]
  have hall : d.hub.waiters.filter (fun q => !(q.sem == n && decide (q.threshold ≤ (semAt d n + a).toNat))) =
      d.hub.waiters :=
    List.filter_eq_self.2 fun q hq => by rw [hmiss q hq]; rfl
  unfold semAdd semSet wakeWaiters
  simp only [hnone, hall, List.foldl_nil]

/-! ### SEMWAIT and SEMSIG -/

theorem wait_of_issues {s : State} {c : Nat} {w : TWord} {e : Eng} (h : Issues s c w e) :
    (ctxAt s.dev c).wait ≠ .sem := by
  obtain ⟨-, hc, -⟩ := h
  intro hw
  simp [canIssue, hw, Wait.tries] at hc

section Semaphore

variable {s : State} {c : Nat} {w : TWord} (h : Issues s c w .sync) (hp : semPlain w = true)
include h hp

theorem completes_sem_undeclared {i : Instr} (hi : i ∈ [Instr.semwait c w, .semsig c w])
    (hd : (ctxAt s.dev c).declares ((ctxAt s.dev c).sreg w.bS1).toNat = false) (hs : Settled s.dev c) :
    Completes i s fun d => FaultsAt s.dev d c 0x0405 .sync 0 := by
  simp only [List.mem_cons, List.not_mem_nil, or_false] at hi
  rcases hi with rfl | rfl
  · refine completes_issue (execSemwait c w) h rfl rfl ?_
    simp only [hp, hd, Bool.not_true, Bool.not_false, Bool.false_eq_true, if_false, if_true]
    exact faultCtx_faults hs
  · refine completes_issue (execSemsig c w) h rfl rfl ?_
    simp only [hp, hd, Bool.not_true, Bool.not_false, Bool.false_eq_true, if_false, if_true]
    exact faultCtx_faults hs

variable (hd : (ctxAt s.dev c).declares ((ctxAt s.dev c).sreg w.bS1).toNat = true)
include hd

theorem completes_semwait_passes
    (hv : ((ctxAt s.dev c).sreg w.bD).toNat ≤ (semAt s.dev ((ctxAt s.dev c).sreg w.bS1).toNat).toNat) :
    Completes (.semwait c w) s fun d => MovesOn s.dev d c := by
  refine completes_issue (execSemwait c w) h rfl rfl ?_
  simp only [hp, hd, Bool.not_true, Bool.false_eq_true, if_false, semWait, if_pos hv]
  exact complete_movesOn _ _

theorem completes_semwait_waits
    (hv : (semAt s.dev ((ctxAt s.dev c).sreg w.bS1).toNat).toNat < ((ctxAt s.dev c).sreg w.bD).toNat) :
    let x := ctxAt s.dev c
    Completes (.semwait c w) s fun d =>
      d = setCtx { s.dev with
        hub.waiters := s.dev.hub.waiters ++ [⟨(x.sreg w.bS1).toNat, (x.sreg w.bD).toNat, .ctx c⟩] }
        c { x with wait := .sem } := by
  intro x
  refine completes_issue (execSemwait c w) h rfl rfl ?_
  simp only [hp, hd, Bool.not_true, Bool.false_eq_true, if_false, semWait, if_neg (Nat.not_le.2 hv)]
  rfl

theorem completes_semsig_held (hq : (ctxAt s.dev c).quiet = false ∨ storesWritten s.dev c = false) :
    Completes (.semsig c w) s fun d =>
      OnlyCtx s.dev d c ∧ ctxAt d c = { ctxAt s.dev c with wait := .retry true Eng.sync.code } := by
  refine completes_issue (execSemsig c w) h rfl rfl ?_
  have hq' : ((ctxAt s.dev c).quiet && storesWritten s.dev c) = false := Bool.and_eq_false_iff.2 hq
  simp only [hp, hd, hq', Bool.not_true, Bool.false_eq_true, if_false]
  exact updCtx_spec _ _ _

theorem completes_semsig {P : Dev → Prop} (hq : (ctxAt s.dev c).quiet = true) (hst : storesWritten s.dev c = true)
    (hP : P (complete (ledgerSignal s.dev c ((ctxAt s.dev c).sreg w.bS1).toNat
      ((ctxAt s.dev c).sreg w.bD).toNat) c id)) : Completes (.semsig c w) s P := by
  refine completes_issue (execSemsig c w) h rfl rfl ?_
  simp only [hp, hd, hq, hst, Bool.and_self, Bool.not_true, Bool.false_eq_true, if_false, if_true]
  exact hP

end Semaphore

/-- The context of a signal with the ledger and the replay count of semaphore `n` brought up (R374). -/
def Ctx.signalled (x : Ctx) (n v : Nat) : Ctx :=
  { x with
    replayed := mset 0 x.replayed n (mget 0 x.replayed n + v)
    ledger := mset 0 x.ledger n (max (mget 0 x.ledger n) (mget 0 x.replayed n + v)) }

theorem ledgerSignal_eq (d : Dev) (c n v : Nat) :
    ledgerSignal d c n v =
      if mget 0 (ctxAt d c).ledger n < mget 0 (ctxAt d c).replayed n + v then
        semAdd (setCtx d c ((ctxAt d c).signalled n v)) n
          (toW (mget 0 (ctxAt d c).replayed n + v - mget 0 (ctxAt d c).ledger n))
      else setCtx d c ((ctxAt d c).signalled n v) := rfl

/-- What a signal of a running context that waits for no semaphore does (R342, R374). -/
structure Signals (d d' : Dev) (c n v : Nat) : Prop where
  ctx : ctxAt d' c = (ctxAt d c).signalled n v
  sem : semAt d' n = semAt d n + toW (mget 0 (ctxAt d c).replayed n + v - mget 0 (ctxAt d c).ledger n)
  other : ∀ m, m ≠ n → semAt d' m = semAt d m
  mem : d'.mem = d.mem
  regs : d'.regs = d.regs
  sram : d'.tiles.sram = d.tiles.sram
  unwoken : (∀ q ∈ d.hub.waiters, q.sem = n → (semAt d' n).toNat < q.threshold) →
    d' = { setCtx d c ((ctxAt d c).signalled n v) with hub.sems := d'.hub.sems }

theorem semAt_of_sems {d d' : Dev} {n : Nat} {v : Word} (h : d'.hub.sems = mset 0 d.hub.sems n v) (m : Nat) :
    semAt d' m = if m = n then v else semAt d m := by
  simp only [semAt, h, mget_mset]

theorem ledgerSignal_signals {d : Dev} {c : Nat} (n v : Nat) (hw : (ctxAt d c).wait ≠ .sem) :
    Signals d (ledgerSignal d c n v) c n v := by
  set x := (ctxAt d c).signalled n v with hx
  rw [ledgerSignal_eq, ← hx]
  split
  · set a := toW (mget 0 (ctxAt d c).replayed n + v - mget 0 (ctxAt d c).ledger n)
    have hw' : (ctxAt (setCtx d c x) c).wait ≠ .sem := by rw [ctxAt_setCtx]; exact hw
    obtain ⟨hf, hc⟩ := semAdd_keeps n a hw'
    rw [ctxAt_setCtx] at hc
    have hsems : (semAdd (setCtx d c x) n a).hub.sems = mset 0 d.hub.sems n (semAt d n + a) := by rw [hf]; rfl
    have hsem := semAt_of_sems hsems
    refine ⟨hc, (hsem n).trans (if_pos rfl), fun m hm => (hsem m).trans (if_neg hm), ?_, ?_, ?_, fun hun => ?_⟩
    · rw [hf]; rfl
    · rw [hf]; rfl
    · rw [hf]; rfl
    · rw [hsem n, if_pos rfl] at hun
      rw [semAdd_unwoken (d := setCtx d c x) hun]
  · next hle =>
    have hzero : mget 0 (ctxAt d c).replayed n + v - mget 0 (ctxAt d c).ledger n = 0 := by omega
    refine ⟨ctxAt_setCtx _ _ _, ?_, fun m _ => rfl, rfl, rfl, rfl, fun _ => rfl⟩
    rw [hzero]
    exact (BitVec.add_zero _).symm

/-- SEMSIG of a context that nothing holds up adds what its ledger has not signalled before. -/
theorem completes_semsig_signals {s : State} {c : Nat} {w : TWord} (h : Issues s c w .sync)
    (hp : semPlain w = true) (hd : (ctxAt s.dev c).declares ((ctxAt s.dev c).sreg w.bS1).toNat = true)
    (hq : (ctxAt s.dev c).quiet = true) (hst : storesWritten s.dev c = true) :
    let x := ctxAt s.dev c
    let n := (x.sreg w.bS1).toNat
    let done := mget 0 x.ledger n
    let total := mget 0 x.replayed n + (x.sreg w.bD).toNat
    Completes (.semsig c w) s fun d =>
      semAt d n = semAt s.dev n + toW (total - done) ∧ (∀ m, m ≠ n → semAt d m = semAt s.dev m) ∧
      NextPc x (ctxAt d c) ∧ mget 0 (ctxAt d c).ledger n = max done total ∧
      mget 0 (ctxAt d c).replayed n = total ∧
      ctxAt d c = { x with
        ledger := (ctxAt d c).ledger, replayed := (ctxAt d c).replayed, pc := (ctxAt d c).pc,
        loops := (ctxAt d c).loops, wait := .none } ∧
      d.mem = s.dev.mem ∧ d.regs = s.dev.regs ∧ d.tiles.sram = s.dev.tiles.sram ∧
      ((∀ q ∈ s.dev.hub.waiters, q.sem = n → (semAt d n).toNat < q.threshold) →
        d = { setCtx s.dev c (ctxAt d c) with hub.sems := d.hub.sems }) := by
  intro x n done total
  refine completes_semsig h hp hd hq hst ?_
  have hsig := ledgerSignal_signals n (x.sreg w.bD).toNat (wait_of_issues h)
  generalize ledgerSignal s.dev c n (x.sreg w.bD).toNat = d₁ at hsig ⊢
  have hx₁ : x.signalled n (x.sreg w.bD).toNat ≠ Ctx.reset := ne_reset_of_running (running_of_issues h)
  have hctx : ctxAt (complete d₁ c id) c = { (x.signalled n (x.sreg w.bD).toNat).advance with wait := .none } := by
    rw [ctxAt_complete, hsig.ctx]; rfl
  refine ⟨hsig.sem, hsig.other, ?_, ?_, ?_, ?_, hsig.mem, hsig.regs, hsig.sram, fun hun => ?_⟩
  · rw [hctx]; exact advance_nextPc rfl rfl
  · rw [hctx]; exact mget_mset_same _ _ _ _
  · rw [hctx]; exact mget_mset_same _ _ _ _
  · rw [hctx]; rfl
  · rw [hctx, ← complete_setCtx hx₁]
    have hd₁ := hsig.unwoken hun
    conv_lhs => rw [hd₁]
    rfl

end Sys2Proof.Machine
end

section
/-!
PROOF. BARRIER (R125, R152, R153): what letting an episode's participants go does to contexts, commands and pending
tables.
-/

namespace Sys2Proof.Machine

/-! ### What is seen of a command after another ends -/

/-- Where a command stands and the status it has. -/
def cmdOutcome (d : Dev) (q k : Nat) : Option (CmdState × Nat) := (cmdAt d q k).map fun z => (z.st, z.status)

theorem cmdOutcome_noteHead (d : Dev) (q now p j : Nat) :
    cmdOutcome (setQueue d q ((queueAt d q).noteHead now)) p j = cmdOutcome d p j := by
  obtain ⟨⟨-, hother, -, hcmds⟩, -⟩ := noteHead_only d q (j + 1) now
  by_cases hp : p = q
  · subst hp
    have h := congrArg (Option.map fun z : Cmd => (z.st, z.status)) (hcmds j (by omega))
    rw [Option.map_map, Option.map_map] at h
    exact h
  · simp only [cmdOutcome, cmdAt, hother p hp]

theorem cmdOutcome_finishCmd (d : Dev) (q k st : Nat) (v : Word) (p j : Nat) :
    cmdOutcome (finishCmd d q k st v) p j = (cmdOutcome d p j).map fun o =>
      if p = q ∧ j = k ∧ o.1 ≠ .finished then (.finished, st) else o := by
  unfold finishCmd
  rw [cmdOutcome_noteHead]
  by_cases hp : p = q
  · subst hp
    unfold cmdOutcome cmdAt updCmd
    simp only [queueAt_setQueue]
    rw [find_map_seq _ _ fun y => by split <;> [split <;> rfl; rfl]]
    cases hf : (queueAt d p).cmds.find? fun x => x.seq == j with
    | none => rfl
    | some y =>
      have hy := find_seq hf
      simp only [Option.map_some, hy, true_and]
      by_cases hk : j = k <;> by_cases hs : y.st = .finished <;> simp [hk, hs]
  · simp only [hp, false_and, if_false, Option.map_id']
    unfold cmdOutcome cmdAt updCmd
    simp only [queueAt_setQueue_ne _ _ _ _ hp]

/-! ### Letting one participant go -/

/-- Besides contexts, queues and the free values everything is as it was. -/
def BarrierFrame (d d' : Dev) : Prop :=
  d' = { d with tiles.ctxs := d'.tiles.ctxs, hub.queues := d'.hub.queues, free := d'.free }

theorem BarrierFrame.trans {a b c : Dev} (h : BarrierFrame a b) (g : BarrierFrame b c) : BarrierFrame a c := by
  unfold BarrierFrame at *
  rw [g, h]

theorem releaseBarrier_frame (d : Dev) (who : Who) : BarrierFrame d (releaseBarrier d who) := by
  cases who with
  | cmd q k => rfl
  | ctx o => simp only [releaseBarrier]; split <;> rfl
  | slot t n => rfl

theorem ctxAt_releaseBarrier {d : Dev} {o : Nat} {who : Who} (h : who ≠ .ctx o ∨ (ctxAt d o).wait ≠ .barrier) :
    ctxAt (releaseBarrier d who) o = ctxAt d o := by
  cases who with
  | cmd q k => rfl
  | slot t n => rfl
  | ctx p =>
    simp only [releaseBarrier]
    split
    · next hp =>
      refine ctxAt_setCtx_ne _ _ _ _ fun e => ?_
      subst e
      exact h.elim (fun h => h rfl) fun h => h hp
    · rfl

theorem releaseBarrier_nextPc {d : Dev} {o : Nat} (h : (ctxAt d o).wait = .barrier) :
    NextPc (ctxAt d o) (ctxAt (releaseBarrier d (.ctx o)) o) := by
  simp only [releaseBarrier, if_pos h, ctxAt_setCtx]
  have hn : NextPc (ctxAt d o) { (ctxAt d o).advance with wait := .none } := advance_nextPc rfl rfl
  split <;> exact hn

theorem cmdOutcome_releaseBarrier (d : Dev) (who : Who) (q k : Nat) :
    cmdOutcome (releaseBarrier d who) q k = (cmdOutcome d q k).map fun o =>
      if who = .cmd q k ∧ o.1 ≠ .finished then (.finished, 0) else o := by
  cases who with
  | cmd p j =>
    simp only [releaseBarrier, Who.cmd.injEq]
    refine (cmdOutcome_finishCmd _ _ _ _ _ _ _).trans ?_
    simp only [eq_comm (a := q), eq_comm (a := k), and_assoc]
    rfl
  | ctx o =>
    have : cmdOutcome (releaseBarrier d (.ctx o)) q k = cmdOutcome d q k := by
      simp only [releaseBarrier]; split <;> rfl
    simp [this]
  | slot t n => simp [releaseBarrier]

/-! ### Letting all participants go -/

theorem releaseBarriers_frame (ws : List Who) (d : Dev) : BarrierFrame d (ws.foldl releaseBarrier d) := by
  induction ws generalizing d with
  | nil => rfl
  | cons who ws ih => exact (releaseBarrier_frame d who).trans (ih _)

theorem ctxAt_releaseBarriers {o : Nat} (ws : List Who) (d : Dev) (h : (ctxAt d o).wait ≠ .barrier) :
    ctxAt (ws.foldl releaseBarrier d) o = ctxAt d o := by
  induction ws generalizing d with
  | nil => rfl
  | cons who ws ih =>
    have hk := ctxAt_releaseBarrier (who := who) (.inr h)
    exact (ih _ (hk ▸ h)).trans hk

theorem releaseBarriers_nextPc {o : Nat} (ws : List Who) (d : Dev) (hm : .ctx o ∈ ws)
    (h : (ctxAt d o).wait = .barrier) : NextPc (ctxAt d o) (ctxAt (ws.foldl releaseBarrier d) o) := by
  induction ws generalizing d with
  | nil => cases hm
  | cons who ws ih =>
    by_cases hw : who = .ctx o
    · subst hw
      have hn := releaseBarrier_nextPc h
      rw [List.foldl_cons, ctxAt_releaseBarriers]
      · exact hn
      · rw [hn.2]; exact nofun
    · have hk := ctxAt_releaseBarrier (d := d) (.inl hw)
      have := ih (releaseBarrier d who) ((List.mem_cons.1 hm).resolve_left (Ne.symm hw)) (hk ▸ h)
      rwa [hk] at this

theorem releaseBarriers_finished (ws : List Who) (d : Dev) {q k st : Nat}
    (h : cmdOutcome d q k = some (.finished, st)) :
    cmdOutcome (ws.foldl releaseBarrier d) q k = some (.finished, st) := by
  induction ws generalizing d with
  | nil => exact h
  | cons who ws ih => exact ih _ (by rw [cmdOutcome_releaseBarrier, h]; simp)

theorem releaseBarriers_finish (ws : List Who) (d : Dev) {q k : Nat} {o : CmdState × Nat} (hm : .cmd q k ∈ ws)
    (h : cmdOutcome d q k = some o) (ho : o.1 ≠ .finished) :
    cmdOutcome (ws.foldl releaseBarrier d) q k = some (.finished, 0) := by
  induction ws generalizing d with
  | nil => cases hm
  | cons who ws ih =>
    have hr := cmdOutcome_releaseBarrier d who q k
    rw [h, Option.map_some] at hr
    by_cases hw : who = .cmd q k
    · rw [if_pos ⟨hw, ho⟩] at hr
      exact releaseBarriers_finished ws _ hr
    · rw [if_neg fun e => hw e.1] at hr
      exact ih _ ((List.mem_cons.1 hm).resolve_left (Ne.symm hw)) hr

/-! ### Pending tables -/

/-- What a completed episode makes of a table (R125). -/
def Gen.swapped (g : Gen) : Gen :=
  if g.loading.isSome then { g with deferred := min 65535 (g.deferred + 1) }
  else if g.pending then { g with active := genNext g.active, image := g.shadow, pending := false }
  else g

theorem genAt_swapTable (p : Nat) (d : Dev) (k j : TableKind) :
    genAt (swapTable d k p) j p = if j = k then (genAt d j p).swapped else genAt d j p := by
  have hset : ∀ g, genAt (setGen d k p g) j p = if j = k then g else genAt d j p := by
    intro g
    by_cases hj : j = k
    · rw [if_pos hj, hj, genAt_setGen]
    · have hkey : 4 * j.code + p ≠ 4 * k.code + p := by
        revert hj; cases j <;> cases k <;> simp [TableKind.code]
      rw [if_neg hj]
      exact mget_mset_ne _ _ _ hkey
  unfold swapTable Gen.swapped
  by_cases hj : j = k
  · subst hj
    simp only [if_true]
    split
    · rw [genAt_setGen]
    · split
      · rw [genAt_setGen]
      · rfl
  · rw [if_neg hj]
    dsimp only
    split
    · rw [hset, if_neg hj]
    · split
      · rw [hset, if_neg hj]
      · rfl

/-- All three tables of a partition at the end of an episode. -/
def swapTables (d : Dev) (p : Nat) : Dev :=
  swapTable (swapTable (swapTable d .sfu p) .signboard p) .dispatch p

theorem genAt_swapTables (p : Nat) (d : Dev) (k : TableKind) :
    genAt (swapTables d p) k p = (genAt d k p).swapped := by
  unfold swapTables
  simp only [genAt_swapTable]
  cases k <;> rfl

theorem swapTable_frame (d : Dev) (k : TableKind) (p : Nat) :
    swapTable d k p = { d with hub.gens := (swapTable d k p).hub.gens } := by
  unfold swapTable
  dsimp only
  split
  · rfl
  · split <;> rfl

theorem swapTables_frame (d : Dev) (p : Nat) : swapTables d p = { d with hub.gens := (swapTables d p).hub.gens } := by
  unfold swapTables
  generalize hd : swapTable (swapTable (swapTable d .sfu p) .signboard p) .dispatch p = d₃
  have h₃ := swapTable_frame (swapTable (swapTable d .sfu p) .signboard p) .dispatch p
  rw [hd, swapTable_frame (swapTable d .sfu p) .signboard p, swapTable_frame d .sfu p] at h₃
  exact h₃

/-! ### The arrival of a context -/

theorem episodeAt_setEpisode (d : Dev) (p b : Nat) (e : Option Episode) : episodeAt (setEpisode d p b e) p b = e := by
  simp [episodeAt, setEpisode]

theorem episodeAt_setEpisode_ne (d : Dev) {p b p' b' : Nat} (e : Option Episode) (hb : b < 64) (hb' : b' < 64)
    (h : p' ≠ p ∨ b' ≠ b) : episodeAt (setEpisode d p b e) p' b' = episodeAt d p' b' := by
  have hkey : 64 * p' + b' ≠ 64 * p + b := by omega
  simp [episodeAt, setEpisode, mget_mset_ne _ _ _ hkey]

section Barrier

variable {s : State} {c : Nat} {w : TWord} (h : Issues s c w .sync) (hf : w.f 51 32 = 0)
  (h7 : bits w.bImmRaw 7 6 = 0) (h31 : bits w.bImmRaw 31 20 = 0)

theorem barrierWait_of_issues {e : Eng} (h : Issues s c w e) : (ctxAt s.dev c).wait ≠ .barrier := by
  obtain ⟨-, hc, -⟩ := h
  intro hw
  simp [canIssue, hw, Wait.tries] at hc

include h hf h7 h31

theorem completes_barrier_held (hb : mmaBusy s.dev c = true ∨ (ctxAt s.dev c).quiet = false) :
    Completes (.barrier c w) s fun d =>
      OnlyCtx s.dev d c ∧ ctxAt d c = { ctxAt s.dev c with wait := .retry false Eng.sync.code } := by
  refine completes_issue (execBarrier c w) h rfl rfl ?_
  have hb' : (mmaBusy s.dev c || !(ctxAt s.dev c).quiet) = true := by
    rcases hb with hb | hb <;> simp [hb]
  simp only [hf, h7, h31, ne_eq, not_true_eq_false, or_self, if_false, hb', if_true]
  exact updCtx_spec _ _ _

variable (hb : mmaBusy s.dev c = false) (hq : (ctxAt s.dev c).quiet = true)
include hb hq

/-- A context that nothing holds up arrives. -/
theorem completes_barrier {P : Dev → Prop}
    (hP : P (match arrive (updCtx s.dev c fun x => { x with wait := .barrier }) (partOfCtx s.dev c)
        (bits w.bImmRaw 5 0) (bits w.bImmRaw 19 8 + 1) (.ctx c) with
      | some d => d
      | none => faultCtx s.dev c stBarrierMismatch .sync 0)) :
    Completes (.barrier c w) s P := by
  refine completes_issue (execBarrier c w) h rfl rfl ?_
  have hb' : (mmaBusy s.dev c || !(ctxAt s.dev c).quiet) = false := by simp [hb, hq]
  simp only [hf, h7, h31, ne_eq, not_true_eq_false, or_self, if_false, hb', Bool.false_eq_true]
  exact hP

theorem completes_barrier_arrives {P : Dev → Prop} {d : Dev}
    (ha : arrive (updCtx s.dev c fun x => { x with wait := .barrier }) (partOfCtx s.dev c)
      (bits w.bImmRaw 5 0) (bits w.bImmRaw 19 8 + 1) (.ctx c) = some d) (hP : P d) :
    Completes (.barrier c w) s P :=
  completes_barrier h hf h7 h31 hb hq (by rw [ha]; exact hP)

theorem completes_barrier_mismatch
    (he : ((episodeAt s.dev (partOfCtx s.dev c) (bits w.bImmRaw 5 0)).getD ⟨bits w.bImmRaw 19 8 + 1, []⟩).count ≠
      bits w.bImmRaw 19 8 + 1) (hp : (ctxAt s.dev c).pend = none) :
    Completes (.barrier c w) s fun d => FaultsAt s.dev d c 0x0430 .sync 0 := by
  refine completes_barrier h hf h7 h31 hb hq ?_
  have ha : arrive (updCtx s.dev c fun x => { x with wait := .barrier }) (partOfCtx s.dev c)
      (bits w.bImmRaw 5 0) (bits w.bImmRaw 19 8 + 1) (.ctx c) = none := if_pos he
  rw [ha]
  simp only [Ctx.quiet, Bool.and_eq_true, List.isEmpty_iff] at hq
  exact faultCtx_faults ⟨hq.1, hq.2, hp, hb⟩

variable {e : Episode}
  (he : e = (episodeAt s.dev (partOfCtx s.dev c) (bits w.bImmRaw 5 0)).getD ⟨bits w.bImmRaw 19 8 + 1, []⟩)
  (hn : e.count = bits w.bImmRaw 19 8 + 1)
include he hn

theorem completes_barrier_joins (hl : e.arrived.length + 1 ≠ bits w.bImmRaw 19 8 + 1) :
    let p := partOfCtx s.dev c
    let b := bits w.bImmRaw 5 0
    Completes (.barrier c w) s fun d =>
      episodeAt d p b = some ⟨bits w.bImmRaw 19 8 + 1, e.arrived ++ [.ctx c]⟩ ∧
      (∀ p' b', b' < 64 → p' ≠ p ∨ b' ≠ b → episodeAt d p' b' = episodeAt s.dev p' b') ∧
      d = { setCtx s.dev c { ctxAt s.dev c with wait := .barrier } with hub.barriers := d.hub.barriers } := by
  intro p b
  have ha : arrive (updCtx s.dev c fun x => { x with wait := .barrier }) p b (bits w.bImmRaw 19 8 + 1) (.ctx c) =
      some (setEpisode (updCtx s.dev c fun x => { x with wait := .barrier }) p b
        (some ⟨bits w.bImmRaw 19 8 + 1, e.arrived ++ [.ctx c]⟩)) := by
    subst he
    refine (if_neg (not_not.2 hn)).trans (if_neg ?_)
    rwa [List.length_append, List.length_singleton]
  refine completes_barrier_arrives h hf h7 h31 hb hq ha ⟨episodeAt_setEpisode _ _ _ _,
    fun p' b' hb' hne => episodeAt_setEpisode_ne _ _ (bits_lt w.bImmRaw 5 0) hb' hne, rfl⟩

theorem completes_barrier_closes (hl : e.arrived.length + 1 = bits w.bImmRaw 19 8 + 1) :
    let x := ctxAt s.dev c
    let p := partOfCtx s.dev c
    Completes (.barrier c w) s fun d =>
      episodeAt d p (bits w.bImmRaw 5 0) = none ∧ NextPc x (ctxAt d c) ∧
      (∀ o, .ctx o ∈ e.arrived → (ctxAt s.dev o).wait = .barrier → NextPc (ctxAt s.dev o) (ctxAt d o)) ∧
      (∀ q k y, .cmd q k ∈ e.arrived → cmdAt s.dev q k = some y → y.st ≠ .finished →
        ∃ z, cmdAt d q k = some z ∧ z.st = .finished ∧ z.status = 0) ∧
      (∀ k, genAt d k p = (genAt s.dev k p).swapped) ∧
      d.mem = s.dev.mem ∧ d.regs = s.dev.regs ∧ d.tiles = { s.dev.tiles with ctxs := d.tiles.ctxs } := by
  intro x p
  set d₁ := setEpisode (updCtx s.dev c fun x => { x with wait := .barrier }) p (bits w.bImmRaw 5 0) none with hd₁
  set ws := e.arrived ++ [.ctx c] with hws
  have ha : arrive (updCtx s.dev c fun x => { x with wait := .barrier }) p (bits w.bImmRaw 5 0)
      (bits w.bImmRaw 19 8 + 1) (.ctx c) = some (swapTables (ws.foldl releaseBarrier d₁) p) := by
    rw [hws, hd₁]
    subst he
    refine (if_neg (not_not.2 hn)).trans (if_pos ?_)
    rwa [List.length_append, List.length_singleton]
  refine completes_barrier_arrives h hf h7 h31 hb hq ha ?_
  have hself : ctxAt d₁ c = { x with wait := .barrier } := ctxAt_setCtx _ _ _
  have hctx : ∀ o, ctxAt (swapTables (ws.foldl releaseBarrier d₁) p) o = ctxAt (ws.foldl releaseBarrier d₁) o := by
    intro o; rw [swapTables_frame]; rfl
  have hfold := releaseBarriers_frame ws d₁
  refine ⟨?_, ?_, fun o ho hw => ?_, fun q k y hm hy hs => ?_, fun k => ?_, ?_, ?_, ?_⟩
  · have hbar : (swapTables (ws.foldl releaseBarrier d₁) p).hub.barriers = d₁.hub.barriers := by
      rw [swapTables_frame, hfold]
    rw [episodeAt, hbar]
    exact episodeAt_setEpisode _ _ _ _
  · have hgo := releaseBarriers_nextPc (o := c) ws d₁ (by simp [hws]) (by rw [hself])
    rw [hself] at hgo
    rw [hctx]
    exact hgo
  · have hne : o ≠ c := by
      rintro rfl
      exact barrierWait_of_issues h hw
    have ho₁ : ctxAt d₁ o = ctxAt s.dev o := ctxAt_setCtx_ne _ _ _ _ hne
    have hgo := releaseBarriers_nextPc ws d₁ (List.mem_append_left _ ho) (ho₁ ▸ hw)
    rwa [ho₁, ← hctx] at hgo
  · have hout : cmdOutcome d₁ q k = some (y.st, y.status) := by
      have : cmdAt d₁ q k = some y := hy
      rw [cmdOutcome, this]; rfl
    have hfin := releaseBarriers_finish ws d₁ (List.mem_append_left _ hm) hout hs
    have hcmd : cmdAt (swapTables (ws.foldl releaseBarrier d₁) p) q k = cmdAt (ws.foldl releaseBarrier d₁) q k := by
      rw [swapTables_frame]; rfl
    rw [hcmd]
    obtain ⟨z, hz, hzo⟩ := Option.map_eq_some_iff.1 hfin
    rw [Prod.mk.injEq] at hzo
    exact ⟨z, hz, hzo⟩
  · rw [genAt_swapTables]
    congr 1
    rw [hfold]; rfl
  · rw [swapTables_frame, hfold]; rfl
  · rw [swapTables_frame, hfold]; rfl
  · rw [swapTables_frame, hfold]; rfl

end Barrier

end Sys2Proof.Machine
end

section
/-!
PROOF. EXIT (R50, R145, R146): what it makes of each slot of the context. With it the synchronisation unit is whole.
-/

namespace Sys2Proof.Machine

/-! ### One slot under EXIT -/

/-- A slot whose itinerary EXIT has to end. -/
def Slot.active (a : Slot) : Prop := a.state = .running ∨ a.state = .waitSem ∨ a.state = .held

/-- What EXIT makes of slot `a` (R139, R146). -/
structure Exited (a z : Slot) : Prop where
  loaded : a.state = .loaded → z = { a with state := .ended }
  load : a.active → a.store = false → z.flight = a.flight ∧ (z.state = .stopping ∨ z.state = .ended) ∧
    (a.flight ≠ [] → z = { a with state := .stopping })
  store : a.active → a.store = true → z.flight = a.flight ∧
    (z = { a with stopReq := true } ∨ z.state = .stopping ∨ z.state = .ended)
  other : ¬ a.active → a.state ≠ .loaded → z = a

/-- Slot `n` of tile `t` and its wait are all that changes. -/
structure OnlySlot (d d' : Dev) (t n : Nat) : Prop where
  frame : d' = { d with tiles.slots := d'.tiles.slots, hub.waiters := d'.hub.waiters }
  slots : ∀ k, k ≠ 16 * t + n → mget Slot.reset d'.tiles.slots k = mget Slot.reset d.tiles.slots k
  waiters : ∀ q, q.who ≠ .slot t n → (q ∈ d'.hub.waiters ↔ q ∈ d.hub.waiters)

theorem OnlySlot.refl (d : Dev) (t n : Nat) : OnlySlot d d t n := ⟨rfl, fun _ _ => rfl, fun _ _ => .rfl⟩

theorem OnlySlot.trans {a b c : Dev} {t n : Nat} (h : OnlySlot a b t n) (g : OnlySlot b c t n) :
    OnlySlot a c t n := by
  refine ⟨?_, fun k hk => (g.slots k hk).trans (h.slots k hk), fun q hq => (g.waiters q hq).trans (h.waiters q hq)⟩
  rw [g.frame, h.frame]

theorem setSlot_onlySlot (d : Dev) (t n : Nat) (x : Slot) : OnlySlot d (setSlot d t n x) t n :=
  ⟨rfl, fun _ hk => mget_mset_ne _ _ _ hk, fun _ _ => .rfl⟩

theorem dropWaits_onlySlot (d : Dev) (t n : Nat) : OnlySlot d (dropWaits d (.slot t n)) t n :=
  ⟨rfl, fun _ _ => rfl, fun q hq => by simp [dropWaits, hq]⟩

theorem settleSlot_onlySlot (d : Dev) (t n : Nat) : OnlySlot d (settleSlot d t n) t n := by
  unfold settleSlot
  dsimp only
  split
  · exact setSlot_onlySlot _ _ _ _
  · exact .refl _ _ _

theorem stopSlot_onlySlot (d : Dev) (t n : Nat) : OnlySlot d (stopSlot d t n) t n :=
  ((dropWaits_onlySlot d t n).trans (setSlot_onlySlot _ _ _ _)).trans (settleSlot_onlySlot _ _ _)

theorem exitPoint_onlySlot (d : Dev) (t n : Nat) : OnlySlot d (exitPoint d t n) t n := by
  unfold exitPoint
  dsimp only
  split
  · exact stopSlot_onlySlot _ _ _
  · exact .refl _ _ _

theorem exitSlot_onlySlot (d : Dev) (t n : Nat) : OnlySlot d (exitSlot d t n) t n := by
  have hact : OnlySlot d (if (slotAt d t n).store then
      exitPoint (setSlot d t n { slotAt d t n with stopReq := true }) t n else stopSlot d t n) t n := by
    split
    · exact (setSlot_onlySlot _ _ _ _).trans (exitPoint_onlySlot _ _ _)
    · exact stopSlot_onlySlot _ _ _
  unfold exitSlot
  dsimp only
  split
  · exact hact
  · exact hact
  · exact hact
  · exact setSlot_onlySlot _ _ _ _
  · exact .refl _ _ _

/-- A slot that stops keeps its elements, and is STOPPING while it has any. -/
theorem slotAt_stopSlot (d : Dev) (t n : Nat) : (slotAt (stopSlot d t n) t n).flight = (slotAt d t n).flight ∧
    ((slotAt (stopSlot d t n) t n).state = .stopping ∨ (slotAt (stopSlot d t n) t n).state = .ended) ∧
    ((slotAt d t n).flight ≠ [] → slotAt (stopSlot d t n) t n = { slotAt d t n with state := .stopping }) := by
  have hdrop : slotAt (dropWaits d (.slot t n)) t n = slotAt d t n := rfl
  unfold stopSlot settleSlot
  simp only [slotAt_setSlot, hdrop]
  split
  · next h =>
    rw [slotAt_setSlot]
    exact ⟨rfl, .inr rfl, fun hne => absurd (List.isEmpty_iff.1 h.2.1) hne⟩
  · rw [slotAt_setSlot]
    exact ⟨rfl, .inl rfl, fun _ => rfl⟩

theorem slotAt_exitPoint (d : Dev) (t n : Nat) : (slotAt (exitPoint d t n) t n).flight = (slotAt d t n).flight ∧
    (slotAt (exitPoint d t n) t n = slotAt d t n ∨ (slotAt (exitPoint d t n) t n).state = .stopping ∨
      (slotAt (exitPoint d t n) t n).state = .ended) := by
  unfold exitPoint
  dsimp only
  split
  · obtain ⟨hf, hs, -⟩ := slotAt_stopSlot d t n
    exact ⟨hf, .inr hs⟩
  · exact ⟨rfl, .inl rfl⟩

theorem exitSlot_of_active {d : Dev} {t n : Nat} (h : (slotAt d t n).active) :
    exitSlot d t n = if (slotAt d t n).store then
      exitPoint (setSlot d t n { slotAt d t n with stopReq := true }) t n else stopSlot d t n := by
  unfold exitSlot
  rcases h with h | h | h <;> simp only [h]

theorem exitSlot_of_other {d : Dev} {t n : Nat} (h : ¬ (slotAt d t n).active) (hl : (slotAt d t n).state ≠ .loaded) :
    exitSlot d t n = d := by
  unfold exitSlot Slot.active at *
  cases hs : (slotAt d t n).state <;> simp_all

theorem exitSlot_exits (d : Dev) (t n : Nat) : Exited (slotAt d t n) (slotAt (exitSlot d t n) t n) := by
  refine ⟨fun h => ?_, fun h hs => ?_, fun h hs => ?_, fun h hl => by rw [exitSlot_of_other h hl]⟩
  · simp only [exitSlot, h, slotAt_setSlot]
  · rw [exitSlot_of_active h, if_neg (by rw [hs]; exact Bool.false_ne_true)]
    exact slotAt_stopSlot d t n
  · rw [exitSlot_of_active h, if_pos hs]
    have he := slotAt_exitPoint (setSlot d t n { slotAt d t n with stopReq := true }) t n
    rwa [slotAt_setSlot] at he

/-! ### A slot named twice -/

/-- EXIT's work on a slot may be done again: nothing more happens to it than one time would do. -/
theorem Exited.again {a b z : Slot} (h : Exited a b) (g : Exited b z) : Exited a z := by
  have stays : (b.state = .stopping ∨ b.state = .ended) → z = b := fun hb => by
    refine g.other ?_ ?_
    · unfold Slot.active; rcases hb with hb | hb <;> simp [hb]
    · rcases hb with hb | hb <;> simp [hb]
  refine ⟨fun ha => ?_, fun ha hs => ?_, fun ha hs => ?_, fun ha hl => ?_⟩
  · have hb := h.loaded ha
    rw [stays (.inr (by rw [hb])), hb]
  · have hb := h.load ha hs
    rw [stays hb.2.1]
    exact hb
  · obtain ⟨hf, hb⟩ := h.store ha hs
    rcases hb with hb | hb
    · subst hb
      exact g.store ha hs
    · rw [stays hb]
      exact ⟨hf, .inr hb⟩
  · obtain rfl := h.other ha hl
    exact g.other ha hl

/-! ### All slots of a context -/

theorem slotAt_exitSlot_ne (d : Dev) {t n m : Nat} (h : m ≠ n) : slotAt (exitSlot d t n) t m = slotAt d t m :=
  (exitSlot_onlySlot d t n).slots _ (by omega)

/-- What EXIT does to the slots `ns` of a tile. -/
structure ExitsSlots (d d' : Dev) (t : Nat) (ns : List Nat) : Prop where
  frame : d' = { d with tiles.slots := d'.tiles.slots, hub.waiters := d'.hub.waiters }
  slots : ∀ k, (∀ m ∈ ns, k ≠ 16 * t + m) → mget Slot.reset d'.tiles.slots k = mget Slot.reset d.tiles.slots k
  waiters : ∀ q, (∀ m ∈ ns, q.who ≠ .slot t m) → (q ∈ d'.hub.waiters ↔ q ∈ d.hub.waiters)
  each : ∀ m ∈ ns, Exited (slotAt d t m) (slotAt d' t m)

theorem exitSlots_exits (t : Nat) (ns : List Nat) (d : Dev) :
    ExitsSlots d (ns.foldl (fun d n => exitSlot d t n) d) t ns := by
  induction ns generalizing d with
  | nil => exact ⟨rfl, fun _ _ => rfl, fun _ _ => .rfl, nofun⟩
  | cons n ns ih =>
    have h := exitSlot_onlySlot d t n
    have g := ih (exitSlot d t n)
    refine ⟨?_, fun k hk => ?_, fun q hq => ?_, fun m hm => ?_⟩
    · rw [List.foldl_cons, g.frame, h.frame]
    · exact (g.slots k fun m hm => hk m (.tail _ hm)).trans (h.slots k (hk n (.head _)))
    · exact (g.waiters q fun m hm => hq m (.tail _ hm)).trans (h.waiters q (hq n (.head _)))
    · by_cases hmn : m = n
      · subst hmn
        by_cases hin : m ∈ ns
        · exact (exitSlot_exits d t m).again (g.each m hin)
        · have hkeep : slotAt (ns.foldl (fun d n => exitSlot d t n) (exitSlot d t m)) t m =
              slotAt (exitSlot d t m) t m :=
            g.slots _ fun k hk he => hin ((by omega : m = k) ▸ hk)
          rw [List.foldl_cons, hkeep]
          exact exitSlot_exits d t m
      · have he := g.each m ((List.mem_cons.1 hm).resolve_left hmn)
        rwa [slotAt_exitSlot_ne d hmn] at he

section Exit

variable {s : State} {c : Nat} {w : TWord} (h : Issues s c w .scalar)
include h

theorem completes_exit_fault {e : Nat × Nat} (he : exitFault s.dev c = some e) (hs : Settled s.dev c) :
    Completes (.exit c w) s fun d => FaultsAt s.dev d c e.1 .stream e.2 := by
  refine completes_issue (execExit c w) h rfl rfl ?_
  simp only [he]
  exact faultCtx_faults hs

theorem completes_exit (he : exitFault s.dev c = none) :
    let x := ctxAt s.dev c
    let t := tileOf c
    Completes (.exit c w) s fun d =>
      ctxAt d c = { x with state := .draining, wait := .none } ∧
      d = { setCtx s.dev c (ctxAt d c) with tiles.slots := d.tiles.slots, hub.waiters := d.hub.waiters } ∧
      (∀ k, (∀ m ∈ x.itins, k ≠ 16 * t + m) →
        mget Slot.reset d.tiles.slots k = mget Slot.reset s.dev.tiles.slots k) ∧
      (∀ q, (∀ m ∈ x.itins, q.who ≠ .slot t m) → (q ∈ d.hub.waiters ↔ q ∈ s.dev.hub.waiters)) ∧
      ∀ m ∈ x.itins, Exited (slotAt s.dev t m) (slotAt d t m) := by
  intro x t
  refine completes_issue (execExit c w) h rfl rfl ?_
  simp only [he]
  have hexit := exitSlots_exits t x.itins s.dev
  set d₁ := x.itins.foldl (fun d n => exitSlot d t n) s.dev
  have hctx : ctxAt d₁ c = x := by rw [hexit.frame]; rfl
  have hx : ctxAt (updCtx d₁ c fun x => { x with state := .draining, wait := .none }) c =
      { x with state := .draining, wait := .none } := by rw [ctxAt_updCtx, hctx]
  refine ⟨hx, ?_, hexit.slots, hexit.waiters, hexit.each⟩
  rw [hx]
  unfold updCtx
  rw [hctx]
  conv_lhs => rw [hexit.frame]
  rfl

end Exit

/-! ### The obligation -/

theorem forall_mem_pair {α : Type} {p : α → Prop} {a b : α} (ha : p a) (hb : p b) : ∀ i ∈ [a, b], p i :=
  List.forall_mem_cons.2 ⟨ha, List.forall_mem_singleton.2 hb⟩

/-- Settles O12: FENCE and the rings by the layer above, semaphores through what a wake leaves unchanged, BARRIER
through the participants let go one by one, EXIT through what it makes of one slot. -/
theorem synchronizationResults : Obligations.SynchronizationResults := by
  unfold Obligations.SynchronizationResults
  refine ⟨fun s c w h => ?_, fun s c w h hp => ?_, fun s c w _ => ⟨fun h hf h7 h31 => ?_, fun h => ?_⟩⟩
  · intro x t waits forgets mmas writes remote named
    refine ⟨completes_fence h, completes_fence_illegal h, ?_⟩
    intro n producer faults hm hr
    refine ⟨fun hn => forall_mem_pair ?_ ?_, fun hn hx => forall_mem_pair ?_ ?_, fun rn r hn hx hring =>
      ⟨fun e he => forall_mem_pair ?_ ?_, fun he hb => forall_mem_pair ?_ ?_, fun he hd hv => ?_⟩⟩
    · exact ringOp_none h (exec_ringwait s c w) hm hr hn
    · exact ringOp_none h (exec_ringrel s c w) hm hr hn
    · exact ringOp_undeclared h (exec_ringwait s c w) hm hr hn hx
    · exact ringOp_undeclared h (exec_ringrel s c w) hm hr hn hx
    · exact ringOp_storeFault h (exec_ringwait s c w) hm hr hn hx hring he
    · exact ringOp_storeFault h (exec_ringrel s c w) hm hr hn hx hring he
    · exact ringOp_bad h (exec_ringwait s c w) hm hr hn hx hring he hb
    · exact ringOp_bad h (exec_ringrel s c w) hm hr hn hx hring he hb
    · intro sets
      refine ⟨fun hb => ?_, fun hb => ?_⟩
      · have hv' : viewOk r.kind false = true := hb ▸ hv
        exact ⟨fun e hh => completes_ringwait_held h hm hr hn hx hring he hd hb hv' hh,
          fun hh => completes_ringwait_consumer h hm hr hn hx hring he hd hb hv' hh,
          fun hp => completes_ringrel_past h hm hr hn hx hring he hd hb hv' hp,
          fun hp hbusy => completes_ringrel_due h hm hr hn hx hring he hd hb hv' hp hbusy,
          fun hp hbusy => completes_ringrel_consumer h hm hr hn hx hring he hd hb hv' hp hbusy⟩
      · have hv' : viewOk r.kind true = true := hb ▸ hv
        exact ⟨completes_ringwait_producer h hm hr hn hx hring he hd hb hv',
          fun hp => completes_ringrel_full h hm hr hn hx hring he hd hb hv' hp,
          fun hp => completes_ringrel_producer h hm hr hn hx hring he hd hb hv' hp⟩
  · intro x n v done total
    exact ⟨fun hd => ⟨completes_semwait_passes h hp hd, completes_semwait_waits h hp hd,
        completes_semsig_held h hp hd, completes_semsig_signals h hp hd⟩,
      fun hd hs i hi => completes_sem_undeclared h hp hi hd hs⟩
  · intro e
    exact ⟨completes_barrier_held h hf h7 h31, fun hb hq =>
      ⟨completes_barrier_joins h hf h7 h31 hb hq rfl, completes_barrier_closes h hf h7 h31 hb hq rfl,
        completes_barrier_mismatch h hf h7 h31 hb hq⟩⟩
  · refine ⟨fun e he hs => completes_exit_fault h he hs, fun he => ?_⟩
    refine Completes.imp (completes_exit h he) fun d ⟨hctx, hframe, hslots, hwaits, heach⟩ =>
      ⟨hctx, hframe, hslots, hwaits, fun m hm => ?_⟩
    obtain ⟨hl, hload, hstore, hother⟩ := heach m hm
    exact ⟨hl, hload, hstore, hother⟩

end Sys2Proof.Machine
end

section
/-!
PROOF. MZERO, MREAD, MWRITE (R46, R60, R67) and the MMA that joins the queue of the array (R58 to R61).
-/

namespace Sys2Proof.Machine

/-! ### Accumulator tiles -/

theorem accRow_accClear (d : Dev) (t a t' b r : Nat) (ha : a < 8) (hb : b < 8) (hr : r < 128) :
    accRow (accClear d t a) t' b r = if t' = t ∧ b = a then 0 else accRow d t' b r := by
  simp only [accRow, accClear, setAccInfo, mget_mkeep, Bool.or_eq_true, decide_eq_true_eq]
  by_cases h : t' = t ∧ b = a
  · obtain ⟨rfl, rfl⟩ := h
    rw [if_neg (by omega), if_pos ⟨rfl, rfl⟩]
  · rw [if_pos (by omega), if_neg h]

theorem accInfo_setAccInfo (d : Dev) (t a : Nat) (x : AccInfo) : accInfo (setAccInfo d t a x) t a = x := by
  simp [accInfo, setAccInfo]

theorem accInfo_setAccInfo_ne (d : Dev) {t a t' b : Nat} (x : AccInfo) (ha : a < 8) (hb : b < 8)
    (h : t' ≠ t ∨ b ≠ a) : accInfo (setAccInfo d t a x) t' b = accInfo d t' b := by
  have hkey : 8 * t' + b ≠ 8 * t + a := by omega
  simp [accInfo, setAccInfo, mget_mset_ne _ _ _ hkey]

/-- Two rows of a tile written one after the other. -/
theorem accRow_setAccRow_pair (d : Dev) (t a p t' b r : Nat) (u v : BitVec 4096) (ha : a < 8) (hb : b < 8)
    (hp : p < 64) (hr : r < 128) :
    accRow (setAccRow (setAccRow d t a (2 * p) u) t a (2 * p + 1) v) t' b r =
      if t' = t ∧ b = a ∧ (r == 2 * p || r == 2 * p + 1) = true then (if r = 2 * p then u else v)
      else accRow d t' b r := by
  simp only [accRow_setAccRow, Bool.or_eq_true, beq_iff_eq]
  by_cases h : t' = t ∧ b = a
  · obtain ⟨rfl, rfl⟩ := h
    by_cases h1 : r = 2 * p + 1
    · subst h1
      rw [if_pos rfl, if_pos ⟨rfl, rfl, .inr rfl⟩, if_neg (by omega)]
    · by_cases h0 : r = 2 * p
      · subst h0
        rw [if_neg (by omega), if_pos rfl, if_pos ⟨rfl, rfl, .inl rfl⟩, if_pos rfl]
      · rw [if_neg (by omega), if_neg (by omega), if_neg (by omega)]
  · rw [if_neg (by omega), if_neg (by omega), if_neg (by tauto)]

/-! ### MZERO, MREAD and MWRITE -/

/-- What a move into accumulator tile `a` of tile `t` writes: the rows `written`, each as `row` says. -/
def WritesAcc (d d' : Dev) (c a : Nat) (row : Nat → BitVec 4096) (written : Nat → Bool) : Prop :=
  (∀ t' b r, b < 8 → r < 128 → accRow d' t' b r =
    if t' = tileOf c ∧ b = a ∧ written r = true then row r else accRow d t' b r) ∧
  (∀ t' b, b < 8 → t' ≠ tileOf c ∨ b ≠ a → accInfo d' t' b = accInfo d t' b) ∧
  MovesOn { d with tiles.acc := d'.tiles.acc, tiles.accRows := d'.tiles.accRows } d' c

section Acc

variable {s : State} {c : Nat} {w : TWord}

/-- An accumulator tile that is owned and not busy is reached. -/
theorem withAcc_reached {k : Nat → Dev} (hb : bit (ctxAt s.dev c).acc (w.bMod % 8) = true)
    (hf : accBusy s.dev c (w.bMod % 8) = false) : withAcc s.dev c w k = k (w.bMod % 8) := by
  simp only [withAcc, hb, hf, Bool.true_eq_false, Bool.false_eq_true, if_false]

theorem withAcc_held {k : Nat → Dev} (hb : bit (ctxAt s.dev c).acc (w.bMod % 8) = true)
    (hf : accBusy s.dev c (w.bMod % 8) = true) : withAcc s.dev c w k = hold s.dev c .matrix := by
  simp only [withAcc, hb, hf, Bool.true_eq_false, if_false, if_true]

theorem withAcc_unowned {k : Nat → Dev} (hb : bit (ctxAt s.dev c).acc (w.bMod % 8) = false) :
    withAcc s.dev c w k = operandFault s.dev c .matrix 0 := by
  simp only [withAcc, hb, if_true]

variable (h : Issues s c w .matrix)
include h

theorem completes_mzero (hb : bit (ctxAt s.dev c).acc (w.bMod % 8) = true)
    (hf : accBusy s.dev c (w.bMod % 8) = false) : Completes (.mzero c w) s fun d =>
      WritesAcc s.dev d c (w.bMod % 8) (fun _ => 0) (fun _ => true) ∧
        accInfo d (tileOf c) (w.bMod % 8) = AccInfo.reset := by
  refine completes_issue (execMzero c w) h rfl rfl ?_
  have ha : w.bMod % 8 < 8 := Nat.mod_lt _ (by omega)
  rw [withAcc_reached hb hf]
  refine ⟨⟨fun t' b r hb hr => ?_, fun t' b hb hne => accInfo_setAccInfo_ne s.dev AccInfo.reset ha hb hne, ?_⟩,
    accInfo_setAccInfo s.dev _ _ AccInfo.reset⟩
  · simp only [and_true]
    exact accRow_accClear _ _ _ _ _ _ ha hb hr
  · exact complete_movesOn (accClear s.dev (tileOf c) (w.bMod % 8)) c

theorem completes_mread (hb : bit (ctxAt s.dev c).acc (w.bMod % 8) = true)
    (hf : accBusy s.dev c (w.bMod % 8) = false) (hp : w.bImmRaw < 64) :
    Completes (.mread c w) s fun d => SetsVreg s.dev d c w.bD
      (accRow s.dev (tileOf c) (w.bMod % 8) (2 * w.bImmRaw + 1) ++
        accRow s.dev (tileOf c) (w.bMod % 8) (2 * w.bImmRaw)) {} := by
  refine completes_issue (execMread c w) h rfl rfl ?_
  rw [withAcc_reached hb hf, accPair, if_pos hp]
  exact complete_setsVreg_quiet _ _ _ _

theorem completes_mwrite (hb : bit (ctxAt s.dev c).acc (w.bMod % 8) = true)
    (hf : accBusy s.dev c (w.bMod % 8) = false) (hp : w.bImmRaw < 64) :
    Completes (.mwrite c w) s fun d =>
      WritesAcc s.dev d c (w.bMod % 8)
        (fun r => if r = 2 * w.bImmRaw then ((ctxAt s.dev c).vreg w.bD).extractLsb' 0 4096
          else ((ctxAt s.dev c).vreg w.bD).extractLsb' 4096 4096)
        (fun r => r == 2 * w.bImmRaw || r == 2 * w.bImmRaw + 1) ∧
      accInfo d (tileOf c) (w.bMod % 8) = accInfo s.dev (tileOf c) (w.bMod % 8) := by
  refine completes_issue (execMwrite c w) h rfl rfl ?_
  have ha : w.bMod % 8 < 8 := Nat.mod_lt _ (by omega)
  rw [withAcc_reached hb hf, accPair, if_pos hp]
  refine ⟨⟨fun t' b r hb hr => accRow_setAccRow_pair _ _ _ _ _ _ _ _ _ ha hb hp hr, fun _ _ _ _ => rfl, ?_⟩, rfl⟩
  exact complete_movesOn (setAccRow (setAccRow s.dev (tileOf c) (w.bMod % 8) (2 * w.bImmRaw) _)
    (tileOf c) (w.bMod % 8) (2 * w.bImmRaw + 1) _) c

theorem acc_unreached {i : Instr} (hi : i ∈ [Instr.mzero c w, .mread c w, .mwrite c w]) :
    (bit (ctxAt s.dev c).acc (w.bMod % 8) = true → accBusy s.dev c (w.bMod % 8) = true →
      Completes i s fun d => OnlyCtx s.dev d c ∧
        ctxAt d c = { ctxAt s.dev c with wait := .retry false Eng.matrix.code }) ∧
    (bit (ctxAt s.dev c).acc (w.bMod % 8) = false → Settled s.dev c →
      Completes i s fun d => FaultsAt s.dev d c 0x0402 .matrix 0) := by
  simp only [List.mem_cons, List.not_mem_nil, or_false] at hi
  rcases hi with rfl | rfl | rfl
  · refine ⟨fun hb hf => completes_issue (execMzero c w) h rfl rfl ?_,
      fun hb hs => completes_issue (execMzero c w) h rfl rfl ?_⟩
    · rw [withAcc_held hb hf]; exact updCtx_spec _ _ _
    · rw [withAcc_unowned hb]; exact faultCtx_faults hs
  · refine ⟨fun hb hf => completes_issue (execMread c w) h rfl rfl ?_,
      fun hb hs => completes_issue (execMread c w) h rfl rfl ?_⟩
    · rw [withAcc_held hb hf]; exact updCtx_spec _ _ _
    · rw [withAcc_unowned hb]; exact faultCtx_faults hs
  · refine ⟨fun hb hf => completes_issue (execMwrite c w) h rfl rfl ?_,
      fun hb hs => completes_issue (execMwrite c w) h rfl rfl ?_⟩
    · rw [withAcc_held hb hf]; exact updCtx_spec _ _ _
    · rw [withAcc_unowned hb]; exact faultCtx_faults hs

end Acc

/-! ### Reading an MMA's operands -/

/-- Free values alone were taken, none where the Matrix Engine may see every write of the context. -/
def OnlyFree (d d' : Dev) (c : Nat) : Prop :=
  ∃ n, d' = { d with free := n } ∧ ((∀ u ∈ (ctxAt d c).unfenced, u.eng = Eng.matrix.code) → n = d.free)

theorem OnlyFree.refl (d : Dev) (c : Nat) : OnlyFree d d c := ⟨d.free, rfl, fun _ => rfl⟩

theorem OnlyFree.trans {a b e : Dev} {c : Nat} (h : OnlyFree a b c) (g : OnlyFree b e c) : OnlyFree a e c := by
  obtain ⟨m, rfl, hm⟩ := h
  obtain ⟨n, rfl, hn⟩ := g
  exact ⟨n, rfl, fun hu => (hn hu).trans (hm hu)⟩

theorem sramRead_onlyFree (d : Dev) (c a len : Nat) : OnlyFree d (sramRead d c .matrix a len).1 c := by
  obtain ⟨⟨n, hn⟩, -, -⟩ := sramRead_spec d c .matrix a len
  refine ⟨n, hn, fun hu => ?_⟩
  rw [sramRead_fenced fun u hm _ _ => hu u hm] at hn
  exact (congrArg Dev.free hn).symm

theorem readPieces_onlyFree (c : Nat) (ps : List Piece) (d : Dev) : OnlyFree d (readPieces c ps d).2 c := by
  induction ps generalizing d with
  | nil => exact .refl d c
  | cons p ps ih => exact (sramRead_onlyFree d c p.2.1 p.2.2).trans (ih _)

theorem readRows_onlyFree (c : Nat) (rows : List (List Piece)) (d : Dev) : OnlyFree d (readRows c rows d).2 c := by
  induction rows generalizing d with
  | nil => exact .refl d c
  | cons r rows ih => exact (readPieces_onlyFree c r d).trans (ih _)

theorem length_readRows (c : Nat) (rows : List (List Piece)) (d : Dev) :
    (readRows c rows d).1.length = rows.length := by
  induction rows generalizing d with
  | nil => rfl
  | cons r rows ih => exact congrArg Nat.succ (ih _)

/-! ### An MMA joins the queue -/

/-- What an MMA that passes its checks leaves (R46, R58, R61). -/
def JoinsQueue (d₀ d : Dev) (c : Nat) (w : TWord) (sel : List Nat) : Prop :=
  let x := ctxAt d₀ c
  let t := tileOf c
  ∃ r n, mmaQueue d t = mmaQueue d₀ t ++ [r] ∧
    r.ctx = c ∧ r.acc = w.dAt ∧ r.m = w.dM ∧ r.fmtA = w.dFmtA ∧ r.fmtB = w.dFmtB ∧ r.zero = w.dZero ∧
    r.sparse = w.dSparse ∧ r.bkeep = w.dBkeep ∧ r.sel = sel ∧ r.rowScales = rowScales x w ∧ r.key = x.srKey ∧
    r.b.owner = c ∧ r.b.fmt = w.dFmtB ∧ r.aRows.length = w.dM ∧
    MovesOn { d₀ with tiles.mmaQ := d.tiles.mmaQ, free := n } d c ∧
    ((∀ u ∈ x.unfenced, u.eng = Eng.matrix.code) → n = d₀.free)

/-- The device once the operands are read, in the order of an MMA. -/
def readOperands (c : Nat) (o : Operands) (d : Dev) : Dev :=
  (readRows c o.bScales (readRows c o.b (readRows c o.aScales (readRows c o.a d).2).2).2).2

theorem readOperands_onlyFree (c : Nat) (o : Operands) (d : Dev) : OnlyFree d (readOperands c o d) c :=
  (((readRows_onlyFree c o.a d).trans (readRows_onlyFree c o.aScales _)).trans
    (readRows_onlyFree c o.b _)).trans (readRows_onlyFree c o.bScales _)

theorem enqueueMma_joins {d₀ d : Dev} {c : Nat} (w : TWord) (sel : List Nat) {o : Operands} (h : OnlyFree d₀ d c)
    (ha : o.a.length = w.dM) : JoinsQueue d₀ (enqueueMma d c w sel o) c w sel := by
  obtain ⟨n, hn, hfree⟩ := h.trans (readOperands_onlyFree c o d)
  obtain ⟨m, rfl, -⟩ := h
  set r : MmaReq :=
    { ctx := c, acc := w.dAt, m := w.dM, fmtA := w.dFmtA, fmtB := w.dFmtB, sparse := w.dSparse, zero := w.dZero
      bkeep := w.dBkeep, rowScales := rowScales (ctxAt d₀ c) w
      aRows := (readRows c o.a { d₀ with free := m }).1
      aScales := (readRows c o.aScales (readRows c o.a { d₀ with free := m }).2).1
      b := ⟨c, w.dFmtB, w.dSparse = 0,
        (readRows c o.b (readRows c o.aScales (readRows c o.a { d₀ with free := m }).2).2).1,
        (readRows c o.bScales (readRows c o.b (readRows c o.aScales
          (readRows c o.a { d₀ with free := m }).2).2).2).1⟩
      sel := sel, key := (ctxAt d₀ c).srKey } with hr
  have hd : enqueueMma { d₀ with free := m } c w sel o =
      complete { readOperands c o { d₀ with free := m } with
        tiles.mmaQ := (mset [] (readOperands c o { d₀ with free := m }).tiles.mmaQ (tileOf c)
          (mmaQueue (readOperands c o { d₀ with free := m }) (tileOf c) ++ [r])) } c id := rfl
  rw [hd, hn]
  refine ⟨r, n, ?_, rfl, rfl, rfl, rfl, rfl, rfl, rfl, rfl, rfl, rfl, rfl, rfl, rfl, ?_, ?_, hfree⟩
  · exact mget_mset_same ([] : List MmaReq) _ _ _
  · rw [← ha]; exact length_readRows _ _ _
  · exact complete_movesOn { d₀ with
      free := n, tiles.mmaQ := mset [] d₀.tiles.mmaQ (tileOf c) (mmaQueue d₀ (tileOf c) ++ [r]) } c

theorem parityOf_free (d : Dev) (n t : Nat) (rs : List (Nat × Nat)) :
    parityOf { d with free := n } t rs = parityOf d t rs := by
  induction rs with
  | nil => rfl
  | cons r rs ih =>
    obtain ⟨a, len⟩ := r
    simp only [parityOf, ih]
    rfl

theorem issueMma_joins {d₀ d : Dev} {c : Nat} {w : TWord} {cls : MmaClass} {sel : List Nat} (h : OnlyFree d₀ d c)
    (ho : outside (ctxAt d₀ c) (mmaOperands (ctxAt d₀ c) w cls sel).ranges = none)
    (hp : parityOf d₀ (tileOf c) (mmaOperands (ctxAt d₀ c) w cls sel).ranges = .ok) :
    JoinsQueue d₀ (issueMma d c w cls sel) c w sel := by
  have hj := enqueueMma_joins w sel h (o := mmaOperands (ctxAt d₀ c) w cls sel)
    (by simp only [mmaOperands, List.length_map, List.length_range])
  obtain ⟨n, rfl, -⟩ := h
  have hi : issueMma { d₀ with free := n } c w cls sel =
      enqueueMma { d₀ with free := n } c w sel (mmaOperands (ctxAt d₀ c) w cls sel) := by
    unfold issueMma
    have ho' : outside (ctxAt { d₀ with free := n } c)
      (mmaOperands (ctxAt { d₀ with free := n } c) w cls sel).ranges = none := ho
    have hp' : parityOf { d₀ with free := n } (tileOf c) (mmaOperands (ctxAt { d₀ with free := n } c) w cls sel).ranges =
      .ok := (parityOf_free _ _ _ _).trans hp
    simp only [ho']
    exact withParity_ok hp'
  rw [hi]
  exact hj

section Mma

variable {d : Dev} {c : Nat} {w : TWord} {cls : MmaClass}
  (hc : mmaClass w.dFmtA w.dFmtB = some cls) (hr : w.dRes = true)
  (hacc : accOk d c w cls = true) (ha : descAligned ((ctxAt d c).sreg w.dSA).toNat w.dFmtA = true)
include hc hr hacc ha

theorem mma_bkeep (hk : w.dBkeep = true) (hs : w.dSparse = 0)
    (hl : lastBlock d (tileOf c) = some (c, w.dFmtB, true)) : mma d c w = issueMma d c w cls [] := by
  have hs3 : ¬ (0 : Nat) = 3 := by omega
  simp only [mma, hc, hr, hacc, ha, hk, hs, hl, hs3, Bool.true_eq_false, ne_eq, not_true_eq_false, and_false, or_self,
    if_false, if_true, true_and]

theorem mma_dense (hk : w.dBkeep = false) (hb : descAligned ((ctxAt d c).sreg w.dSB).toNat w.dFmtB = true)
    (hs : w.dSparse = 0) : mma d c w = issueMma d c w cls [] := by
  have hs3 : ¬ (0 : Nat) = 3 := by omega
  simp only [mma, hc, hr, hacc, ha, hk, hb, hs, hs3, Bool.true_eq_false, Bool.false_eq_true, ne_eq,
    not_true_eq_false, and_false, or_self, if_false, if_true]

theorem mma_sparse (hk : w.dBkeep = false) (hb : descAligned ((ctxAt d c).sreg w.dSB).toNat w.dFmtB = true)
    (hs : w.dSparse = 1 ∨ w.dSparse = 2) (hf : cls ≠ .fp32)
    (hsel : selOk w.dSparse ((ctxAt d c).sreg w.dSX).toNat = true)
    (ho : outside (ctxAt d c) (pieceRanges (selRows cls w.dSparse ((ctxAt d c).sreg w.dSX).toNat)) = none)
    (hp : parityOf d (tileOf c) (pieceRanges (selRows cls w.dSparse ((ctxAt d c).sreg w.dSX).toNat)) = .ok) :
    mma d c w = issueMma (readRows c (selRows cls w.dSparse ((ctxAt d c).sreg w.dSX).toNat) d).2 c w cls
      (selOf w.dSparse ((ctxAt d c).sreg w.dSX).toNat
        (readRows c (selRows cls w.dSparse ((ctxAt d c).sreg w.dSX).toNat) d).1) := by
  have hs3 : w.dSparse ≠ 3 := by omega
  have hs0 : w.dSparse ≠ 0 := by omega
  simp only [mma, hc, hr, hacc, ha, hk, hb, hs3, hs0, hf, hsel, ho, Bool.true_eq_false, Bool.false_eq_true, ne_eq,
    false_and, or_self, if_false]
  exact withParity_ok hp

end Mma

/-! ### The obligation -/

/-- Settles O9: the moves by the rules of accumulator rows, the MMA through its operand reads, which take nothing
but free values. -/
theorem matrixInstructions : Obligations.MatrixInstructions := by
  unfold Obligations.MatrixInstructions
  refine ⟨fun s c w h => ⟨fun hb hf => ⟨completes_mzero h hb hf, fun hp =>
      ⟨completes_mread h hb hf hp, completes_mwrite h hb hf hp⟩⟩, fun i hi => acc_unreached h hi⟩,
    fun s c w cls sel h => ?_⟩
  intro x t rows o hc hr hacc ha hB hsel ho hp
  refine completes_issue (execMma c w) h rfl rfl ?_
  show JoinsQueue s.dev (mma s.dev c w) c w sel
  by_cases hk : w.dBkeep = true
  · rw [if_pos hk] at hB
    obtain ⟨hs, hl⟩ := hB
    have hnil : sel = [] := by
      rcases hsel with ⟨-, hn⟩ | ⟨hs', -⟩
      · exact hn
      · omega
    subst hnil
    rw [mma_bkeep hc hr hacc ha hk hs hl]
    exact issueMma_joins (.refl _ _) ho hp
  · rw [if_neg hk] at hB
    rw [Bool.not_eq_true] at hk
    rcases hsel with ⟨hs, rfl⟩ | ⟨hs, hf, hok, hout, hpar, rfl⟩
    · rw [mma_dense hc hr hacc ha hk hB hs]
      exact issueMma_joins (.refl _ _) ho hp
    · rw [mma_sparse hc hr hacc ha hk hB hs hf hok hout hpar]
      exact issueMma_joins (readRows_onlyFree _ _ _) ho hp

end Sys2Proof.Machine
end

section
/-!
PROOF. DCHAIN and MDRAIN (R67, R113, R155 to R158): the drain row by row, with what its reads and writes leave as it
was.
-/

namespace Sys2Proof.Machine

/-! ### DCHAIN -/

section Dchain

variable {s : State} {c : Nat} {w : TWord} (h : Issues s c w .drain)
include h

theorem completes_dchain_unowned (ha : ((ctxAt s.dev c).sreg w.bS1).toNat % 64 ≠ 0 ∨
      (ctxAt s.dev c).ownsSram ((ctxAt s.dev c).sreg w.bS1).toNat 128 = false) (hs : Settled s.dev c) :
    Completes (.dchain c w) s fun d => FaultsAt s.dev d c 0x0404 .drain 0 := by
  refine completes_issue (execDchain c w) h rfl rfl ?_
  simp only [if_pos ha]
  exact faultCtx_faults hs

variable (ha : ((ctxAt s.dev c).sreg w.bS1).toNat % 64 = 0)
  (ho : (ctxAt s.dev c).ownsSram ((ctxAt s.dev c).sreg w.bS1).toNat 128 = true)
  (hok : parityOf s.dev (tileOf c) [(((ctxAt s.dev c).sreg w.bS1).toNat, 128)] = .ok)
  (hf : ∀ u ∈ (ctxAt s.dev c).unfenced, u.eng = Eng.drain.code ∨
    u.addr / 64 < ((ctxAt s.dev c).sreg w.bS1).toNat / 64 ∨ ((ctxAt s.dev c).sreg w.bS1).toNat / 64 + 2 ≤ u.addr / 64)
include ha ho hok hf

/-- An owned, fenced descriptor of good parity is read as it lies in SRAM. -/
theorem completes_dchain_read {P : Dev → Prop} (hp : P
      (if chainOk s.dev c (sramGet s.dev (tileOf c) ((ctxAt s.dev c).sreg w.bS1).toNat 128) then
        complete s.dev c fun x =>
          { x with chain := some (sramGet s.dev (tileOf c) ((ctxAt s.dev c).sreg w.bS1).toNat 128) }
      else faultCtx s.dev c stDrainChainInvalid .drain 0)) : Completes (.dchain c w) s P := by
  refine completes_issue (execDchain c w) h rfl rfl ?_
  have hg : ¬ (((ctxAt s.dev c).sreg w.bS1).toNat % 64 ≠ 0 ∨
      (ctxAt s.dev c).ownsSram ((ctxAt s.dev c).sreg w.bS1).toNat 128 = false) := by
    rw [ha, ho]; simp
  have hread : sramRead s.dev c .drain ((ctxAt s.dev c).sreg w.bS1).toNat 128 =
      (s.dev, sramGet s.dev (tileOf c) ((ctxAt s.dev c).sreg w.bS1).toNat 128) :=
    sramRead_fenced fun u hu h1 h2 => (hf u hu).resolve_right (by omega)
  simp only [if_neg hg]
  rw [withParity_ok hok]
  simp only [hread]
  exact hp

theorem completes_dchain (hc : chainOk s.dev c (sramGet s.dev (tileOf c) ((ctxAt s.dev c).sreg w.bS1).toNat 128) = true) :
    let x := ctxAt s.dev c
    Completes (.dchain c w) s fun d => OnlyCtx s.dev d c ∧ NextPc x (ctxAt d c) ∧
      ctxAt d c = { x with
        chain := some (sramGet s.dev (tileOf c) (x.sreg w.bS1).toNat 128)
        pc := (ctxAt d c).pc, loops := (ctxAt d c).loops, wait := .none } := by
  intro x
  refine completes_dchain_read h ha ho hok hf ?_
  rw [if_pos hc]
  exact complete_spec rfl rfl

theorem completes_dchain_invalid
    (hc : chainOk s.dev c (sramGet s.dev (tileOf c) ((ctxAt s.dev c).sreg w.bS1).toNat 128) = false)
    (hs : Settled s.dev c) : Completes (.dchain c w) s fun d => FaultsAt s.dev d c 0x0404 .drain 0 := by
  refine completes_dchain_read h ha ho hok hf ?_
  rw [if_neg (by rw [hc]; exact Bool.false_ne_true)]
  exact faultCtx_faults hs

end Dchain

/-! ### What a drain in progress has changed -/

/-- A drain of context `c` has changed SRAM in `area`, with the record of what other engines may see, the context's
flags and the count of free values: whatever the context becomes next, nothing else. -/
structure DrainKeeps (area : Nat → Prop) (d₀ d : Dev) (c : Nat) : Prop where
  ctx : ctxAt d c = { ctxAt d₀ c with flags := (ctxAt d c).flags, unfenced := (ctxAt d c).unfenced }
  upd : ∀ z, setCtx d c z = { setCtx d₀ c z with
    free := d.free, tiles.sram := d.tiles.sram, tiles.sramBad := d.tiles.sramBad }
  sram : ∀ k, ¬ area k → mget 0 d.tiles.sram k = mget 0 d₀.tiles.sram k

theorem setCtx_sramPut_setCtx {y : Ctx} (hy : y ≠ Ctx.reset) (d : Dev) (c t a : Nat) (bs : List Byte) (z : Ctx) :
    setCtx (sramPut (setCtx d c y) t a bs) c z = sramPut (setCtx d c z) t a bs := by
  rw [← setCtx_setCtx hy d c z]; rfl

namespace DrainKeeps

variable {area : Nat → Prop} {d₀ d : Dev} {c : Nat}

theorem refl : DrainKeeps area d₀ d₀ c := ⟨rfl, fun _ => rfl, fun _ _ => rfl⟩

theorem accRow (h : DrainKeeps area d₀ d c) (t a i : Nat) : accRow d t a i = accRow d₀ t a i := by
  have he := congrArg (fun e : Dev => e.tiles.accRows) (h.upd Ctx.reset)
  have : d.tiles.accRows = d₀.tiles.accRows := he
  simp only [Machine.accRow, this]

theorem running (h : DrainKeeps area d₀ d c) (hr : (ctxAt d₀ c).state = .running) : (ctxAt d c).state = .running := by
  rw [h.ctx]; exact hr

theorem free (h : DrainKeeps area d₀ d c) {d' : Dev} (hd : ∃ n, d' = { d with free := n }) :
    DrainKeeps area d₀ d' c := by
  obtain ⟨n, rfl⟩ := hd
  refine ⟨h.ctx, fun z => ?_, h.sram⟩
  have hz : setCtx { d with free := n } c z = { setCtx d c z with free := n } := rfl
  rw [hz, h.upd z]

theorem flags (h : DrainKeeps area d₀ d c) (hr : (ctxAt d₀ c).state = .running) (f : Flags) :
    DrainKeeps area d₀ (updCtx d c fun x => x.addFlags f) c := by
  refine ⟨?_, fun z => ?_, h.sram⟩
  · rw [ctxAt_updCtx, h.ctx]; rfl
  · have hx : (ctxAt d c).addFlags f ≠ Ctx.reset := ne_reset_of_running (h.running hr)
    unfold updCtx
    rw [setCtx_setCtx hx]
    exact h.upd z

theorem write (h : DrainKeeps area d₀ d c) (hr : (ctxAt d₀ c).state = .running) {e : Eng} {a : Nat} {bs : List Byte}
    (ha : ∀ k, sramKey (tileOf c) a ≤ k → k < sramKey (tileOf c) a + bs.length → area k) :
    DrainKeeps area d₀ (sramWrite d c e a bs) c := by
  obtain ⟨un, hun⟩ : ∃ un, sramWrite d c e a bs =
      sramPut (setCtx d c { ctxAt d c with unfenced := un }) (tileOf c) a bs := ⟨_, rfl⟩
  have hx : ({ ctxAt d c with unfenced := un } : Ctx) ≠ Ctx.reset := ne_reset_of_running (h.running hr)
  have hctx : ctxAt (sramWrite d c e a bs) c = { ctxAt d c with unfenced := un } := by
    rw [hun]; exact ctxAt_setCtx _ _ _
  refine ⟨?_, fun z => ?_, fun k hk => ?_⟩
  · rw [hctx, h.ctx]
  · have hz : setCtx (sramWrite d c e a bs) c z = { setCtx d c z with
        tiles.sram := (sramWrite d c e a bs).tiles.sram, tiles.sramBad := (sramWrite d c e a bs).tiles.sramBad } := by
      rw [hun, setCtx_sramPut_setCtx hx]; rfl
    rw [hz, h.upd z]; rfl
  · rw [hun, mget_sramPut_ne _ _ _ _ _ (by by_contra hin; exact hk (ha k (by omega) (by omega)))]
    exact h.sram k hk

/-- A drain whose context then moves on. -/
theorem complete (h : DrainKeeps area d₀ d c) :
    let e := complete d c id
    (∀ k, ¬ area k → mget 0 e.tiles.sram k = mget 0 d₀.tiles.sram k) ∧
      NextPc (ctxAt d₀ c) (ctxAt e c) ∧ (ctxAt e c).sregs = (ctxAt d₀ c).sregs ∧
      (ctxAt e c).vregs = (ctxAt d₀ c).vregs ∧
      e = { setCtx d₀ c (ctxAt e c) with
        free := e.free, tiles.sram := e.tiles.sram, tiles.sramBad := e.tiles.sramBad } := by
  intro e
  have hctx : ctxAt e c = { (ctxAt d c).advance with wait := .none } := ctxAt_complete _ _ _
  refine ⟨h.sram, ?_, ?_, ?_, ?_⟩
  · rw [hctx, h.ctx]; exact advance_nextPc rfl rfl
  · rw [hctx, h.ctx]; rfl
  · rw [hctx, h.ctx]; rfl
  · rw [hctx]
    exact h.upd _

end DrainKeeps

/-! ### One row -/

theorem stepOperand_free (j : DrainJob) (d : Dev) (s : DStep) (i : Nat) :
    ∃ n, (stepOperand j d s i).1 = { d with free := n } := by
  have hread : ∀ a len, ∃ n, (sramRead d j.c .drain a len).1 = { d with free := n } :=
    fun a len => (sramRead_spec d j.c .drain a len).1
  have hsame : ∃ n, d = { d with free := n } := ⟨d.free, rfl⟩
  unfold stepOperand
  dsimp only
  split
  · exact hread _ _
  · exact hread _ _
  · exact hread _ _
  · exact hread _ _
  · exact hsame
  · exact hread _ _
  · exact hread _ _
  · exact hread _ _
  · exact hread _ _
  · exact hsame

theorem stepRow_free (j : DrainJob) (i : Nat) (p : Dev × DRow) (s : DStep) :
    ∃ n, (stepRow j i p s).1 = { p.1 with free := n } := by
  unfold stepRow
  dsimp only
  split
  · exact ⟨p.1.free, rfl⟩
  · split
    · exact ⟨p.1.free, rfl⟩
    · exact stepOperand_free j p.1 s i

theorem stepRows_free (j : DrainJob) (i : Nat) (ss : List DStep) (p : Dev × DRow) :
    ∃ n, (ss.foldl (stepRow j i) p).1 = { p.1 with free := n } := by
  induction ss generalizing p with
  | nil => exact ⟨p.1.free, rfl⟩
  | cons s ss ih =>
    obtain ⟨m, hm⟩ := stepRow_free j i p s
    obtain ⟨n, hn⟩ := ih (stepRow j i p s)
    exact ⟨n, by rw [List.foldl_cons, hn, hm]⟩

theorem length_blocks32 {α : Type} (n : Nat) (xs : List α) : (blocks32 n xs).length = n := by
  induction n generalizing xs with
  | zero => rfl
  | succ n ih => exact congrArg Nat.succ (ih _)

/-- A conversion gives scale bytes only in an MX format, one for each of the four blocks of a row. -/
theorem convertRow_scales (j : DrainJob) (i fmt : Nat) (mode : Rnd) (vs : List Nat)
    (h : (convertRow j i fmt mode vs).2.1 ≠ []) :
    fmtMx fmt = true ∧ (convertRow j i fmt mode vs).2.1.length = 4 := by
  unfold convertRow at h ⊢
  dsimp only at h ⊢
  split at h
  · exact absurd rfl h
  · next f hf =>
    split at h
    · next hmx =>
      refine ⟨hmx, ?_⟩
      simp only [hmx, if_true]
      simp [numbered, length_blocks32]
    · exact absurd rfl h
  · exact absurd rfl h

/-- The row's packed bytes, its scale bytes and the flags of its conversion. -/
def rowOut (j : DrainJob) (i : Nat) (vs : List Nat) : Nat × List Nat × Flags :=
  match (chainList j.ch).getLast? with
  | some s => if s.converts then convertRow j i s.sub s.mode vs else (packElems 32 vs, [], {})
  | none => (packElems 32 vs, [], {})

theorem rowOut_scales (j : DrainJob) (i : Nat) (vs : List Nat) (h : (rowOut j i vs).2.1 ≠ []) :
    chainScaleLen j.ch ≠ 0 ∧ (rowOut j i vs).2.1.length = 4 := by
  unfold rowOut at h ⊢
  split at h
  · next s hs =>
    split at h
    · next hc =>
      obtain ⟨hmx, hl⟩ := convertRow_scales j i s.sub s.mode vs h
      have hfmt : chainFmt j.ch = some s.sub := by unfold chainFmt; rw [hs]; exact if_pos hc
      have hlen : chainScaleLen j.ch = 512 := by unfold chainScaleLen; rw [hfmt]; exact if_pos hmx
      exact ⟨by omega, by rw [if_pos hc]; exact hl⟩
    · exact absurd rfl h
  · exact absurd rfl h

/-- Where a drain of chain `ch` to `out`, with scales at `sc`, writes the SRAM of tile `t`. -/
def drainArea (ch : List Byte) (t out sc k : Nat) : Prop :=
  (sramKey t out ≤ k ∧ k < sramKey t out + (127 * chainStride ch + chainRowLen ch)) ∨
    (chainScaleLen ch ≠ 0 ∧ sramKey t sc ≤ k ∧ k < sramKey t sc + 512) ∨
    ∃ e ∈ chainList ch, e.kind = 6 ∧ sramKey t e.addr ≤ k ∧ k < sramKey t e.addr + 4

/-- A row that its steps have passed: its bytes, its scales, its flags. -/
def putRow (j : DrainJob) (d : Dev) (out sc i : Nat) (r : DRow) : Dev :=
  let o := rowOut j i r.vs
  let d := sramWrite d j.c .drain (out + i * chainStride j.ch) (leBytes (chainRowLen j.ch) o.1)
  let d := if o.2.1.isEmpty then d
    else sramWrite d j.c .drain (sc + 4 * i) (o.2.1.map fun x => BitVec.ofNat 8 x)
  updCtx d j.c fun x => x.addFlags (r.flags.or o.2.2)

theorem drainRow_eq (j : DrainJob) (out sc : Nat) (p : Dev × Nat) (i : Nat) :
    let q := (chainList j.ch).foldl (stepRow j i) (p.1, ⟨rowStart j p.1 i, {}, p.2⟩)
    drainRow j out sc p i = (putRow j q.1 out sc i q.2, q.2.amax) := by
  unfold drainRow putRow rowOut
  rfl

section Drain

variable {j : DrainJob} {d₀ d : Dev} {out sc : Nat} (hr : (ctxAt d₀ j.c).state = .running)
include hr

theorem putRow_keeps (h : DrainKeeps (drainArea j.ch (tileOf j.c) out sc) d₀ d j.c) {i : Nat} (hi : i < 128)
    (r : DRow) : DrainKeeps (drainArea j.ch (tileOf j.c) out sc) d₀ (putRow j d out sc i r) j.c := by
  have hrow := h.write hr (e := .drain) (a := out + i * chainStride j.ch)
    (bs := leBytes (chainRowLen j.ch) (rowOut j i r.vs).1) fun k h1 h2 => .inl (by
      have hmul : i * chainStride j.ch ≤ 127 * chainStride j.ch := Nat.mul_le_mul_right _ (by omega)
      rw [length_leBytes] at h2
      simp only [sramKey] at h1 h2 ⊢
      omega)
  unfold putRow
  dsimp only
  split
  · exact hrow.flags hr _
  · next hne =>
    rw [List.isEmpty_iff] at hne
    obtain ⟨hs, hl⟩ := rowOut_scales j i r.vs hne
    refine (hrow.write hr fun k h1 h2 => .inr (.inl ?_)).flags hr _
    rw [List.length_map, hl] at h2
    simp only [sramKey] at h1 h2 ⊢
    exact ⟨hs, by omega, by omega⟩

theorem drainRow_keeps (p : Dev × Nat) (h : DrainKeeps (drainArea j.ch (tileOf j.c) out sc) d₀ p.1 j.c)
    {i : Nat} (hi : i < 128) :
    DrainKeeps (drainArea j.ch (tileOf j.c) out sc) d₀ (drainRow j out sc p i).1 j.c := by
  rw [drainRow_eq]
  exact putRow_keeps hr (h.free (stepRows_free j i _ _)) hi _

theorem drainRows_keeps (is : List Nat) (his : ∀ i ∈ is, i < 128) (p : Dev × Nat)
    (h : DrainKeeps (drainArea j.ch (tileOf j.c) out sc) d₀ p.1 j.c) :
    DrainKeeps (drainArea j.ch (tileOf j.c) out sc) d₀ (is.foldl (drainRow j out sc) p).1 j.c := by
  induction is generalizing p with
  | nil => exact h
  | cons i is ih =>
    exact ih (fun k hk => his k (.tail _ hk)) _ (drainRow_keeps hr p h (his i (.head _)))

theorem drainAll_keeps : DrainKeeps (drainArea j.ch (tileOf j.c) out sc) d₀ (drainAll j d₀ out sc) j.c := by
  have hrows := drainRows_keeps hr (List.range 128) (fun i hi => List.mem_range.1 hi) (d₀, 0)
    (.refl (area := drainArea j.ch (tileOf j.c) out sc))
  unfold drainAll
  dsimp only
  split
  · exact hrows
  · next e he =>
    have hkind : e.kind = 6 := by simpa using List.find?_some he
    refine ((hrows.free (sramRead_spec _ _ _ _ _).1).write hr fun k h1 h2 => .inr (.inr ?_)).flags hr _
    rw [length_leBytes] at h2
    exact ⟨e, List.mem_of_find?_eq_some he, hkind, h1, h2⟩

end Drain

/-! ### A chain without steps -/

theorem packElems_elems (b n v : Nat) : packElems b ((List.range n).map (elemAt v b)) = v % 2 ^ (b * n) := by
  induction n generalizing v with
  | zero => simp [packElems, Nat.mod_one]
  | succ n ih =>
    have hshift : ∀ k, elemAt v b (k + 1) = elemAt (v / 2 ^ b) b k := fun k => by
      simp only [elemAt, Nat.mul_add, Nat.mul_one, Nat.pow_add, Nat.mul_comm (2 ^ (b * k)), Nat.div_div_eq_div_mul]
    rw [List.range_succ_eq_map, List.map_cons, List.map_map, packElems]
    have htail : (List.range n).map (elemAt v b ∘ Nat.succ) = (List.range n).map (elemAt (v / 2 ^ b) b) :=
      List.map_congr_left fun k _ => hshift k
    rw [htail, ih, Nat.mul_succ, Nat.add_comm (b * n) b, Nat.pow_add, Nat.mod_mul]
    simp [elemAt]

/-- The lanes of a row, packed again, are the row. -/
theorem packElems_lanes {w : Nat} (n : Nat) (v : BitVec w) (hn : 32 * n = w) (hw : w ≤ 8192) :
    packElems 32 (lanes 32 n (BitVec.setWidth 8192 v)) = v.toNat := by
  rw [lanes, packElems_elems, BitVec.toNat_setWidth_of_le hw, hn]
  exact Nat.mod_eq_of_lt v.isLt

theorem sramGet_complete (d : Dev) (c t a n : Nat) : sramGet (complete d c id) t a n = sramGet d t a n := rfl

theorem sramGet_updCtx_sramWrite (d : Dev) (c a b n : Nat) (bs : List Byte) (f : Ctx → Ctx) :
    sramGet (updCtx (sramWrite d c .drain b bs) c f) (tileOf c) a n = sramGet (sramPut d (tileOf c) b bs) (tileOf c) a n :=
  rfl

/-- What lies below a write stays. -/
theorem sramGet_sramPut_apart (d : Dev) (t : Nat) {a b n : Nat} (bs : List Byte) (h : a + n ≤ b) :
    sramGet (sramPut d t b bs) t a n = sramGet d t a n := by
  refine List.ext_getElem (by simp only [length_sramGet]) fun k h1 h2 => ?_
  have hk : k < n := by simpa only [length_sramGet] using h1
  have hb : (sramGet (sramPut d t b bs) t a n).getD k 0 = (sramGet d t a n).getD k 0 := by
    rw [getD_sramGet _ _ _ _ _ hk, getD_sramGet _ _ _ _ _ hk]
    refine mget_sramPut_ne _ _ _ _ _ (.inl ?_)
    simp only [sramKey]
    omega
  rwa [List.getD_eq_getElem _ _ h1, List.getD_eq_getElem _ _ h2] at hb

theorem sramGet_sramPut_leBytes (d : Dev) (t a n v : Nat) :
    sramGet (sramPut d t a (leBytes n v)) t a n = leBytes n v := by
  have hput := sramGet_sramPut d t a (leBytes n v)
  rwa [length_leBytes] at hput

section Raw

variable {j : DrainJob} (hs : chainSteps j.ch = 0)
include hs

theorem chainList_of_no_steps : chainList j.ch = [] := by
  simp [chainList, hs]

theorem chainRowLen_of_no_steps : chainRowLen j.ch = 512 := by
  simp [chainRowLen, chainFmt, chainList_of_no_steps hs]

/-- Without steps a row is written as it lies in the accumulator. -/
theorem drainRow_raw (out sc : Nat) (p : Dev × Nat) (i : Nat) :
    drainRow j out sc p i = (updCtx (sramWrite p.1 j.c .drain (out + i * chainStride j.ch)
      (leBytes 512 (accRow p.1 (tileOf j.c) j.acc i).toNat)) j.c fun x => x.addFlags (Flags.or {} {}), p.2) := by
  have hstart : rowStart j p.1 i =
      lanes 32 128 (BitVec.setWidth 8192 (accRow p.1 (tileOf j.c) j.acc i)) := by
    simp only [rowStart, hs, ne_eq, not_true_eq_false, and_false, if_false]
  have hout : rowOut j i (rowStart j p.1 i) = ((accRow p.1 (tileOf j.c) j.acc i).toNat, [], {}) := by
    simp only [rowOut, chainList_of_no_steps hs, List.getLast?_nil, hstart,
      packElems_lanes 128 _ (by omega : 32 * 128 = 4096) (by omega)]
  rw [drainRow_eq, chainList_of_no_steps hs]
  simp only [List.foldl_nil, putRow, hout, chainRowLen_of_no_steps hs, List.isEmpty_nil, if_true]

theorem drainRows_raw (out sc : Nat) (d₀ : Dev) (hst : 512 ≤ chainStride j.ch)
    (hr : (ctxAt d₀ j.c).state = .running) (n : Nat) (hn : n ≤ 128) :
    ∀ i < n, sramGet ((List.range n).foldl (drainRow j out sc) (d₀, 0)).1 (tileOf j.c)
        (out + i * chainStride j.ch) 512 = leBytes 512 (accRow d₀ (tileOf j.c) j.acc i).toNat := by
  induction n with
  | zero => exact fun i hi => absurd hi (Nat.not_lt_zero i)
  | succ n ih =>
    intro i hi
    have hkeep := drainRows_keeps hr (List.range n) (fun i hi => by have := List.mem_range.1 hi; omega) (d₀, 0)
      (.refl (area := drainArea j.ch (tileOf j.c) out sc))
    have hprev := ih (by omega)
    set p := (List.range n).foldl (drainRow j out sc) (d₀, 0)
    have hget : ∀ a, sramGet (drainRow j out sc p n).1 (tileOf j.c) a 512 =
        sramGet (sramPut p.1 (tileOf j.c) (out + n * chainStride j.ch)
          (leBytes 512 (accRow d₀ (tileOf j.c) j.acc n).toNat)) (tileOf j.c) a 512 := by
      intro a
      rw [drainRow_raw hs, hkeep.accRow]
      exact sramGet_updCtx_sramWrite _ _ _ _ _ _ _
    rw [List.range_succ, List.foldl_append, List.foldl_cons, List.foldl_nil, hget]
    rcases Nat.lt_succ_iff_lt_or_eq.1 hi with hlt | rfl
    · have hmul : (i + 1) * chainStride j.ch ≤ n * chainStride j.ch := Nat.mul_le_mul_right _ hlt
      rw [Nat.succ_mul] at hmul
      rw [sramGet_sramPut_apart p.1 _ _ (by omega)]
      exact hprev i hlt
    · exact sramGet_sramPut_leBytes _ _ _ _ _

theorem drainAll_raw {out sc : Nat} {d₀ : Dev} (hst : 512 ≤ chainStride j.ch)
    (hr : (ctxAt d₀ j.c).state = .running) : ∀ i < 128, sramGet (drainAll j d₀ out sc) (tileOf j.c)
        (out + i * chainStride j.ch) 512 = leBytes 512 (accRow d₀ (tileOf j.c) j.acc i).toNat := by
  intro i hi
  have hrow := drainRows_raw hs out sc d₀ hst hr 128 (Nat.le_refl _) i hi
  unfold drainAll
  simp only [chainList_of_no_steps hs, List.find?_nil]
  exact hrow

end Raw

/-! ### MDRAIN -/

section Mdrain

variable {s : State} {c : Nat} {w : TWord} (h : Issues s c w .drain)
include h

theorem completes_mdrain_unchained (hx : (ctxAt s.dev c).chain = none) (hs : Settled s.dev c) :
    Completes (.mdrain c w) s fun d => FaultsAt s.dev d c 0x0404 .drain 0 := by
  refine completes_issue (execMdrain c w) h rfl rfl ?_
  simp only [hx]
  exact faultCtx_faults hs

variable {ch : List Byte} (hx : (ctxAt s.dev c).chain = some ch)
include hx

theorem completes_mdrain_unowned (hb : bit (ctxAt s.dev c).acc (w.bMod % 8) = false) (hs : Settled s.dev c) :
    Completes (.mdrain c w) s fun d => FaultsAt s.dev d c 0x0402 .drain 0 := by
  refine completes_issue (execMdrain c w) h rfl rfl ?_
  simp only [hx, hb, if_true]
  exact faultCtx_faults hs

theorem completes_mdrain {P : Dev → Prop} (hring : chainRing ch = false)
    (hb : bit (ctxAt s.dev c).acc (w.bMod % 8) = true) (hf : accBusy s.dev c (w.bMod % 8) = false)
    (hpair : chainPairs ch = true → bit (ctxAt s.dev c).acc (w.bMod % 8 ^^^ 1) = true ∧
      accBusy s.dev c (w.bMod % 8 ^^^ 1) = false ∧ (accInfo s.dev (tileOf c) (w.bMod % 8 ^^^ 1)).ty = .fp32)
    (huser : ∀ p, chainUser ch = some p → imgPresent (sfuImage s.dev (tileOf c)) p = true)
    (hok : parityOf s.dev (tileOf c) (chainReads ch) = .ok)
    (hp : P (complete (drainAll ⟨c, w.bMod % 8, ch, (ctxAt s.dev c).subn, (ctxAt s.dev c).srKey,
      sfuImage s.dev (tileOf c)⟩ s.dev (chainOut ch) (chainScale ch)) c id)) :
    Completes (.mdrain c w) s P := by
  refine completes_issue (execMdrain c w) h rfl rfl ?_
  have h1 : ¬ (chainPairs ch = true ∧ bit (ctxAt s.dev c).acc (w.bMod % 8 ^^^ 1) = false) := fun ⟨hc, hn⟩ => by
    rw [(hpair hc).1] at hn; cases hn
  have h2 : ¬ (accBusy s.dev c (w.bMod % 8) = true ∨
      chainPairs ch = true ∧ accBusy s.dev c (w.bMod % 8 ^^^ 1) = true) := by
    rintro (hn | ⟨hc, hn⟩)
    · rw [hf] at hn; cases hn
    · rw [(hpair hc).2.1] at hn; cases hn
  have h3 : ¬ (chainPairs ch = true ∧ (accInfo s.dev (tileOf c) (w.bMod % 8 ^^^ 1)).ty ≠ .fp32) :=
    fun ⟨hc, hn⟩ => hn (hpair hc).2.2
  have hnf : ¬ (bit (ctxAt s.dev c).acc (w.bMod % 8) = false) := by rw [hb]; simp
  simp only [hx, if_neg hnf, if_neg h1, if_neg h2, if_neg h3]
  rw [if_neg]
  · simp only [drainTo, hring, Bool.false_eq_true, if_false, runDrain]
    rw [withParity_ok hok]
    exact hp
  · cases hu : chainUser ch with
    | none => exact Bool.false_ne_true
    | some p => simp only [huser p hu, Bool.not_true, Bool.false_eq_true, not_false_eq_true]

end Mdrain

/-- Settles O11: DCHAIN by its checks, MDRAIN by what each row may change and, without steps, by the rows one after
the other. -/
theorem drainResult : Obligations.DrainResult := by
  unfold Obligations.DrainResult
  intro s c w h x t a ch at_
  refine ⟨fun ha ho hok hf => ⟨completes_dchain h ha ho hok hf, completes_dchain_invalid h ha ho hok hf⟩,
    completes_dchain_unowned h, completes_mdrain_unchained h, fun ch hx => completes_mdrain_unowned h hx,
    fun ch hx hring hb hf hpair huser hok => completes_mdrain h hx hring hb hf hpair huser hok ?_⟩
  set j : DrainJob := ⟨c, at_, ch, x.subn, x.srKey, sfuImage s.dev t⟩ with hj
  have hr := running_of_issues h
  have hkeep := drainAll_keeps (j := j) (out := chainOut ch) (sc := chainScale ch) hr
  obtain ⟨hsram, hnext, hsregs, hvregs, hframe⟩ := hkeep.complete
  intro apart
  refine ⟨fun k ho hs he => hsram k fun hin => ?_, hnext, hsregs, hvregs, hframe, fun hs hst i hi => ?_⟩
  · have harea : drainArea ch t (chainOut ch) (chainScale ch) k := hin
    rcases harea with (⟨h1, h2⟩ | ⟨hl, h1, h2⟩ | ⟨e, hm, hk, h1, h2⟩)
    · rcases ho with ho | ho <;> omega
    · rcases hs hl with ho | ho <;> omega
    · rcases he e hm hk with ho | ho <;> omega
  · rw [sramGet_complete]
    exact drainAll_raw (j := j) hs hst hr i hi

end Sys2Proof.Machine
end

section
/-!
PROOF. LAUNCH, its checker and TABLE_LOAD (R45, R123, R125, R160 to R163, R352).
-/

namespace Sys2Proof.Machine

/-! ### The checker reads and changes nothing -/

/-- What a check of a manifest that ends leaves beside the traffic of its reads. -/
def Checked.Keeps (d : Dev) : Checked → Prop
  | .wait _ => True
  | .fail d1 _ _ => AccessFrame d d1
  | .pass d1 _ => AccessFrame d d1

theorem runChecker_keeps (d : Dev) (c asid mva : Nat) : (runChecker d c asid mva).Keeps d := by
  unfold runChecker
  dsimp only
  generalize hr : (vread ⟨asid, tileOf c⟩ mva 64).go d = r
  obtain ⟨e, d1⟩ := r
  have h1 := (vread_keeps _ _ _ _).of_go hr
  match e with
  | .error (.wait n) => trivial
  | .error (.err st a) => exact h1
  | .ok h =>
    simp only
    split
    · exact h1
    · generalize hr' : (vread ⟨asid, tileOf c⟩ (mva + 64) (leAt h 4 4 - 64)).go d1 = r'
      obtain ⟨e', d2⟩ := r'
      have h2 := h1.trans ((vread_keeps _ _ _ _).of_go hr')
      match e' with
      | .error (.wait n) => trivial
      | .error (.err st a) => exact h2
      | .ok rest =>
        simp only
        split
        · exact h2
        · exact h2

theorem runChecker_pass {d d1 : Dev} {c asid mva : Nat} {m : Manifest} (h : runChecker d c asid mva = .pass d1 m) :
    AccessFrame d d1 := by
  have hk := runChecker_keeps d c asid mva
  rwa [h] at hk

theorem runChecker_fail {d d1 : Dev} {c asid mva st r : Nat} (h : runChecker d c asid mva = .fail d1 st r) :
    AccessFrame d d1 := by
  have hk := runChecker_keeps d c asid mva
  rwa [h] at hk

/-! ### LAUNCH -/

/-- The context that a LAUNCH puts into CHECKING (R45, R91, R374). -/
def launchedCtx (d : Dev) (q : Nat) (y : Cmd) : Ctx :=
  { Ctx.reset with
    state := .checking, asid := (queueAt d q).asid, queue := q, seq := y.seq
    order := d.tiles.launches, ledger := pairsOf y.aux2
    params := (List.range 6).map fun i => toW (y.param i) }

/-- The device at a LAUNCH before its command notes the context. -/
def launchedDev (d : Dev) (q : Nat) (y : Cmd) (c : Nat) : Dev :=
  { d with
    tiles := { d.tiles with
      ctxs := mset Ctx.reset d.tiles.ctxs c (launchedCtx d q y)
      l1 := d.tiles.l1.filter fun e => !(e.1 == tileOf c && e.2.1 == (queueAt d q).asid)
      launches := d.tiles.launches + 1 }
    hub.asidLocked := if d.hub.asidLocked.contains (partOfCtx d c) then d.hub.asidLocked
      else d.hub.asidLocked ++ [partOfCtx d c] }

theorem enterChecking_eq (d : Dev) (q : Nat) (y : Cmd) (c : Nat) :
    enterChecking d q y c = updCmd (launchedDev d q y c) q y.seq fun z => { z with aux := [c] } := by
  unfold enterChecking launchedDev
  dsimp only
  split
  · next hl =>
    have hl' : d.hub.asidLocked.contains (partOfCtx d c) = true := hl
    rw [if_pos hl']; rfl
  · next hl =>
    have hl' : ¬ d.hub.asidLocked.contains (partOfCtx d c) = true := hl
    rw [if_neg hl']; rfl

theorem ctxAt_launchedDev (d : Dev) (q : Nat) (y : Cmd) (c : Nat) : ctxAt (launchedDev d q y c) c = launchedCtx d q y :=
  mget_mset_same Ctx.reset d.tiles.ctxs c (launchedCtx d q y)

theorem ctxAt_launchedDev_ne (d : Dev) (q : Nat) (y : Cmd) {c o : Nat} (h : o ≠ c) :
    ctxAt (launchedDev d q y c) o = ctxAt d o :=
  mget_mset_ne Ctx.reset d.tiles.ctxs (launchedCtx d q y) h

theorem mem_asidLocked_launchedDev (d : Dev) (q : Nat) (y : Cmd) (c : Nat) :
    partOfCtx d c ∈ (launchedDev d q y c).hub.asidLocked := by
  unfold launchedDev
  dsimp only
  split
  · next h => simpa using h
  · simp

section Launch

variable {s : State} {q k : Nat} {y : Cmd} (h : CmdRuns s q k 0x0201 y)
include h

theorem completes_launch_runs {P : Dev → Prop} (hp : P (if !y.aux.isEmpty then s.dev
      else match launchCtx s.dev y with
        | none => s.dev
        | some c =>
          if (ctxAt s.dev c).state = .idle then enterChecking s.dev q y c
          else match runChecker s.dev c (queueAt s.dev q).asid (y.param 0) with
            | .wait d => d
            | .fail d st r => finishCmd d q k st (toW r)
            | .pass d _ => finishCmd d q k stSlotBusy 0)) : Completes (.launch q k) s P := by
  have he : exec (.launch q k) s = execLaunch q k s := rfl
  refine completes_onDev h.1 (he.trans rfl) ?_
  rw [onStarted_runs h]
  exact hp

theorem CmdRuns.seq : y.seq = k := find_seq h.2.1

/-- What a LAUNCH that waits for no checker and whose context is free does. -/
theorem completes_launch_idle {c : Nat} {P : Dev → Prop} (ha : y.aux = []) (hc : launchCtx s.dev y = some c)
    (hi : (ctxAt s.dev c).state = .idle)
    (hp : P (updCmd (launchedDev s.dev q y c) q k fun z => { z with aux := [c] })) :
    Completes (.launch q k) s P := by
  refine completes_launch_runs h ?_
  simp only [ha, List.isEmpty_nil, Bool.not_true, Bool.false_eq_true, if_false, hc, hi, if_true]
  rw [enterChecking_eq, CmdRuns.seq h]
  exact hp

theorem completes_launch_checking (ha : y.aux ≠ []) : Completes (.launch q k) s fun d => d = s.dev := by
  refine completes_launch_runs h ?_
  have hn : (!y.aux.isEmpty) = true := by simp [ha]
  simp only [hn, if_true]

theorem completes_launch_unplaced (ha : y.aux = []) (hc : launchCtx s.dev y = none) :
    Completes (.launch q k) s fun d => d = s.dev := by
  refine completes_launch_runs h ?_
  simp only [ha, List.isEmpty_nil, Bool.not_true, Bool.false_eq_true, if_false, hc]

/-- A LAUNCH onto a slot that is not IDLE ends with what the checker finds, or SLOT_BUSY. -/
theorem completes_launch_busy {c : Nat} {P : Dev → Prop} (ha : y.aux = []) (hc : launchCtx s.dev y = some c)
    (hi : (ctxAt s.dev c).state ≠ .idle)
    (hp : P (match runChecker s.dev c (queueAt s.dev q).asid (y.param 0) with
      | .wait d => d
      | .fail d st r => finishCmd d q k st (toW r)
      | .pass d _ => finishCmd d q k stSlotBusy 0)) : Completes (.launch q k) s P := by
  refine completes_launch_runs h ?_
  simp only [ha, List.isEmpty_nil, Bool.not_true, Bool.false_eq_true, if_false, hc, if_neg hi]
  exact hp

theorem completes_launch_refused {c : Nat} (ha : y.aux = []) (hc : launchCtx s.dev y = some c)
    (hi : (ctxAt s.dev c).state ≠ .idle) :
    (∀ m d1, runChecker s.dev c (queueAt s.dev q).asid (y.param 0) = .pass d1 m →
      Completes (.launch q k) s fun d => Finishes d1 d q k 0x030C 0) ∧
    (∀ st r d1, runChecker s.dev c (queueAt s.dev q).asid (y.param 0) = .fail d1 st r →
      Completes (.launch q k) s fun d => Finishes d1 d q k st (toW r)) := by
  refine ⟨fun m d1 hr => completes_launch_busy h ha hc hi ?_, fun st r d1 hr => completes_launch_busy h ha hc hi ?_⟩
  · rw [hr]
    exact finishCmd_finishes (((runChecker_pass hr).cmdAt q k).trans h.2.1) h.open
  · rw [hr]
    exact finishCmd_finishes (((runChecker_fail hr).cmdAt q k).trans h.2.1) h.open

theorem completes_launch {c : Nat} (ha : y.aux = []) (hc : launchCtx s.dev y = some c)
    (hi : (ctxAt s.dev c).state = .idle) : Completes (.launch q k) s fun d =>
      ctxAt d c = { Ctx.reset with
        state := .checking, asid := (queueAt s.dev q).asid, queue := q, seq := k
        order := s.dev.tiles.launches, ledger := pairsOf y.aux2
        params := (List.range 6).map fun i => toW (y.param i) } ∧
      (∀ o, o ≠ c → ctxAt d o = ctxAt s.dev o) ∧ OnlyCmd { s.dev with
        tiles := d.tiles, hub.asidLocked := d.hub.asidLocked } d q k ∧
      (partOfCtx s.dev c) ∈ d.hub.asidLocked ∧
      d.tiles = { s.dev.tiles with
        ctxs := d.tiles.ctxs, l1 := d.tiles.l1, launches := s.dev.tiles.launches + 1 } := by
  refine completes_launch_idle h ha hc hi ⟨?_, fun o ho => ?_, ?_, ?_, rfl⟩
  · refine (ctxAt_launchedDev s.dev q y c).trans ?_
    rw [launchedCtx, CmdRuns.seq h]
  · exact ctxAt_launchedDev_ne s.dev q y ho
  · have hcmd : cmdAt (launchedDev s.dev q y c) q k = some y := h.2.1
    exact (updCmd_becomes (f := fun z => { z with aux := [c] }) hcmd fun _ => rfl).1
  · exact mem_asidLocked_launchedDev s.dev q y c

end Launch

/-! ### The checker's outcome -/

/-- The registers that a launched context starts with: S1 to S4 from the parameters (R45). -/
def launchSregs (x : Ctx) : List (Nat × Word) :=
  ((List.range 4).map fun i => (i + 1, x.params.getD (i + 1) 0)).filter fun e => e.2 ≠ 0

/-- A table of the values of `f` that are not 0. -/
theorem mget_filter_table (f : Nat → Word) (ks : List Nat) (i : Nat) :
    mget 0 ((ks.map fun k => (k, f k)).filter fun e => e.2 ≠ 0) i = if i ∈ ks then f i else 0 := by
  induction ks with
  | nil => rfl
  | cons k ks ih =>
    rw [List.map_cons, List.filter_cons]
    by_cases hk : i = k
    · subst hk
      by_cases hf : f i = 0
      · simp only [hf, ne_eq, not_true_eq_false, decide_false, Bool.false_eq_true, if_false, ih]
        simp
      · rw [if_pos (by simpa using hf), if_pos (List.mem_cons_self ..)]
        simp only [mget, if_true]
    · simp only [List.mem_cons, hk, false_or, ← ih]
      split
      · simp only [mget, hk, if_false]
      · rfl

theorem launchSregs_sreg {x y : Ctx} (h : y.sregs = launchSregs x) (i : Nat) :
    y.sreg i = if 1 ≤ i ∧ i ≤ 4 then x.params.getD i 0 else 0 := by
  have hl : launchSregs x =
      (((List.range 4).map (· + 1)).map fun k => (k, x.params.getD k 0)).filter fun e => e.2 ≠ 0 := by
    rw [launchSregs, List.map_map]; rfl
  have hm : i ∈ (List.range 4).map (· + 1) ↔ 1 ≤ i ∧ i ≤ 4 := by
    simp only [List.mem_map, List.mem_range]
    exact ⟨fun ⟨a, ha, he⟩ => by omega, fun ⟨h1, h2⟩ => ⟨i - 1, by omega, by omega⟩⟩
  unfold Ctx.sreg
  rw [h, hl, mget_filter_table]
  simp only [hm]
  by_cases h0 : i = 0
  · subst h0; simp
  · rw [if_neg h0]

/-- A context that a passed manifest makes READY (R45, R49, R72). -/
def boundCtx (d : Dev) (c : Nat) (m : Manifest) (x : Ctx) : Ctx :=
  { x with
    state := .ready, pc := m.entry, sregs := launchSregs x, subn := m.numctl == 1
    sramBase := if threaded d (partOfCtx d c) then m.base else 0
    sramSize := if threaded d (partOfCtx d c) then m.size else 0
    acc := m.acc, rings := freeRings d (tileOf c) m.rings.length
    itins := freeSlots d (tileOf c) m.itins.length
    semRanges := m.sems.map fun e => (semFirst e.2, semCount e.2)
    nShapes := m.shapes.length, nWins := m.wins.length }

theorem foldl_rings {α : Type} {g : Dev → α → Dev} (hg : ∀ d a, ∃ rs, g d a = { d with tiles.rings := rs })
    (xs : List α) (d : Dev) : ∃ rs, xs.foldl g d = { d with tiles.rings := rs } := by
  induction xs generalizing d with
  | nil => exact ⟨d.tiles.rings, rfl⟩
  | cons a xs ih =>
    obtain ⟨ra, ha⟩ := hg d a
    obtain ⟨rs, hrs⟩ := ih (g d a)
    exact ⟨rs, by rw [List.foldl_cons, hrs, ha]⟩

theorem foldl_slots {α : Type} {g : Dev → α → Dev} (hg : ∀ d a, ∃ ss, g d a = { d with tiles.slots := ss })
    (xs : List α) (d : Dev) : ∃ ss, xs.foldl g d = { d with tiles.slots := ss } := by
  induction xs generalizing d with
  | nil => exact ⟨d.tiles.slots, rfl⟩
  | cons a xs ih =>
    obtain ⟨sa, ha⟩ := hg d a
    obtain ⟨ss, hss⟩ := ih (g d a)
    exact ⟨ss, by rw [List.foldl_cons, hss, ha]⟩

/-- Binding a manifest changes the rings and the slots of the tile, and the context. -/
theorem bindManifest_eq (d : Dev) (c : Nat) (m : Manifest) : ∃ rs ss, bindManifest d c m =
    { setCtx d c (boundCtx d c m (ctxAt d c)) with tiles.rings := rs, tiles.slots := ss } := by
  unfold bindManifest
  dsimp only
  generalize hd₁ : List.foldl _ d _ = d₁
  obtain ⟨rs, hrs⟩ : ∃ rs, d₁ = { d with tiles.rings := rs } :=
    hd₁ ▸ foldl_rings (fun d a => ⟨_, rfl⟩) _ _
  generalize hd₂ : List.foldl _ d₁ _ = d₂
  obtain ⟨ss, hss⟩ : ∃ ss, d₂ = { d₁ with tiles.slots := ss } :=
    hd₂ ▸ foldl_slots (fun d a => ⟨_, rfl⟩) _ _
  refine ⟨rs, ss, ?_⟩
  rw [hss, hrs]
  rfl

theorem ctxAt_bound (d : Dev) (c : Nat) (m : Manifest) (x : Ctx) (rs : List (Nat × Ring)) (ss : List (Nat × Slot)) :
    ctxAt { setCtx d c (boundCtx d c m x) with tiles.rings := rs, tiles.slots := ss } c = boundCtx d c m x :=
  ctxAt_setCtx d c (boundCtx d c m x)

section CheckDone

variable {s : State} {c : Nat} (hl : Live s) (hc : c < 512) (hs : (ctxAt s.dev c).state = .checking)
include hl hc hs

theorem completes_launchCheckDone_pass {m : Manifest} {d1 : Dev} {P : Dev → Prop}
    (hr : runChecker s.dev c (ctxAt s.dev c).asid ((ctxAt s.dev c).params.headD 0).toNat = .pass d1 m)
    (hp : ∀ rs ss, P { setCtx d1 c (boundCtx d1 c m (ctxAt s.dev c)) with tiles.rings := rs, tiles.slots := ss }) :
    Completes (.launchCheckDone c) s P := by
  refine completes_onDev hl rfl ?_
  simp only [hc, hs, and_self, if_true, hr]
  obtain ⟨rs, ss, hb⟩ := bindManifest_eq d1 c m
  rw [hb, (runChecker_pass hr).ctxAt]
  exact hp rs ss

theorem completes_launchCheckDone_fail {st r : Nat} {y : Cmd} {d1 : Dev}
    (hr : runChecker s.dev c (ctxAt s.dev c).asid ((ctxAt s.dev c).params.headD 0).toNat = .fail d1 st r)
    (hy : cmdAt d1 (ctxAt s.dev c).queue (ctxAt s.dev c).seq = some y) (hst : y.st = .started) :
    let x := ctxAt s.dev c
    Completes (.launchCheckDone c) s fun d =>
      Finishes (setCtx d1 c { x with state := .idle }) d x.queue x.seq st (toW r) := by
  intro x
  refine completes_onDev hl rfl ?_
  simp only [hc, hs, and_self, if_true, hr]
  have hx : updCtx d1 c (fun x => { x with state := .idle }) = setCtx d1 c { x with state := .idle } := by
    rw [updCtx, (runChecker_fail hr).ctxAt]
  rw [hx]
  have hy' : cmdAt (setCtx d1 c { x with state := .idle }) x.queue x.seq = some y := hy
  obtain ⟨honly, hcmd⟩ := updCmd_becomes (f := fun z => { z with aux := [] }) hy' fun _ => rfl
  have hopen : ({ y with aux := [] } : Cmd).st ≠ .finished := by simp [hst]
  obtain ⟨hfin, hend⟩ := finishCmd_finishes (st := st) (v := toW r) hcmd hopen
  exact ⟨honly.trans hfin, hend⟩

end CheckDone

/-! ### TABLE_LOAD -/

section TableLoad

variable {s : State} {q k : Nat} {y : Cmd} (h : CmdRuns s q k 0x0203 y) (kind : TableKind) (len : Nat)
  (bad : List Byte → Option Nat)

theorem tableLoad_waits (hs : y.step = 0) (ht : loadTurn s.dev q y kind = false) :
    tableLoad s.dev q k y kind len bad = s.dev := by
  simp only [tableLoad, hs, ht, if_true, Bool.false_eq_true, if_false]

include h

theorem tableLoad_begins (hs : y.step = 0) (ht : loadTurn s.dev q y kind = true) :
    let p := partOfQueue s.dev q
    Becomes (setGen s.dev kind p { genAt s.dev kind p with loading := some (q, k) })
      (tableLoad s.dev q k y kind len bad) q k { y with step := 1 } := by
  intro p
  simp only [tableLoad, hs, ht, if_true]
  exact updCmd_becomes (f := fun y => { y with step := 1 }) (y := y) h.2.1 fun _ => rfl

theorem tableLoad_length (hs : y.step ≠ 0) (hn : y.param 2 ≠ len) :
    Finishes s.dev (tableLoad s.dev q k y kind len bad) q k 0x0120 (toW (y.param 2)) := by
  simp only [tableLoad, if_neg hs, if_pos hn]
  exact finishCmd_finishes h.2.1 h.open

variable (hs : y.step ≠ 0) (hn : y.param 2 = len) {img : List Byte} {d1 : Dev}
  (hr : (vread (spaceOf s.dev q) (y.param 1) len).go (clean s) = (.ok img, d1))
include hs hn hr

theorem tableLoad_fills (hb : bad img = none) :
    let p := partOfQueue s.dev q
    Finishes (setGen d1 kind p { genAt d1 kind p with shadow := img, pending := true })
      (tableLoad s.dev q k y kind len bad) q k 0 (toW (genNext (genAt d1 kind p).active)) := by
  intro p
  have hcmd := h.after ((vread_keeps _ _ _ _).of_go hr)
  simp only [tableLoad, if_neg hs, hn, ne_eq, not_true_eq_false, if_false]
  rw [cmdAct_ok hr]
  simp only [hb]
  exact finishCmd_finishes (y := y) hcmd h.open

theorem tableLoad_refuses {o : Nat} (hb : bad img = some o) :
    Finishes d1 (tableLoad s.dev q k y kind len bad) q k 0x0120 (toW o) := by
  have hcmd := h.after ((vread_keeps _ _ _ _).of_go hr)
  simp only [tableLoad, if_neg hs, hn, ne_eq, not_true_eq_false, if_false]
  rw [cmdAct_ok hr]
  simp only [hb]
  exact finishCmd_finishes hcmd h.open

end TableLoad

/-- What the obligation asks of one kind of table load. -/
theorem completes_tableLoad {s : State} {q k : Nat} {y : Cmd} (h : CmdRuns s q k 0x0203 y) {kind : TableKind} {len : Nat}
    {bad : List Byte → Option Nat} {i : Instr} (hi : ∀ P : Dev → Prop,
      P (tableLoad s.dev q k y kind len bad) → Completes i s P) :
    let p := partOfQueue s.dev q
    let g := genAt s.dev kind p
    (y.step = 0 → loadTurn s.dev q y kind = false → Completes i s fun d => d = s.dev) ∧
    (y.step = 0 → loadTurn s.dev q y kind = true → Completes i s fun d =>
      Becomes (setGen s.dev kind p { g with loading := some (q, k) }) d q k { y with step := 1 }) ∧
    (y.step ≠ 0 → y.param 2 ≠ len → Completes i s fun d => Finishes s.dev d q k 0x0120 (toW (y.param 2))) ∧
    (y.step ≠ 0 → y.param 2 = len → ∀ img d1,
      (vread (spaceOf s.dev q) (y.param 1) len).go (clean s) = (.ok img, d1) →
      (bad img = none → Completes i s fun d =>
        Finishes (setGen d1 kind p { genAt d1 kind p with shadow := img, pending := true }) d q k 0
          (toW (genNext (genAt d1 kind p).active))) ∧
      (∀ o, bad img = some o → Completes i s fun d => Finishes d1 d q k 0x0120 (toW o))) := by
  intro p g
  exact ⟨fun hs ht => hi _ (tableLoad_waits kind len bad hs ht),
    fun hs ht => hi _ (tableLoad_begins h kind len bad hs ht),
    fun hs hn => hi _ (tableLoad_length h kind len bad hs hn),
    fun hs hn img d1 hr => ⟨fun hb => hi _ (tableLoad_fills h kind len bad hs hn hr hb),
      fun o hb => hi _ (tableLoad_refuses h kind len bad hs hn hr hb)⟩⟩

theorem completes_tableLoadSfu {s : State} {q k : Nat} {y : Cmd} (h : CmdRuns s q k 0x0203 y)
    (hp : y.param 0 % 256 = 1) (P : Dev → Prop) (hP : P (tableLoad s.dev q k y .sfu 17856 sfuImageBad)) :
    Completes (.tableLoadSfu q k) s P := by
  have he : exec (.tableLoadSfu q k) s = execTableLoadSfu q k s := rfl
  refine completes_onDev h.1 (he.trans rfl) ?_
  rw [onStarted_runs h, if_pos hp]
  exact hP

theorem completes_tableLoadSignboard {s : State} {q k : Nat} {y : Cmd} (h : CmdRuns s q k 0x0203 y)
    (hp : y.param 0 % 256 = 2) (P : Dev → Prop) (hP : P (tableLoad s.dev q k y .signboard 1088 signboardBad)) :
    Completes (.tableLoadSignboard q k) s P := by
  have he : exec (.tableLoadSignboard q k) s = execTableLoadSignboard q k s := rfl
  refine completes_onDev h.1 (he.trans rfl) ?_
  rw [onStarted_runs h, if_pos hp]
  exact hP

/-! ### The obligations -/

/-- Settles O21: LAUNCH and its checker through what a check of a manifest leaves alone, the two tables by one
argument. -/
theorem launchAndTables : Obligations.LaunchAndTables := by
  unfold Obligations.LaunchAndTables
  refine fun s hl => ⟨fun q k y h => ⟨completes_launch_checking h, completes_launch_unplaced h, fun c ha hc =>
      ⟨completes_launch h ha hc, completes_launch_refused h ha hc⟩⟩,
    fun c hc hs => ⟨fun m d1 hr => completes_launchCheckDone_pass hl hc hs hr fun rs ss => ?_,
      fun st r y d1 hr hy hst => completes_launchCheckDone_fail hl hc hs hr hy hst⟩, fun q k y h r hr hp => ?_⟩
  · have hx := ctxAt_bound d1 c m (ctxAt s.dev c) rs ss
    refine ⟨?_, fun i => ?_, ?_, ?_⟩
    · rw [hx]; rfl
    · rw [hx]; exact launchSregs_sreg rfl i
    · rw [hx]; rfl
    · rw [hx]
  · simp only [List.mem_cons, List.not_mem_nil, or_false] at hr
    rcases hr with rfl | rfl
    · exact completes_tableLoad h (completes_tableLoadSfu h hp)
    · exact completes_tableLoad h (completes_tableLoadSignboard h hp)

/-- Settles O52: the registers of a context at its reads and writes, CALL, LAUNCH and the checker's pass. -/
theorem hardwiredRegisters : Obligations.HardwiredRegisters := by
  unfold Obligations.HardwiredRegisters
  refine ⟨fun _ _ _ => ⟨rfl, rfl, rfl, rfl⟩, fun s c w h => ?_, ?_, ?_⟩
  · refine completes_issue (execCall c w) h rfl rfl ?_
    rw [ctxAt_updCtx]
    exact (setSreg_sreg _ 31 31 _).trans (if_pos ⟨rfl, by omega⟩)
  · intro s q k y h ha hany c hi
    have hc : launchCtx s.dev y = some c := by simp only [launchCtx, hany, Bool.false_eq_true, if_false]; rfl
    refine Completes.imp (completes_launch h ha hc hi) fun d ⟨hctx, _⟩ => ?_
    rw [hctx]
    exact ⟨rfl, fun i => ⟨by unfold Ctx.sreg; split <;> rfl, rfl⟩, rfl, rfl, rfl⟩
  · intro s c hl hc hs x hpr hv m d1 hr _
    refine completes_launchCheckDone_pass hl hc hs hr fun rs ss => ?_
    have hb := ctxAt_bound d1 c m x rs ss
    refine ⟨?_, fun i => ?_, fun i => ?_, fun i => ?_⟩
    · rw [hb]; rfl
    · rw [hb]; exact launchSregs_sreg rfl i
    · have hpreds : (boundCtx d1 c m x).preds = 0 := hpr
      rw [hb, Ctx.pred, hpreds]
      by_cases hi : i = 0 <;> simp [hi]
    · have hvregs : (boundCtx d1 c m x).vregs = [] := hv
      rw [hb, Ctx.vreg, hvregs]
      rfl


end Sys2Proof.Machine
end

section
/-!
PROOF. What ends a recovery (R360 to R373) in a state whose dump covers a quarter that the chip does not have.
-/

namespace Sys2Proof.Machine

/-- A recovery without suspects whose dump names quarter 746. -/
def strayRecovery : Recovery :=
  ⟨0x100, 0, 0, .settling, [], [], [], none, 0, 0, { DumpHead.empty with id := 1, quarters := [746] }⟩

/-- The machine after reset in DEEP, where a line goes straight to its controller, with that recovery and 65,535
context resets counted. -/
def strayDev : Dev := { Dev.reset with
  power := .deep
  regs := [(Reg.key .dbgRecCnt 0 0, 0xFFFF)]
  recov.engines := [strayRecovery] }

/-- The bytes that the dump's header adds to the write counter of quarter 746 carry into the count of recoveries,
whose register has the same key: the count goes from 0 to 2. -/
theorem strayDev_counts_twice : rfield (settle strayDev strayRecovery) .dbgRecCnt 0 0 31 16 = 2 := by
  decide +kernel

/-- Refutes O40: the clause on a recovery whose suspects are settled asks nothing of the quarters of its dump, and with
one beyond the four the count of recoveries grows by two. -/
theorem not_hangsAreRecovered : ¬ Obligations.HangsAreRecovered := by
  unfold Obligations.HangsAreRecovered
  intro h
  have hlive : Live State.reset := rfl
  obtain ⟨-, -, -, -, hsettle, -⟩ := h State.reset 0 hlive
  obtain ⟨hend, -⟩ := hsettle strayDev strayRecovery (by decide) rfl
  obtain ⟨-, -, -, hcount⟩ := hend rfl
  rw [strayDev_counts_twice] at hcount
  exact absurd hcount (by decide)

end Sys2Proof.Machine
end

section
/-!
PROOF. The SFU lane by lane, CVT and CVTMX (R98 to R101, R104, R118): O8.
-/

namespace Sys2Proof.Machine

/-! ### The SFU -/

/-- Vector register `i` takes the lanes of a function, in their width, and the flags that they raise; nothing else of
the machine changes. -/
def SetsLanes (d d' : Dev) (c i width : Nat) (lane : Nat → Nat × Flags) : Prop :=
  ∃ v, SetsVreg d d' c i v (joinFlags ((List.range (8192 / width)).map lane)) ∧
    ∀ j, j < 8192 / width → elemAt v.toNat width j = (lane j).1 % 2 ^ width

theorem putVec_vecMap_setsLanes (d : Dev) (c i : Nat) (half : Bool) (f : Nat → Nat × Flags) (a : VReg) :
    let width := if half then 16 else 32
    SetsLanes d (putVec d c i (vecMap half f a)) c i width fun j => f (elemAt a.toNat width j) := by
  intro width
  have hw : width * (8192 / width) ≤ 8192 := Nat.mul_div_le _ _
  have hm : vecMap half f a =
      packLanes width ((List.range (8192 / width)).map fun j => f (elemAt a.toNat width j)) := by
    rw [vecMap, lanes, List.map_map]; rfl
  rw [hm]
  refine ⟨_, putVec_sets _ _ _ _, fun j hj => ?_⟩
  rw [packLanes, List.map_map]
  exact elemAt_ofLanes _ hw hj

/-- What an SFU instruction of a well-formed word writes: `wide` of every FP32 lane, `half` of every BF16 lane. -/
theorem sfu_setsLanes {w : TWord} (hf : sfuForm w = true) (d : Dev) (c : Nat) (wide half : Nat → Nat × Flags)
    (a : VReg) :
    let width := if w.aFmt = 1 then 16 else 32
    SetsLanes d (putVec d c w.aD (if w.aFmt = 0 then vecMap false wide a else vecMap true half a)) c w.aD width
      fun j => (if w.aFmt = 1 then half else wide) (elemAt a.toNat width j) := by
  have hle : w.aFmt ≤ 1 := by
    simp only [sfuForm, Bool.and_eq_true, decide_eq_true_eq] at hf
    exact hf.1.2
  obtain h | h : w.aFmt = 0 ∨ w.aFmt = 1 := by omega
  · simp only [h]
    exact putVec_vecMap_setsLanes d c w.aD false wide a
  · simp only [h]
    exact putVec_vecMap_setsLanes d c w.aD true half a

section Sfu

variable {s : State} {c : Nat} {w : TWord} (h : Issues s c w .sfu) (hf : sfuForm w = true)
include h hf

/-- One of the four built-in functions. -/
theorem completes_builtin {i : Instr} (fn : SfuFn)
    (hi : exec i s = onDev s (sfuInstr (sfuFp32 · fn) (sfuBf16 · fn) c w)) :
    let x := ctxAt s.dev c
    let width := if w.aFmt = 1 then 16 else 32
    Completes i s fun d => SetsLanes s.dev d c w.aD width fun j =>
      (if w.aFmt = 1 then sfuBf16 x.subn fn else sfuFp32 x.subn fn) (elemAt (x.vreg w.aS1).toNat width j) := by
  refine completes_issue (fun s => onDev s (sfuInstr (sfuFp32 · fn) (sfuBf16 · fn) c w)) h hi rfl ?_
  rw [if_pos hf]
  exact sfu_setsLanes hf _ _ _ _ _

theorem completes_sprog (hp : imgPresent (sfuImage s.dev (tileOf c)) w.aS2 = true) :
    let x := ctxAt s.dev c
    let img := sfuImage s.dev (tileOf c)
    let width := if w.aFmt = 1 then 16 else 32
    Completes (.sprog c w) s fun d => SetsLanes s.dev d c w.aD width fun j =>
      (if w.aFmt = 1 then progBf16 x.subn img w.aS2 else progFp32 x.subn img w.aS2)
        (elemAt (x.vreg w.aS1).toNat width j) := by
  refine completes_issue (execSprog c w) h rfl rfl ?_
  simp only [hf, hp, Bool.true_eq_false, if_false]
  exact sfu_setsLanes hf _ _ _ _ _

theorem completes_sprog_empty (hp : imgPresent (sfuImage s.dev (tileOf c)) w.aS2 = false) (hs : Settled s.dev c) :
    Completes (.sprog c w) s fun d => FaultsAt s.dev d c 0x0403 .sfu 0 := by
  refine completes_issue (execSprog c w) h rfl rfl ?_
  simp only [hf, hp, Bool.true_eq_false, if_false, if_true]
  exact faultCtx_faults hs

end Sfu

/-! ### CVT and CVTMX -/

/-- The instruction writes two vector registers and raises flags, and changes nothing else of the machine. -/
def SetsTwo (d d' : Dev) (c i j : Nat) (a b : VReg) (fl : Flags) : Prop :=
  OnlyCtx d d' c ∧ NextPc (ctxAt d c) (ctxAt d' c) ∧ (ctxAt d' c).vreg i = a ∧ (ctxAt d' c).vreg j = b ∧
    (∀ k, k ≠ i → k ≠ j → (ctxAt d' c).vreg k = (ctxAt d c).vreg k) ∧
    ctxAt d' c = { ctxAt d c with
      vregs := (ctxAt d' c).vregs, flags := (ctxAt d c).flags.or fl, pc := (ctxAt d' c).pc,
      loops := (ctxAt d' c).loops, wait := .none }

theorem complete_setsTwo (d : Dev) (c : Nat) {i j : Nat} (hij : i ≠ j) (a b : VReg) (fl : Flags) :
    SetsTwo d (complete d c fun x => ((x.setVreg i a).setVreg j b).addFlags fl) c i j a b fl := by
  refine ⟨complete_onlyCtx _ _ _, ?_, ?_, ?_, fun k hi hj => ?_, ?_⟩ <;> rw [ctxAt_complete]
  · exact advance_nextPc rfl rfl
  · exact (setVreg_vreg_ne _ _ _ _ hij).trans (setVreg_vreg _ _ _)
  · exact setVreg_vreg _ _ _
  · exact (setVreg_vreg_ne _ _ _ _ hj).trans (setVreg_vreg_ne _ _ _ _ hi)
  · generalize ctxAt d c = x
    rfl

section Conversion

variable {s : State} {c : Nat} {w : TWord} (h : Issues s c w .vector) {m : Rnd} (hm : Rnd.ofCode w.aRnd = some m)
include h hm

theorem completes_cvt (hf : cvtForm w = true) (hd : w.aFmt ≠ 0xC) :
    let x := ctxAt s.dev c
    Completes (.cvt c w) s fun d =>
      let r := vecCvt x.numMode (cvtSrc w) w.aFmt m (x.vreg w.aS1) (x.vreg ((w.aS1 + 1) % 32))
      SetsVreg s.dev d c w.aD r.1 r.2 := by
  intro x
  refine completes_issue (execCvt c w) h rfl rfl ?_
  simp only [hf, hm, if_neg hd]
  exact putVec_sets _ _ _ _

theorem completes_cvt_mw48 (hf : cvtForm w = true) (hd : w.aFmt = 0xC) :
    let x := ctxAt s.dev c
    Completes (.cvt c w) s fun d =>
      let r := vecCvtMw x.numMode (cvtSrc w) m (x.vreg w.aS1) (x.vreg ((w.aS1 + 1) % 32)) (x.vreg w.aS2)
      SetsTwo s.dev d c w.aD (w.aD + 1) r.1 r.2.1 r.2.2 := by
  intro x
  refine completes_issue (execCvt c w) h rfl rfl ?_
  simp only [hf, hm, if_pos hd]
  exact complete_setsTwo _ _ (by omega) _ _ _

variable (hr : w.aRes = true) {f : FloatFmt} (h3 : w.aS3 / 8 = 0) (hx : fmtMx w.aFmt = true)
  (hff : fmtOf w.aFmt = some f)
include hr h3 hx hff

/-- A CVTMX whose word passes its checks acts by its OP. -/
theorem completes_cvtmx {P : Dev → Prop}
    (hP : P (let x := ctxAt s.dev c
      let pack := vecMxPack x.numMode w.aFmt f (cvtmxHalf w) m
      match cvtmxOp w with
      | 0 =>
        if w.aD = w.aS2 then illegal s.dev c .vector
        else
          let r := pack none (x.vreg w.aS1)
          complete s.dev c fun y => ((y.setVreg w.aD r.1).setVreg w.aS2 r.2.1).addFlags r.2.2
      | 1 =>
        let r := pack (some (x.vreg w.aS2)) (x.vreg w.aS1)
        putVec s.dev c w.aD (r.1, r.2.2)
      | 2 => putVec s.dev c w.aD
        (vecMxUnpack x.numMode w.aFmt f (cvtmxHalf w) m (x.vreg w.aS1) (x.vreg w.aS2))
      | _ => illegal s.dev c .vector)) : Completes (.cvtmx c w) s P := by
  refine completes_issue (execCvtmx c w) h rfl rfl ?_
  have hc : (w.aRes && w.aS3 / 8 == 0 && fmtMx w.aFmt) = true := by simp [hr, h3, hx]
  simp only [hc, hm, hff]
  exact hP

theorem completes_cvtmx_unpack (ho : cvtmxOp w = 2) :
    let x := ctxAt s.dev c
    Completes (.cvtmx c w) s fun d =>
      let r := vecMxUnpack x.numMode w.aFmt f (cvtmxHalf w) m (x.vreg w.aS1) (x.vreg w.aS2)
      SetsVreg s.dev d c w.aD r.1 r.2 := by
  intro x
  refine completes_cvtmx h hm hr h3 hx hff ?_
  simp only [ho]
  exact putVec_sets _ _ _ _

theorem completes_cvtmx_pack (ho : cvtmxOp w = 0) (hne : w.aD ≠ w.aS2) :
    let x := ctxAt s.dev c
    Completes (.cvtmx c w) s fun d =>
      let r := vecMxPack x.numMode w.aFmt f (cvtmxHalf w) m none (x.vreg w.aS1)
      SetsTwo s.dev d c w.aD w.aS2 r.1 r.2.1 r.2.2 := by
  intro x
  refine completes_cvtmx h hm hr h3 hx hff ?_
  simp only [ho, if_neg hne]
  exact complete_setsTwo _ _ hne _ _ _

theorem completes_cvtmx_packGiven (ho : cvtmxOp w = 1) :
    let x := ctxAt s.dev c
    Completes (.cvtmx c w) s fun d =>
      let r := vecMxPack x.numMode w.aFmt f (cvtmxHalf w) m (some (x.vreg w.aS2)) (x.vreg w.aS1)
      SetsVreg s.dev d c w.aD r.1 r.2.2 := by
  intro x
  refine completes_cvtmx h hm hr h3 hx hff ?_
  simp only [ho]
  exact putVec_sets _ _ _ _

theorem completes_cvtmx_illegal (ho : cvtmxOp w = 3 ∨ cvtmxOp w = 0 ∧ w.aD = w.aS2) (hs : Settled s.dev c) :
    Completes (.cvtmx c w) s fun d => FaultsAt s.dev d c 0x0401 .vector 0 := by
  refine completes_cvtmx h hm hr h3 hx hff ?_
  rcases ho with ho | ⟨ho, he⟩
  · simp only [ho]
    exact faultCtx_faults hs
  · simp only [ho, if_pos he]
    exact faultCtx_faults hs

end Conversion

/-- Settles O8: the SFU by what a function of every lane writes, the conversions by their checks and registers. -/
theorem sfuAndConversionResults : Obligations.SfuAndConversionResults := by
  unfold Obligations.SfuAndConversionResults
  refine ⟨fun s c w h hf => ⟨?_, completes_sprog_empty h hf⟩, fun s c w h hr m hm =>
    ⟨fun hf => ⟨completes_cvt h hm hf, completes_cvt_mw48 h hm hf⟩, fun f h3 hx hff =>
      ⟨completes_cvtmx_unpack h hm hr h3 hx hff, completes_cvtmx_pack h hm hr h3 hx hff,
        completes_cvtmx_packGiven h hm hr h3 hx hff, completes_cvtmx_illegal h hm hr h3 hx hff⟩⟩⟩
  intro r hrow
  rcases List.mem_append.1 hrow with hrow | hrow
  · simp only [List.mem_cons, List.not_mem_nil, or_false] at hrow
    rcases hrow with rfl | rfl | rfl | rfl
    · exact completes_builtin h hf .exp rfl
    · exact completes_builtin h hf .log rfl
    · exact completes_builtin h hf .rcp rfl
    · exact completes_builtin h hf .rsqrt rfl
  · split at hrow
    · next hp =>
      obtain rfl := List.mem_singleton.1 hrow
      exact completes_sprog h hf hp
    · cases hrow

end Sys2Proof.Machine
end

section
/-!
SUPPORT. A turn of a started command: the meaning that its engine runs, the ends it can have, an access that it makes.
-/

namespace Sys2Proof.Machine

/-- A started command whose meaning `m` works on it through `f` completes with what `f` leaves. -/
theorem completes_started {i : Instr} {s : State} {q k op : Nat} {y : Cmd} {f : Dev → Cmd → Dev} {P : Dev → Prop}
    (h : CmdRuns s q k op y) (m : State → Host.Outcome State Fault Refusal) (hi : exec i s = m s)
    (hm : m s = onDev s fun d => onStarted d q k op (f d)) (hp : P (f s.dev y)) : Completes i s P :=
  completes_onDev h.1 (hi.trans hm) (by rwa [onStarted_runs h])

/-- A command's access takes a turn: what follows its answer is said of the device that the access leaves. -/
theorem turn_cmdAct {α : Type} {s : State} {a : Act α} (ha : Keeps a) {bad : Nat → Nat → Dev → Dev}
    {ok : α → Dev → Dev} {good : α → Dev → Prop} {err : Nat → Dev → Prop}
    (hok : ∀ v d1, AccessFrame (clean s) d1 → cmdAct s.dev a bad ok = ok v d1 → good v d1)
    (hbad : ∀ st n d1, AccessFrame (clean s) d1 → cmdAct s.dev a bad ok = bad st n d1 → err st d1) :
    Turn s.dev s.dev (cmdAct s.dev a bad ok) a good err := by
  generalize hr : a.go (clean s) = r
  obtain ⟨e, d1⟩ := r
  have hd := ha.of_go hr
  have hr' : a.go { s.dev with rnl.fresh := [] } = (e, d1) := hr
  unfold Turn
  match e with
  | .ok v => rw [hr']; exact hok v d1 hd (cmdAct_ok hr)
  | .error (.err st n) => rw [hr']; exact hbad st n d1 hd (cmdAct_err hr)
  | .error (.wait n) => rw [hr']; simp only [cmdAct, cmdActFrom, hr']

theorem CmdRuns.finishes {s : State} {q k op st : Nat} {y : Cmd} (h : CmdRuns s q k op y) (v : Word) :
    Finishes s.dev (finishCmd s.dev q k st v) q k st v := finishCmd_finishes h.2.1 h.open

theorem CmdRuns.finishesFree {s : State} {q k op st : Nat} {y : Cmd} (h : CmdRuns s q k op y) :
    FinishesFree s.dev (finishFree s.dev q k st) q k st := finishFree_finishes h.2.1 h.open

theorem CmdRuns.finishesFree_after {s : State} {q k op st : Nat} {y : Cmd} (h : CmdRuns s q k op y) {d : Dev}
    (hd : AccessFrame (clean s) d) : FinishesFree d (finishFree d q k st) q k st :=
  finishFree_finishes (h.after hd) h.open

end Sys2Proof.Machine
end

section
/-!
PROOF. GROUP_SET and GROUP_CLEAR, the Bell's commands and DISPATCH_TABLE_LOAD (R125, R290, R294, R301): O28.
-/

namespace Sys2Proof.Machine

/-! ### The table of groups -/

theorem find_merase {α : Type} (m : List (Nat × α)) (i j : Nat) :
    ((merase m i).find? fun e => e.1 == j) = if j = i then none else m.find? fun e => e.1 == j := by
  induction m with
  | nil => simp [merase]
  | cons e m ih =>
    obtain ⟨k, v⟩ := e
    simp only [merase]
    by_cases hk : i = k
    · subst hk
      rw [if_pos rfl, ih]
      by_cases hj : j = i
      · simp [hj]
      · simp [hj, Ne.symm hj]
    · rw [if_neg hk, List.find?_cons, ih, List.find?_cons]
      by_cases hj : j = i
      · subst hj
        have hkj : (k == j) = false := by simpa using Ne.symm hk
        simp [hkj]
      · simp [hj]

theorem groupAt_mput (d : Dev) (n m : Nat) (g : Group) :
    groupAt { d with fab.groups := mput d.fab.groups n g } m = if m = n then some g else groupAt d m := by
  unfold groupAt
  by_cases h : m = n
  · subst h; rw [find_mput, if_pos rfl]; rfl
  · rw [find_mput_ne _ _ h, if_neg h]

theorem groupAt_merase (d : Dev) (n m : Nat) :
    groupAt { d with fab.groups := merase d.fab.groups n } m = if m = n then none else groupAt d m := by
  unfold groupAt
  rw [find_merase]
  split <;> rfl

/-! ### GROUP_SET and GROUP_CLEAR -/

theorem physRuns_keeps (sp : Space) (va len : Nat) (w : Bool) : Keeps (physRuns sp va len w) :=
  mapM_keeps _ (fun _ => (translate_keeps _ _ _).bind fun _ => .pure _) _

theorem groupImage_keeps (sp : Space) (va : Nat) : Keeps (groupImage sp va) :=
  (vread_keeps _ _ _ _).bind fun _ => .ite (.pure _)
    ((physRuns_keeps _ _ _ _).bind fun _ => (vread_keeps _ _ _ _).bind fun _ => .pure _)

section Group

variable {s : State} {q k : Nat} {y : Cmd} (h : CmdRuns s q k 0x0A01 y)
include h

theorem completes_groupSet (hb : bit (y.param 0) 16 = false) :
    let p := partOfQueue s.dev q
    let sp := spaceOf s.dev q
    let n := y.param 0 % 4096
    Completes (.groupSet q k) s fun d =>
      if editsLeft s.dev n = true then d = s.dev
      else if groupBusy s.dev n q k = true then FinishesFree s.dev d q k 0x0171
      else if y.param 1 % 64 ≠ 0 then FinishesFree s.dev d q k 0x0170
      else Turn s.dev s.dev d (groupImage sp (y.param 1)) (bad := fun st d1 => FinishesFree d1 d q k st) fun r d1 =>
        let (runs, img) := r
        if groupImageOk d1 p img = true ∧ imagePlaced d1 p runs = true then ∃ d3, FinishesFree d3 d q k 0 ∧
          d3 = { d1 with fab := { d1.fab with groups := d3.fab.groups } } ∧
          ∀ m, groupAt d3 m = if m = n then some ⟨y.param 1, runs, leAt img 4 4, leAt img 8 4, leAt img 0x10 8⟩
            else groupAt d1 m
        else FinishesFree d1 d q k 0x0170 := by
  intro p sp n
  refine completes_started h (execGroupSet q k) rfl rfl ?_
  simp only [hb, Bool.false_eq_true, false_or]
  by_cases he : editsLeft s.dev n = true
  · rw [if_pos he, if_pos he]
  rw [if_neg he, if_neg he]
  by_cases hg : groupBusy s.dev n q k = true
  · rw [if_pos hg, if_pos hg]
    exact h.finishesFree
  rw [if_neg hg, if_neg hg]
  by_cases ha : y.param 1 % 64 ≠ 0
  · rw [if_pos ha, if_pos ha]
    exact h.finishesFree
  rw [if_neg ha, if_neg ha]
  refine turn_cmdAct (groupImage_keeps _ _) (fun r d1 hd hr => ?_) fun st a d1 hd hr => ?_
  · obtain ⟨runs, img⟩ := r
    rw [hr]
    dsimp only
    by_cases hi : groupImageOk d1 p img = true ∧ imagePlaced d1 p runs = true
    · have hi' : (groupImageOk d1 p img && imagePlaced d1 p runs) = true := by simp [hi]
      rw [if_pos hi, if_pos hi']
      have hcmd := h.after hd
      have hcmd' : ∀ g, cmdAt { d1 with fab.groups := mput d1.fab.groups n g } q k = some y := fun _ => hcmd
      exact ⟨_, finishFree_finishes (hcmd' _) h.open, rfl, fun m => groupAt_mput d1 n m _⟩
    · have hi' : ¬ (groupImageOk d1 p img && imagePlaced d1 p runs) = true := by simpa using hi
      rw [if_neg hi, if_neg hi']
      exact h.finishesFree_after hd
  · rw [hr]
    exact h.finishesFree_after hd

theorem completes_groupClear (hb : bit (y.param 0) 16 = true) :
    let n := y.param 0 % 4096
    Completes (.groupClear q k) s fun d =>
      if editsLeft s.dev n = true then d = s.dev
      else if groupBusy s.dev n q k = true then FinishesFree s.dev d q k 0x0171
      else ∃ d3, FinishesFree d3 d q k 0 ∧ d3 = { s.dev with fab := { s.dev.fab with groups := d3.fab.groups } } ∧
        ∀ m, groupAt d3 m = if m = n then none else groupAt s.dev m := by
  intro n
  refine completes_started h (execGroupClear q k) rfl rfl ?_
  simp only [hb, Bool.true_eq_false, false_or]
  by_cases he : editsLeft s.dev n = true
  · rw [if_pos he, if_pos he]
  rw [if_neg he, if_neg he]
  by_cases hg : groupBusy s.dev n q k = true
  · rw [if_pos hg, if_pos hg]
    exact h.finishesFree
  rw [if_neg hg, if_neg hg]
  have hcmd : cmdAt { s.dev with fab.groups := merase s.dev.fab.groups n } q k = some y := h.2.1
  exact ⟨_, finishFree_finishes hcmd h.open, rfl, groupAt_merase s.dev n⟩

end Group

/-! ### The Bell -/

theorem bellOk_eq_false (y : Cmd) : y.bellOk = false ↔ y.param 2 < 1000 ∨ 2 ^ 40 < y.param 2 := by
  simp only [Cmd.bellOk, decide_eq_false_iff_not]
  omega

section Bell

variable {s : State} {q k : Nat} {y : Cmd} (h : CmdRuns s q k 0x0702 y)
include h

theorem completes_bellArm (hb : bit (y.param 4) 0 = false) :
    let p := partOfQueue s.dev q
    Completes (.bellArm q k) s fun d =>
      if timeUsable s.dev = false then FinishesFree s.dev d q k 0x0650
      else if y.param 2 < 1000 ∨ 2 ^ 40 < y.param 2 ∨ y.param 0 < s.dev.ns then FinishesFree s.dev d q k 0x0173
      else FinishesFree (setFabPart s.dev p { fabPart s.dev p with bell := some ⟨y.param 0, bits (y.param 1) 31 0,
        y.param 2, bits (y.param 3) 16 0, [], bits (y.param 1) 31 0⟩ }) d q k 0 := by
  intro p
  refine completes_started h (execBellArm q k) rfl rfl ?_
  simp only [hb, Bool.false_eq_true, if_false]
  by_cases ht : timeUsable s.dev = false
  · rw [if_pos ht, if_pos ht]
    exact h.finishesFree
  rw [if_neg ht, if_neg ht]
  have hrange : (y.bellOk = false ∨ y.param 0 < s.dev.ns) ↔
      (y.param 2 < 1000 ∨ 2 ^ 40 < y.param 2 ∨ y.param 0 < s.dev.ns) := by
    rw [bellOk_eq_false, or_assoc]
  by_cases hr : y.param 2 < 1000 ∨ 2 ^ 40 < y.param 2 ∨ y.param 0 < s.dev.ns
  · rw [if_pos hr, if_pos (hrange.2 hr)]
    exact h.finishesFree
  rw [if_neg hr, if_neg (mt hrange.1 hr)]
  have hcmd : ∀ x, cmdAt (setFabPart s.dev p x) q k = some y := fun _ => h.2.1
  exact finishFree_finishes (hcmd _) h.open

theorem completes_bellDisarm (hb : bit (y.param 4) 0 = true) :
    let p := partOfQueue s.dev q
    Completes (.bellDisarm q k) s fun d =>
      FinishesFree (setFabPart s.dev p { fabPart s.dev p with bell := none }) d q k 0 := by
  intro p
  refine completes_started h (execBellDisarm q k) rfl rfl ?_
  simp only [hb, Bool.true_eq_false, if_false]
  have hcmd : ∀ x, cmdAt (setFabPart s.dev p x) q k = some y := fun _ => h.2.1
  exact finishFree_finishes (hcmd _) h.open

end Bell

/-! ### DISPATCH_TABLE_LOAD -/

theorem completes_dispatchTableLoad {s : State} {q k : Nat} {y : Cmd} (h : CmdRuns s q k 0x0A02 y) :
    let p := partOfQueue s.dev q
    let sp := spaceOf s.dev q
    let g (d : Dev) : Gen := genAt d .dispatch p
    let m := (y.param 1 - 64) / 32
    Completes (.dispatchTableLoad q k) s fun d =>
      if y.step = 0 then d = if loadTurn s.dev q y .dispatch then
          updCmd (setGen s.dev .dispatch p { g s.dev with loading := some (q, k) }) q k fun z => { z with step := 1 }
        else s.dev
      else if y.param 1 < 96 ∨ y.param 1 ≠ 64 + 32 * m ∨ 65536 < m then Finishes s.dev d q k 0x0120 4
      else Turn s.dev s.dev d (vread sp (y.param 0) (y.param 1)) (bad := fun st d1 => FinishesFree d1 d q k st)
        fun img d1 => match dispatchBad m img with
          | none => Finishes (setGen d1 .dispatch p { g d1 with shadow := img, pending := true }) d q k 0
            (toW (genNext (g d1).active))
          | some o => Finishes d1 d q k 0x0120 (toW o) := by
  intro p sp g m
  refine completes_started h (execDispatchTableLoad q k) rfl rfl ?_
  dsimp only
  by_cases hs : y.step = 0
  · rw [if_pos hs, if_pos hs]
  rw [if_neg hs, if_neg hs]
  by_cases hl : y.param 1 < 96 ∨ y.param 1 ≠ 64 + 32 * m ∨ 65536 < m
  · rw [if_pos hl, if_pos hl]
    exact h.finishes 4
  rw [if_neg hl, if_neg hl]
  refine turn_cmdAct (vread_keeps _ _ _ _) (fun img d1 hd hr => ?_) fun st a d1 hd hr => ?_
  · rw [hr]
    have hcmd := h.after hd
    have hcmd' : ∀ x, cmdAt (setGen d1 .dispatch p x) q k = some y := fun _ => hcmd
    cases hb : dispatchBad m img with
    | none => exact finishCmd_finishes (hcmd' _) h.open
    | some o => exact finishCmd_finishes hcmd h.open
  · rw [hr]
    exact h.finishesFree_after hd

/-- Settles O28: the group table by its lookups, the Bell's commands by their checks, the images by the turn that reads
them. -/
theorem groupAndBellCommands : Obligations.GroupAndBellCommands := by
  unfold Obligations.GroupAndBellCommands
  exact fun s q k y => ⟨fun h => ⟨completes_groupSet h, completes_groupClear h⟩,
    fun h => ⟨completes_bellArm h, completes_bellDisarm h⟩, completes_dispatchTableLoad⟩

end Sys2Proof.Machine
end

section
/-!
SUPPORT. What sending on the fabric leaves alone (R277, R278, R287, R288): packets that leave or wait change flows,
ports, buckets and what the control traffic keeps, and nothing else of the machine.
-/

namespace Sys2Proof.Machine

/-- Everything but flows, ports, buckets, waiting control frames and what leaves is as it was. -/
def SendFrame (d d' : Dev) : Prop :=
  d' = { d with
    out := d'.out
    fab := { d.fab with
      ports := d'.fab.ports, tx := d'.fab.tx, ctlQ := d'.fab.ctlQ, parts := d'.fab.parts
      delayOut := d'.fab.delayOut, delayReq := d'.fab.delayReq } }

theorem SendFrame.refl (d : Dev) : SendFrame d d := rfl

theorem SendFrame.trans {a b c : Dev} (h : SendFrame a b) (g : SendFrame b c) : SendFrame a c := by
  unfold SendFrame at *
  rw [h] at g
  exact g

theorem SendFrame.hub {d d' : Dev} (h : SendFrame d d') : d'.hub = d.hub := by
  unfold SendFrame at h; rw [h]

theorem SendFrame.mem {d d' : Dev} (h : SendFrame d d') : d'.mem = d.mem := by
  unfold SendFrame at h; rw [h]

theorem SendFrame.findXact {d d' : Dev} (h : SendFrame d d') (t : Nat) : findXact d' t = findXact d t := by
  unfold SendFrame at h; rw [h]; rfl

theorem SendFrame.cmdAt {d d' : Dev} (h : SendFrame d d') (q k : Nat) : cmdAt d' q k = cmdAt d q k := by
  simp only [Machine.cmdAt, queueAt, h.hub]

theorem foldl_sendFrame {α : Type} {g : Dev → α → Dev} (hg : ∀ d a, SendFrame d (g d a)) (xs : List α) (d : Dev) :
    SendFrame d (xs.foldl g d) := by
  induction xs generalizing d with
  | nil => exact .refl d
  | cons a xs ih => exact (hg d a).trans (ih _)

theorem linkSend_sendFrame (d : Dev) (i : Nat) (f : Frame) (credit : Bool) (src : PktSrc) :
    SendFrame d (linkSend d i f credit src) := rfl

theorem flushPort_sendFrame (n i : Nat) (d : Dev) : SendFrame d (flushPort n i d) := by
  induction n generalizing d with
  | zero => exact .refl d
  | succ n ih =>
    unfold flushPort
    dsimp only
    split
    · exact .refl d
    · next f credit rest _ =>
      split
      · have hport : SendFrame d (setPort d i { portAt d i with linkQ := rest }) := rfl
        exact (hport.trans (linkSend_sendFrame _ _ _ _ _)).trans (ih _)
      · exact .refl d

theorem pumpCtl_sendFrame (fs : List (Nat × Frame)) (stuck : List Nat) (d : Dev) :
    SendFrame d (pumpCtl fs stuck d) := by
  induction fs generalizing stuck d with
  | nil => exact .refl d
  | cons e fs ih =>
    obtain ⟨p, f⟩ := e
    have hwait : SendFrame d { d with fab.ctlQ := d.fab.ctlQ ++ [(p, f)] } := rfl
    unfold pumpCtl
    split
    · exact hwait.trans (ih _ _)
    · split
      · exact (linkSend_sendFrame _ _ _ _ _).trans (ih _ _)
      · exact hwait.trans (ih _ _)

theorem flushDelay_sendFrame (d : Dev) : SendFrame d (flushDelay d) := by
  unfold flushDelay
  dsimp only
  split
  · split
    · rfl
    · rfl
  · rfl

theorem flushCtl_sendFrame (d : Dev) : SendFrame d (flushCtl d) := by
  have hports := foldl_sendFrame (g := fun d i => flushPort (portAt d i).linkQ.length i d)
    (fun d i => flushPort_sendFrame _ i d) (List.range 32) (flushDelay d)
  unfold flushCtl
  dsimp only
  generalize (List.range 32).foldl (fun d i => flushPort (portAt d i).linkQ.length i d) (flushDelay d) = d₁ at hports
  have hempty : SendFrame d₁ { d₁ with fab.ctlQ := [] } := rfl
  exact (((flushDelay_sendFrame d).trans hports).trans hempty).trans (pumpCtl_sendFrame _ _ _)

theorem sendCtl_sendFrame (d : Dev) (p dst subtype area : Nat) (payload : List Byte) :
    SendFrame d (sendCtl d p dst subtype area payload) := by
  have hput : SendFrame d { d with fab.ctlQ := d.fab.ctlQ ++ [(p, ctlFrame d p dst subtype area payload)] } := rfl
  exact hput.trans (flushCtl_sendFrame _)

theorem openFlows_sendFrame (xs : List TxFlow) (d : Dev) : SendFrame d (openFlows xs d) := by
  induction xs generalizing d with
  | nil => exact .refl d
  | cons x xs ih =>
    unfold openFlows
    split
    · have hopen : ∀ y f, SendFrame d (updTx (setFabPart d x.part y) x.part x.dst f) := fun _ _ => rfl
      exact ((hopen _ _).trans (sendCtl_sendFrame _ _ _ _ _ _)).trans (ih _)
    · exact ih d

theorem sendOne_sendFrame {d d' : Dev} {x : TxFlow} (h : sendOne d x = some d') : SendFrame d d' := by
  unfold sendOne at h
  split at h
  · cases h
  · dsimp only at h
    split at h
    · cases h
    · next i _ =>
      split at h
      · cases h
        have hbuckets : ∀ f, SendFrame d (takeBuckets d x.part i f) := fun _ => rfl
        have hflow : ∀ d f, SendFrame d (updTx d x.part x.dst f) := fun _ _ => rfl
        exact ((hbuckets _).trans (linkSend_sendFrame _ _ _ _ _)).trans (hflow _ _)
      · cases h

theorem sendNext_sendFrame {d d' : Dev} (xs : List TxFlow) (h : sendNext d xs = some d') : SendFrame d d' := by
  induction xs with
  | nil => cases h
  | cons x xs ih =>
    unfold sendNext at h
    split at h
    · next d₁ hd₁ =>
      cases h
      have hturn : ∀ ys, SendFrame d₁ { d₁ with fab.tx := ys } := fun _ => rfl
      exact (sendOne_sendFrame hd₁).trans (hturn _)
    · exact ih h

theorem pumpFlows_sendFrame (n : Nat) (d : Dev) : SendFrame d (pumpFlows n d) := by
  induction n generalizing d with
  | zero => exact .refl d
  | succ n ih =>
    unfold pumpFlows
    split
    · next d₁ hd₁ => exact (sendNext_sendFrame _ hd₁).trans (ih d₁)
    · exact .refl d

theorem pump_sendFrame (d : Dev) : SendFrame d (pump d) :=
  ((openFlows_sendFrame _ d).trans (flushCtl_sendFrame _)).trans (pumpFlows_sendFrame _ _)

theorem submit_sendFrame (d : Dev) (p dst : Nat) (xact : Option Nat) (fs : List Frame) (src : Nat → PktSrc) :
    SendFrame d (submit d p dst xact fs src) := by
  have hflow : ∀ d f, SendFrame d (updTx d p dst f) := fun _ _ => rfl
  unfold submit
  split
  · exact (hflow _ _).trans (pump_sendFrame _)
  · have hnew : ∀ xs, SendFrame d { d with fab.tx := xs } := fun _ => rfl
    exact ((hnew _).trans (hflow _ _)).trans (pump_sendFrame _)

/-- A transaction that starts is kept under its number, and its packets are sent. -/
theorem startXact_sends {d : Dev} {p dst t : Nat} (ht : freeTid d p = some t) (hb : chipBad dst = false)
    (hf : fenced d p dst = false) (who : XWho) (addr base resp : Nat) {note : Dev → Nat → Dev}
    (hn : ∀ d, (note d t).fab = d.fab) (mk : Nat → List Frame) (src : Nat → PktSrc) :
    ∃ d', startXact d p dst who addr base resp note mk src = .ok d' t ∧
      SendFrame (note (putXact d t ⟨p, dst, who, (mk t).length, resp, 0, addr, base⟩) t) d' := by
  have hf' : ¬ fenced (note (putXact d t ⟨p, dst, who, (mk t).length, resp, 0, addr, base⟩) t) p dst = true := by
    rw [Bool.not_eq_true, ← hf]
    simp only [fenced, fabPart, hn]
    rfl
  refine ⟨_, ?_, submit_sendFrame _ p dst (some t) (mk t) src⟩
  unfold startXact
  simp only [ht, hb, Bool.false_eq_true, if_false]
  exact if_neg hf'

end Sys2Proof.Machine
end

section
/-!
PROOF. NOP, QUEUE_CTL, the semaphore commands and BARRIER (R125, R152, R153, R343, R345, R350): O19.
-/

namespace Sys2Proof.Machine

theorem completes_nopCommand {s : State} {q k : Nat} {y : Cmd} (h : CmdRuns s q k 0x0001 y) :
    Completes (.nopCommand q k) s fun d => Finishes s.dev d q k 0 (toW (y.param 0)) :=
  completes_started h (execNopCommand q k) rfl rfl (h.finishes _)

/-! ### QUEUE_CTL -/

theorem noteHead_state (x : Queue) (now : Nat) : (x.noteHead now).state = x.state := by
  obtain ⟨f, -, hx⟩ := noteHead_cmds x now
  rw [hx]

section QueueCtl

variable {s : State} {q k : Nat} {y : Cmd} (h : CmdRuns s q k 0x0002 y)
include h

theorem completes_queueCtl_done {d1 : Dev} {st : Nat} {P : Dev → Prop}
    (ha : queueAction s.dev (y.param 0 % 262144) (y.param 1 % 8) = .done d1 st)
    (hp : P (finishCmd d1 q k st (toW (queueAt d1 (y.param 0 % 262144)).state.code))) :
    Completes (.queueCtl q k) s P := by
  refine completes_started h (execQueueCtl q k) rfl rfl ?_
  simp only [ha]
  exact hp

theorem completes_queueCtl_wait {d1 : Dev}
    (ha : queueAction s.dev (y.param 0 % 262144) (y.param 1 % 8) = .wait d1) :
    Completes (.queueCtl q k) s fun d => d = d1 := by
  refine completes_started h (execQueueCtl q k) rfl rfl ?_
  simp only [ha]

/-- STOP of a running queue. -/
theorem completes_queueCtl_stop (hc : y.param 1 % 8 = 2) (hn : y.param 0 % 262144 ≠ q)
    (hr : (queueAt s.dev (y.param 0 % 262144)).state = .run) :
    Completes (.queueCtl q k) s fun d =>
      EndsWith d q k 0 2 ∧ (queueAt d (y.param 0 % 262144)).state = .stopped := by
  set n := y.param 0 % 262144
  set d1 := setQueue s.dev n ({ queueAt s.dev n with state := .stopped }.noteHead s.dev.clock) with hd1
  have ha : queueAction s.dev n (y.param 1 % 8) = .done d1 0 := by
    rw [hc]
    exact if_pos hr
  have hstate : (queueAt d1 n).state = .stopped := by
    rw [hd1, queueAt_setQueue, noteHead_state]
  have hcmd : cmdAt d1 q k = some y := by
    rw [cmdAt, hd1, queueAt_setQueue_ne _ _ _ _ hn.symm]
    exact h.2.1
  refine completes_queueCtl_done h ha ?_
  obtain ⟨⟨-, hother, -⟩, hend⟩ := finishCmd_finishes (st := 0) (v := toW (queueAt d1 n).state.code) hcmd h.open
  refine ⟨?_, by rw [hother n hn, hstate]⟩
  rw [hstate] at hend ⊢
  exact hend

end QueueCtl

/-! ### Semaphores -/

/-- With nobody waiting, an addition changes the semaphore alone. -/
theorem semAdd_of_no_waiters {d : Dev} (hw : d.hub.waiters = []) (n : Nat) (a : Word) :
    semAdd d n a = { d with hub.sems := mset 0 d.hub.sems n (semAt d n + a) } := by
  simp only [semAdd, semSet, wakeWaiters, hw, List.filter_nil, List.foldl_nil]

section SemSignal

variable {s : State} {q k : Nat} {y : Cmd} (h : CmdRuns s q k 0x0301 y)
include h

theorem completes_semSignal_local (hc : y.param 2 % 2 ^ 20 = 0) :
    Completes (.semSignal q k) s fun d => Finishes s.dev d q k 0 0 := by
  refine completes_started h (execSemSignal q k) rfl rfl ?_
  simp only [hc, if_true]
  exact h.finishes _

theorem completes_semSignal_answered (hc : y.param 2 % 2 ^ 20 ≠ 0) (hs : y.step ≠ 0) :
    Completes (.semSignal q k) s fun d => if y.aux = [] then Finishes s.dev d q k y.status 0 else d = s.dev := by
  refine completes_started h (execSemSignal q k) rfl rfl ?_
  simp only [if_neg hc, if_neg hs, List.isEmpty_iff]
  by_cases ha : y.aux = []
  · rw [if_pos ha, if_pos ha]
    exact h.finishes _
  · rw [if_neg ha, if_neg ha]

variable (hc : y.param 2 % 2 ^ 20 ≠ 0) (hs : y.step = 0)
include hc hs

theorem completes_semSignal_behind (hh : isHead s.dev q k = false) :
    Completes (.semSignal q k) s fun d => d = s.dev := by
  refine completes_started h (execSemSignal q k) rfl rfl ?_
  simp only [if_neg hc, if_pos hs, if_pos hh]

variable (hh : isHead s.dev q k = true)
include hh

/-- A SEM_SIGNAL whose target is the own chip acts there at once. -/
theorem completes_semSignal_own {P : Dev → Prop} (hv : chipIdValid s.dev (partOfQueue s.dev q) = true)
    (ho : y.param 2 % 2 ^ 20 = chipId s.dev (partOfQueue s.dev q))
    (hp : P (if partOfSem s.dev (y.param 0 % 131072) = partOfQueue s.dev q then
        finishCmd (semAdd s.dev (y.param 0 % 131072) (toW (y.param 1))) q k stOk 0
      else finishCmd s.dev q k stTargetRefused 0)) : Completes (.semSignal q k) s P := by
  refine completes_started h (execSemSignal q k) rfl rfl ?_
  have hown : chipIdValid s.dev (partOfQueue s.dev q) = true ∧
      y.param 2 % 2 ^ 20 = chipId s.dev (partOfQueue s.dev q) := ⟨hv, ho⟩
  simp only [if_neg hc, if_pos hs, hh, Bool.true_eq_false, if_false, if_pos hown]
  exact hp

theorem completes_semSignal_refused (hv : chipIdValid s.dev (partOfQueue s.dev q) = true)
    (ho : y.param 2 % 2 ^ 20 = chipId s.dev (partOfQueue s.dev q))
    (hm : partOfSem s.dev (y.param 0 % 131072) ≠ partOfQueue s.dev q) :
    Completes (.semSignal q k) s fun d => Finishes s.dev d q k 0x0602 0 := by
  refine completes_semSignal_own h hc hs hh hv ho ?_
  rw [if_neg hm]
  exact h.finishes _

theorem completes_semSignal_adds (hv : chipIdValid s.dev (partOfQueue s.dev q) = true)
    (ho : y.param 2 % 2 ^ 20 = chipId s.dev (partOfQueue s.dev q))
    (hm : partOfSem s.dev (y.param 0 % 131072) = partOfQueue s.dev q) (hw : s.dev.hub.waiters = []) :
    let n := y.param 0 % 131072
    Completes (.semSignal q k) s fun d =>
      Finishes { s.dev with hub.sems := d.hub.sems } d q k 0 0 ∧
      semAt d n = semAt s.dev n + toW (y.param 1) ∧ ∀ m, m ≠ n → semAt d m = semAt s.dev m := by
  intro n
  refine completes_semSignal_own h hc hs hh hv ho ?_
  rw [if_pos hm, semAdd_of_no_waiters hw]
  have hcmd : ∀ xs, cmdAt { s.dev with hub.sems := xs } q k = some y := fun _ => h.2.1
  exact ⟨finishCmd_finishes (hcmd _) h.open, mget_mset_same _ _ _ _, fun m hne => mget_mset_ne _ _ _ hne⟩

/-- A SEM_SIGNAL for another chip starts a transaction of one packet. -/
theorem completes_semSignal_starts {P : Dev → Prop} (ho : y.param 2 % 2 ^ 20 ≠ chipId s.dev (partOfQueue s.dev q))
    (hp : P (match startXact (updCmd s.dev q k fun y => { y with step := 1 }) (partOfQueue s.dev q)
        (y.param 2 % 2 ^ 20) (.cmd q k) 0 0 0 (noteCmd q k) fun _ => [semFrame (y.param 0 % 131072) (y.param 1)] with
      | .ok d _ => d
      | .wait => s.dev)) : Completes (.semSignal q k) s P := by
  refine completes_started h (execSemSignal q k) rfl rfl ?_
  have hother : ¬ (chipIdValid s.dev (partOfQueue s.dev q) = true ∧
      y.param 2 % 2 ^ 20 = chipId s.dev (partOfQueue s.dev q)) := fun hown => ho hown.2
  simp only [if_neg hc, if_pos hs, hh, Bool.true_eq_false, if_false, if_neg hother]
  exact hp

theorem completes_semSignal_noTid (ho : y.param 2 % 2 ^ 20 ≠ chipId s.dev (partOfQueue s.dev q))
    (ht : freeTid s.dev (partOfQueue s.dev q) = none) : Completes (.semSignal q k) s fun d => d = s.dev := by
  refine completes_semSignal_starts h hc hs hh ho ?_
  have ht' : freeTid (updCmd s.dev q k fun y => { y with step := 1 }) (partOfQueue s.dev q) = none := ht
  simp only [startXact, ht']

theorem completes_semSignal_sends (ho : y.param 2 % 2 ^ 20 ≠ chipId s.dev (partOfQueue s.dev q))
    (hb : chipBad (y.param 2 % 2 ^ 20) = false)
    (hf : fenced s.dev (partOfQueue s.dev q) (y.param 2 % 2 ^ 20) = false) {tid : Nat}
    (ht : freeTid s.dev (partOfQueue s.dev q) = some tid) :
    Completes (.semSignal q k) s fun d =>
      findXact d tid = some ⟨partOfQueue s.dev q, y.param 2 % 2 ^ 20, .cmd q k, 1, 0, 0, 0, 0⟩ ∧
      d.mem = s.dev.mem ∧ d.hub.sems = s.dev.hub.sems ∧
      ∃ z, cmdAt d q k = some z ∧ z = { y with step := 1, aux := y.aux ++ [tid], readyAt := z.readyAt } := by
  refine completes_semSignal_starts h hc hs hh ho ?_
  set d1 := updCmd s.dev q k fun y => { y with step := 1 }
  have ht' : freeTid d1 (partOfQueue s.dev q) = some tid := ht
  have hf' : fenced d1 (partOfQueue s.dev q) (y.param 2 % 2 ^ 20) = false := hf
  obtain ⟨d', hstart, hsend⟩ := startXact_sends ht' hb hf' (.cmd q k) 0 0 0 (note := noteCmd q k) (fun _ => rfl)
    (fun _ => [semFrame (y.param 0 % 131072) (y.param 1)]) fun _ => .fixed
  rw [hstart]
  have hstep : ∀ x, cmdAt (putXact d1 tid x) q k = some { y with step := 1 } := fun _ =>
    (updCmd_becomes (f := fun y => { y with step := 1 }) h.2.1 fun _ => rfl).2
  have hnote := fun x =>
    (updCmd_becomes (f := fun y => { y with aux := y.aux ++ [tid] }) (hstep x) fun _ => rfl).2
  have hsems : d'.hub.sems = s.dev.hub.sems := by rw [hsend.hub]; rfl
  refine ⟨(hsend.findXact tid).trans ?_, hsend.mem, hsems, _,
    (hsend.cmdAt q k).trans (hnote _), rfl⟩
  exact congrArg (Option.map Prod.snd) (find_mput _ _ _)

end SemSignal

theorem completes_semSet {s : State} {q k : Nat} {y : Cmd} (h : CmdRuns s q k 0x0304 y) :
    Completes (.semSet q k) s fun d => Finishes s.dev d q k 0 0 :=
  completes_started h (execSemSet q k) rfl rfl (h.finishes _)

section SemWait

variable {s : State} {q k : Nat} {y : Cmd} (h : CmdRuns s q k 0x0302 y)
include h

theorem completes_semWait_waits (hs : y.step ≠ 0) : Completes (.semWait q k) s fun d => d = s.dev := by
  refine completes_started h (execSemWait q k) rfl rfl ?_
  simp only [if_neg hs]

theorem completes_semWait_reached (hs : y.step = 0)
    (hv : (toW (y.param 1)).toNat ≤ (semAt s.dev (y.param 0 % 131072)).toNat) :
    Completes (.semWait q k) s fun d => Finishes s.dev d q k 0 (semAt s.dev (y.param 0 % 131072)) := by
  refine completes_started h (execSemWait q k) rfl rfl ?_
  simp only [if_pos hs, semWait, if_pos hv]
  exact h.finishes _

theorem completes_semWait_registers (hs : y.step = 0)
    (hv : (semAt s.dev (y.param 0 % 131072)).toNat < (toW (y.param 1)).toNat) :
    Completes (.semWait q k) s fun d => Becomes { s.dev with hub := { s.dev.hub with
      waiters := s.dev.hub.waiters ++ [⟨y.param 0 % 131072, (toW (y.param 1)).toNat, .cmd q k⟩] } } d q k
      { y with step := 1 } := by
  refine completes_started h (execSemWait q k) rfl rfl ?_
  simp only [if_pos hs, semWait, if_neg (Nat.not_le.2 hv)]
  have hcmd : ∀ ws, cmdAt { s.dev with hub := { s.dev.hub with waiters := ws } } q k = some y := fun _ => h.2.1
  exact updCmd_becomes (f := fun z => { z with step := 1 }) (hcmd _) fun _ => rfl

end SemWait

/-! ### BARRIER -/

section Barrier

variable {s : State} {q k : Nat} {y : Cmd} (h : CmdRuns s q k 0x0303 y)
include h

theorem completes_barrierCommand_waits (hs : y.step ≠ 0) : Completes (.barrierCommand q k) s fun d => d = s.dev := by
  refine completes_started h (execBarrierCommand q k) rfl rfl ?_
  simp only [if_neg hs]

theorem completes_barrierCommand_arrives (hs : y.step = 0) {P : Dev → Prop}
    (hp : P (match arrive (updCmd s.dev q k fun y => { y with step := 1 }) (partOfQueue s.dev q)
        (bits (y.param 0) 5 0) (bits (y.param 0) 19 8 + 1) (.cmd q k) with
      | some d => d
      | none => finishFree s.dev q k stBarrierMismatch)) : Completes (.barrierCommand q k) s P := by
  refine completes_started h (execBarrierCommand q k) rfl rfl ?_
  simp only [if_pos hs]
  exact hp

variable (hs : y.step = 0) {e : Episode}
  (he : e = (episodeAt s.dev (partOfQueue s.dev q) (bits (y.param 0) 5 0)).getD ⟨bits (y.param 0) 19 8 + 1, []⟩)
include hs he

theorem completes_barrierCommand_mismatch (hn : e.count ≠ bits (y.param 0) 19 8 + 1) :
    Completes (.barrierCommand q k) s fun d => FinishesFree s.dev d q k 0x0430 := by
  refine completes_barrierCommand_arrives h hs ?_
  have ha : arrive (updCmd s.dev q k fun y => { y with step := 1 }) (partOfQueue s.dev q)
      (bits (y.param 0) 5 0) (bits (y.param 0) 19 8 + 1) (.cmd q k) = none := by
    subst he
    exact if_pos hn
  rw [ha]
  exact h.finishesFree

variable (hn : e.count = bits (y.param 0) 19 8 + 1)
include hn

theorem completes_barrierCommand_joins (hl : e.arrived.length + 1 ≠ bits (y.param 0) 19 8 + 1) :
    let p := partOfQueue s.dev q
    let b := bits (y.param 0) 5 0
    Completes (.barrierCommand q k) s fun d =>
      Becomes { s.dev with hub := { s.dev.hub with barriers := d.hub.barriers } } d q k { y with step := 1 } ∧
      episodeAt d p b = some ⟨bits (y.param 0) 19 8 + 1, e.arrived ++ [.cmd q k]⟩ := by
  intro p b
  refine completes_barrierCommand_arrives h hs ?_
  have ha : arrive (updCmd s.dev q k fun y => { y with step := 1 }) p b (bits (y.param 0) 19 8 + 1) (.cmd q k) =
      some (setEpisode (updCmd s.dev q k fun y => { y with step := 1 }) p b
        (some ⟨bits (y.param 0) 19 8 + 1, e.arrived ++ [.cmd q k]⟩)) := by
    subst he
    refine (if_neg (not_not.2 hn)).trans (if_neg ?_)
    rwa [List.length_append, List.length_singleton]
  rw [ha]
  have hcmd : ∀ bs, cmdAt { s.dev with hub := { s.dev.hub with barriers := bs } } q k = some y := fun _ => h.2.1
  exact ⟨updCmd_becomes (f := fun z => { z with step := 1 }) (hcmd _) fun _ => rfl, episodeAt_setEpisode _ _ _ _⟩

theorem completes_barrierCommand_closes (hl : e.arrived.length + 1 = bits (y.param 0) 19 8 + 1) :
    let p := partOfQueue s.dev q
    Completes (.barrierCommand q k) s fun d =>
      episodeAt d p (bits (y.param 0) 5 0) = none ∧
      (∃ z, cmdAt d q k = some z ∧ z.st = .finished ∧ z.status = 0) ∧
      (∀ j, genAt d j p = (genAt s.dev j p).swapped) ∧
      d.mem = s.dev.mem ∧ d.regs = s.dev.regs ∧
      (e.arrived = [] → d = { s.dev with
        hub := { s.dev.hub with barriers := d.hub.barriers, gens := d.hub.gens, queues := d.hub.queues }
        free := d.free }) := by
  intro p
  refine completes_barrierCommand_arrives h hs ?_
  set d₁ := setEpisode (updCmd s.dev q k fun y => { y with step := 1 }) p (bits (y.param 0) 5 0) none with hd₁
  set ws := e.arrived ++ [.cmd q k] with hws
  have ha : arrive (updCmd s.dev q k fun y => { y with step := 1 }) p (bits (y.param 0) 5 0)
      (bits (y.param 0) 19 8 + 1) (.cmd q k) = some (swapTables (ws.foldl releaseBarrier d₁) p) := by
    rw [hws, hd₁]
    subst he
    refine (if_neg (not_not.2 hn)).trans (if_pos ?_)
    rwa [List.length_append, List.length_singleton]
  rw [ha]
  have hfold := releaseBarriers_frame ws d₁
  refine ⟨?_, ?_, fun j => ?_, ?_, ?_, fun h0 => ?_⟩
  · have hbar : (swapTables (ws.foldl releaseBarrier d₁) p).hub.barriers = d₁.hub.barriers := by
      rw [swapTables_frame, hfold]
    rw [episodeAt, hbar]
    exact episodeAt_setEpisode _ _ _ _
  · have hstep : cmdAt d₁ q k = some { y with step := 1 } :=
      (updCmd_becomes (f := fun y => { y with step := 1 }) h.2.1 fun _ => rfl).2
    have hout : cmdOutcome d₁ q k = some (y.st, y.status) := by rw [cmdOutcome, hstep]; rfl
    have hfin := releaseBarriers_finish ws d₁ (by simp [hws]) hout h.open
    have hcmd : cmdAt (swapTables (ws.foldl releaseBarrier d₁) p) q k = cmdAt (ws.foldl releaseBarrier d₁) q k := by
      rw [swapTables_frame]; rfl
    rw [hcmd]
    obtain ⟨z, hz, hzo⟩ := Option.map_eq_some_iff.1 hfin
    rw [Prod.mk.injEq] at hzo
    exact ⟨z, hz, hzo⟩
  · rw [genAt_swapTables]
    congr 1
    rw [hfold]; rfl
  · rw [swapTables_frame, hfold]; rfl
  · rw [swapTables_frame, hfold]; rfl
  · have hone : ws.foldl releaseBarrier d₁ = releaseBarrier d₁ (.cmd q k) := by rw [hws, h0]; rfl
    have hrel : ∀ d, releaseBarrier d (.cmd q k) = { d with
        hub.queues := (releaseBarrier d (.cmd q k)).hub.queues, free := (releaseBarrier d (.cmd q k)).free } :=
      fun _ => rfl
    have hsw := swapTables_frame (releaseBarrier d₁ (.cmd q k)) p
    rw [hone]
    dsimp only
    generalize swapTables (releaseBarrier d₁ (.cmd q k)) p = d₃ at hsw ⊢
    rw [hrel] at hsw
    rw [hsw]
    rfl

end Barrier

/-- Settles O19: each command by its cases; a signal to another chip by what sending leaves alone, the barrier by the
rules of its episodes. -/
theorem hubCommandsFinish : Obligations.HubCommandsFinish := by
  unfold Obligations.HubCommandsFinish
  refine fun s q k y => ⟨completes_nopCommand,
    fun h => ⟨fun d1 st ha hc => completes_queueCtl_done h ha ?_, fun d1 ha => completes_queueCtl_wait h ha,
      completes_queueCtl_stop h⟩,
    fun h => ⟨completes_semSignal_local h, completes_semSignal_behind h, fun hc hs hh hv ho =>
        ⟨completes_semSignal_refused h hc hs hh hv ho, completes_semSignal_adds h hc hs hh hv ho⟩,
      fun hc hs hh _ ho hb hf => ⟨fun tid ht => completes_semSignal_sends h hc hs hh ho hb hf ht,
        completes_semSignal_noTid h hc hs hh ho⟩, completes_semSignal_answered h⟩,
    completes_semSet,
    fun h => ⟨completes_semWait_waits h, completes_semWait_reached h, completes_semWait_registers h⟩,
    fun h => ⟨completes_barrierCommand_waits h, fun hs => completes_barrierCommand_mismatch h hs rfl,
      fun hs => completes_barrierCommand_joins h hs rfl, fun hs => completes_barrierCommand_closes h hs rfl⟩⟩
  exact finishCmd_finishes hc h.open

end Sys2Proof.Machine
end

section
/-!
PROOF. The Stream Engine's delivery (R130, R131, R150) from a slot whose ring number lies beyond the 32 rings of its
tile.
-/

namespace Sys2Proof.Machine

/-- An element of no bytes that has arrived, with a multicast mask that names the second tile of the quarter. -/
def strayElem : Elem where
  num := 0
  ringElem := 0
  addr := 0
  shape := ⟨1, 0, 1, 0⟩
  hint := 0
  bytes := []
  phys := []
  status := 0
  faultAddr := 0
  xacts := []
  done := false
  mcast := 2

/-- A receiving ring bound to ring 0 of context 0. -/
def strayRing : Ring where
  owner := 0
  kind := .mcastRecv
  base := 0
  elem := 64
  depth := 8
  pub := 0
  rel := 0
  slot := none
  leaderCtx := 0
  leaderRing := 0
  bound := true
  held := []
  src := []

/-- A running LOAD slot that feeds ring 32 and has that element in flight. -/
def straySlot : Slot :=
  { Slot.reset with state := .running, ring := 32, elements := 1, issued := 1, flight := [strayElem] }

/-- The machine after reset with that slot at tile 0, the ring as ring 0 of tile 1, and context 0 naming ring 32 as its
ring 0. -/
def strayDelivery : State :=
  { State.reset with dev := { Dev.reset with
    tiles.ctxs := [(0, { Ctx.reset with rings := [32] })]
    tiles.slots := [(0, straySlot)]
    tiles.rings := [(32, strayRing)] } }

/-- Ring 32 of tile 0 and ring 0 of tile 1 have one key, so the receiver that the mask names is the ring that the slot
feeds: one delivery publishes there as in the slot's own ring and again as in a receiver's, and PUB goes from 0 to 2. -/
theorem strayDelivery_publishes_twice :
    (ringAt (elemDone strayDelivery.dev 0 0 0 false) 0 32).map (·.pub) = some 2 := by
  decide +kernel

/-- Refutes O13: the clause on ELEMENT_DELIVERY does not ask that the slot's ring number be below 32, and where it names
a receiving ring of the next tile, one element raises PUB of that ring by two. -/
theorem not_itineraryProgress : ¬ Obligations.ItineraryProgress := by
  unfold Obligations.ItineraryProgress
  intro h
  obtain ⟨-, -, helems⟩ := h
  obtain ⟨-, -, hdone, -⟩ := helems strayDelivery 0 0 rfl rfl (by decide) (by decide)
  obtain ⟨hload, -⟩ := hdone strayElem [] strayRing rfl rfl rfl (by simp) (by simp) rfl rfl rfl
  obtain ⟨s, hs, -, -, -, -, -, -, -, ⟨r, hr, hpub, -⟩, -⟩ := hload rfl
  have hdev : s.dev = elemDone strayDelivery.dev 0 0 0 false := by
    have hexec : exec (.elementDelivery 0 0 strayElem.num) strayDelivery =
        .next { strayDelivery with dev := elemDone strayDelivery.dev 0 0 0 false } := rfl
    rw [hexec] at hs
    injection hs with hs
    rw [← hs]
  have hring : ringAt (elemDone strayDelivery.dev 0 0 0 false) 0 32 = some r := hdev ▸ hr
  have htwice := strayDelivery_publishes_twice
  rw [hring, Option.map_some, hpub] at htwice
  exact absurd htwice (by decide)

end Sys2Proof.Machine
end

section
/-!
PROOF. A new packet in its turn on a flow with nothing waiting (R280, R281, R290): O30.
-/

namespace Sys2Proof.Machine

/-! ### A flow with one packet waiting -/

/-- The receive flow of a source after a change that keeps whose flow it is. -/
theorem findRx_updRx {d : Dev} {p src : Nat} {x : RxFlow} (h : findRx d p src = some x) {g : RxFlow → RxFlow}
    (hg : ∀ y, (g y).part = y.part ∧ (g y).src = y.src) : findRx (updRx d p src g) p src = some (g x) := by
  unfold findRx at h ⊢
  unfold updRx
  dsimp only
  generalize d.fab.rx = xs at h
  induction xs with
  | nil => cases h
  | cons y xs ih =>
    rw [List.map_cons, List.find?_cons]
    rw [List.find?_cons] at h
    by_cases hy : y.part = p ∧ y.src = src
    · have hkey : (y.part == p && y.src == src) = true := by simpa using hy
      rw [hkey] at h
      obtain rfl : y = x := Option.some.inj h
      rw [if_pos hy, (hg y).1, (hg y).2, hkey]
    · have hkey : (y.part == p && y.src == src) = false := by simpa using hy
      rw [hkey] at h
      rw [if_neg hy, hkey]
      exact ih h

/-- How a packet tried in `d` ends: answered with its status, or, where its access must wait, still waiting. -/
def PacketEnds (d : Dev) (p : Nat) (f : Frame) (r : Except Stop Nat × Dev) (d' : Dev) : Prop :=
  match r with
  | (.ok st, d3) => d' = answeredIn d3 p f st
  | (.error (.err st _), d3) => d' = answeredIn d3 p f st
  | (.error (.wait n), d3) => d' = waitDev d d3 n

/-- A flow whose one waiting packet is in its turn tries it once. -/
theorem settleRx_single {d : Dev} {p port : Nat} {f : Frame} {x : RxFlow} (hx : findRx d p f.src = some x)
    (hw : x.waiting = [(port, f)]) (ht : inTurn x f = true) :
    PacketEnds d p f ((handlePkt p port f).go d) (settleRx d p f.src) := by
  have hsettle : settleRx d p f.src = tryAll p f.src [(port, f)] d := by
    simp only [settleRx, hx, hw, List.length_singleton, settleFlow]
    cases findRx (tryAll p f.src [(port, f)] d) p f.src with
    | none => rfl
    | some y => exact ite_self _
  rw [hsettle]
  simp only [tryAll, hx, ht, if_true, tryPkt]
  generalize (handlePkt p port f).go d = r
  obtain ⟨r, d3⟩ := r
  match r with
  | .ok st => rfl
  | .error (.err st a) => rfl
  | .error (.wait n) => rfl

/-! ### The checks before a packet is applied -/

/-- The group's image that group traffic has read first (R290). -/
def packetImage (d : Dev) (p : Nat) (f : Frame) : Act Unit :=
  match ((packetGroup f).filter fun g => partOfGroup d g == p).bind (groupAt d) with
  | some g => readGroup g
  | none => pure ()

/-- `act` behind the image's read and the checks 4 and 5 of R280, in the device `d0` in which the packet is tried. -/
def checkedPkt (d0 : Dev) (p port : Nat) (f : Frame) (act : Act Nat) : Act Nat := do
  packetImage d0 p f
  let d ← get
  match packetRefusal d p f with
  | some st => do
    modify fun d => noteRefused d p st f.src port
    pure st
  | none => act

/-- A packet of a source that is not shut out passes the other checks and is applied. -/
theorem handlePkt_go {d : Dev} {p port : Nat} {f : Frame} (hs : sourceShut d p f.src = false) :
    (handlePkt p port f).go d = (checkedPkt d p port f (applyPacket p f)).go d := by
  unfold handlePkt checkedPkt packetImage
  dsimp only
  rw [go_bind, go_get]
  simp only [hs, Bool.false_eq_true, if_false]
  cases ((packetGroup f).filter fun g => partOfGroup d g == p).bind (groupAt d) with
  | none => rfl
  | some g => rfl

/-- A frame taken by its row reaches the flow of its source. -/
theorem onFrame_taken {s : State} {now port : Nat} {trailer : Word} {f : Frame} {d1 : Dev}
    (h : Taken s now port trailer f d1) {kind : Frame → Bool} (hk : kind f = true) (act : Dev → Dev) :
    onFrame s.dev now port trailer f kind act = act d1 := by
  obtain ⟨-, hp, hu, hl⟩ := h
  unfold onFrame
  rw [if_pos ⟨hp, hu, hk⟩, hl]

/-- A fresh packet joins its flow, where it is the one that waits. -/
theorem packetIn_fresh {d1 d2 : Dev} {port : Nat} {f : Frame} (h : Fresh d1 port f d2) :
    PacketEnds d2 (partOfPort d1 port) f ((handlePkt (partOfPort d1 port) port f).go d2) (packetIn d1 port f) := by
  obtain ⟨hv, hd, hs, ht, x, hx, hn, hw, hi, rfl⟩ := h
  set join : RxFlow → RxFlow := fun y => { y with waiting := y.waiting ++ [(port, f)], usedAt := d1.clock }
  have hmine : ¬ (chipIdValid d1 (partOfPort d1 port) = false ∨ f.dst ≠ chipId d1 (partOfPort d1 port)) := by
    simp [hv, hd]
  have hin : packetIn d1 port f = settleRx (updRx d1 (partOfPort d1 port) f.src join) (partOfPort d1 port) f.src := by
    unfold packetIn
    simp only [if_neg hmine, hx, hs, hn, hw, ht, List.any_nil, Bool.false_eq_true, if_false, ne_eq, not_true]
    rfl
  rw [hin]
  refine settleRx_single (findRx_updRx hx (g := join) fun y => ⟨rfl, rfl⟩) ?_ hi
  simp only [join, hw, List.nil_append]

/-- The row of a packet whose application is `act`. -/
theorem completes_packet {s : State} {now port : Nat} {trailer : Word} {f : Frame} {d1 d2 : Dev}
    (ht : Taken s now port trailer f d1) (hf : Fresh d1 port f d2) {i : Instr} {kind : Frame → Bool} {act : Act Nat}
    (hi : exec i s = onPacket now port trailer f kind s) (hk : kind f = true)
    (ha : applyPacket (partOfPort d1 port) f = act) :
    Completes i s (PacketEnds d2 (partOfPort d1 port) f
      ((checkedPkt d2 (partOfPort d1 port) port f act).go d2)) := by
  have hs : sourceShut d2 (partOfPort d1 port) f.src = false := by
    obtain ⟨-, -, hs, -, x, -, -, -, -, rfl⟩ := hf
    exact hs
  refine completes_onDev ht.1 hi ?_
  rw [onFrame_taken ht hk, ← ha, ← handlePkt_go hs]
  exact packetIn_fresh hf

/-! ### What each type of packet does -/

section Apply

variable (p : Nat) {f : Frame}

theorem applyPacket_write (h : (f.type == 0) = true) : applyPacket p f = (do
    writePhys .software (frameAddr f) f.payload
    pure 0) := by
  simp only [applyPacket, beq_iff_eq.1 h]; rfl

theorem applyPacket_dispatch (h : (f.type == 5) = true) : applyPacket p f = (do
    writePhys .software (frameAddr f) f.payload
    pure 0) := by
  simp only [applyPacket, beq_iff_eq.1 h]; rfl

theorem applyPacket_accumulate (h : (f.type == 2 && !f.tly) = true) : applyPacket p f = (do
    accumAt .software (frameAddr f) (bits f.area 25 22) f.payload
    pure 0) := by
  obtain ⟨ht, hy⟩ : f.type = 2 ∧ f.tly = false := by simpa using h
  simp only [applyPacket, ht, hy]; rfl

theorem applyPacket_read (h : (f.type == 1 && !f.resp) = true) : applyPacket p f = (do
    let bs ← readPhys (frameAddr f) (frameSpan f)
    modify fun d => submit d p f.src none [readReply f bs] fun _ => .dram (frameAddr f)
    pure 0) := by
  obtain ⟨ht, hr⟩ : f.type = 1 ∧ f.resp = false := by simpa using h
  simp only [applyPacket, ht, hr]; rfl

theorem applyPacket_readResponse (h : (f.type == 1 && f.resp) = true) : applyPacket p f = (do
    modify fun d => takeResponse d p f
    pure 0) := by
  obtain ⟨ht, hr⟩ : f.type = 1 ∧ f.resp = true := by simpa using h
  simp only [applyPacket, ht, hr]; rfl

theorem applyPacket_semSignal (h : (f.type == 3) = true) : applyPacket p f = (do
    modify fun d => noteSignal (semAdd d (bits f.area 16 0) (toW (bits f.area 63 32))) p (bits f.area 16 0)
      f.src (bits f.area 63 32)
    pure 0) := by
  simp only [applyPacket, beq_iff_eq.1 h]; rfl

theorem applyPacket_kvPass (h : (f.type == 4) = true) : applyPacket p f = kvArrive p f := by
  simp only [applyPacket, beq_iff_eq.1 h]

theorem isTally_iff {kind : Nat} : isTally kind f = true ↔ f.type = 2 ∧ f.tly = true ∧ bits f.area 1 0 = kind := by
  simp [isTally, and_assoc]

theorem applyPacket_tallyExp (h : isTally 0 f = true) : applyPacket p f = tallyArrive p (tallyPkt f) := by
  obtain ⟨ht, hy, hk⟩ := isTally_iff.1 h
  simp only [applyPacket, ht, hy, hk, if_true]

theorem applyPacket_tallyMant (h : isTally 1 f = true) : applyPacket p f = tallyArrive p (tallyPkt f) := by
  obtain ⟨ht, hy, hk⟩ := isTally_iff.1 h
  simp only [applyPacket, ht, hy, hk, if_true]

theorem applyPacket_tallyPublish (h : isTally 2 f = true) : applyPacket p f = (do
    let d ← get
    set (publishArrive d (tallyPkt f)).2
    pure (publishArrive d (tallyPkt f)).1) := by
  obtain ⟨ht, hy, hk⟩ := isTally_iff.1 h
  simp only [applyPacket, ht, hy, hk, if_true]

end Apply

/-- Settles O30: a fresh packet is the one that waits on its flow and is tried once, behind the checks of R280; its type
says what applies it. -/
theorem packetsAreApplied : Obligations.PacketsAreApplied := by
  unfold Obligations.PacketsAreApplied
  intro s now port trailer f d1 d2 ht hf p image write rows r hr hk
  simp only [rows, List.mem_cons, List.not_mem_nil, or_false] at hr
  rcases hr with rfl | rfl | rfl | rfl | rfl | rfl | rfl | rfl | rfl | rfl
  · exact completes_packet ht hf (kind := fun f => f.type == 0) rfl hk (applyPacket_write p hk)
  · exact completes_packet ht hf (kind := fun f => f.type == 5) rfl hk (applyPacket_dispatch p hk)
  · exact completes_packet ht hf (kind := fun f => f.type == 2 && !f.tly) rfl hk (applyPacket_accumulate p hk)
  · exact completes_packet ht hf (kind := fun f => f.type == 1 && !f.resp) rfl hk (applyPacket_read p hk)
  · exact completes_packet ht hf (kind := fun f => f.type == 1 && f.resp) rfl hk (applyPacket_readResponse p hk)
  · exact completes_packet ht hf (kind := fun f => f.type == 3) rfl hk (applyPacket_semSignal p hk)
  · exact completes_packet ht hf (kind := fun f => f.type == 4) rfl hk (applyPacket_kvPass p hk)
  · exact completes_packet ht hf (kind := isTally 0) rfl hk (applyPacket_tallyExp p hk)
  · exact completes_packet ht hf (kind := isTally 1) rfl hk (applyPacket_tallyMant p hk)
  · exact completes_packet ht hf (kind := isTally 2) rfl hk (applyPacket_tallyPublish p hk)

end Sys2Proof.Machine
end

section
/-!
SUPPORT. A started command and a machine that holds it, from which counterexamples are built.
-/

namespace Sys2Proof.Machine

/-- A started command with SEQ 0, an opcode, its step and its parameters, the later ones 0. -/
def startedCmd (op step : Nat) (params : List Nat) : Cmd where
  seq := 0
  acc := 0
  data := List.replicate 16 0 ++ params.flatMap (leBytes 8)
  st := .started
  gateFail := false
  status := 0
  result := 0
  engine := 0
  start := 0
  finish := 0
  startClock := 0
  readyAt := none
  began := true
  replayed := false
  opcode := op
  step := step
  aux := []
  aux2 := []
  buf := []

/-- The machine after reset with these commands in queue 0. -/
def resetWith (cmds : List Cmd) : Dev :=
  { Dev.reset with hub.queues := [(0, { Queue.reset with cmds := cmds })] }

end Sys2Proof.Machine
end

section
/-!
PROOF. PAGE_RELEASE ENTRIES (R204, R207) of more than 2^32 entries: O23.
-/

namespace Sys2Proof.Machine

/-- A started ENTRIES of the 2^32 + 1 entries from 0x210000 on that stands at entry 2^32 - 1. -/
def longRelease : Cmd := startedCmd 0x0403 (2 ^ 32 - 1) [0x210000, 0, 2 ^ 32 + 1]

/-- The ASID table and every level of the page table at 0x1000: entries 0 and 16 name this table again, and entry 1 is
a leaf that maps 2 MiB to physical address 0. -/
def loopedTable : List (Nat × Byte) :=
  bytesPut (bytesPut (bytesPut [] 0x1000 (leBytes 8 0x1001)) 0x1008 (leBytes 8 7)) 0x1080 (leBytes 8 0x1001)

/-- The machine after reset with that table in force and that command in queue 0; entries 2^32 - 1 and 2^32 are
ABSENT and lie in two pages. -/
def longReleaseState : State :=
  { State.reset with dev := { resetWith [longRelease] with
    regs := [(Reg.key .chipAsidTbl 0 0, 0x1001)]
    mem.bytes := bytesPut loopedTable 0xFFFC (leBytes 8 0xFFFFFFFFFFFFFFFF) } }

/-- The result word of the oldest command of queue 0. -/
def resultAfter : Host.Outcome State Fault Refusal → Option Word
  | .next t => (cmdAt t.dev 0 0).map (·.result)
  | _ => none

/-- The read of entry 2^32 - 1. -/
def entryRead : Except Stop Nat × Dev :=
  (readEntry (spaceOf longReleaseState.dev 0) (0x210000 + 4 * (2 ^ 32 - 1))).go (clean longReleaseState)

theorem entryRead_absent : entryRead.1 = .ok absentEntry := by decide +kernel

/-- The command runs to its end, whose result is the number of its entries. -/
theorem longRelease_counts :
    resultAfter (exec (.pageReleaseEntries 0 0) longReleaseState) = some (toW (2 ^ 32 + 1)) := by
  decide +kernel

/-- The state in which entry 2^32 - 1 has been skipped, as the statement has it. -/
def skippedState : State :=
  { longReleaseState with dev := updCmd { entryRead.2 with rnl.fresh := [] } 0 0 fun z =>
      { z with step := longRelease.step + 1, aux2 := longRelease.aux2 ++ entryRead.2.rnl.fresh } }

/-- There the step is 2^32, by which the model knows a command that waits only for its window writes: the next turn
ends it with the result that it holds. -/
theorem skippedState_ends : resultAfter (exec (.pageReleaseEntries 0 0) skippedState) = some 0 := by
  decide +kernel

/-- Refutes O23: the clause on ENTRIES bounds neither the count nor the step of the command, and once 2^32 entries are
done, the step it goes on with is the mark of a command whose work is over; from there the command ends with result 0,
while the turn that skips entry 2^32 - 1 goes on to the last entry and ends with the count. -/
theorem not_banksAndReferences : ¬ Obligations.BanksAndReferences := by
  unfold Obligations.BanksAndReferences
  intro h
  obtain ⟨-, -, hentries, -⟩ := h longReleaseState 0 0 longRelease
  have hruns : CmdRuns longReleaseState 0 0 0x0403 longRelease := ⟨rfl, rfl, rfl, rfl, rfl, by decide⟩
  have hread : entryRead = (.ok absentEntry, entryRead.2) := by
    rw [← entryRead_absent]
  obtain ⟨habsent, -⟩ := hentries hruns (by decide) (by decide) rfl entryRead.2 absentEntry hread
  obtain ⟨-, hgoes⟩ := habsent rfl
  have hsame : exec (.pageReleaseEntries 0 0) longReleaseState = exec (.pageReleaseEntries 0 0) skippedState :=
    hgoes (by decide)
  have hresult := longRelease_counts
  rw [hsame, skippedState_ends] at hresult
  exact absurd hresult (by decide)

end Sys2Proof.Machine
end

section
/-!
PROOF. KV_PASS (R218, R290) in a queue that holds two commands of one SEQ: O29.
-/

namespace Sys2Proof.Machine

/-- A started KV_PASS of two frames to bank 0 of group 0 that stands at frame `n`. -/
def passAt (n : Nat) : Cmd := startedCmd 0x0404 n [0, 2, 0]

/-- A group of two members whose image lies where nothing is mapped. -/
def strayGroup : Group := ⟨0, [(dramEnd, 64)], 2, 0, 0⟩

/-- The machine after reset with that group as group 0 and, in queue 0, a KV_PASS with one frame sent before another of
the same SEQ with both frames sent. -/
def twinPass : State :=
  { State.reset with dev := { resetWith [passAt 1, passAt 2] with fab.groups := [(0, strayGroup)] } }

/-- How far the commands of a queue have come. -/
def stepsOf (d : Dev) (q : Nat) : List Nat := (queueAt d q).cmds.map (·.step)

/-- The image of the group does not read. -/
theorem strayGroup_unread : (readGroup strayGroup).go (clean twinPass) =
    (.error (.err stAddressUnmapped dramEnd), clean twinPass) := rfl

/-- A turn that begins with a group's image ends with the status of a failed read of it. -/
theorem groupTurn_unread {d0 d d1 : Dev} {g : Group} {ok : Dev → Prop} {bad : Nat → Dev → Prop} {st a : Nat}
    (hr : (readGroup g).go { d0 with rnl.fresh := [] } = (.error (.err st a), d1)) (h : GroupTurn d0 d g ok bad) :
    bad st d1 := by
  unfold GroupTurn Turn at h
  rwa [hr] at h

/-- The two commands stopped at the status of that read, each with the frames it has sent itself. -/
def twinStopped : Dev :=
  updCmd (clean twinPass) 0 0 fun z => { z with step := 0x8000 + z.step, status := max z.status stAddressUnmapped }

theorem twinPass_stops : exec (.kvPass 0 0) twinPass = .next { twinPass with dev := twinStopped } := rfl

/-- Refutes O29: where a read of the group's image fails, the clause on KV_PASS puts every command of that SEQ to the
step of the first, and each keeps its own; in a queue with two of one SEQ, one with one frame sent and one with two,
they stop at 0x8001 and 0x8002 and not both at 0x8001. -/
theorem not_dispatchGatherAndPass : ¬ Obligations.DispatchGatherAndPass := by
  unfold Obligations.DispatchGatherAndPass
  rintro ⟨h, -⟩
  obtain ⟨-, -, -, hpass⟩ := h twinPass 0 0 (passAt 1)
  obtain ⟨-, -, hturn⟩ := hpass ⟨rfl, rfl, rfl, rfl, rfl, by decide⟩
  obtain ⟨t, ht, -, -, hbad⟩ := hturn rfl (by decide) strayGroup rfl
  have hstops : t.dev = updCmd (clean twinPass) 0 0 fun z =>
      { z with step := 0x8000 + 1, status := max z.status stAddressUnmapped } := groupTurn_unread strayGroup_unread hbad
  rw [twinPass_stops] at ht
  injection ht with ht
  have hown : stepsOf t.dev 0 = [0x8001, 0x8002] := by rw [← ht]; rfl
  have hfirst : stepsOf t.dev 0 = [0x8001, 0x8001] := by rw [hstops]; rfl
  rw [hown] at hfirst
  exact absurd hfirst (by decide)

end Sys2Proof.Machine
end

section
/-!
SUPPORT. Lists cut into pieces of one length.
-/

namespace Sys2Proof.Machine

theorem cut_nil {α : Type} (n : Nat) (hn : 0 < n) : cut n ([] : List α) = [] := by
  have h : (n - 1) / n = 0 := Nat.div_eq_of_lt (by omega)
  simp [cut, h]

theorem length_cut {α : Type} (n : Nat) (xs : List α) : (cut n xs).length = (xs.length + n - 1) / n := by
  simp [cut]

theorem getElem_cut {α : Type} (n : Nat) (xs : List α) (i : Nat) (h : i < (cut n xs).length) :
    (cut n xs)[i] = (xs.drop (n * i)).take n := by
  simp [cut]

/-- The first piece of a list that is not empty, and the pieces of the rest. -/
theorem cut_step {α : Type} {n : Nat} (hn : 0 < n) {xs : List α} (h : xs ≠ []) :
    cut n xs = xs.take n :: cut n (xs.drop n) := by
  have hl : 0 < xs.length := List.length_pos_of_ne_nil h
  have hcount : (xs.length + n - 1) / n = ((xs.drop n).length + n - 1) / n + 1 := by
    rw [List.length_drop]
    by_cases hx : n ≤ xs.length
    · rw [show xs.length + n - 1 = (xs.length - n + n - 1) + n by omega, Nat.add_div_right _ hn]
    · rw [show xs.length - n = 0 by omega, Nat.zero_add, Nat.div_eq_of_lt (show n - 1 < n by omega)]
      exact Nat.div_eq_of_lt_le (by omega) (by omega)
  unfold cut
  rw [hcount, List.range_succ_eq_map, List.map_cons, List.map_map]
  simp only [Nat.mul_zero, List.drop_zero, List.drop_drop]
  exact congrArg _ (List.map_congr_left fun i _ => by simp only [Function.comp, Nat.mul_succ, Nat.add_comm])

/-- An induction over the pieces of a list. -/
theorem cut_induction {α : Type} {n : Nat} (hn : 0 < n) {P : List α → Prop} (nil : P [])
    (step : ∀ xs, xs ≠ [] → P (xs.drop n) → P xs) (xs : List α) : P xs := by
  induction hl : xs.length using Nat.strong_induction_on generalizing xs with
  | _ l ih =>
    by_cases h : xs = []
    · rwa [h]
    · have hp := List.length_pos_of_ne_nil h
      exact step xs h (ih _ (by rw [List.length_drop]; omega) _ rfl)

theorem flatten_cut {α : Type} {n : Nat} (hn : 0 < n) (xs : List α) : (cut n xs).flatten = xs := by
  induction xs using cut_induction hn with
  | nil => rw [cut_nil n hn]; rfl
  | step xs h ih => rw [cut_step hn h, List.flatten_cons, ih, List.take_append_drop]

/-- The pieces' lengths are a matter of the list's length. -/
theorem lengths_cut {α β : Type} (n : Nat) {xs : List α} {ys : List β} (h : xs.length = ys.length) :
    (cut n xs).map List.length = (cut n ys).map List.length := by
  unfold cut
  rw [h, List.map_map, List.map_map]
  refine List.map_congr_left fun i _ => ?_
  simp [h]

/-- Where `n` divides the length, every piece has the length `n`. -/
theorem length_of_mem_cut {α : Type} {n : Nat} {xs : List α} (hd : n ∣ xs.length) {g : List α} (h : g ∈ cut n xs) :
    g.length = n := by
  obtain ⟨k, hk⟩ := hd
  simp only [cut, List.mem_map, List.mem_range] at h
  obtain ⟨i, hi, rfl⟩ := h
  have hn : 0 < n := by
    rcases Nat.eq_zero_or_pos n with rfl | hn
    · simp at hi
    · exact hn
  have hi' : i < k := by
    rw [hk, show n * k + n - 1 = n - 1 + n * k by omega, Nat.add_mul_div_left _ _ hn,
      Nat.div_eq_of_lt (by omega), Nat.zero_add] at hi
    exact hi
  have : n * i + n ≤ n * k := by
    calc n * i + n = n * (i + 1) := by ring
      _ ≤ n * k := Nat.mul_le_mul_left n hi'
  rw [List.length_take, List.length_drop, hk]
  omega

theorem length_cut_of_dvd {α : Type} {n : Nat} (hn : 0 < n) {xs : List α} (hd : n ∣ xs.length) :
    (cut n xs).length = xs.length / n := by
  obtain ⟨k, hk⟩ := hd
  rw [length_cut, hk, show n * k + n - 1 = n - 1 + n * k by omega, Nat.add_mul_div_left _ _ hn,
    Nat.div_eq_of_lt (show n - 1 < n by omega), Nat.zero_add, Nat.mul_div_cancel_left _ hn]

/-- An element of a table whose rows have one length. -/
theorem getD_flatten {α : Type} {n i : Nat} (hi : i < n) (x : α) : ∀ (j : Nat) (ls : List (List α)),
    (∀ l ∈ ls, l.length = n) → ls.flatten.getD (n * j + i) x = (ls.getD j []).getD i x
  | _, [], _ => by simp
  | 0, l :: ls, h => by
    have hl := h l (by simp)
    rw [Nat.mul_zero, Nat.zero_add, List.flatten_cons, List.getD_append _ _ _ _ (by omega)]
    rfl
  | j + 1, l :: ls, h => by
    have hl := h l (by simp)
    have hlen : l.length ≤ n * (j + 1) + i := by rw [hl, Nat.mul_add]; omega
    have ih := getD_flatten hi x j ls fun m hm => h m (by simp [hm])
    rw [List.flatten_cons, List.getD_append_right _ _ _ _ hlen, hl,
      show n * (j + 1) + i - n = n * j + i by rw [Nat.mul_add]; omega, ih, List.getD_cons_succ]

end Sys2Proof.Machine
end

section
/-!
SUPPORT. Numbers as bits, least significant first, and bits packed into bytes (R84).
-/

namespace Sys2Proof.Machine

/-- The number whose bits these are, least significant first. -/
def bitsValue : List Bool → Nat
  | [] => 0
  | b :: bs => b.toNat + 2 * bitsValue bs

/-- The sum by which the model takes bits together. -/
theorem sum_bits (bs : List Bool) :
    (((List.range bs.length).zip bs).map fun e => e.2.toNat * 2 ^ e.1).sum = bitsValue bs := by
  induction bs with
  | nil => rfl
  | cons b bs ih =>
    have hdouble : ∀ l : List (Nat × Bool), ((l.map fun e => e.2.toNat * 2 ^ (e.1 + 1)).sum) =
        2 * (l.map fun e => e.2.toNat * 2 ^ e.1).sum := by
      intro l
      rw [← List.sum_map_mul_left]
      exact congrArg _ (List.map_congr_left fun e _ => by ring)
    rw [List.length_cons, List.range_succ_eq_map, List.zip_cons_cons, List.map_cons, List.sum_cons, List.zip_map_left,
      List.map_map, bitsValue, ← ih, ← hdouble]
    simp [Function.comp_def]

@[simp] theorem length_bitsLsb (n v : Nat) : (bitsLsb n v).length = n := by simp [bitsLsb]

theorem bitsLsb_succ (n v : Nat) : bitsLsb (n + 1) v = decide (v % 2 = 1) :: bitsLsb n (v / 2) := by
  unfold bitsLsb
  rw [List.range_succ_eq_map, List.map_cons, List.map_map]
  refine congrArg₂ _ (by simp [Nat.testBit_zero]) (List.map_congr_left fun i _ => ?_)
  simp [Nat.testBit_succ]

theorem bitsValue_bitsLsb (n : Nat) : ∀ v, bitsValue (bitsLsb n v) = v % 2 ^ n := by
  induction n with
  | zero => intro v; simp [bitsLsb, bitsValue, Nat.mod_one]
  | succ n ih =>
    intro v
    have hbit : (decide (v % 2 = 1)).toNat = v % 2 := by
      rcases Nat.mod_two_eq_zero_or_one v with h | h <;> simp [h]
    rw [bitsLsb_succ, bitsValue, ih, hbit, pow_succ', Nat.mod_mul]

/-- The bits of a list's number are the list, with zeros up to their count. -/
theorem bitsLsb_bitsValue (g : List Bool) : ∀ n, g.length ≤ n →
    bitsLsb n (bitsValue g) = g ++ List.replicate (n - g.length) false := by
  induction g with
  | nil =>
    intro n _
    refine List.eq_replicate_iff.2 ⟨length_bitsLsb n 0, fun b hb => ?_⟩
    obtain ⟨_, _, rfl⟩ := List.mem_map.1 hb
    exact Nat.zero_testBit _
  | cons b g ih =>
    intro n hn
    obtain ⟨m, rfl⟩ : ∃ m, n = m + 1 := ⟨n - 1, by simp at hn; omega⟩
    rw [List.length_cons] at hn ⊢
    have hhalf : (b.toNat + 2 * bitsValue g) / 2 = bitsValue g := by
      have := Bool.toNat_le b
      omega
    have hlow : decide ((b.toNat + 2 * bitsValue g) % 2 = 1) = b := by cases b <;> simp
    rw [bitsLsb_succ, bitsValue, hhalf, hlow, ih m (by omega), Nat.add_sub_add_right]
    rfl

theorem bitsValue_lt (g : List Bool) : bitsValue g < 2 ^ g.length := by
  induction g with
  | nil => simp [bitsValue]
  | cons b g ih => rw [bitsValue, List.length_cons, pow_succ]; cases b <;> simp <;> omega

/-- A number written in `n` bits is read back from them. -/
theorem takeBits_bitsLsb {n v : Nat} (h : v < 2 ^ n) (rest : List Bool) :
    takeBits n (bitsLsb n v ++ rest) = some (v, rest) := by
  have hlen := length_bitsLsb n v
  have hsum := sum_bits (bitsLsb n v)
  rw [hlen, bitsValue_bitsLsb, Nat.mod_eq_of_lt h] at hsum
  unfold takeBits
  rw [if_neg (by rw [List.length_append, hlen]; omega), List.take_left' hlen, List.drop_left' hlen, hsum]

/-- A unary count is read back. -/
theorem takeUnary_replicate (q n : Nat) (rest : List Bool) :
    takeUnary (List.replicate q true ++ false :: rest) n = some (n + q, rest) := by
  induction q generalizing n with
  | zero => rfl
  | succ q ih =>
    rw [List.replicate_succ, List.cons_append, takeUnary, ih, show n + 1 + q = n + (q + 1) by omega]

/-- Bits packed into bytes are unpacked with zeros up to a whole byte. -/
theorem unpackBits_packBits (bs : List Bool) : ∃ k, unpackBits (packBits bs) = bs ++ List.replicate k false := by
  have hn : 0 < 8 := by decide
  unfold unpackBits packBits
  simp only [sum_bits]
  induction bs using cut_induction hn with
  | nil => exact ⟨0, by rw [cut_nil 8 hn]; rfl⟩
  | step bs h ih =>
    obtain ⟨k, ih⟩ := ih
    have hbyte : bitsValue (bs.take 8) < 2 ^ 8 :=
      (bitsValue_lt _).trans_le (Nat.pow_le_pow_right (by decide) (List.length_take_le 8 bs))
    rw [cut_step hn h, List.map_cons, List.map_cons, List.flatten_cons, ih, BitVec.toNat_ofNat,
      Nat.mod_eq_of_lt hbyte, bitsLsb_bitsValue _ _ (List.length_take_le 8 bs)]
    by_cases hl : bs.length ≤ 8
    · rw [List.take_of_length_le hl, List.drop_of_length_le hl]
      exact ⟨8 - bs.length + k, by simp⟩
    · rw [List.length_take, Nat.min_eq_left (by omega)]
      exact ⟨k, by simp [← List.append_assoc]⟩

end Sys2Proof.Machine
end

section
/-!
PROOF. PLANES coding (R230, Table TRN-6) loses nothing.
-/

namespace Sys2Proof.Machine

/-- The zigzag value of a byte after `prev` is a byte. -/
theorem zigzag_cons_lt {prev b : Nat} (bs : List Nat) :
    ∃ z, zigzag prev (b :: bs) = z :: zigzag b bs ∧ z < 256 ∧ (prev < 256 → b < 256 → unzig prev z = b) := by
  refine ⟨_, rfl, ?_, fun hp hb => ?_⟩
  · split <;> omega
  · unfold unzig
    split <;> split <;> omega

/-- A group coded with Rice parameter `k` is read back. -/
theorem groupDecode_rice {k : Nat} (hk : k < 8) (rest : List Bool) : ∀ (g : List Nat) (prev : Nat), prev < 256 →
    (∀ b ∈ g, b < 256) →
    groupDecode k g.length prev (((zigzag prev g).map (riceBits k)).flatten ++ rest) = some (g, rest)
  | [], _, _, _ => rfl
  | b :: g, prev, hp, hg => by
    have hb : b < 256 := hg b (by simp)
    obtain ⟨z, hz, hlt, hun⟩ := zigzag_cons_lt (prev := prev) (b := b) g
    have hlow : bitsLsb k z = bitsLsb k (z % 2 ^ k) := List.map_congr_left fun i hi => by
      rw [Nat.testBit_mod_two_pow, decide_eq_true (List.mem_range.1 hi), Bool.true_and]
    have hjoin : z / 2 ^ k * 2 ^ k + z % 2 ^ k = z := Nat.div_add_mod' z _
    have ih := groupDecode_rice hk rest g b hb fun c hc => hg c (by simp [hc])
    rw [hz, List.map_cons, List.flatten_cons, riceBits, hlow, List.length_cons, groupDecode, if_neg (by omega)]
    simp only [List.append_assoc, List.cons_append]
    rw [takeUnary_replicate]
    dsimp only
    rw [takeBits_bitsLsb (Nat.mod_lt _ (Nat.two_pow_pos k))]
    dsimp only
    rw [Nat.zero_add, hjoin, if_neg (by omega), hun hp hb, ih]
    rfl

/-- A RAW group is read back. -/
theorem groupDecode_raw (rest : List Bool) : ∀ (g : List Nat) (prev : Nat), (∀ b ∈ g, b < 256) →
    groupDecode 8 g.length prev ((g.map (bitsLsb 8)).flatten ++ rest) = some (g, rest)
  | [], _, _ => rfl
  | b :: g, prev, hg => by
    have hb : b < 2 ^ 8 := hg b (by simp)
    have ih := groupDecode_raw rest g b fun c hc => hg c (by simp [hc])
    rw [List.map_cons, List.flatten_cons, List.length_cons, groupDecode, if_pos rfl, List.append_assoc,
      takeBits_bitsLsb hb]
    dsimp only
    rw [ih]
    rfl

theorem shortest_mem : ∀ (l : List (Nat × List Bool)) (x : Nat × List Bool), shortest l x ∈ x :: l
  | [], _ => by simp [shortest]
  | a :: l, x => by
    unfold shortest
    by_cases h : a.2.length < x.2.length
    · rw [if_pos h]
      exact List.mem_cons_of_mem _ (shortest_mem l a)
    · rw [if_neg h]
      exact (List.mem_cons.1 (shortest_mem l x)).elim (fun e => by simp [e]) fun e => by simp [e]

/-- A group's bits are one of its codings: CONST where every byte is the same, Rice, or RAW. -/
theorem groupBits_cases (g : List Nat) : ∃ m body, groupBits g = bitsLsb 4 m ++ body ∧
    ((m = 9 ∧ body = bitsLsb 8 (g.headD 0) ∧ ∀ b ∈ g, b = g.headD 0) ∨
      (m < 8 ∧ body = ((zigzag 0 g).map (riceBits m)).flatten) ∨ (m = 8 ∧ body = (g.map (bitsLsb 8)).flatten)) := by
  have hmem : ∃ x ∈ groupModes g, groupBits g = bitsLsb 4 x.1 ++ x.2 := by
    unfold groupBits
    split
    · next h => simp [groupModes] at h
    · next x xs h => exact ⟨shortest xs x, h ▸ shortest_mem xs x, rfl⟩
  obtain ⟨⟨m, body⟩, hx, hbits⟩ := hmem
  refine ⟨m, body, hbits, ?_⟩
  simp only [groupModes, List.mem_append, List.mem_map, List.mem_range, List.mem_singleton, Prod.mk.injEq] at hx
  obtain (hflat | ⟨k, hk, rfl, rfl⟩) | ⟨rfl, rfl⟩ := hx
  · by_cases hall : (g.all fun b => b == g.headD 0) = true
    · rw [if_pos hall, List.mem_singleton, Prod.mk.injEq] at hflat
      exact .inl ⟨hflat.1, hflat.2, by simpa using hall⟩
    · rw [if_neg hall] at hflat
      cases hflat
  · exact .inr (.inl ⟨hk, rfl⟩)
  · exact .inr (.inr ⟨rfl, rfl⟩)

theorem headD_lt {g : List Nat} (hg : ∀ b ∈ g, b < 256) : g.headD 0 < 256 := by
  cases g with
  | nil => decide
  | cons b g => exact hg b (by simp)

/-- Groups are read back one after another, whatever follows them. -/
theorem groupsDecode_groupBits (rest : List Bool) : ∀ gs : List (List Nat), (∀ g ∈ gs, ∀ b ∈ g, b < 256) →
    groupsDecode (gs.map List.length) ((gs.map groupBits).flatten ++ rest) = some (gs.flatten, rest)
  | [], _ => rfl
  | g :: gs, h => by
    have hg : ∀ b ∈ g, b < 256 := h g (by simp)
    have ih := groupsDecode_groupBits rest gs fun x hx => h x (by simp [hx])
    obtain ⟨m, body, hbits, hcase⟩ := groupBits_cases g
    have hm : m < 2 ^ 4 := by obtain ⟨rfl, -⟩ | ⟨hm, -⟩ | ⟨rfl, -⟩ := hcase <;> omega
    rw [List.map_cons, List.map_cons, List.flatten_cons, hbits, groupsDecode, List.append_assoc, List.append_assoc,
      takeBits_bitsLsb hm]
    dsimp only
    generalize htail : (gs.map groupBits).flatten ++ rest = tail at ih ⊢
    have hone : (if m = 9 then (takeBits 8 (body ++ tail)).map fun r => (List.replicate g.length r.1, r.2)
        else if m ≤ 8 then groupDecode m g.length 0 (body ++ tail) else none) = some (g, tail) := by
      obtain ⟨rfl, rfl, hsame⟩ | ⟨hlt, rfl⟩ | ⟨rfl, rfl⟩ := hcase
      · rw [if_pos rfl, takeBits_bitsLsb (headD_lt hg), Option.map_some, ← List.eq_replicate_iff.2 ⟨rfl, hsame⟩]
      · rw [if_neg (by omega), if_pos (by omega), groupDecode_rice hlt tail g 0 (by decide) hg]
      · rw [if_neg (by decide), if_pos (by decide), groupDecode_raw tail g 0 hg]
    rw [hone]
    dsimp only
    rw [ih]
    rfl

/-- The planes of elements of `w` bytes. -/
def planesOf (w : Nat) (bs : List Byte) : List (List Nat) := (List.range w).map fun j => planeOf w j bs

/-- Every plane's groups, plane after plane. -/
def planeGroups (w : Nat) (bs : List Byte) : List (List Nat) := ((planesOf w bs).map (cut 256)).flatten

theorem planesEncode_eq (w : Nat) (bs : List Byte) :
    planesEncode w bs = packBits ((planeGroups w bs).map groupBits).flatten := by
  simp only [planesEncode, planeGroups, planesOf, List.map_map, List.map_flatten, Function.comp_def]
  rw [List.flatten_flatten, List.map_map]
  rfl

theorem flatten_planeGroups (w : Nat) (bs : List Byte) : (planeGroups w bs).flatten = (planesOf w bs).flatten := by
  unfold planeGroups
  rw [List.flatten_flatten, List.map_map]
  exact congrArg _ ((List.map_congr_left fun p _ => flatten_cut (by decide) p).trans (List.map_id _))

theorem planeGroups_lt {w : Nat} {bs : List Byte} {g : List Nat} (hg : g ∈ planeGroups w bs) {b : Nat} (hb : b ∈ g) :
    b < 256 := by
  have hb' : b ∈ (planesOf w bs).flatten := flatten_planeGroups w bs ▸ List.mem_flatten.2 ⟨g, hg, hb⟩
  simp only [planesOf, planeOf, List.mem_flatten, List.mem_map] at hb'
  obtain ⟨_, ⟨j, -, rfl⟩, hb'⟩ := hb'
  obtain ⟨e, -, rfl⟩ := List.mem_map.1 hb'
  exact (byteAt e j).isLt

theorem length_planeOf {w : Nat} (hw : 0 < w) (j : Nat) {bs : List Byte} (hd : w ∣ bs.length) :
    (planeOf w j bs).length = bs.length / w := by
  rw [planeOf, List.length_map, length_cut_of_dvd hw hd]

theorem lengths_planeGroups {w : Nat} (hw : 0 < w) {bs : List Byte} (hd : w ∣ bs.length) :
    (planeGroups w bs).map List.length = ((List.range w).map fun _ => groupLens (bs.length / w)).flatten := by
  simp only [planeGroups, planesOf, List.map_flatten, List.map_map, Function.comp_def]
  refine congrArg _ (List.map_congr_left fun j _ => lengths_cut 256 ?_)
  rw [length_planeOf hw j hd, List.length_replicate]

/-- Byte `j` of element `i`, found in the planes. -/
theorem getD_planes {w : Nat} (hw : 0 < w) {bs : List Byte} (hd : w ∣ bs.length) {i j : Nat}
    (hi : i < bs.length / w) (hj : j < w) :
    (planesOf w bs).flatten.getD (bs.length / w * j + i) 0 = (byteAt ((bs.drop (w * i)).take w) j).toNat := by
  have hrows : ∀ l ∈ planesOf w bs, l.length = bs.length / w := by
    simp only [planesOf, List.mem_map]
    rintro l ⟨j, -, rfl⟩
    exact length_planeOf hw j hd
  have hrow : (planesOf w bs).getD j [] = planeOf w j bs := by simp [planesOf, hj]
  have hi' : i < (cut w bs).length := by rwa [length_cut_of_dvd hw hd]
  rw [getD_flatten hi _ _ _ hrows, hrow, planeOf, List.getD_eq_getElem _ _ (by simpa using hi'), List.getElem_map,
    getElem_cut]

theorem map_byteAt {w : Nat} {e : List Byte} (h : e.length = w) : ((List.range w).map fun j => byteAt e j) = e := by
  subst h
  refine List.ext_getElem (by simp) fun i hi _ => ?_
  simp at hi
  simp [byteAt, hi]

/-- PLANES coding of whole elements is lossless. -/
theorem planesDecode_planesEncode {w : Nat} (hw : 0 < w) {bs : List Byte} (hd : w ∣ bs.length) :
    planesDecode w bs.length (planesEncode w bs) = some bs := by
  obtain ⟨k, hbits⟩ := unpackBits_packBits ((planeGroups w bs).map groupBits).flatten
  unfold planesDecode
  dsimp only
  rw [planesEncode_eq, hbits, ← lengths_planeGroups hw hd,
    groupsDecode_groupBits _ _ fun _ hg _ hb => planeGroups_lt hg hb, Option.map_some, flatten_planeGroups]
  have helems : ((List.range (bs.length / w)).map fun i => (List.range w).map fun j =>
      BitVec.ofNat 8 ((planesOf w bs).flatten.getD (bs.length / w * j + i) 0)) = cut w bs := by
    rw [cut, ← length_cut, length_cut_of_dvd hw hd]
    refine List.map_congr_left fun i hi => ?_
    have hi := List.mem_range.1 hi
    have hmem : (bs.drop (w * i)).take w ∈ cut w bs := by
      have : i < (cut w bs).length := by rwa [length_cut_of_dvd hw hd]
      rw [← getElem_cut w bs i this]
      exact List.getElem_mem _
    refine Eq.trans (List.map_congr_left fun j hj => ?_) (map_byteAt (length_of_mem_cut hd hmem))
    rw [getD_planes hw hd hi (List.mem_range.1 hj), BitVec.ofNat_toNat, BitVec.setWidth_eq]
  rw [helems, flatten_cut hw]

end Sys2Proof.Machine
end

section
/-!
SUPPORT. Numbers kept in byte lists (R9), a list's padding to 64 bytes, and the CRC of R228.
-/

namespace Sys2Proof.Machine

theorem leAt_append_left {a : List Byte} (b : List Byte) {off len : Nat} (h : off + len ≤ a.length) :
    leAt (a ++ b) off len = leAt a off len := by
  unfold leAt
  rw [List.drop_append_of_le_length (by omega), List.take_append_of_le_length (by rw [List.length_drop]; omega)]

theorem leAt_append_right {a : List Byte} (b : List Byte) {off : Nat} (len : Nat) (h : a.length ≤ off) :
    leAt (a ++ b) off len = leAt b (off - a.length) len := by
  unfold leAt
  rw [List.drop_append, List.drop_of_length_le h, List.nil_append]

/-- A number at the front of a list. -/
theorem leAt_leBytes {n v : Nat} (h : v < 2 ^ (8 * n)) (rest : List Byte) : leAt (leBytes n v ++ rest) 0 n = v := by
  unfold leAt
  rw [List.drop_zero, List.take_left' (length_leBytes n v), leNat_leBytes, Nat.mod_eq_of_lt h]

/-- What follows a number of `n` bytes at the front of a list. -/
theorem leAt_leBytes_append {n off : Nat} (v : Nat) (rest : List Byte) (len : Nat) (h : n ≤ off) :
    leAt (leBytes n v ++ rest) off len = leAt rest (off - n) len := by
  rw [leAt_append_right _ _ (by rwa [length_leBytes]), length_leBytes]

theorem leNat_replicate_zero (n : Nat) : leNat (List.replicate n 0) = 0 := by
  induction n with
  | zero => rfl
  | succ n ih => rw [List.replicate_succ, leNat, ih]; rfl

/-- A number of a table of 4-byte numbers. -/
theorem leAt_table (rest : List Byte) : ∀ (l : List Nat) (i : Nat), (∀ v ∈ l, v < 2 ^ 32) → i < l.length →
    leAt ((l.map (leBytes 4)).flatten ++ rest) (4 * i) 4 = l.getD i 0
  | v :: l, 0, h, _ => by
    rw [List.map_cons, List.flatten_cons, List.append_assoc]
    exact leAt_leBytes (h v (by simp)) _
  | v :: l, i + 1, h, hi => by
    rw [List.map_cons, List.flatten_cons, List.append_assoc, leAt_leBytes_append _ _ _ (by omega),
      show 4 * (i + 1) - 4 = 4 * i by omega, leAt_table rest l i (fun u hu => h u (by simp [hu])) (by simpa using hi)]
    rfl

theorem length_table (l : List Nat) : ((l.map (leBytes 4)).flatten).length = 4 * l.length := by
  induction l with
  | nil => rfl
  | cons v l ih => simp [ih]; omega

theorem length_pad64 (bs : List Byte) : (pad64 bs).length = alignUp 64 bs.length := by
  simp only [pad64, alignUp, List.length_append, List.length_replicate]
  omega

theorem alignUp_bounds (a : Nat) : a ≤ alignUp 64 a ∧ alignUp 64 a < a + 64 ∧ alignUp 64 a % 64 = 0 := by
  unfold alignUp
  omega

theorem crc32Step_lt (n : Nat) : ∀ c, c < 2 ^ 32 → crc32Step n c < 2 ^ 32 := by
  induction n with
  | zero => exact fun _ h => h
  | succ n ih =>
    intro c hc
    unfold crc32Step
    split
    · exact ih _ (Nat.xor_lt_two_pow (by omega) (by decide))
    · exact ih _ (by omega)

theorem crc32_lt (bs : List Byte) : crc32 bs < 2 ^ 32 := by
  have hfold : ∀ (bs : List Byte) (c : Nat), c < 2 ^ 32 →
      bs.foldl (fun c b => crc32Step 8 (c ^^^ b.toNat)) c < 2 ^ 32 := by
    intro bs
    induction bs with
    | nil => exact fun _ h => h
    | cons b bs ih =>
      exact fun c hc => ih _ (crc32Step_lt 8 _ (Nat.xor_lt_two_pow hc (b.isLt.trans (by decide))))
  exact Nat.xor_lt_two_pow (hfold bs _ (by decide)) (by decide)

end Sys2Proof.Machine
end

section
/-!
PROOF. The lossless Satchel stream (R228 to R230, R232, R234): O60.
-/

namespace Sys2Proof.Machine

/-! ### One chunk -/

/-- The chunk header of Table TRN-5. -/
def chunkHead (len code width payLen crc : Nat) : List Byte :=
  leBytes 4 len ++ leBytes 1 code ++ leBytes 1 width ++ leBytes 2 0 ++ leBytes 4 payLen ++ leBytes 4 crc

theorem length_chunkHead (len code width payLen crc : Nat) : (chunkHead len code width payLen crc).length = 16 := by
  simp [chunkHead]

/-- A lossless chunk is PLANES or STORED, and its payload is at most its source. -/
theorem chunkOf_lossless (width : Nat) (p : List Byte) : ∃ code pay,
    (chunkOf 0 width p).1 = pad64 (chunkHead p.length code width pay.length (crc32 p) ++ pay) ∧
      pay.length ≤ p.length ∧ (code = 0 ∧ pay = p ∨ code = 1 ∧ pay = planesEncode (2 ^ width) p) := by
  by_cases h : (planesEncode (2 ^ width) p).length < p.length
  · exact ⟨1, planesEncode (2 ^ width) p, by simp [chunkOf, h, chunkHead], h.le, .inr ⟨rfl, rfl⟩⟩
  · exact ⟨0, p, by simp [chunkOf, h, chunkHead], le_rfl, .inl ⟨rfl, rfl⟩⟩

/-- A chunk takes whole units of 64 bytes, at least one, and at most one more than its source. -/
theorem length_chunkOf (width : Nat) {p : List Byte} (hp : 64 ∣ p.length) :
    64 ∣ (chunkOf 0 width p).1.length ∧ 64 ≤ (chunkOf 0 width p).1.length ∧
      (chunkOf 0 width p).1.length ≤ p.length + 64 := by
  obtain ⟨code, pay, hc, hpay, -⟩ := chunkOf_lossless width p
  rw [hc, length_pad64, List.length_append, length_chunkHead, alignUp]
  omega

/-- What the fields of a chunk header hold. -/
theorem leAt_chunkHead {len code width payLen crc : Nat} (rest : List Byte) (hl : len < 2 ^ 32) (hc : code < 256)
    (hw : width < 256) (hp : payLen < 2 ^ 32) (hx : crc < 2 ^ 32) :
    let c := chunkHead len code width payLen crc ++ rest
    leAt c 0 4 = len ∧ leAt c 4 1 = code ∧ leAt c 5 1 = width ∧ leAt c 6 2 = 0 ∧ leAt c 8 4 = payLen ∧
      leAt c 12 4 = crc := by
  simp only [chunkHead, List.append_assoc]
  refine ⟨leAt_leBytes hl _, ?_, ?_, ?_, ?_, ?_⟩ <;> simp only [leAt_leBytes_append, Nat.reduceLeDiff, Nat.reduceSub]
  exacts [leAt_leBytes hc _, leAt_leBytes hw _, leAt_leBytes (by decide) _, leAt_leBytes hp _, leAt_leBytes hx _]

/-- A chunk is decoded to its source wherever it lies in a stream. -/
theorem chunkDecode_chunkOf {s rest : List Byte} {i width : Nat} {p : List Byte} (hw : width ≤ 2)
    (hp : 64 ∣ p.length) (hlen : min 65536 (leAt s 8 8 - 65536 * i) = p.length)
    (hat : s.drop (leAt s (64 + 4 * i) 4 * 64) = (chunkOf 0 width p).1 ++ rest) : chunkDecode s i = some p := by
  obtain ⟨code, pay, hc, hpay, hcode⟩ := chunkOf_lossless width p
  rw [hc, pad64, List.append_assoc, List.append_assoc] at hat
  generalize hafter : pay ++ _ = after at hat
  have hp64 : p.length ≤ 65536 := hlen ▸ Nat.min_le_left _ _
  have hcode' : code < 256 := by obtain ⟨rfl, -⟩ | ⟨rfl, -⟩ := hcode <;> decide
  obtain ⟨hf0, hf4, hf5, hf6, hf8, hf12⟩ := leAt_chunkHead (len := p.length) (code := code) (width := width)
    (payLen := pay.length) (crc := crc32 p) after (by omega) hcode' (by omega) (by omega) (crc32_lt p)
  have htake : ((chunkHead p.length code width pay.length (crc32 p) ++ after).drop 16).take pay.length = pay := by
    rw [List.drop_left' (length_chunkHead _ _ _ _ _), ← hafter, List.take_left' rfl]
  unfold chunkDecode
  dsimp only
  rw [hat, hf0, hf4, hf5, hf6, hf8, hf12, hlen, htake, if_neg (by omega)]
  obtain ⟨rfl, rfl⟩ | ⟨rfl, hplanes⟩ := hcode
  · exact if_pos ⟨rfl, rfl⟩
  · have hdvd : 2 ^ width ∣ p.length := (pow_dvd_pow 2 (show width ≤ 6 by omega)).trans hp
    rw [hplanes, planesDecode_planesEncode (Nat.two_pow_pos width) hdvd]
    exact if_pos rfl

/-! ### The stream: header, directory, chunks -/

/-- The stream header of Table TRN-4 before its CRC. -/
def headFields (width len n stored : Nat) : List Byte :=
  leBytes 4 1 ++ leBytes 1 0 ++ leBytes 1 width ++ leBytes 2 0 ++ leBytes 8 len ++ leBytes 4 n ++ leBytes 4 0 ++
    leBytes 8 stored ++ List.replicate 28 0

def streamHead (width len n stored : Nat) : List Byte :=
  headFields width len n stored ++ leBytes 4 (crc32 (headFields width len n stored))

/-- The chunks of a source under a lossless request. -/
def chunkBodies (width : Nat) (src : List Byte) : List (List Byte) :=
  (cut 65536 src).map fun p => (chunkOf 0 width p).1

/-- The entries of the directory. -/
def chunkEntries (bodies : List (List Byte)) : List Nat :=
  chunkOffsets ((64 + alignUp 64 (4 * bodies.length)) / 64) bodies

def directory (bodies : List (List Byte)) : List Byte := pad64 ((chunkEntries bodies).map (leBytes 4)).flatten

/-- STORED_LEN of a stream of these chunks. -/
def storedLen (bodies : List (List Byte)) : Nat := 64 + alignUp 64 (4 * bodies.length) + bodies.flatten.length

theorem streamOf_lossless (width : Nat) (src : List Byte) :
    let bodies := chunkBodies width src
    (streamOf 0 width src).1 =
      streamHead width src.length bodies.length (storedLen bodies) ++ (directory bodies ++ bodies.flatten) := by
  simp only [streamOf, streamHead, headFields, directory, chunkEntries, storedLen, chunkBodies, List.length_map,
    List.map_map, Function.comp_def, List.append_assoc]

theorem length_headFields (width len n stored : Nat) : (headFields width len n stored).length = 60 := by
  simp [headFields]

theorem length_streamHead (width len n stored : Nat) : (streamHead width len n stored).length = 64 := by
  simp [streamHead, length_headFields]

/-- What the fields of a stream header hold. -/
theorem leAt_streamHead {width len n stored : Nat} (rest : List Byte) (hw : width < 256) (hl : len < 2 ^ 64)
    (hn : n < 2 ^ 32) (hs : stored < 2 ^ 64) :
    let h := streamHead width len n stored ++ rest
    leAt h 0 4 = 1 ∧ leAt h 4 1 = 0 ∧ leAt h 5 1 = width ∧ leAt h 6 2 = 0 ∧ leAt h 8 8 = len ∧ leAt h 0x10 4 = n ∧
      leAt h 0x14 4 = 0 ∧ leAt h 0x18 8 = stored ∧ leAt h 0x20 28 = 0 ∧
      leAt h 0x3C 4 = crc32 (headFields width len n stored) := by
  have hcrc : leAt (streamHead width len n stored ++ rest) 0x3C 4 = crc32 (headFields width len n stored) := by
    rw [streamHead, List.append_assoc, leAt_append_right _ _ (by rw [length_headFields]), length_headFields]
    exact leAt_leBytes (crc32_lt _) _
  refine ⟨?_, ?_, ?_, ?_, ?_, ?_, ?_, ?_, ?_, hcrc⟩ <;> rw [streamHead] <;> generalize leBytes 4 (crc32 _) = crc <;>
    simp only [headFields, List.append_assoc, leAt_leBytes_append, Nat.reduceLeDiff, Nat.reduceSub]
  exacts [leAt_leBytes (by decide) _, leAt_leBytes (by decide) _, leAt_leBytes hw _, leAt_leBytes (by decide) _,
    leAt_leBytes hl _, leAt_leBytes hn _, leAt_leBytes (by decide) _, leAt_leBytes hs _, by
      rw [leAt_append_left _ (by simp), leAt, List.drop_zero, List.take_of_length_le (by simp), leNat_replicate_zero]]

/-! ### Where the chunks lie -/

theorem length_chunkOffsets (o : Nat) (bs : List (List Byte)) : (chunkOffsets o bs).length = bs.length := by
  induction bs generalizing o with
  | nil => rfl
  | cons b bs ih => simp [chunkOffsets, ih]

/-- An entry of the directory names, in units of 64 bytes, where its chunk begins. -/
theorem chunkOffsets_getD : ∀ (bs : List (List Byte)) (o i : Nat), (∀ b ∈ bs, 64 ∣ b.length) → i < bs.length →
    (chunkOffsets o bs).getD i 0 * 64 = o * 64 + (bs.take i).flatten.length
  | b :: bs, o, 0, _, _ => by simp [chunkOffsets]
  | b :: bs, o, i + 1, h, hi => by
    have hb : b.length / 64 * 64 = b.length := Nat.div_mul_cancel (h b (by simp))
    have ih := chunkOffsets_getD bs (o + b.length / 64) i (fun c hc => h c (by simp [hc])) (by simpa using hi)
    rw [chunkOffsets, List.getD_cons_succ, ih, List.take_succ_cons, List.flatten_cons, List.length_append]
    omega

theorem drop_flatten (bs : List (List Byte)) (i : Nat) :
    bs.flatten.drop (bs.take i).flatten.length = (bs.drop i).flatten := by
  conv_lhs => rw [← List.take_append_drop i bs]
  rw [List.flatten_append, List.take_append_drop, List.drop_left]

theorem length_flatten_take_le (bs : List (List Byte)) (i : Nat) :
    (bs.take i).flatten.length ≤ bs.flatten.length := by
  conv_rhs => rw [← List.take_append_drop i bs, List.flatten_append, List.length_append]
  omega

theorem length_flatten_take_succ (bs : List (List Byte)) {i : Nat} (hi : i < bs.length) :
    (bs.take (i + 1)).flatten.length = (bs.take i).flatten.length + bs[i].length := by
  rw [List.take_succ_eq_append_getElem hi, List.flatten_append, List.length_append]
  simp

/-! ### The whole stream -/

section Stream

variable {width : Nat} {src : List Byte}

theorem length_chunkBodies (width : Nat) (src : List Byte) :
    (chunkBodies width src).length = (src.length + 65535) / 65536 := by
  rw [chunkBodies, List.length_map, length_cut, Nat.add_sub_assoc (by decide)]

theorem getElem_chunkBodies (width : Nat) (src : List Byte) {i : Nat} (hi : i < (chunkBodies width src).length) :
    (chunkBodies width src)[i] = (chunkOf 0 width ((src.drop (65536 * i)).take 65536)).1 := by
  simp only [chunkBodies, List.getElem_map, getElem_cut]

/-- Every piece of the source has a multiple of 64 bytes. -/
theorem dvd_of_mem_pieces (h64 : 64 ∣ src.length) {p : List Byte} (hp : p ∈ cut 65536 src) : 64 ∣ p.length := by
  obtain ⟨i, -, rfl⟩ := List.mem_map.1 hp
  rw [List.length_take, List.length_drop]
  omega

theorem mem_chunkBodies (h64 : 64 ∣ src.length) {b : List Byte} (hb : b ∈ chunkBodies width src) :
    64 ∣ b.length ∧ 64 ≤ b.length := by
  obtain ⟨p, hp, rfl⟩ := List.mem_map.1 hb
  obtain ⟨hdvd, hpos, -⟩ := length_chunkOf width (dvd_of_mem_pieces h64 hp)
  exact ⟨hdvd, hpos⟩

/-- Chunks take together at most one unit each more than their sources. -/
theorem length_flatten_chunkOf (width : Nat) : ∀ ps : List (List Byte), (∀ p ∈ ps, 64 ∣ p.length) →
    64 ∣ ((ps.map fun p => (chunkOf 0 width p).1).flatten).length ∧
      ((ps.map fun p => (chunkOf 0 width p).1).flatten).length ≤ ps.flatten.length + 64 * ps.length
  | [], _ => by simp
  | p :: ps, h => by
    obtain ⟨hdvd, hle⟩ := length_flatten_chunkOf width ps fun x hx => h x (by simp [hx])
    obtain ⟨hdvd', -, hle'⟩ := length_chunkOf width (h p (by simp))
    simp only [List.map_cons, List.flatten_cons, List.length_append, List.length_cons]
    omega

theorem length_chunks (width : Nat) (h64 : 64 ∣ src.length) :
    64 ∣ (chunkBodies width src).flatten.length ∧
      (chunkBodies width src).flatten.length ≤ src.length + 64 * (chunkBodies width src).length := by
  have h := length_flatten_chunkOf width (cut 65536 src) fun _ => dvd_of_mem_pieces h64
  rw [flatten_cut (by decide)] at h
  rwa [chunkBodies, List.length_map]

theorem length_directory (bodies : List (List Byte)) : (directory bodies).length = alignUp 64 (4 * bodies.length) := by
  rw [directory, length_pad64, length_table, chunkEntries, length_chunkOffsets]

/-- STORED_LEN is the length of the stream. -/
theorem length_stream (width : Nat) (src : List Byte) :
    ((streamOf 0 width src).1).length = storedLen (chunkBodies width src) := by
  rw [streamOf_lossless, List.length_append, List.length_append, length_streamHead, length_directory, storedLen]
  omega

/-- The bound of R232. -/
theorem storedLen_le (width : Nat) (h64 : 64 ∣ src.length) :
    storedLen (chunkBodies width src) ≤ streamBound src.length ∧ storedLen (chunkBodies width src) % 64 = 0 := by
  obtain ⟨hdvd, hle⟩ := length_chunks width h64
  have hn := length_chunkBodies width src
  rw [storedLen, streamBound, alignUp]
  omega

/-- What holds of the stream of a source below 64 GiB: the fields of its header that a RESTORE works with. -/
theorem stream_fields (hw : width ≤ 2) (h64 : 64 ∣ src.length) (hlt : src.length < 2 ^ 36) :
    let s := (streamOf 0 width src).1
    leAt s 8 8 = src.length ∧ leAt s 0x10 4 = (chunkBodies width src).length := by
  obtain ⟨hle, -⟩ := storedLen_le width h64
  have hn := length_chunkBodies width src
  rw [streamBound] at hle
  obtain ⟨-, -, -, -, h8, h16, -⟩ := leAt_streamHead (width := width) (len := src.length)
    (n := (chunkBodies width src).length) (stored := storedLen (chunkBodies width src))
    (directory (chunkBodies width src) ++ (chunkBodies width src).flatten) (by omega) (by omega) (by omega) (by omega)
  rw [streamOf_lossless]
  exact ⟨h8, h16⟩

/-- The header passes its checks. -/
theorem headOk_stream (hw : width ≤ 2) (h64 : 64 ∣ src.length) (hlt : src.length < 2 ^ 36) :
    headOk ((streamOf 0 width src).1.take 64) src.length = true := by
  obtain ⟨hle, hmod⟩ := storedLen_le width h64
  have hn := length_chunkBodies width src
  have hbound := hle
  rw [streamBound] at hbound
  obtain ⟨h0, h4, h5, h6, h8, h16, h20, h24, h32, h60⟩ := leAt_streamHead (width := width) (len := src.length)
    (n := (chunkBodies width src).length) (stored := storedLen (chunkBodies width src)) [] (by omega) (by omega)
    (by omega) (by omega)
  rw [List.append_nil] at h0 h4 h5 h6 h8 h16 h20 h24 h32 h60
  have hcrc : (streamHead width src.length (chunkBodies width src).length
      (storedLen (chunkBodies width src))).take 60 = headFields width src.length (chunkBodies width src).length
      (storedLen (chunkBodies width src)) := List.take_left' (length_headFields _ _ _ _)
  rw [streamOf_lossless, List.take_left' (length_streamHead _ _ _ _), headOk, h0, h4, h5, h6, h8, h16, h20, h24, h32,
    h60, hcrc]
  simp [hw, hn, hmod, hle]

/-- Where chunk `i` begins. -/
def chunkStart (bodies : List (List Byte)) (i : Nat) : Nat :=
  64 + alignUp 64 (4 * bodies.length) + (bodies.take i).flatten.length

theorem chunkStart_succ (bodies : List (List Byte)) {i : Nat} (hi : i < bodies.length) :
    chunkStart bodies (i + 1) = chunkStart bodies i + bodies[i].length := by
  rw [chunkStart, chunkStart, length_flatten_take_succ bodies hi, ← Nat.add_assoc]

theorem chunkStart_length (bodies : List (List Byte)) : chunkStart bodies bodies.length = storedLen bodies := by
  rw [chunkStart, List.take_length, storedLen]

theorem chunkStart_le (bodies : List (List Byte)) (i : Nat) : chunkStart bodies i ≤ storedLen bodies :=
  Nat.add_le_add_left (length_flatten_take_le bodies i) _

theorem chunkEntries_getD {bodies : List (List Byte)} (h : ∀ b ∈ bodies, 64 ∣ b.length) {i : Nat}
    (hi : i < bodies.length) : (chunkEntries bodies).getD i 0 * 64 = chunkStart bodies i := by
  obtain ⟨-, -, halign⟩ := alignUp_bounds (4 * bodies.length)
  rw [chunkEntries, chunkOffsets_getD _ _ _ h hi, chunkStart]
  omega

/-- Every entry fits in its 4 bytes. -/
theorem chunkEntries_lt (h64 : 64 ∣ src.length) (hlt : src.length < 2 ^ 36) {v : Nat}
    (hv : v ∈ chunkEntries (chunkBodies width src)) : v < 2 ^ 32 := by
  obtain ⟨i, hi, rfl⟩ := List.getElem_of_mem hv
  have hi' : i < (chunkBodies width src).length := by rwa [chunkEntries, length_chunkOffsets] at hi
  have hstart := chunkEntries_getD (fun b hb => (mem_chunkBodies h64 hb).1) hi'
  rw [List.getD_eq_getElem _ _ hi] at hstart
  have hle := (chunkStart_le _ i).trans (storedLen_le width h64).1
  rw [streamBound] at hle
  omega

/-- Entry `i` of the directory names the start of chunk `i`. -/
theorem leAt_directory (h64 : 64 ∣ src.length) (hlt : src.length < 2 ^ 36) {i : Nat}
    (hi : i < (chunkBodies width src).length) :
    leAt (streamOf 0 width src).1 (64 + 4 * i) 4 * 64 = chunkStart (chunkBodies width src) i := by
  rw [streamOf_lossless, leAt_append_right _ _ (by rw [length_streamHead]; omega), length_streamHead,
    Nat.add_sub_cancel_left, directory, pad64, List.append_assoc,
    leAt_table _ _ _ (fun _ => chunkEntries_lt h64 hlt) (by rwa [chunkEntries, length_chunkOffsets]),
    chunkEntries_getD (fun b hb => (mem_chunkBodies h64 hb).1) hi]

/-- From the start of chunk `i` on lie the chunks from `i` on. -/
theorem drop_chunkStart (width : Nat) (src : List Byte) (i : Nat) :
    (streamOf 0 width src).1.drop (chunkStart (chunkBodies width src) i) =
      ((chunkBodies width src).drop i).flatten := by
  have hpre : ∀ len n stored, (streamHead width len n stored ++ directory (chunkBodies width src)).length =
      64 + alignUp 64 (4 * (chunkBodies width src).length) := by
    intro len n stored
    rw [List.length_append, length_streamHead, length_directory]
  rw [streamOf_lossless, chunkStart, ← List.append_assoc, ← hpre, ← List.drop_drop, List.drop_left, drop_flatten]

/-- The directory is padded with zeros. -/
theorem byteAt_directory_pad (width : Nat) (src : List Byte) {i : Nat}
    (hi : i < alignUp 64 (4 * (chunkBodies width src).length) - 4 * (chunkBodies width src).length) :
    byteAt (streamOf 0 width src).1 (64 + 4 * (chunkBodies width src).length + i) = 0 := by
  have hlen : ((chunkEntries (chunkBodies width src)).map (leBytes 4)).flatten.length =
      4 * (chunkBodies width src).length := by rw [length_table, chunkEntries, length_chunkOffsets]
  rw [streamOf_lossless, byteAt, List.getD_append_right _ _ _ _ (by rw [length_streamHead]; omega), length_streamHead,
    directory, pad64, List.append_assoc, List.getD_append_right _ _ _ _ (by rw [hlen]; omega), hlen,
    List.getD_append _ _ _ _ (by rw [List.length_replicate]; omega), List.getD_replicate _ (by omega)]

/-- The directory increases within the stream. -/
theorem dirOk_stream (hw : width ≤ 2) (hne : src ≠ []) (h64 : 64 ∣ src.length) (hlt : src.length < 2 ^ 36) :
    dirOk (streamOf 0 width src).1 = true := by
  obtain ⟨-, hcount⟩ := stream_fields hw h64 hlt
  have hpos : 0 < (chunkBodies width src).length := by
    have := List.length_pos_of_ne_nil hne
    rw [length_chunkBodies]
    omega
  have hoff := fun i hi => leAt_directory (width := width) (i := i) h64 hlt hi
  have hnext : ∀ i, i < (chunkBodies width src).length →
      chunkStart (chunkBodies width src) i + 64 ≤ chunkStart (chunkBodies width src) (i + 1) := by
    intro i hi
    rw [chunkStart_succ _ hi]
    exact Nat.add_le_add_left (mem_chunkBodies h64 (List.getElem_mem hi)).2 _
  have hfirst : chunkStart (chunkBodies width src) 0 = 64 + alignUp 64 (4 * (chunkBodies width src).length) := by
    simp [chunkStart]
  unfold dirOk
  simp only [hcount, Bool.and_eq_true, decide_eq_true_eq, List.all_eq_true, List.mem_range, beq_iff_eq]
  refine ⟨⟨⟨?_, fun i hi => ?_⟩, ?_⟩, fun i hi => byteAt_directory_pad width src hi⟩
  · have h := hoff 0 hpos
    omega
  · have h := hoff i (by omega)
    have h' := hoff (i + 1) (by omega)
    have := hnext i (by omega)
    omega
  · have h := hoff ((chunkBodies width src).length - 1) (by omega)
    have hlast := hnext ((chunkBodies width src).length - 1) (by omega)
    rw [Nat.sub_add_cancel hpos, chunkStart_length, ← length_stream] at hlast
    omega

/-- Decoding the chunks from `i` on gives the rest of the source. -/
theorem chunksDecode_stream (hw : width ≤ 2) (h64 : 64 ∣ src.length) (hlt : src.length < 2 ^ 36) :
    ∀ n i, i + n = (chunkBodies width src).length →
      chunksDecode (streamOf 0 width src).1 n i = (src.drop (65536 * i), none)
  | 0, i, hi => by
    rw [length_chunkBodies] at hi
    rw [chunksDecode, List.drop_of_length_le (by omega)]
  | n + 1, i, hi => by
    have hi' : i < (chunkBodies width src).length := by omega
    obtain ⟨hlen, -⟩ := stream_fields hw h64 hlt
    have hpiece : 64 ∣ ((src.drop (65536 * i)).take 65536).length := by
      rw [List.length_take, List.length_drop]
      omega
    have hat := drop_chunkStart width src i
    rw [← leAt_directory h64 hlt hi', List.drop_eq_getElem_cons hi', List.flatten_cons, getElem_chunkBodies] at hat
    rw [chunksDecode, chunkDecode_chunkOf hw hpiece (by rw [hlen, List.length_take, List.length_drop]) hat,
      chunksDecode_stream hw h64 hlt n (i + 1) (by omega)]
    dsimp only
    rw [Nat.mul_succ, ← List.drop_drop, List.take_append_drop]

end Stream

/-- Settles O60: PLANES by its groups, each of which is read back from its mode; the stream by where its header, its
directory and its chunks lie. -/
theorem satchelStreamsAreLossless : Obligations.SatchelStreamsAreLossless := by
  unfold Obligations.SatchelStreamsAreLossless
  refine ⟨fun w bs hw hd => planesDecode_planesEncode hw (Nat.dvd_of_mod_eq_zero hd), ?_⟩
  intro width src hw hne hmod hlt s
  have h64 : 64 ∣ src.length := Nat.dvd_of_mod_eq_zero hmod
  obtain ⟨hle, hunits⟩ := storedLen_le width h64
  rw [← length_stream] at hle hunits
  have hall := chunksDecode_stream hw h64 hlt _ 0 (Nat.zero_add _)
  rw [length_chunkBodies] at hall
  exact ⟨headOk_stream hw h64 hlt, dirOk_stream hw hne h64 hlt, hunits, hle, hall⟩

end Sys2Proof.Machine
end

section
/-!
PROOF. Activation sets and the PEAK of their stages (R223 to R225, R235): O24.
-/

namespace Sys2Proof.Machine

/-! ### What the counters of a stage rest on -/

/-- The same sets in the same layout. -/
def SameSets (d d' : Dev) : Prop := d'.sets = d.sets ∧ layout d' = layout d

theorem partOfQuarter_of_layout {d d' : Dev} (h : layout d' = layout d) (i : Nat) :
    partOfQuarter d' i = partOfQuarter d i := by
  unfold partOfQuarter
  rw [h]

theorem homeQuarter_of_layout {d d' : Dev} (h : layout d' = layout d) (p : Nat) :
    homeQuarter d' p = homeQuarter d p := by
  simp only [homeQuarter, quartersOf, partOfQuarter_of_layout h]

theorem SameSets.hotBytes {d d' : Dev} (h : SameSets d d') (p v : Nat) : hotBytes d' p v = hotBytes d p v := by
  obtain ⟨hs, hl⟩ := h
  simp only [Machine.hotBytes, setsOf, partOfQuarter_of_layout hl, hs]

theorem homeQuarter_lt (d : Dev) (p : Nat) : homeQuarter d p < 4 := by
  unfold homeQuarter
  cases h : quartersOf d p with
  | nil => decide
  | cons i l =>
    have hi : i ∈ quartersOf d p := by simp [h]
    exact List.mem_range.1 (List.mem_of_mem_filter hi)

/-- A write of PEAK leaves sets and layout alone. -/
theorem sameSets_setPeak (d : Dev) {h i : Nat} (hh : h < 64) (hi : i < 1024) (v : Word) :
    SameSets d (rset d .qtrStagePeak h i v) :=
  ⟨rfl, rfield_rset_other _ _ _ _ _ _ _ _ _ _ (key_ne (by decide) hh (by decide) hi (.inl (by decide)))⟩

theorem mget_rset_other (d : Dev) (r : Reg) (n i : Nat) (v : Word) {key : Nat} (h : key ≠ r.key n i) :
    mget 0 (rset d r n i v).regs key = mget 0 d.regs key :=
  mget_mset_other _ _ _ _ h

/-! ### A set changes -/

theorem setAt_mset (d : Dev) (n : Nat) (x : ActSet) (m : Nat) :
    setAt_ { d with sets := mset ActSet.reset d.sets n x } m = if m = n then x else setAt_ d m :=
  mget_mset _ _ _ _ _

theorem setAt_putSet (d : Dev) (n : Nat) (x : ActSet) (m : Nat) :
    setAt_ (putSet d n x) m = if m = n then x else setAt_ d m :=
  setAt_mset d n x m

theorem putSet_frame (d : Dev) (n : Nat) (x : ActSet) :
    putSet d n x = { d with sets := (putSet d n x).sets, regs := (putSet d n x).regs } := rfl

/-- A set's change keeps every register but the PEAK of its stage. -/
theorem mget_putSet (d : Dev) (n : Nat) (x : ActSet) {key : Nat}
    (h : key ≠ Reg.qtrStagePeak.key (homeQuarter d (partOfQuarter d (n / 1024))) x.stage) :
    mget 0 (putSet d n x).regs key = mget 0 d.regs key :=
  mget_rset_other _ _ _ _ _ h

/-- PEAK keeps the largest HOT of the stage. -/
theorem peak_putSet (d : Dev) (n : Nat) {x : ActSet} (hx : x.stage < 1024) :
    let p := partOfQuarter d (n / 1024)
    let h := homeQuarter d p
    rget (putSet d n x) .qtrStagePeak h x.stage =
      toW (max (rget d .qtrStagePeak h x.stage).toNat (hotBytes (putSet d n x) p x.stage)) := by
  have hh := (homeQuarter_lt d (partOfQuarter d (n / 1024))).trans (show 4 < 64 by decide)
  have hsame := (sameSets_setPeak { d with sets := mset ActSet.reset d.sets n x } hh hx (toW (max
    (rget d .qtrStagePeak (homeQuarter d (partOfQuarter d (n / 1024))) x.stage).toNat
    (hotBytes { d with sets := mset ActSet.reset d.sets n x } (partOfQuarter d (n / 1024)) x.stage)))).hotBytes
    (partOfQuarter d (n / 1024)) x.stage
  exact (rget_rset _ _ _ _ _).trans (by rw [← hsame]; rfl)

/-! ### ACT_SET -/

section ActSet

variable {s : State} {q k : Nat} {y : Cmd} (h : CmdRuns s q k 0x0206 y)
include h

theorem completes_actSetDefine (hm : y.param 1 % 4 = 0) (hs : (setAt_ s.dev (y.param 0 % 4096)).state = .free) :
    let z : ActSet := ⟨.hot, bits (y.param 1) 6 4, y.param 3 % 2 ^ 32, y.param 2, 0, 0⟩
    Completes (.actSetDefine q k) s fun d =>
      Finishes (putSet s.dev (y.param 0 % 4096) z) d q k 0 (toW z.declared) := by
  intro z
  refine completes_started h (execActSetDefine q k) rfl rfl ?_
  have hcmd : cmdAt (putSet s.dev (y.param 0 % 4096) z) q k = some y := h.2.1
  simp only [hm, hs, ne_eq, not_true_eq_false, if_false]
  exact finishCmd_finishes hcmd h.open

theorem completes_actSetDefine_refused (hm : y.param 1 % 4 = 0)
    (hs : (setAt_ s.dev (y.param 0 % 4096)).state ≠ .free) :
    Completes (.actSetDefine q k) s fun d => FinishesFree s.dev d q k 0x0150 := by
  refine completes_started h (execActSetDefine q k) rfl rfl ?_
  simp only [hm, hs, ne_eq, not_true_eq_false, not_false_eq_true, if_false, if_true]
  exact h.finishesFree

theorem completes_actSetRelease (hm : y.param 1 % 4 = 1) :
    let n := y.param 0 % 4096
    let x := setAt_ s.dev n
    x.state = .hot ∨ x.state = .offloaded ∨ x.state = .lost → Completes (.actSetRelease q k) s fun d =>
      Finishes { s.dev with sets := mset ActSet.reset s.dev.sets n ActSet.reset } d q k 0 (toW x.declared) := by
  intro n x hs
  refine completes_started h (execActSetRelease q k) rfl rfl ?_
  have hcmd : ∀ l, cmdAt { s.dev with sets := l } q k = some y := fun _ => h.2.1
  have hfinish := finishCmd_finishes (st := 0) (v := toW x.declared)
    (hcmd (mset ActSet.reset s.dev.sets n ActSet.reset)) h.open
  simp only [hm, ne_eq, not_true_eq_false, if_false]
  rcases hs with hs | hs | hs <;> rwa [hs]

theorem completes_actSetRelease_refused (hm : y.param 1 % 4 = 1) :
    let x := setAt_ s.dev (y.param 0 % 4096)
    x.state = .free ∨ x.state = .storing ∨ x.state = .restoring →
      Completes (.actSetRelease q k) s fun d => FinishesFree s.dev d q k 0x0150 := by
  intro x hs
  refine completes_started h (execActSetRelease q k) rfl rfl ?_
  have hfinish := h.finishesFree (st := 0x0150)
  simp only [hm, ne_eq, not_true_eq_false, if_false]
  rcases hs with hs | hs | hs <;> rwa [hs]

end ActSet

/-! ### PEAK_RESET -/

/-- PEAK of a stage becomes its HOT bytes now. -/
def resetPeak (p : Nat) (d : Dev) (i : Nat) : Dev :=
  rset d .qtrStagePeak (homeQuarter d p) i (toW (hotBytes d p i))

/-- What the PEAKs of a list of stages hold once each is reset. -/
theorem foldl_resetPeak (p : Nat) : ∀ (l : List Nat) (d : Dev), (∀ i ∈ l, i < 8) →
    let d' := l.foldl (resetPeak p) d
    d' = { d with regs := d'.regs } ∧
      (∀ i ∈ l, rget d' .qtrStagePeak (homeQuarter d p) i = toW (hotBytes d p i)) ∧
      ∀ key, (∀ i ∈ l, key ≠ Reg.qtrStagePeak.key (homeQuarter d p) i) → mget 0 d'.regs key = mget 0 d.regs key
  | [], d, _ => ⟨rfl, by simp, fun _ _ => rfl⟩
  | i :: l, d, hl => by
    have hh := (homeQuarter_lt d p).trans (show 4 < 64 by decide)
    have hi : i < 8 := hl i (by simp)
    have hsame := sameSets_setPeak d hh (hi.trans (by decide)) (toW (hotBytes d p i))
    obtain ⟨hframe, hset, hkeep⟩ := foldl_resetPeak p l (resetPeak p d i) fun j hj => hl j (by simp [hj])
    have hhome : homeQuarter (resetPeak p d i) p = homeQuarter d p := homeQuarter_of_layout hsame.2 p
    have hhot : ∀ j, hotBytes (resetPeak p d i) p j = hotBytes d p j := hsame.hotBytes p
    rw [hhome] at hset hkeep
    refine ⟨hframe, fun j hj => ?_, fun key hkey => ?_⟩
    · by_cases hjl : j ∈ l
      · rw [← hhot]
        exact hset j hjl
      · obtain rfl : j = i := (List.mem_cons.1 hj).resolve_right hjl
        have hne : ∀ m ∈ l, Reg.qtrStagePeak.key (homeQuarter d p) j ≠ Reg.qtrStagePeak.key (homeQuarter d p) m :=
          fun m hm => key_ne hh hh (by omega) (by have := hl m (by simp [hm]); omega)
            (.inr (.inr fun e => hjl (e ▸ hm)))
        exact (hkeep _ hne).trans (rget_rset d .qtrStagePeak _ j _)
    · exact (hkeep key fun j hj => hkey j (by simp [hj])).trans (mget_rset_other _ _ _ _ _ (hkey i (by simp)))

theorem resetPeaks_eq (d : Dev) {qt : Nat} (h : qt < 4) (v : Word) :
    resetPeaks d qt v = ((List.range 8).filter fun i => wbit v i).foldl (resetPeak (partOfQuarter d qt)) d := if_pos h

theorem mem_stagesNamed (v : Word) (i : Nat) :
    i ∈ (List.range 8).filter (fun i => wbit v i) ↔ i < 8 ∧ wbit v i = true := by
  rw [List.mem_filter, List.mem_range]

theorem completes_peakReset {s : State} (hl : Live s) (qt : Nat) (v : Word) :
    Completes (.peakReset qt v) s fun d =>
      let h := homeQuarter s.dev (partOfQuarter s.dev qt)
      d = { s.dev with regs := d.regs } ∧
      (∀ i, qt < 4 → i < 8 → wbit v i = true →
        rget d .qtrStagePeak h i = toW (hotBytes s.dev (partOfQuarter s.dev qt) i)) ∧
      ∀ key, (∀ i, qt < 4 → i < 8 → wbit v i = true → key ≠ Reg.qtrStagePeak.key h i) →
        mget 0 d.regs key = mget 0 s.dev.regs key := by
  refine completes_onDev (f := fun d => resetPeaks d qt v) hl rfl ?_
  dsimp only
  by_cases hq : qt < 4
  · obtain ⟨hframe, hset, hkeep⟩ := foldl_resetPeak (partOfQuarter s.dev qt) _ s.dev
      fun i hi => ((mem_stagesNamed v i).1 hi).1
    rw [resetPeaks_eq s.dev hq]
    exact ⟨hframe, fun i _ hi hv => hset i ((mem_stagesNamed v i).2 ⟨hi, hv⟩), fun key hkey => hkeep key fun i hi =>
      have hi := (mem_stagesNamed v i).1 hi
      hkey i hq hi.1 hi.2⟩
  · have hnone : resetPeaks s.dev qt v = s.dev := if_neg hq
    rw [hnone]
    exact ⟨rfl, fun _ h => absurd h hq, fun _ _ => rfl⟩

/-! ### A Satchel command fails -/

/-- What a failing command makes of a set of its own. -/
theorem failSet_cases (d : Dev) (y : Cmd) :
    (∃ n, y.tracked = some n ∧ y.opcode = 0x0110 ∧ (setAt_ d n).state = .storing ∧
      failSet d y = putSet d n { setAt_ d n with state := .hot }) ∨
    (∃ n, y.tracked = some n ∧ y.opcode = 0x0111 ∧ (setAt_ d n).state = .restoring ∧
      failSet d y = putSet d n { setAt_ d n with state := .lost }) ∨
    (failSet d y = d ∧ ∀ n, y.tracked = some n → ¬ (y.opcode = 0x0110 ∧ (setAt_ d n).state = .storing) ∧
      ¬ (y.opcode = 0x0111 ∧ (setAt_ d n).state = .restoring)) := by
  unfold failSet
  cases ht : y.tracked with
  | none => exact .inr (.inr ⟨rfl, by simp⟩)
  | some n =>
    dsimp only
    by_cases h1 : y.opcode = 0x0110 ∧ (setAt_ d n).state = .storing
    · rw [if_pos h1]
      exact .inl ⟨n, rfl, h1.1, h1.2, rfl⟩
    · by_cases h2 : y.opcode = 0x0111 ∧ (setAt_ d n).state = .restoring
      · rw [if_neg h1, if_pos h2]
        exact .inr (.inl ⟨n, rfl, h2.1, h2.2, rfl⟩)
      · rw [if_neg h1, if_neg h2]
        exact .inr (.inr ⟨rfl, fun m hm => Option.some.inj hm ▸ ⟨h1, h2⟩⟩)

theorem failSet_frame (d : Dev) (y : Cmd) :
    failSet d y = { d with sets := (failSet d y).sets, regs := (failSet d y).regs } := by
  obtain ⟨n, -, -, -, h⟩ | ⟨n, -, -, -, h⟩ | ⟨h, -⟩ := failSet_cases d y <;> rw [h]
  · rfl
  · rfl

theorem mget_failSet (d : Dev) (y : Cmd) {key : Nat} (hk : ∀ h i, key ≠ Reg.qtrStagePeak.key h i) :
    mget 0 (failSet d y).regs key = mget 0 d.regs key := by
  obtain ⟨n, -, -, -, h⟩ | ⟨n, -, -, -, h⟩ | ⟨h, -⟩ := failSet_cases d y <;> rw [h]
  · exact mget_putSet _ _ _ (hk _ _)
  · exact mget_putSet _ _ _ (hk _ _)

theorem setAt_failSet (d : Dev) (y : Cmd) (n : Nat) :
    setAt_ (failSet d y) n =
      if y.tracked = some n ∧ y.opcode = 0x0110 ∧ (setAt_ d n).state = .storing then
        { setAt_ d n with state := .hot }
      else if y.tracked = some n ∧ y.opcode = 0x0111 ∧ (setAt_ d n).state = .restoring then
        { setAt_ d n with state := .lost }
      else setAt_ d n := by
  obtain ⟨m, ht, ho, hs, h⟩ | ⟨m, ht, ho, hs, h⟩ | ⟨h, hno⟩ := failSet_cases d y <;> rw [h]
  · rw [setAt_putSet]
    by_cases hn : n = m
    · subst hn; simp [ht, ho, hs]
    · simp [ht, hn, Ne.symm hn]
  · rw [setAt_putSet]
    by_cases hn : n = m
    · subst hn; simp [ht, ho, hs]
    · simp [ht, hn, Ne.symm hn]
  · rw [if_neg fun hc => (hno n hc.1).1 hc.2, if_neg fun hc => (hno n hc.1).2 hc.2]

/-- Settles O24: ACT_SET by the state of its set, PEAK_RESET stage by stage, a failure by the set that it moves. -/
theorem activationSets : Obligations.ActivationSets := by
  unfold Obligations.ActivationSets
  refine fun s => ⟨fun q k y h => ⟨fun hm => ⟨fun hs => ?_, completes_actSetDefine_refused h hm⟩, fun hm =>
    ⟨fun hs => ?_, completes_actSetRelease_refused h hm⟩⟩, fun qt v hl => completes_peakReset hl qt v, fun d y =>
      ⟨failSet_frame d y, fun _ => mget_failSet d y, setAt_failSet d y⟩⟩
  · have hstage : bits (y.param 1) 6 4 < 1024 := (bits_lt _ _ _).trans (by decide)
    exact (completes_actSetDefine h hm hs).imp fun d hd => ⟨_, hd, putSet_frame _ _ _, setAt_putSet _ _ _,
      peak_putSet _ _ hstage, fun key hk => mget_putSet _ _ _ hk⟩
  · exact (completes_actSetRelease h hm hs).imp fun d hd => ⟨_, hd, rfl, setAt_mset _ _ _⟩

end Sys2Proof.Machine
end

section
/-!
SUPPORT. A write to a page whose translation is buffered (R35, R36).
-/

namespace Sys2Proof.Machine

/-- The leaf for an access once the buffers have been looked through: what they gave, or a fresh walk's. -/
def leafWith (sp : Space) (va : Nat) (found : Option Leaf) : Act Leaf := do
  let l ← match found with
    | some l => pure l
    | none => walk sp.asid va
  modify fun d => tlbFill d sp va l
  pure l

theorem leafFor_eq {sp : Space} {va : Nat} {d : Dev}
    (ht : wbit (rget d .chipAsidTbl 0 (partOfAsid d sp.asid)) 0 = true) :
    (leafFor sp va).go d =
      (leafWith sp va (tlbLook sp.asid va sp.buffers d).1).go (tlbLook sp.asid va sp.buffers d).2 := by
  unfold leafFor leafWith
  simp only [go_bind (a := (get : Act Dev)), go_get, ht, Bool.not_true, Bool.false_eq_true, if_false,
    go_bind (a := (set _ : Act _)), go_set] <;> rfl

/-- A buffer that holds a page gives its leaf, or has evicted it (R36). -/
theorem tlbLook_held {asid va b : Nat} {d : Dev} (h : mget 0 d.mem.tlb (tlbKey b asid va) ≠ 0) :
    ∃ found ∈ [none, some (Leaf.unpack (mget 0 d.mem.tlb (tlbKey b asid va)))],
      tlbLook asid va [b] d = (found, { d with free := d.free + 1 }) := by
  simp only [tlbLook, if_neg h, freeBit_frame]
  cases (freeBit d).1
  · exact ⟨_, List.mem_cons_of_mem _ (List.mem_singleton_self _), rfl⟩
  · exact ⟨none, List.mem_cons_self, rfl⟩

/-- What a leaf lets a write within its page do. -/
def writeThrough (va : Nat) (bs : List Byte) (l : Leaf) : Act Unit :=
  if !bit l.entry 3 then Act.fail stPermissionFault va
  else atVirtual va (writePhys .software (l.at_ va) bs (bit l.entry 4))

theorem vwrite_page {sp : Space} {va : Nat} {bs : List Byte} (hv : va < 2 ^ 48)
    (hp : pagesOf va bs.length = [(va, bs.length)]) : vwrite sp va bs = leafFor sp va >>= writeThrough va bs := by
  have hv' : ¬ 2 ^ 48 ≤ va := by omega
  simp only [vwrite, hp, vwriteParts, translate, if_neg hv', bind_assoc, if_true, List.take_length]
  refine congrArg _ (funext fun l => ?_)
  unfold writeThrough
  split
  · rfl
  · simp only [pure_bind]
    exact bind_pure _

/-- A write to one page that a quarter's buffer holds goes one of two ways. -/
theorem vwrite_held {sp : Space} {va b : Nat} {bs : List Byte} {d : Dev} (hv : va < 2 ^ 48)
    (hp : pagesOf va bs.length = [(va, bs.length)]) (hb : sp.buffers = [b])
    (ht : wbit (rget d .chipAsidTbl 0 (partOfAsid d sp.asid)) 0 = true)
    (h : mget 0 d.mem.tlb (tlbKey b sp.asid va) ≠ 0) :
    ∃ found ∈ [none, some (Leaf.unpack (mget 0 d.mem.tlb (tlbKey b sp.asid va)))],
      (vwrite sp va bs).go d = (leafWith sp va found >>= writeThrough va bs).go { d with free := d.free + 1 } := by
  obtain ⟨found, hmem, hlook⟩ := tlbLook_held h
  refine ⟨found, hmem, ?_⟩
  rw [vwrite_page hv hp, go_bind, leafFor_eq ht, hb, hlook, go_bind]

end Sys2Proof.Machine
end

section
/-!
PROOF. SCALE_STEP (R242, R243) of 2^32 records: O25.
-/

namespace Sys2Proof.Machine

/-! ### A record in CURRENT mode whose amax is a NaN -/

/-- The largest of the partial maxima of a record (R242). -/
def amaxOf (parts : List Byte) : Fx :=
  ((cut 4 parts).map fun p => (decodeF fp32 (leNat p)).abs).foldl maxX (.fin false 0 0)

/-- What SCALE_STEP writes to slot `w` of a record whose other slot `r` has no history and a NaN for its amax. -/
def nanSlot (r w : List Byte) (step : Nat) : List Byte :=
  w.take 5 ++ leBytes 1 8 ++ leBytes 1 0 ++ leBytes 1 (slotHistPos r) ++ leBytes 8 (step + 1) ++
    (w.drop 0x10).take 0x26 ++ leBytes 1 0 ++ leBytes 1 0 ++ leBytes 4 0 ++ leBytes 4 0 ++
    (((List.range 16).map (slotHist r)).map (leBytes 4)).flatten

/-- Such a record stays CURRENT with no block flagged, if its five accesses answer. -/
theorem scaleRecord_nan {sp : Space} {va step : Nat} {r w parts : List Byte} {d0 d1 d2 d3 d4 d5 : Dev}
    (hr : r.length = 128) (hs : step % 2 = 0) (hok : recordOk r w step = true) (hctl : slotCtl r = 0)
    (hn : slotHistN r = 0) (hnan : (amaxOf parts).isNan = true)
    (hread : (vread sp va 256).go d0 = (.ok (r ++ w), d1))
    (hamax : (vread sp (slotAmax r) (4 * slotNamax r)).go d1 = (.ok parts, d2))
    (hmap : (vwrite sp (slotMap w) (flagBytes (List.replicate (slotNblk r) false))).go d2 = (.ok (), d3))
    (hzero : (vwrite sp (slotAmax w) (List.replicate (4 * slotNamax w) 0)).go d3 = (.ok (), d4))
    (hslot : (vwrite sp (va + 128) (nanSlot r w step)).go d4 = (.ok (), d5)) :
    (scaleRecord sp va step).go d0 = (.ok (some (false, true, true)), d5) := by
  have hfold : ((cut 4 parts).map fun p => (decodeF fp32 (leNat p)).abs).foldl maxX (.fin false 0 0) = amaxOf parts :=
    rfl
  have hscan : bit 0 2 = false := rfl
  have hflags : (List.replicate (slotNblk r) false).filter id = [] := by simp
  unfold scaleRecord
  rw [go_bind, hread]
  simp only [hs, if_true, List.take_left' hr, List.drop_left' hr, hok, Bool.true_eq_false, if_false]
  rw [go_bind, hamax]
  simp only [hfold, hnan, hn, hctl, hscan, Bool.not_true, Bool.false_and, Bool.false_eq_true, if_false, pure_bind]
  rw [go_bind, hmap]
  simp only [ne_eq, not_true_eq_false, if_false]
  rw [go_bind, hzero]
  unfold nanSlot at hslot
  simp only [hflags, if_true, List.length_nil, go_bind, Nat.zero_mod, Nat.zero_add, hslot]
  rfl

/-! ### The machine of the counterexample -/

/-- A slot at a step, of one block and one partial maximum, in CURRENT mode and without history, with its overflow map
and its partial maxima at these addresses. -/
def newSlot (step map amax : Nat) : List Byte :=
  leBytes 4 0 ++ leBytes 1 5 ++ leBytes 3 0 ++ leBytes 8 step ++ leBytes 16 0 ++ leBytes 8 map ++ leBytes 8 amax ++
    leBytes 4 1 ++ leBytes 2 1 ++ List.replicate 74 0

/-- The two slots of record 2^32 - 1. -/
def readSlot : List Byte := newSlot 6 0 0x220000
def writtenSlot : List Byte := newSlot 5 0x230000 0x240000

/-- A started SCALE_STEP of the 2^32 records from 0x210100 on that stands at record 2^32 - 1, one record flagged so
far. -/
def longStep : Cmd := { startedCmd 0x0207 (2 ^ 32 - 1) [0x210100, 2 ^ 32, 6] with aux := [1] }

/-- The address of record 2^32 - 1. -/
def lastRecord : Nat := longStep.param 0 + 256 * longStep.step

/-- The ASID table and every level of the page table at 0x1000: entries 0 and 2 name this table again, and entry 1 is
a leaf that maps 2 MiB, readable and writable, to physical address 0. -/
def recordTable : List (Nat × Byte) :=
  bytesPut (bytesPut (bytesPut [] 0x1000 (leBytes 8 0x1001)) 0x1008 (leBytes 8 15)) 0x1010 (leBytes 8 0x1001)

/-- The machine after reset with that table in force, that command in queue 0, the slots of record 2^32 - 1 and a NaN
as its partial maximum. -/
def longStepState : State :=
  { State.reset with dev := { resetWith [longStep] with
    regs := [(Reg.key .chipAsidTbl 0 0, 0x1001)]
    mem.bytes := bytesPut (bytesPut recordTable 0x10000 (readSlot ++ writtenSlot)) 0x20000 (leBytes 4 0x7FC00000) } }

def stepSpace : Space := spaceOf longStepState.dev 0

/-- The accesses of the record, one after another, but for the last. -/
def slotsRead : Except Stop (List Byte) × Dev := (vread stepSpace lastRecord 256).go (clean longStepState)
def amaxRead : Except Stop (List Byte) × Dev := (vread stepSpace 0x220000 4).go slotsRead.2
def mapWritten : Except Stop Unit × Dev := (vwrite stepSpace 0x230000 [0]).go amaxRead.2
def amaxCleared : Except Stop Unit × Dev := (vwrite stepSpace 0x240000 [0, 0, 0, 0]).go mapWritten.2

/-- The page of the record is then buffered, and the last write goes the one way or the other. -/
def slotWrite (found : Option Leaf) : Except Stop Unit × Dev :=
  (leafWith stepSpace (lastRecord + 128) found >>= writeThrough (lastRecord + 128) (nanSlot readSlot writtenSlot 6)).go
    { amaxCleared.2 with free := amaxCleared.2.free + 1 }

theorem slotsRead_ok : slotsRead.1 = .ok (readSlot ++ writtenSlot) := by decide +kernel
theorem amaxRead_ok : amaxRead.1 = .ok (leBytes 4 0x7FC00000) := by decide +kernel
theorem mapWritten_ok : mapWritten.1 = .ok () := by decide +kernel
theorem amaxCleared_ok : amaxCleared.1 = .ok () := by decide +kernel

/-- The entry of a quarter's buffer for the record's page. -/
def recordEntry : Nat := mget 0 amaxCleared.2.mem.tlb (tlbKey 64 stepSpace.asid (lastRecord + 128))

theorem recordEntry_held : recordEntry ≠ 0 := by decide +kernel

theorem slotWrite_ok : ∀ found ∈ [none, some (Leaf.unpack recordEntry)], (slotWrite found).1 = .ok () := by
  decide +kernel

/-- Record 2^32 - 1 is stepped. -/
theorem lastRecord_steps : ∃ d1, (scaleRecord stepSpace lastRecord 6).go (clean longStepState) =
    (.ok (some (false, true, true)), d1) := by
  have hva : lastRecord + 128 < 2 ^ 48 := by decide
  have hpages : pagesOf (lastRecord + 128) (nanSlot readSlot writtenSlot 6).length =
      [(lastRecord + 128, (nanSlot readSlot writtenSlot 6).length)] := by decide +kernel
  have hbuf : stepSpace.buffers = [64] := by decide
  have htable : wbit (rget amaxCleared.2 .chipAsidTbl 0 (partOfAsid amaxCleared.2 stepSpace.asid)) 0 = true := by
    decide +kernel
  have hheld := recordEntry_held
  unfold recordEntry at hheld
  obtain ⟨found, hmem, hway⟩ := vwrite_held hva hpages hbuf htable hheld
  have hslot : (vwrite stepSpace (lastRecord + 128) (nanSlot readSlot writtenSlot 6)).go amaxCleared.2 =
      (.ok (), (slotWrite found).2) := hway.trans (Prod.ext (slotWrite_ok found hmem) rfl)
  have hread : slotsRead = (.ok (readSlot ++ writtenSlot), slotsRead.2) := by rw [← slotsRead_ok]
  have hamax : amaxRead = (.ok (leBytes 4 0x7FC00000), amaxRead.2) := by rw [← amaxRead_ok]
  have hmap : mapWritten = (.ok (), mapWritten.2) := by rw [← mapWritten_ok]
  have hzero : amaxCleared = (.ok (), amaxCleared.2) := by rw [← amaxCleared_ok]
  have hlen : readSlot.length = 128 := by simp [readSlot, newSlot]
  have hok : recordOk readSlot writtenSlot 6 = true := by decide +kernel
  have hctl : slotCtl readSlot = 0 := by decide
  have hhist : slotHistN readSlot = 0 := by decide
  have hnan : (amaxOf (leBytes 4 0x7FC00000)).isNan = true := by decide +kernel
  exact ⟨_, scaleRecord_nan hlen rfl hok hctl hhist hnan hread hamax hmap hzero hslot⟩

/-! ### One more record, and the mark of a command that waits for its writes -/

/-- The result word of command `k` of queue `q`. -/
def resultIn (d : Dev) (q k : Nat) : Option Word := (cmdAt d q k).map (·.result)

theorem Finishes.result {d d' : Dev} {q k st : Nat} {v : Word} (h : Finishes d d' q k st v) :
    resultIn d' q k = some v := by
  obtain ⟨-, z, hz, -, -, hv⟩ := h
  rw [resultIn, hz, Option.map_some, hv]

theorem Completes.resultAfter {i : Instr} {s : State} {v : Option Word}
    (h : Completes i s fun d => resultIn d 0 0 = v) : resultAfter (exec i s) = v := by
  obtain ⟨t, ht, -, -, hres⟩ := h
  rw [ht]
  exact hres

theorem updCmd_result {d : Dev} {q k : Nat} {y : Cmd} {f : Cmd → Cmd} (hc : cmdAt d q k = some y)
    (hf : ∀ y, (f y).seq = y.seq) : resultIn (updCmd d q k f) q k = some (f y).result := by
  rw [resultIn, (updCmd_becomes hc hf).2]
  rfl

/-- A command that ends has its result word, whether or not it waits for its window writes. -/
theorem finishVisible_result {d : Dev} {q k st : Nat} {v : Word} {y : Cmd} (hc : cmdAt d q k = some y)
    (hs : y.st ≠ .finished) : resultIn (finishVisible d q k st v) q k = some v := by
  have hc' : cmdAt { d with rnl.fresh := [] } q k = some y := hc
  unfold finishVisible
  dsimp only
  split
  · exact (finishCmd_finishes hc' hs).result
  · exact updCmd_result hc' fun _ => rfl

theorem scaleLoop_end {d : Dev} {q k : Nat} {y : Cmd} (hc : cmdAt d q k = some y) (hs : y.st ≠ .finished) (sp : Space)
    (base step i : Nat) : resultIn (scaleLoop q k sp base step 0 i d) q k = some (toW (y.aux.headD 0)) := by
  obtain ⟨-, hc'⟩ := updCmd_becomes (f := fun z => { z with aux := [], aux2 := [] }) hc fun _ => rfl
  have hc'' : cmdAt { updCmd d q k fun z => { z with aux := [], aux2 := [] } with rnl.fresh := y.aux2 } q k =
      some { y with aux := [], aux2 := [] } := hc'
  unfold scaleLoop
  rw [hc]
  exact finishVisible_result hc'' hs

/-- Stepping a record is an access: it changes nothing of the hub. -/
theorem scaleRecord_keeps (sp : Space) (va step : Nat) : Keeps (scaleRecord sp va step) := by
  unfold scaleRecord
  refine (vread_keeps _ _ _ _).bind fun bs => ?_
  split
  refine .ite (.pure _) ((vread_keeps _ _ _ _).bind fun parts => ?_)
  extract_lets a finite fmax history scan hists code hists' pos num recent big head e code' ctl write
  have hwrite : ∀ flags, Keeps (write flags) := by
    intro flags
    refine (vwrite_keeps _ _ _ _).bind fun _ => ?_
    extract_lets flagged out rest
    have hrest : Keeps (rest ()) := (vwrite_keeps _ _ _ _).bind fun _ => (vwrite_keeps _ _ _ _).bind fun _ => .pure _
    exact .ite ((vwrite_keeps _ _ _ _).bind fun _ => hrest) hrest
  exact .ite (((vread_keeps _ _ _ _).bind fun _ => .pure _).bind hwrite) ((Keeps.pure _).bind hwrite)

/-- QTR_SCALE_STAT counts what holds of a record. -/
def countIf (d : Dev) (h : Nat) (b : Bool) (hi lo : Nat) : Dev := if b then rcount d .qtrScaleStat h 0 hi lo 1 else d

def countRecord (d : Dev) (h : Nat) (fl cur nf : Bool) : Dev :=
  countIf (countIf (countIf (countIf d h true 15 0) h cur 31 16) h fl 47 32) h nf 63 48

theorem countIf_hub (d : Dev) (h : Nat) (b : Bool) (hi lo : Nat) : (countIf d h b hi lo).hub = d.hub := by
  cases b <;> rfl

theorem countRecord_hub (d : Dev) (h : Nat) (fl cur nf : Bool) : (countRecord d h fl cur nf).hub = d.hub := by
  simp only [countRecord, countIf_hub]

/-- A record that is stepped lets the loop go on with the next. -/
theorem scaleLoop_record {s : State} {q k base step n i : Nat} {sp : Space} {d1 : Dev} {fl cur nf : Bool}
    (ha : (scaleRecord sp (base + 256 * i) step).go (clean s) = (.ok (some (fl, cur, nf)), d1)) :
    ∃ d2 tags, scaleLoop q k sp base step (n + 1) i s.dev =
      scaleLoop q k sp base step n (i + 1) (updCmd d2 q k fun z => { z with
        step := i + 1, aux := [z.aux.headD 0 + fl.toNat], aux2 := z.aux2 ++ tags }) ∧ d2.hub = d1.hub := by
  rw [scaleLoop, cmdAct_ok ha]
  exact ⟨{ countRecord d1 (homeQuarter d1 (partOfQueue d1 q)) fl cur nf with rnl.fresh := [] },
    (countRecord d1 (homeQuarter d1 (partOfQueue d1 q)) fl cur nf).rnl.fresh, rfl, countRecord_hub _ _ _ _ _⟩

/-- The last record of a SCALE_STEP ends it with the number of records that had flagged blocks. -/
theorem scaleStep_last {s : State} {y : Cmd} {d1 : Dev} {fl cur nf : Bool} (h : CmdRuns s 0 0 0x0207 y)
    (hlast : y.param 1 = y.step + 1)
    (ha : (scaleRecord (spaceOf s.dev 0) (y.param 0 + 256 * y.step) (y.param 2)).go (clean s) =
      (.ok (some (fl, cur, nf)), d1)) :
    resultAfter (exec (.scaleStep 0 0) s) = some (toW (y.aux.headD 0 + fl.toNat)) := by
  refine Completes.resultAfter (completes_started h (execScaleStep 0 0) rfl rfl ?_)
  obtain ⟨d2, tags, hloop, hhub⟩ := scaleLoop_record (q := 0) (k := 0) (n := 0) ha
  have hc : cmdAt d2 0 0 = some y := by
    have hc1 := h.after ((scaleRecord_keeps _ _ _).of_go ha)
    unfold cmdAt queueAt at hc1 ⊢
    rwa [hhub]
  obtain ⟨-, hc'⟩ := updCmd_becomes (f := fun z => { z with
    step := y.step + 1, aux := [z.aux.headD 0 + fl.toNat], aux2 := z.aux2 ++ tags }) hc fun _ => rfl
  rw [hlast, Nat.add_sub_cancel_left, hloop]
  exact scaleLoop_end hc' h.open _ _ _ _

/-- At step 2^32 a command's work is over: its turn leaves its result word as it stands. -/
theorem scaleStep_over {s : State} {z : Cmd} (hl : Live s) (hz : cmdAt s.dev 0 0 = some z) (hs : z.st = .started)
    (ho : z.opcode = 0x0207) (hn : isSuspect s.dev 0 0 = false) (hstep : z.step = 2 ^ 32) :
    resultAfter (exec (.scaleStep 0 0) s) = some z.result := by
  refine Completes.resultAfter (completes_onDev (f := fun d => onStarted d 0 0 0x0207 fun y =>
    scaleLoop 0 0 (spaceOf d 0) (y.param 0) (y.param 2) (y.param 1 - y.step) y.step d) hl rfl ?_)
  have hvis : z.step = visibleStep := hstep
  unfold onStarted
  rw [hz]
  simp only [hs, ho, hn, hvis, and_self, if_true]
  split
  · exact (finishCmd_finishes hz (by rw [hs]; decide)).result
  · rw [resultIn, hz]
    rfl

theorem AccessFrame.isSuspect {d d' : Dev} (h : AccessFrame d d') (q k : Nat) :
    isSuspect d' q k = isSuspect d q k := by
  unfold AccessFrame at h
  rw [h]
  rfl

theorem AccessFrame.live {d d' : Dev} (h : AccessFrame d d') : d'.live = d.live := by
  unfold AccessFrame at h
  rw [h]
  rfl

/-- Refutes O25: the clause on SCALE_STEP bounds neither the count nor the step of the command, and once record
2^32 - 1 is done, the step it goes on with is the mark of a command whose work is over; from there the command ends
with the result that it holds, 0, while the turn that steps the record ends with the count of 1. -/
theorem not_satchelCommands : ¬ Obligations.SatchelCommands := by
  unfold Obligations.SatchelCommands
  intro h
  obtain ⟨-, -, -, -, hscale⟩ := h longStepState 0 0 longStep
  have hruns : CmdRuns longStepState 0 0 0x0207 longStep := ⟨rfl, rfl, rfl, rfl, rfl, by decide⟩
  obtain ⟨d1, hrecord⟩ := lastRecord_steps
  obtain ⟨-, hnext⟩ := hscale hruns
  obtain ⟨-, -, -, hgoes⟩ := hnext (by decide)
  obtain ⟨d2, hsame, hd2, -⟩ := hgoes d1 false true true hrecord
  have hframe : AccessFrame (clean longStepState) d2 := by
    have := (scaleRecord_keeps _ _ _).of_go hrecord
    rw [hd2]
    exact this.trans rfl
  obtain ⟨-, hcmd⟩ := updCmd_becomes (f := fun z => { z with
    step := longStep.step + 1, aux := [z.aux.headD 0 + false.toNat], aux2 := z.aux2 ++ d1.rnl.fresh })
    (hruns.after hframe) fun _ => rfl
  have hover := scaleStep_over (s := { longStepState with dev := updCmd d2 0 0 _ }) hframe.live hcmd rfl rfl
    (hframe.isSuspect 0 0) rfl
  have hlast := scaleStep_last hruns (by decide) hrecord
  rw [hsame, hover] at hlast
  have hresults : longStep.result ≠ toW (longStep.aux.headD 0 + false.toNat) := by decide
  exact hresults (Option.some.inj hlast)

end Sys2Proof.Machine
end

section
/-!
PROOF. CLOSE of a tally context (R249) in a queue that holds two commands of one SEQ: O26.
-/

namespace Sys2Proof.Machine

/-- A started CLOSE of the context of group 0. -/
def startedClose : Cmd := startedCmd 0x0503 0 [2 ^ 18]

/-- A started TALLY_CONTRIBUTE to the context of group 0. -/
def startedContribute : Cmd := startedCmd 0x0501 0 []

/-- A group of one member, itself, with an image of no bytes. -/
def loneGroup : Group := ⟨0, [], 1, 0, 0⟩

/-- The context that a started OPEN without parameters asks for. -/
def loneContext : TallyCtx := tallyOf (startedCmd 0x0503 0 [])

/-- The machine after reset with that group as group 0, its context open and, in queue 0, its CLOSE before a
TALLY_CONTRIBUTE of the same SEQ. -/
def twinClose : State :=
  { State.reset with dev := { resetWith [startedClose, startedContribute] with
    fab.groups := [(0, loneGroup)]
    tally.ctxs := [(0, loneContext)] } }

theorem loneGroup_reads : (readGroup loneGroup).go (clean twinClose) = (.ok (), clean twinClose) := rfl

theorem loneGroup_not_filling : selfFilling (clean twinClose) loneGroup = false := by decide

/-- A turn that begins with a group's image goes on once the image has read. -/
theorem groupTurn_read {d0 d d1 : Dev} {g : Group} {ok : Dev → Prop} {bad : Nat → Dev → Prop}
    (hr : (readGroup g).go { d0 with rnl.fresh := [] } = (.ok (), d1)) (hf : selfFilling d1 g = false)
    (h : GroupTurn d0 d g ok bad) : ok d1 := by
  unfold GroupTurn Turn at h
  rw [hr] at h
  simpa [hf] using h

/-- The device that the CLOSE leaves. -/
def twinClosed : Dev := finishFree (closeTally (endTallyCmds (clean twinClose) 0) 0) 0 0 stOk

theorem twinClose_closes : exec (.tallyClose 0 0) twinClose = .next { twinClose with dev := twinClosed } := rfl

/-- What ends the TALLY_CONTRIBUTE ends the CLOSE with it, in TALLY_NOT_OPEN. -/
theorem twinClosed_status : (cmdAt twinClosed 0 0).map (·.status) = some 0x0632 := by decide +kernel

/-- Refutes O26: the clause on CLOSE has the command itself end in OK; in a queue with two of one SEQ, the CLOSE and a
TALLY_CONTRIBUTE of its context, the CLOSE ends by SEQ the commands that use the context, and so itself, with
TALLY_NOT_OPEN. -/
theorem not_tallyCommands : ¬ Obligations.TallyCommands := by
  unfold Obligations.TallyCommands
  intro h
  obtain ⟨hcmds, -⟩ := h twinClose
  obtain ⟨hopen, -⟩ := hcmds 0 0 startedClose
  obtain ⟨-, hclose⟩ := hopen ⟨rfl, rfl, rfl, rfl, rfl, by decide⟩
  obtain ⟨t, ht, -, -, hturn⟩ := hclose (by decide)
  obtain ⟨d3, ⟨v, -, z, hz, -, hok, -⟩, -⟩ := groupTurn_read loneGroup_reads loneGroup_not_filling hturn
  rw [twinClose_closes] at ht
  injection ht with ht
  have hstatus := twinClosed_status
  rw [← ht] at hz
  rw [show cmdAt twinClosed 0 0 = some z from hz, Option.map_some, hok] at hstatus
  exact absurd hstatus (by decide)

end Sys2Proof.Machine
end

section
/-!
PROOF. The deadlines of late-tolerant contexts and the waits for PARTIAL members (R259, R260, R300): O27.
-/

namespace Sys2Proof.Machine

/-! ### What the device does to records on its own -/

/-- One record's turn: a status is passed over, a wait ends the turn. -/
def eachRecord (f : TRec → Act Unit) (r : TRec) : Act Unit := tryCatch (f r) fun
  | .err _ _ => pure ()
  | .wait n => throw (.wait n)

/-- `d` is what turns of the records leave in `d1`. -/
def RunsRecords (d1 : Dev) (rs : List TRec) (f : TRec → Act Unit) (d : Dev) : Prop :=
  match (rs.forM (eachRecord f)).go d1 with
  | (.ok (), d2) => d = d2
  | (.error (.wait n), d2) => d = waitDev d1 d2 n
  | (.error (.err _ _), d2) => d = d2

theorem runRecords_runs (d1 : Dev) (rs : List TRec) (f : TRec → Act Unit) :
    RunsRecords d1 rs f (runRecords d1 rs f) := by
  have hrun : runRecords d1 rs f = match (rs.forM (eachRecord f)).go d1 with
      | (.error (.wait n), d2) => waitDev d1 d2 n
      | (_, d2) => d2 := rfl
  unfold RunsRecords
  rw [hrun]
  obtain ⟨r, d2⟩ := (rs.forM (eachRecord f)).go d1
  match r with
  | .ok () => rfl
  | .error (.wait n) => rfl
  | .error (.err st a) => rfl

/-! ### The deadlines of a step -/

/-- How long before the close of a step its deadline lies: the close itself, or EXP_LEAD before it. -/
def deadlineLead (close : Bool) (x : TallyCtx) : Nat := if close then 0 else x.expLead

/-- The context with a deadline of a step noted as fired. -/
def noteFired (d : Dev) (n t : Nat) (close : Bool) : Dev :=
  updTally d n fun x => { x with fired := (t, close) :: x.fired }

section Deadline

variable {d : Dev} {n step : Nat} {close : Bool} {f : TRec → Act Unit} {x : TallyCtx} {b : Bell}

theorem fireDeadline_without (h : tallyAt d n = none ∨ (fabPart d (partOfGroup d n)).bell = none) :
    fireDeadline d n step close f = d := by
  unfold fireDeadline
  rcases h with h | h
  · rw [h]
  · rw [h]; cases tallyAt d n <;> rfl

variable (hx : tallyAt d n = some x) (hb : (fabPart d (partOfGroup d n)).bell = some b)
include hx hb

theorem fireDeadline_eq : fireDeadline d n step close f =
    let t := step % 2 ^ 32
    let d1 := noteFired d n t close
    let rs (d : Dev) := dueRecords d n t (deadlineLead close)
    if x.fired.contains (t, close) then runRecords d (rs d) f
    else if (rs d).isEmpty then d
    else if inTurnAt d (b.time t + x.closeOff - deadlineLead close x) .deadline then runRecords d1 (rs d1) f
    else d := by
  unfold fireDeadline
  rw [hx, hb]
  rfl

/-- A deadline that has fired runs its records again; another one fires in its turn, if a record is due. -/
theorem fireDeadline_runs : let t := step % 2 ^ 32
    let d1 := noteFired d n t close
    let rs (d : Dev) := dueRecords d n t (deadlineLead close)
    if (t, close) ∈ x.fired then RunsRecords d (rs d) f (fireDeadline d n step close f)
    else if rs d = [] ∨ inTurnAt d (b.time t + x.closeOff - deadlineLead close x) .deadline = false then
      fireDeadline d n step close f = d
    else RunsRecords d1 (rs d1) f (fireDeadline d n step close f) := by
  intro t d1 rs
  rw [fireDeadline_eq hx hb]
  by_cases hf : (t, close) ∈ x.fired
  · rw [if_pos hf, if_pos (List.contains_iff_mem.2 hf)]
    exact runRecords_runs _ _ _
  rw [if_neg hf, if_neg (mt List.contains_iff_mem.1 hf)]
  by_cases hr : rs d = []
  · rw [if_pos (.inl hr), if_pos (List.isEmpty_iff.2 hr)]
  rw [if_neg (mt List.isEmpty_iff.1 hr)]
  by_cases ht : inTurnAt d (b.time t + x.closeOff - deadlineLead close x) .deadline = true
  · rw [if_pos ht, if_neg (by simp [hr, ht])]
    exact runRecords_runs _ _ _
  · rw [if_neg ht, if_pos (.inr (Bool.eq_false_iff.2 ht))]

end Deadline

/-- The command of a deadline and what it does to each record. -/
def deadlineInstr (close : Bool) (n step now : Nat) : Instr :=
  if close then .closeDeadline n step now else .expDeadline n step now

def deadlineWork (close : Bool) : TRec → Act Unit := if close then deadlineMain else closeExp

theorem completes_deadline {s : State} (hl : Live s) (close : Bool) (n step now : Nat) {P : Dev → Prop}
    (hp : P (fireDeadline (advanceTo s.dev now) n step close (deadlineWork close))) :
    Completes (deadlineInstr close n step now) s P := by
  cases close
  · exact completes_onDev (f := fun d => fireDeadline (advanceTo d now) n step false closeExp) hl rfl hp
  · exact completes_onDev (f := fun d => fireDeadline (advanceTo d now) n step true deadlineMain) hl rfl hp

/-! ### The wait for PARTIAL members -/

section Wait

variable {s : State} (hl : Live s) {n step now : Nat}
include hl

theorem completes_partialWait_without (chunk : Nat)
    (h : tallyAt (advanceTo s.dev now) n = none ∨ groupAt (advanceTo s.dev now) n = none) :
    Completes (.partialWaitExpiry n chunk step now) s fun d => d = advanceTo s.dev now := by
  refine completes_onDev hl (show execPartialWaitExpiry n chunk step now s = onDev s _ from rfl) ?_
  dsimp only
  rcases h with h | h
  · rw [h]
  · rw [h]; cases tallyAt (advanceTo s.dev now) n <;> rfl

theorem completes_partialWait {x : TallyCtx} {g : Group} {w : TallyWait}
    (hx : tallyAt (advanceTo s.dev now) n = some x) (hg : groupAt (advanceTo s.dev now) n = some g)
    (hw : x.waits = [w]) (hs : w.step = step) :
    let d0 := advanceTo s.dev now
    let r : TRec := ⟨partOfGroup d0 n, n, x, g, step, w.idx⟩
    Completes (.partialWaitExpiry n r.chunk step now) s fun d =>
      if w.since + 1000000 ≤ d0.clock then RunsRecords d0 [r] (partialEnds w) d else d = d0 := by
  intro d0 r
  refine completes_onDev hl (show execPartialWaitExpiry n r.chunk step now s = onDev s _ from rfl) ?_
  simp only [hx, hg, hw, hs, TRec.chunk, List.filter_cons, List.filter_nil, beq_self_eq_true, Bool.true_and, r, d0,
    decide_eq_true_eq]
  by_cases hdue : w.since + 1000000 ≤ (advanceTo s.dev now).clock
  · rw [if_pos hdue, if_pos hdue]
    exact runRecords_runs _ _ _
  · rw [if_neg hdue, if_neg hdue]
    rfl

end Wait

/-- Settles O27: each deadline by whether it has fired, the records it runs by what `runRecords` leaves, the wait by
the one entry of the list that can be due. -/
theorem tallyDeadlines : Obligations.TallyDeadlines := by
  unfold Obligations.TallyDeadlines
  intro s n step now hl
  refine ⟨fun close c hc => ?_, fun x g w hx hg hw hs => completes_partialWait hl hx hg hw hs,
    fun chunk h => completes_partialWait_without hl chunk h⟩
  obtain rfl := List.mem_singleton.1 hc
  exact ⟨fun h => completes_deadline hl close n step now (fireDeadline_without h),
    fun x b hx hb => completes_deadline hl close n step now (fireDeadline_runs hx hb)⟩

end Sys2Proof.Machine
end

section
/-!
PROOF. A packet that is not taken for its flow, and one that waits its turn there (R273, R280, R281, R292): O31.
-/

namespace Sys2Proof.Machine

/-! ### The rows of frames -/

/-- The row of a frame that the link level takes does what its act does. -/
theorem completes_taken {s : State} {now port : Nat} {trailer : Word} {f : Frame} {d1 : Dev}
    (ht : Taken s now port trailer f d1) {i : Instr} {kind : Frame → Bool} {act : Dev → Dev} {P : Dev → Prop}
    (hi : exec i s = onDev s fun d => onFrame d now port trailer f kind act) (hk : kind f = true)
    (hp : P (act d1)) : Completes i s P := by
  refine completes_onDev ht.1 hi ?_
  rwa [onFrame_taken ht hk]

/-- The rows of packets, each with whether it is the row of frame `f`. -/
def packetRows (now port : Nat) (trailer : Word) (f : Frame) : List (Instr × Bool) :=
  [(.caravanWrite now port trailer f, f.type == 0), (.caravanRead now port trailer f, f.type == 1 && !f.resp),
    (.caravanReadResponse now port trailer f, f.type == 1 && f.resp),
    (.caravanAccumulate now port trailer f, f.type == 2 && !f.tly),
    (.caravanTallyExp now port trailer f, isTally 0 f), (.caravanTallyMant now port trailer f, isTally 1 f),
    (.caravanTallyPublish now port trailer f, isTally 2 f), (.caravanSemSignal now port trailer f, f.type == 3),
    (.caravanKvPass now port trailer f, f.type == 4), (.caravanDispatch now port trailer f, f.type == 5)]

/-- Every packet's row gives the packet that the link level takes to its flow. -/
theorem packetRows_exec {now port : Nat} {trailer : Word} {f : Frame} {r : Instr × Bool}
    (h : r ∈ packetRows now port trailer f) :
    ∃ kind : Frame → Bool, kind f = r.2 ∧ ∀ s, exec r.1 s = onPacket now port trailer f kind s := by
  simp only [packetRows, List.mem_cons, List.not_mem_nil, or_false] at h
  rcases h with rfl | rfl | rfl | rfl | rfl | rfl | rfl | rfl | rfl | rfl
  · exact ⟨fun f => f.type == 0, rfl, fun _ => rfl⟩
  · exact ⟨fun f => f.type == 1 && !f.resp, rfl, fun _ => rfl⟩
  · exact ⟨fun f => f.type == 1 && f.resp, rfl, fun _ => rfl⟩
  · exact ⟨fun f => f.type == 2 && !f.tly, rfl, fun _ => rfl⟩
  · exact ⟨isTally 0, rfl, fun _ => rfl⟩
  · exact ⟨isTally 1, rfl, fun _ => rfl⟩
  · exact ⟨isTally 2, rfl, fun _ => rfl⟩
  · exact ⟨fun f => f.type == 3, rfl, fun _ => rfl⟩
  · exact ⟨fun f => f.type == 4, rfl, fun _ => rfl⟩
  · exact ⟨fun f => f.type == 5, rfl, fun _ => rfl⟩

/-! ### What an answer leaves alone -/

/-- Memory, hub, ledger, tally and tiles of `d'` are those of `d`. -/
def SameState (d d' : Dev) : Prop :=
  d'.mem = d.mem ∧ d'.hub = d.hub ∧ d'.ledger = d.ledger ∧ d'.tally = d.tally ∧ d'.tiles = d.tiles

theorem SameState.trans {a b c : Dev} (h : SameState a b) (g : SameState b c) : SameState a c := by
  obtain ⟨hm, hh, hl, ht, hs⟩ := h
  obtain ⟨gm, gh, gl, gt, gs⟩ := g
  exact ⟨gm.trans hm, gh.trans hh, gl.trans hl, gt.trans ht, gs.trans hs⟩

theorem SendFrame.same {d d' : Dev} (h : SendFrame d d') : SameState d d' := by
  unfold SendFrame at h
  rw [h]
  exact ⟨rfl, rfl, rfl, rfl, rfl⟩

theorem SendFrame.findRx {d d' : Dev} (h : SendFrame d d') (p src : Nat) : findRx d' p src = findRx d p src := by
  unfold SendFrame at h
  rw [h]
  rfl

/-- A register's count is in the register file alone. -/
theorem rcount_regs (d : Dev) (r : Reg) (n i hi lo k : Nat) : ∃ rs, rcount d r n i hi lo k = { d with regs := rs } :=
  ⟨_, rfl⟩

theorem noteFab_regs (d : Dev) (st peer port : Nat) : ∃ rs, noteFab d st peer port = { d with regs := rs } :=
  ⟨_, rfl⟩

theorem noteRefused_regs (d : Dev) (p st peer port : Nat) :
    ∃ rs, noteRefused d p st peer port = { d with regs := rs } := by
  obtain ⟨rs, h⟩ := noteFab_regs d st peer port
  unfold noteRefused
  dsimp only
  rw [h]
  split
  · exact rcount_regs _ _ _ _ _ _ _
  · exact ⟨rs, rfl⟩

theorem noteRefused_same (d : Dev) (p st peer port : Nat) : SameState d (noteRefused d p st peer port) := by
  obtain ⟨rs, h⟩ := noteRefused_regs d p st peer port
  rw [h]
  exact ⟨rfl, rfl, rfl, rfl, rfl⟩

theorem findRx_noteRefused (d : Dev) (p st peer port q src : Nat) :
    findRx (noteRefused d p st peer port) q src = findRx d q src := by
  obtain ⟨rs, h⟩ := noteRefused_regs d p st peer port
  rw [h]
  rfl

theorem replyAgain_sendFrame (d : Dev) (x : RxFlow) (n : Nat) : SendFrame d (replyAgain d x n) := by
  unfold replyAgain
  split
  · exact sendCtl_sendFrame _ _ _ _ _ _
  · exact sendCtl_sendFrame _ _ _ _ _ _

theorem answerPkt_sendFrame (d : Dev) (p src n st : Nat) :
    SendFrame (updRx d p src fun x => x.record n st d.clock) (answerPkt d p src n st) := by
  unfold answerPkt
  dsimp only
  split
  · exact .refl _
  · exact replyAgain_sendFrame _ _ _

/-! ### A flow after an answer -/

/-- Moving `base` keeps whose flow it is and what waits on it. -/
theorem slideBase_keeps (n : Nat) (x : RxFlow) : (slideBase n x).part = x.part ∧ (slideBase n x).src = x.src ∧
    (slideBase n x).waiting = x.waiting := by
  induction n generalizing x with
  | zero => exact ⟨rfl, rfl, rfl⟩
  | succ n ih =>
    unfold slideBase
    split
    · exact ih _
    · exact ⟨rfl, rfl, rfl⟩

theorem record_keeps (x : RxFlow) (n st now : Nat) : (x.record n st now).part = x.part ∧
    (x.record n st now).src = x.src ∧ (x.record n st now).waiting = x.waiting := by
  unfold RxFlow.record RxFlow.prune
  exact slideBase_keeps _ _

theorem findRx_answerPkt {d : Dev} {p src : Nat} {x : RxFlow} (h : findRx d p src = some x) (n st : Nat) :
    findRx (answerPkt d p src n st) p src = some (x.record n st d.clock) := by
  rw [(answerPkt_sendFrame d p src n st).findRx]
  refine findRx_updRx h fun y => ?_
  obtain ⟨hpart, hsrc, -⟩ := record_keeps y n st d.clock
  exact ⟨hpart, hsrc⟩

theorem settleRx_of_none_waiting {d : Dev} {p src : Nat} {x : RxFlow} (h : findRx d p src = some x)
    (hw : x.waiting = []) : settleRx d p src = d := by
  simp only [settleRx, h, hw, List.length_nil, settleFlow]

/-- A refusal of a packet on a flow: with nothing waiting it is the answer alone. -/
theorem refused_same {d1 : Dev} {p src : Nat} {x : RxFlow} (h : findRx d1 p src = some x) (hw : x.waiting = [])
    (st port n : Nat) :
    let d2 := answerPkt (noteRefused d1 p st src port) p src n st
    settleRx d2 p src = d2 ∧ SameState d1 (settleRx d2 p src) := by
  intro d2
  have hx := (findRx_noteRefused d1 p st src port p src).trans h
  obtain ⟨-, -, hwait⟩ := record_keeps x n st (noteRefused d1 p st src port).clock
  have hsettle : settleRx d2 p src = d2 :=
    settleRx_of_none_waiting (findRx_answerPkt hx n st) (hwait.trans hw)
  have hrecord (d : Dev) (g : RxFlow → RxFlow) : SameState d (updRx d p src g) := ⟨rfl, rfl, rfl, rfl, rfl⟩
  refine ⟨hsettle, hsettle.symm ▸ ?_⟩
  exact ((noteRefused_same d1 p st src port).trans (hrecord _ _)).trans (answerPkt_sendFrame _ p src n st).same

theorem sendStatus_same (d1 : Dev) (p st src port n : Nat) :
    SameState d1 (sendStatus (noteRefused d1 p st src port) p src n st) :=
  (noteRefused_same d1 p st src port).trans (sendCtl_sendFrame _ _ _ _ _ _).same

/-- Settles O31: every packet's row goes through `packetIn`, whose checks come in the statement's order; what an answer
leaves alone is what sending does. -/
theorem packetsAreRefused : Obligations.PacketsAreRefused := by
  unfold Obligations.PacketsAreRefused
  intro s now port trailer f d1 ht p same r hr hk
  obtain ⟨kind, hkind, hexec⟩ := packetRows_exec hr
  refine completes_taken ht (hexec s) (hkind.trans hk) ?_
  have hany (x : RxFlow) : (x.waiting.any fun e => e.2.fseq == f.fseq) = true ↔ ∃ e ∈ x.waiting, e.2.fseq = f.fseq := by
    simp only [List.any_eq_true, beq_iff_eq]
  unfold packetIn
  dsimp only
  by_cases hmine : chipIdValid d1 p = false ∨ f.dst ≠ chipId d1 p
  · rw [if_pos hmine, if_pos hmine]
  rw [if_neg hmine, if_neg hmine]
  cases hx : findRx d1 p f.src with
  | none => exact ⟨rfl, sendStatus_same _ _ _ _ _ _⟩
  | some x =>
    dsimp only
    by_cases hshut : sourceShut d1 p f.src = true
    · rw [if_pos hshut, if_pos hshut]
      by_cases hseen : x.seen f.fseq = true
      · rw [if_pos hseen, if_pos hseen]
        exact ⟨rfl, sendStatus_same _ _ _ _ _ _⟩
      · rw [if_neg hseen, if_neg hseen]
        exact ⟨rfl, fun hw => refused_same hx hw _ _ _⟩
    rw [if_neg hshut, if_neg hshut]
    by_cases hseen : x.seen f.fseq = true
    · rw [if_pos hseen, if_pos hseen]
      exact ⟨rfl, (replyAgain_sendFrame _ _ _).same⟩
    rw [if_neg hseen, if_neg hseen]
    by_cases hwaits : ∃ e ∈ x.waiting, e.2.fseq = f.fseq
    · rw [if_pos hwaits, if_pos ((hany x).2 hwaits)]
    rw [if_neg hwaits, if_neg fun h => hwaits ((hany x).1 h)]
    by_cases htag : f.tag ≠ jobTag d1 p
    · rw [if_pos htag, if_pos htag]
      exact ⟨rfl, fun hw => refused_same hx hw _ _ _⟩
    · rw [if_neg htag, if_neg htag]

end Sys2Proof.Machine
end

section
/-!
PROOF. What a measurement of campus time does (R297, Table FAB-8).
-/

namespace Sys2Proof.Machine

/-! ### FAB_TIME_STATUS -/

theorem rfield_of_regs {d e : Dev} (h : e.regs = d.regs) (r : Reg) (n i hi lo : Nat) :
    rfield e r n i hi lo = rfield d r n i hi lo := by
  unfold rfield rget
  rw [h]

theorem timeIn_of_regs {d e : Dev} (h : e.regs = d.regs) (t : TimeState) : timeIn e t = timeIn d t := by
  unfold timeIn
  rw [rfield_of_regs h]

theorem everLocked_of_regs {d e : Dev} (h : e.regs = d.regs) : everLocked e = everLocked d := by
  unfold everLocked rget
  rw [h]

theorem timeIn_iff {d : Dev} {t : TimeState} : timeIn d t = true ↔ rfield d .fabTimeStatus 0 0 1 0 = t.code := by
  unfold timeIn
  exact beq_iff_eq

/-- A register's field is in the register file alone. -/
theorem rsetf_regs (d : Dev) (r : Reg) (n i hi lo v : Nat) : ∃ rs, rsetf d r n i hi lo v = { d with regs := rs } :=
  ⟨_, rfl⟩

theorem rsetf_congr {d e : Dev} (h : e.regs = d.regs) (r : Reg) (n i hi lo v : Nat) :
    (rsetf e r n i hi lo v).regs = (rsetf d r n i hi lo v).regs := by
  unfold rsetf rset rget
  rw [h]

theorem rcount_congr {d e : Dev} (h : e.regs = d.regs) (r : Reg) (n i hi lo k : Nat) :
    (rcount e r n i hi lo k).regs = (rcount d r n i hi lo k).regs := by
  unfold rcount
  rw [rfield_of_regs h]
  exact rsetf_congr h _ _ _ _ _ _

/-- A write of other fields keeps EVER_LOCKED. -/
theorem everLocked_rsetf_ne (d : Dev) {hi lo : Nat} (v : Nat) (hh : hi < 64) (h : hi < 2 ∨ 2 < lo) :
    everLocked (rsetf d .fabTimeStatus 0 0 hi lo v) = everLocked d := by
  have hne : ¬ (lo ≤ 2 ∧ 2 < lo + (hi + 1 - lo)) := by omega
  unfold everLocked rsetf
  rw [rget_rset, wbit_wsetBits _ _ _ _ _ hh, if_neg hne]

theorem timeIn_rsetf_ne (d : Dev) {hi lo : Nat} (v : Nat) (t : TimeState) (hh : hi < 64) (h : 1 < lo) :
    timeIn (rsetf d .fabTimeStatus 0 0 hi lo v) t = timeIn d t := by
  unfold timeIn
  rw [rfield_rsetf_ne _ _ _ _ _ _ _ _ _ hh (.inl h)]

theorem timeIn_setTime (d : Dev) (t u : TimeState) : timeIn (setTime d t) u = decide (t = u) := by
  unfold timeIn setTime
  rw [rfield_rsetf _ _ _ _ _ _ _ (by decide)]
  cases t <;> cases u <;> rfl

/-- Nothing but FAB_TIME_STATUS differs among the registers. -/
def OnlyTimeStatus (d d' : Dev) : Prop :=
  ∀ key, key ≠ Reg.fabTimeStatus.key 0 0 → mget 0 d'.regs key = mget 0 d.regs key

theorem OnlyTimeStatus.trans {a b c : Dev} (h : OnlyTimeStatus a b) (g : OnlyTimeStatus b c) : OnlyTimeStatus a c :=
  fun key hk => (g key hk).trans (h key hk)

theorem OnlyTimeStatus.of_regs {d e : Dev} (h : e.regs = d.regs) : OnlyTimeStatus d e := fun _ _ => by rw [h]

theorem rsetf_onlyTimeStatus (d : Dev) (hi lo v : Nat) : OnlyTimeStatus d (rsetf d .fabTimeStatus 0 0 hi lo v) :=
  fun _ hk => mget_mset_other _ _ _ _ hk

theorem setTime_onlyTimeStatus (d : Dev) (t : TimeState) : OnlyTimeStatus d (setTime d t) :=
  rsetf_onlyTimeStatus _ _ _ _

/-! ### The parts of a measurement -/

/-- The clock begins to acquire with a measurement. -/
def startsAcquiring (d : Dev) : Bool := timeIn d .freeRun || timeIn d .holdover

/-- The device in which a measurement is judged: its offset shown and a free frequency correction taken. -/
def measureBegins (d : Dev) (shown : Nat) (corr : Word → Int) : Dev :=
  let d := if startsAcquiring d then setTime { d with fab.goodRun := 0 } .acquiring else d
  let d := rsetf d .fabTimeStatus 0 0 63 32 shown
  let (v, d) := freeW d
  { d with fab.measuredAt := d.clock, fab.freq := corr v }

/-- Campus time while acquiring: stepped where the offset is big and it may run backwards, slewed otherwise. -/
def adjustTime (d : Dev) (big : Bool) (dest : Nat) (slew : Int) : Dev :=
  if big && mayStepBack d then stepTime { d with fab.slew := 0 } dest else { d with fab.slew := slew }

/-- Good offsets in a row are counted; the sixteenth locks. -/
def countGood (d : Dev) (n : Nat) : Dev :=
  let d : Dev := { d with fab.goodRun := n }
  if 16 ≤ n then rsetf (setTime d .locked) .fabTimeStatus 0 0 2 2 1 else d

/-- The measurement of a locked clock: a big offset is counted, and each is slewed out. -/
def measureLocked (d : Dev) (big : Bool) (slew : Int) : Dev :=
  let d := if big then rcount d .fabTimeStatus 0 0 31 16 1 else d
  { d with fab.slew := slew }

/-- The frequency correction that a free word stands for, within 100 ppm. -/
def correctionOf (v : Word) : Int := clampI (-100000) 100000 (sext 32 v.toNat)

/-- A run of good offsets after another offset. -/
def goodAfter (n : Nat) (x : Int) : Nat := if x.natAbs < 100 then n + 1 else 0

theorem measure_eq (d : Dev) (x : Int) : measure d x =
    let b := measureBegins d (offsetCode x) correctionOf
    let big := decide (1000000 < x.natAbs)
    if timeIn b .acquiring then
      let a := adjustTime b big ((b.ns : Int) - x).toNat (-x * 65536)
      countGood a (goodAfter a.fab.goodRun x)
    else measureLocked b big (-x * 65536) := rfl

section Measure

variable (d : Dev)

/-! ### A measurement begins -/

theorem freeW_regs : (freeW d).2.regs = d.regs := rfl

section Begin

variable (shown : Nat) (corr : Word → Int)

theorem measureBegins_frame : measureBegins d shown corr = { d with
    regs := (measureBegins d shown corr).regs
    free := d.free + 1
    fab := { d.fab with
      measuredAt := d.clock, freq := corr (freeW d).1, goodRun := if startsAcquiring d then 0 else d.fab.goodRun } } := by
  unfold measureBegins
  cases startsAcquiring d with
  | true =>
    obtain ⟨rs, hrs⟩ := rsetf_regs { d with fab.goodRun := 0 } .fabTimeStatus 0 0 1 0 TimeState.acquiring.code
    obtain ⟨rs', hrs'⟩ := rsetf_regs { d with regs := rs, fab.goodRun := 0 } .fabTimeStatus 0 0 63 32 shown
    simp only [if_true, setTime, hrs, hrs']
    rfl
  | false =>
    obtain ⟨rs, hrs⟩ := rsetf_regs d .fabTimeStatus 0 0 63 32 shown
    simp only [Bool.false_eq_true, if_false, hrs]
    rfl

theorem measureBegins_regs : (measureBegins d shown corr).regs =
    (rsetf (if startsAcquiring d then setTime d .acquiring else d) .fabTimeStatus 0 0 63 32 shown).regs := by
  have hregs : (measureBegins d shown corr).regs =
      (rsetf (if startsAcquiring d then setTime { d with fab.goodRun := 0 } .acquiring else d)
        .fabTimeStatus 0 0 63 32 shown).regs := freeW_regs _
  refine hregs.trans (rsetf_congr ?_ _ _ _ _ _ _)
  split
  · exact rsetf_congr rfl _ _ _ _ _ _
  · rfl

theorem timeIn_measureBegins (t : TimeState) : timeIn (measureBegins d shown corr) t =
    if startsAcquiring d then decide (TimeState.acquiring = t) else timeIn d t := by
  rw [timeIn_of_regs (measureBegins_regs d shown corr), timeIn_rsetf_ne _ _ _ (by decide) (by decide)]
  split
  · exact timeIn_setTime _ _ _
  · rfl

theorem measureBegins_shown : rfield (measureBegins d shown corr) .fabTimeStatus 0 0 63 32 = shown % 2 ^ 32 := by
  rw [rfield_of_regs (measureBegins_regs d shown corr), rfield_rsetf _ _ _ _ _ _ _ (by decide)]

/-- Where the clock does not begin to acquire, the count of big offsets stays. -/
theorem measureBegins_count (h : startsAcquiring d = false) :
    rfield (measureBegins d shown corr) .fabTimeStatus 0 0 31 16 = rfield d .fabTimeStatus 0 0 31 16 := by
  rw [rfield_of_regs (measureBegins_regs d shown corr), rfield_rsetf_ne _ _ _ _ _ _ _ _ _ (by decide) (by decide), h]
  rfl

theorem everLocked_measureBegins : everLocked (measureBegins d shown corr) = everLocked d := by
  rw [everLocked_of_regs (measureBegins_regs d shown corr), everLocked_rsetf_ne _ _ (by decide) (by decide)]
  split
  · exact everLocked_rsetf_ne _ _ (by decide) (by decide)
  · rfl

theorem measureBegins_onlyTimeStatus : OnlyTimeStatus d (measureBegins d shown corr) := by
  have hbegin : OnlyTimeStatus d (if startsAcquiring d then setTime d .acquiring else d) := by
    split
    · exact setTime_onlyTimeStatus _ _
    · exact fun _ _ => rfl
  exact (hbegin.trans (rsetf_onlyTimeStatus _ _ _ _)).trans (.of_regs (measureBegins_regs d shown corr))

theorem anyBell_measureBegins : anyBell (measureBegins d shown corr) = anyBell d := by
  obtain ⟨rs, h⟩ : ∃ rs, measureBegins d shown corr = { d with
      regs := rs
      free := d.free + 1
      fab := { d.fab with
        measuredAt := d.clock, freq := corr (freeW d).1
        goodRun := if startsAcquiring d then 0 else d.fab.goodRun } } := ⟨_, measureBegins_frame d shown corr⟩
  rw [h]
  rfl

end Begin

/-! ### Campus time while acquiring -/

section Adjust

variable (big : Bool) (dest : Nat) (slew : Int)

theorem adjustTime_frame : adjustTime d big dest slew = { d with
    ns := (adjustTime d big dest slew).ns
    frac := (adjustTime d big dest slew).frac
    fab := { d.fab with
      slew := (adjustTime d big dest slew).fab.slew
      sync := (adjustTime d big dest slew).fab.sync, delayReq := (adjustTime d big dest slew).fab.delayReq } } := by
  unfold adjustTime
  cases big && mayStepBack d with
  | true => rfl
  | false => rfl

theorem adjustTime_regs : (adjustTime d big dest slew).regs = d.regs := by
  unfold adjustTime
  split
  · rfl
  · rfl

theorem adjustTime_goodRun : (adjustTime d big dest slew).fab.goodRun = d.fab.goodRun := by
  unfold adjustTime
  split
  · rfl
  · rfl

/-- A big offset steps campus time where it may run backwards; any other is slewed out. -/
theorem adjustTime_time :
    if big = true ∧ anyBell d = false ∧ everLocked d = false then
      (adjustTime d big dest slew).ns = dest ∧ (adjustTime d big dest slew).frac = 0 ∧ (adjustTime d big dest slew).fab.slew = 0
    else (adjustTime d big dest slew).ns = d.ns ∧ (adjustTime d big dest slew).frac = d.frac ∧
      (adjustTime d big dest slew).fab.slew = slew := by
  have hback : (big && mayStepBack d) = true ↔ big = true ∧ anyBell d = false ∧ everLocked d = false := by
    simp [mayStepBack]
  unfold adjustTime
  by_cases h : big = true ∧ anyBell d = false ∧ everLocked d = false
  · rw [if_pos h, if_pos (hback.2 h)]
    exact ⟨rfl, rfl, rfl⟩
  · rw [if_neg h, if_neg fun h' => h (hback.1 h')]
    exact ⟨rfl, rfl, rfl⟩

end Adjust

/-! ### Good offsets in a row -/

section Count

variable (n : Nat)

theorem countGood_frame : countGood d n = { d with
    regs := (countGood d n).regs
    fab := { d.fab with goodRun := n } } := by
  obtain ⟨rs, hrs⟩ := rsetf_regs { d with fab.goodRun := n } .fabTimeStatus 0 0 1 0 TimeState.locked.code
  obtain ⟨rs', hrs'⟩ := rsetf_regs { d with regs := rs, fab.goodRun := n } .fabTimeStatus 0 0 2 2 1
  unfold countGood
  simp only [setTime, hrs, hrs']
  split
  · rfl
  · rfl

theorem countGood_regs : (countGood d n).regs =
    (if 16 ≤ n then rsetf (setTime d .locked) .fabTimeStatus 0 0 2 2 1 else d).regs := by
  have hfab : (setTime { d with fab.goodRun := n } .locked).regs = (setTime d .locked).regs :=
    rsetf_congr rfl _ _ _ _ _ _
  unfold countGood
  dsimp only
  split
  · exact rsetf_congr hfab _ _ _ _ _ _
  · rfl

theorem countGood_shown : rfield (countGood d n) .fabTimeStatus 0 0 63 32 = rfield d .fabTimeStatus 0 0 63 32 := by
  rw [rfield_of_regs (countGood_regs d n)]
  split
  · rw [rfield_rsetf_ne _ _ _ _ _ _ _ _ _ (by decide) (by decide)]
    exact rfield_rsetf_ne _ _ _ _ _ _ _ _ _ (by decide) (by decide)
  · rfl

theorem countGood_onlyTimeStatus : OnlyTimeStatus d (countGood d n) := by
  refine OnlyTimeStatus.trans ?_ (.of_regs (countGood_regs d n))
  split
  · exact (setTime_onlyTimeStatus _ _).trans (rsetf_onlyTimeStatus _ _ _ _)
  · exact fun _ _ => rfl

/-- The sixteenth good offset in a row locks an acquiring clock. -/
theorem countGood_state (h : timeIn d .acquiring = true) :
    if 16 ≤ n then timeIn (countGood d n) .locked = true ∧ everLocked (countGood d n) = true
    else timeIn (countGood d n) .acquiring = true ∧ everLocked (countGood d n) = everLocked d := by
  simp only [timeIn_of_regs (countGood_regs d n), everLocked_of_regs (countGood_regs d n)]
  split
  · constructor
    · rw [timeIn_rsetf_ne _ _ _ (by decide) (by decide), timeIn_setTime]
      rfl
    · unfold everLocked rsetf
      rw [rget_rset, wbit_wsetBits _ _ _ _ _ (by decide)]
      rfl
  · exact ⟨h, rfl⟩

end Count

/-! ### A locked clock -/

section Locked

variable (big : Bool) (slew : Int)

theorem measureLocked_frame : measureLocked d big slew = { d with
    regs := (measureLocked d big slew).regs
    fab := { d.fab with slew := slew } } := by
  obtain ⟨rs, hrs⟩ := rcount_regs d .fabTimeStatus 0 0 31 16 1
  unfold measureLocked
  simp only [hrs]
  cases big with
  | true => rfl
  | false => rfl

theorem measureLocked_regs : (measureLocked d big slew).regs =
    (if big then rcount d .fabTimeStatus 0 0 31 16 1 else d).regs := rfl

theorem measureLocked_shown :
    rfield (measureLocked d big slew) .fabTimeStatus 0 0 63 32 = rfield d .fabTimeStatus 0 0 63 32 := by
  rw [rfield_of_regs (measureLocked_regs d big slew)]
  split
  · exact rfield_rsetf_ne _ _ _ _ _ _ _ _ _ (by decide) (by decide)
  · rfl

theorem measureLocked_onlyTimeStatus : OnlyTimeStatus d (measureLocked d big slew) := by
  refine OnlyTimeStatus.trans ?_ (.of_regs (measureLocked_regs d big slew))
  split
  · exact rsetf_onlyTimeStatus _ _ _ _
  · exact fun _ _ => rfl

theorem timeIn_measureLocked (t : TimeState) : timeIn (measureLocked d big slew) t = timeIn d t := by
  rw [timeIn_of_regs (measureLocked_regs d big slew)]
  split
  · exact timeIn_rsetf_ne _ _ _ (by decide) (by decide)
  · rfl

/-- A big offset of a locked clock is counted, saturating. -/
theorem measureLocked_count : rfield (measureLocked d big slew) .fabTimeStatus 0 0 31 16 =
    if big then min 65535 (rfield d .fabTimeStatus 0 0 31 16 + 1) else rfield d .fabTimeStatus 0 0 31 16 := by
  rw [rfield_of_regs (measureLocked_regs d big slew)]
  split
  · exact rfield_rcount _ _ _ _ _ _ _ (by decide)
  · rfl

end Locked

/-! ### A whole measurement -/

section Whole

variable (x : Int)

/-- An offset in the form of OFFSET fits the field. -/
theorem offsetCode_mod : offsetCode x % 2 ^ 32 = offsetCode x := by
  have h := Int.emod_lt_of_pos (clampI (-(2 ^ 31)) (2 ^ 31 - 1) x) (b := (2 ^ 32 : Nat)) (by decide)
  refine Nat.mod_eq_of_lt ?_
  unfold offsetCode wrapN
  omega

theorem correctionOf_le (v : Word) : -100000 ≤ correctionOf v ∧ correctionOf v ≤ 100000 := by
  unfold correctionOf clampI
  omega

theorem measure_shown : rfield (measure d x) .fabTimeStatus 0 0 63 32 = offsetCode x := by
  rw [measure_eq]
  dsimp only
  split
  · rw [countGood_shown, rfield_of_regs (adjustTime_regs _ _ _ _), measureBegins_shown, offsetCode_mod]
  · rw [measureLocked_shown, measureBegins_shown, offsetCode_mod]

theorem measure_onlyTimeStatus : OnlyTimeStatus d (measure d x) := by
  rw [measure_eq]
  dsimp only
  refine (measureBegins_onlyTimeStatus d (offsetCode x) correctionOf).trans ?_
  split
  · exact OnlyTimeStatus.trans (.of_regs (adjustTime_regs _ _ _ _)) (countGood_onlyTimeStatus _ _)
  · exact measureLocked_onlyTimeStatus _ _ _

/-- Judging a measurement changes registers, campus time, the correction and the PTP stamps that move with it. -/
def JudgeFrame (d d' : Dev) : Prop :=
  d' = { d with
    regs := d'.regs
    ns := d'.ns
    frac := d'.frac
    fab := { d.fab with
      slew := d'.fab.slew, goodRun := d'.fab.goodRun, sync := d'.fab.sync, delayReq := d'.fab.delayReq } }

theorem JudgeFrame.trans {a b c : Dev} (h : JudgeFrame a b) (g : JudgeFrame b c) : JudgeFrame a c := by
  unfold JudgeFrame at *
  rw [h] at g
  exact g

theorem adjustTime_judge (big : Bool) (dest : Nat) (slew : Int) : JudgeFrame d (adjustTime d big dest slew) := by
  unfold adjustTime
  split
  · rfl
  · rfl

theorem countGood_judge (n : Nat) : JudgeFrame d (countGood d n) := by
  have h := countGood_frame d n
  unfold JudgeFrame
  generalize countGood d n = e at h
  rw [h]

theorem measureLocked_judge (big : Bool) (slew : Int) : JudgeFrame d (measureLocked d big slew) := by
  have h := measureLocked_frame d big slew
  unfold JudgeFrame
  generalize measureLocked d big slew = e at h
  rw [h]

theorem measure_judge : JudgeFrame (measureBegins d (offsetCode x) correctionOf) (measure d x) := by
  rw [measure_eq]
  dsimp only
  split
  · exact (adjustTime_judge _ _ _ _).trans (countGood_judge _ _)
  · exact measureLocked_judge _ _ _

/-- A measurement of `d` ends in `e` with frequency correction `freq`. -/
def MeasureFrame (d e : Dev) (freq : Int) : Prop :=
  e = { d with
    regs := e.regs
    free := d.free + 1
    ns := e.ns
    frac := e.frac
    fab := { d.fab with
      measuredAt := d.clock
      freq := freq
      slew := e.fab.slew
      goodRun := e.fab.goodRun
      sync := e.fab.sync
      delayReq := e.fab.delayReq } }

theorem measure_frame : MeasureFrame d (measure d x) (correctionOf (freeW d).1) := by
  have h := measure_judge d x
  have hb := measureBegins_frame d (offsetCode x) correctionOf
  unfold JudgeFrame at h
  generalize measureBegins d (offsetCode x) correctionOf = b at h hb
  rw [hb] at h
  exact h

theorem MeasureFrame.dev {d e : Dev} {freq : Int} (h : MeasureFrame d e freq) :
    e = { d with regs := e.regs, fab := e.fab, ns := e.ns, frac := e.frac, free := d.free + 1 } := by
  unfold MeasureFrame at h
  rw [h]

theorem MeasureFrame.fab {d e : Dev} {freq : Int} (h : MeasureFrame d e freq) :
    e.fab = { d.fab with
      measuredAt := d.clock, freq := e.fab.freq, slew := e.fab.slew, goodRun := e.fab.goodRun
      sync := e.fab.sync, delayReq := e.fab.delayReq } := by
  unfold MeasureFrame at h
  rw [h]

theorem MeasureFrame.freq_eq {d e : Dev} {freq : Int} (h : MeasureFrame d e freq) : e.fab.freq = freq := by
  unfold MeasureFrame at h
  rw [h]

/-- A clock that is not locked is acquiring once a measurement has begun. -/
theorem timeIn_acquiring_of_measureBegins (h : startsAcquiring d = true ∨ timeIn d .acquiring = true) :
    timeIn (measureBegins d (offsetCode x) correctionOf) .acquiring = true := by
  rw [timeIn_measureBegins]
  split
  · rfl
  · next hs => exact h.resolve_left hs

/-- A clock that acquires counts no good offset of an earlier try. -/
theorem measureBegins_goodRun (h : startsAcquiring d = true ∨ timeIn d .acquiring = true) :
    (measureBegins d (offsetCode x) correctionOf).fab.goodRun =
      if timeIn d .acquiring = true then d.fab.goodRun else 0 := by
  have hb := measureBegins_frame d (offsetCode x) correctionOf
  have hnot : startsAcquiring d = true → ¬ timeIn d .acquiring = true := by
    unfold startsAcquiring
    simp only [Bool.or_eq_true, timeIn_iff]
    intro hs ha
    rw [ha] at hs
    exact absurd hs (by decide)
  generalize measureBegins d (offsetCode x) correctionOf = b at hb ⊢
  rw [hb]
  dsimp only
  by_cases hs : startsAcquiring d = true
  · rw [if_pos hs, if_neg (hnot hs)]
  · rw [if_neg hs, if_pos (h.resolve_left hs)]

theorem measure_of_acquiring (h : timeIn (measureBegins d (offsetCode x) correctionOf) .acquiring = true) :
    let b := measureBegins d (offsetCode x) correctionOf
    let a := adjustTime b (decide (1000000 < x.natAbs)) ((b.ns : Int) - x).toNat (-x * 65536)
    measure d x = countGood a (goodAfter a.fab.goodRun x) :=
  (measure_eq d x).trans (if_pos h)

theorem measure_of_not_acquiring (h : ¬ timeIn (measureBegins d (offsetCode x) correctionOf) .acquiring = true) :
    measure d x = measureLocked (measureBegins d (offsetCode x) correctionOf) (decide (1000000 < x.natAbs))
      (-x * 65536) :=
  (measure_eq d x).trans (if_neg h)

theorem measure_acquires (h : startsAcquiring d = true ∨ timeIn d .acquiring = true) :
    let e := measure d x
    let run := goodAfter (if timeIn d .acquiring = true then d.fab.goodRun else 0) x
    e.fab.goodRun = run ∧
      (if 16 ≤ run then timeIn e .locked = true ∧ everLocked e = true
        else timeIn e .acquiring = true ∧ everLocked e = everLocked d) ∧
      if decide (1000000 < x.natAbs) = true ∧ anyBell d = false ∧ everLocked d = false then
        e.ns = ((d.ns : Int) - x).toNat ∧ e.frac = 0 ∧ e.fab.slew = 0
      else e.ns = d.ns ∧ e.frac = d.frac ∧ e.fab.slew = -x * 65536 := by
  intro e run
  have hbegin := timeIn_acquiring_of_measureBegins d x h
  have hrun := measureBegins_goodRun d x h
  have hbell := anyBell_measureBegins d (offsetCode x) correctionOf
  have hlocked := everLocked_measureBegins d (offsetCode x) correctionOf
  have hb := measureBegins_frame d (offsetCode x) correctionOf
  have he := measure_of_acquiring d x hbegin
  change e = _ at he
  clear_value e
  generalize measureBegins d (offsetCode x) correctionOf = b at *
  have hns : b.ns = d.ns := by rw [hb]
  have hfrac : b.frac = d.frac := by rw [hb]
  rw [hns] at he
  generalize decide (1000000 < x.natAbs) = big at *
  generalize ((d.ns : Int) - x).toNat = dest at *
  generalize -x * 65536 = slew at *
  have htime := adjustTime_time b big dest slew
  rw [hbell, hlocked, hns, hfrac] at htime
  have hgood := adjustTime_goodRun b big dest slew
  have hregs := adjustTime_regs b big dest slew
  generalize adjustTime b big dest slew = a at *
  have hn : goodAfter a.fab.goodRun x = run := by rw [hgood, hrun]
  rw [hn] at he
  clear_value run
  have hstate := countGood_state a run ((timeIn_of_regs hregs _).trans hbegin)
  rw [everLocked_of_regs hregs, hlocked] at hstate
  have hc := countGood_frame a run
  rw [← he] at hstate hc
  refine ⟨by rw [hc], hstate, ?_⟩
  rw [hc]
  exact htime

theorem measure_locked (h : timeIn d .locked = true) :
    let e := measure d x
    e.ns = d.ns ∧ e.frac = d.frac ∧ e.fab.slew = -x * 65536 ∧ timeIn e .locked = true ∧
      rfield e .fabTimeStatus 0 0 31 16 =
        if decide (1000000 < x.natAbs) = true then min 65535 (rfield d .fabTimeStatus 0 0 31 16 + 1)
        else rfield d .fabTimeStatus 0 0 31 16 := by
  intro e
  have hcode := timeIn_iff.1 h
  have hstarts : startsAcquiring d = false := by
    unfold startsAcquiring timeIn
    rw [hcode]
    rfl
  have hnot (t : TimeState) : timeIn (measureBegins d (offsetCode x) correctionOf) t = timeIn d t := by
    rw [timeIn_measureBegins, hstarts]
    exact if_neg Bool.false_ne_true
  have hacq : ¬ timeIn (measureBegins d (offsetCode x) correctionOf) .acquiring = true := by
    rw [hnot, timeIn_iff, hcode]
    decide
  have hcount := measureBegins_count d (offsetCode x) correctionOf hstarts
  have hb := measureBegins_frame d (offsetCode x) correctionOf
  have he := measure_of_not_acquiring d x hacq
  change e = _ at he
  clear_value e
  generalize measureBegins d (offsetCode x) correctionOf = b at *
  have hns : b.ns = d.ns := by rw [hb]
  have hfrac : b.frac = d.frac := by rw [hb]
  generalize decide (1000000 < x.natAbs) = big at *
  generalize -x * 65536 = slew at *
  have hin := timeIn_measureLocked b big slew .locked
  have hsteps := measureLocked_count b big slew
  have hl := measureLocked_frame b big slew
  rw [← he] at hin hsteps hl
  rw [hcount] at hsteps
  refine ⟨?_, ?_, ?_, hin.trans ((hnot _).trans h), hsteps⟩
  · rw [hl, ← hns]
  · rw [hl, ← hfrac]
  · rw [hl]

end Whole

end Measure

end Sys2Proof.Machine
end

section
/-!
PROOF. Campus time, PTP, the PPS pins and the Departure Bell (R297 to R301): O36.
-/

namespace Sys2Proof.Machine

/-! ### Time passes -/

/-- Besides the clocks, the correction that is left and the time of the last work, time changes nothing. -/
theorem advanceTo_fields (d : Dev) (now : Nat) : ∃ clock ns frac slew busy, advanceTo d now =
    { d with clock := clock, ns := ns, frac := frac, fab.slew := slew, pwr.busyAt := busy } :=
  ⟨_, _, _, _, _, rfl⟩

theorem advanceTo_regs (d : Dev) (now : Nat) : (advanceTo d now).regs = d.regs := by
  obtain ⟨_, _, _, _, _, h⟩ := advanceTo_fields d now
  rw [h]

theorem advanceTo_hub (d : Dev) (now : Nat) : (advanceTo d now).hub = d.hub := by
  obtain ⟨_, _, _, _, _, h⟩ := advanceTo_fields d now
  rw [h]

theorem advanceTo_interval (d : Dev) (now : Nat) : (advanceTo d now).fab.interval = d.fab.interval := by
  obtain ⟨_, _, _, _, _, h⟩ := advanceTo_fields d now
  rw [h]

theorem timeSrc_of_regs {d e : Dev} (h : e.regs = d.regs) : timeSrc e = timeSrc d := rfield_of_regs h _ _ _ _ _

/-! ### PTP -/

/-- The row of a CONTROL frame for the partition's own chip does what its act does. -/
theorem completes_control {s : State} {now port : Nat} {trailer : Word} {f : Frame} {d1 : Dev}
    (ht : Taken s now port trailer f d1) {i : Instr} {sub : Nat} {act : Nat → Dev → Dev} {P : Dev → Prop}
    (hi : exec i s = onControl now port trailer f sub act s) (hk : isCtl sub f = true)
    (hp : P (if chipIdValid d1 (partOfPort d1 port) = true ∧ f.dst = chipId d1 (partOfPort d1 port) then
      act (partOfPort d1 port) d1 else d1)) : Completes i s P :=
  completes_taken ht hi hk hp

section Kinds

variable (d : Dev) (p src port seq time : Nat) (corr interval : Int) (two : Bool)

theorem takePtp_sync : takePtp d p src port 0 seq time corr two interval =
    let d2 := { d with fab.interval := 1000000000 / 2 ^ interval.natAbs }
    if interval < -7 ∨ 0 < interval then d
    else if two = true then sendDelayReq { d2 with fab.sync := some (seq, d.ns, corr) } p src port seq
    else sendDelayReq (measure { d2 with fab.sync := some (seq, d.ns, time + corr) }
      ((d.ns : Int) - (time + corr) - d.fab.pathDelay)) p src port seq := rfl

theorem takePtp_followUp : takePtp d p src port 8 seq time corr two interval =
    match d.fab.sync with
    | some (n, here, c) =>
      if n = seq then measure { d with fab.sync := some (seq, here, time + corr + c) }
        ((here : Int) - (time + corr + c) - d.fab.pathDelay)
      else d
    | none => d := rfl

theorem takePtp_delayResp : takePtp d p src port 9 seq time corr two interval =
    match d.fab.sync, d.fab.delayReq with
    | some (_, here, t1), some (n, t3) =>
      if n = seq then { d with
        fab.pathDelay := ((here : Int) - t1 + (time - corr - t3)) / 2
        fab.delayReq := none }
      else d
    | _, _ => d := rfl

theorem takePtp_of_unlisted {kind : Nat} (h0 : kind ≠ 0) (h8 : kind ≠ 8) (h9 : kind ≠ 9) :
    takePtp d p src port kind seq time corr two interval = d := by
  unfold takePtp
  split
  · exact absurd rfl h0
  · exact absurd rfl h8
  · exact absurd rfl h9
  · rfl

end Kinds

/-! ### Semaphores -/

theorem releaseAll_sems (v : Word) (ws : List Waiter) (d : Dev) :
    (ws.foldl (fun d w => release d v w.who) d).hub.sems = d.hub.sems := by
  induction ws generalizing d with
  | nil => rfl
  | cons w ws ih =>
    have h := release_frame d v w.who
    unfold WakeFrame at h
    refine (ih _).trans ?_
    dsimp only
    rw [h]

/-- Adding to a semaphore changes that semaphore's value alone among the semaphores. -/
theorem semAt_semAdd (d : Dev) (n m : Nat) (a : Word) :
    semAt (semAdd d n a) m = if m = n then semAt d n + a else semAt d m := by
  unfold semAdd semSet wakeWaiters
  have h := releaseAll_sems (semAt d n + a)
    (d.hub.waiters.filter fun w => w.sem == n && decide (w.threshold ≤ (semAt d n + a).toNat))
    { d with
      hub.sems := mset 0 d.hub.sems n (semAt d n + a)
      hub.waiters := d.hub.waiters.filter fun w =>
        !(w.sem == n && decide (w.threshold ≤ (semAt d n + a).toNat)) }
  unfold semAt at h ⊢
  rw [h]
  exact mget_mset _ _ _ _ _

theorem setFabPart_hub (d : Dev) (p : Nat) (x : FabPart) : (setFabPart d p x).hub = d.hub := rfl

theorem semAt_of_hub {d e : Dev} (h : e.hub = d.hub) (n : Nat) : semAt e n = semAt d n := by
  unfold semAt
  rw [h]

/-! ### The rows -/

section Rows

variable {s : State} (hl : Live s) (now : Nat)
include hl

theorem completes_ppsInEdge : Completes (.ppsInEdge now) s fun d =>
    let d0 := advanceTo s.dev now
    if timeSrc s.dev ≠ 2 then d = s.dev
    else match d0.fab.setNext with
      | none => d = measure d0 ((d0.ns : Int) - ((d0.ns + 500000000) / 1000000000 * 1000000000 : Nat))
      | some v =>
        let d1 := { d0 with fab.setNext := none }
        d = measure (if v < d0.ns ∧ mayStepBack d0 = false then d1 else stepTime d1 v) 0 := by
  refine completes_onDev hl rfl ?_
  dsimp only
  by_cases h : timeSrc s.dev = 2
  · rw [if_neg fun hn => hn h, if_pos h]
    cases (advanceTo s.dev now).fab.setNext with
    | none => rfl
    | some v => rfl
  · rw [if_pos h, if_neg h]

theorem completes_fabTimeSet (v : Word) : Completes (.fabTimeSet v) s fun d =>
    if v.toNat < s.dev.ns ∧ (anyBell s.dev = true ∨ everLocked s.dev = true) then d = s.dev
    else if timeSrc s.dev = 2 ∧ everLocked s.dev = false then d = { s.dev with fab.setNext := some v.toNat }
    else if timeIn s.dev .freeRun = true then d = stepTime s.dev v.toNat ∧ d.ns = v.toNat ∧ d.frac = 0
    else d = s.dev := by
  refine completes_onDev (f := fun d => setCampus d v) hl rfl ?_
  have hback : mayStepBack s.dev = false ↔ anyBell s.dev = true ∨ everLocked s.dev = true := by
    unfold mayStepBack
    rw [Bool.and_eq_false_iff, Bool.not_eq_false', Bool.not_eq_false']
  have heq : setCampus s.dev v =
      if v.toNat < s.dev.ns ∧ (anyBell s.dev = true ∨ everLocked s.dev = true) then s.dev
      else if timeSrc s.dev = 2 ∧ everLocked s.dev = false then { s.dev with fab.setNext := some v.toNat }
      else if timeIn s.dev .freeRun = true then stepTime s.dev v.toNat else s.dev := by
    unfold setCampus
    simp only [hback]
  dsimp only
  generalize setCampus s.dev v = d at heq ⊢
  by_cases hbefore : v.toNat < s.dev.ns ∧ (anyBell s.dev = true ∨ everLocked s.dev = true)
  · rw [if_pos hbefore] at heq ⊢
    exact heq
  rw [if_neg hbefore] at heq ⊢
  by_cases hpps : timeSrc s.dev = 2 ∧ everLocked s.dev = false
  · rw [if_pos hpps] at heq ⊢
    exact heq
  rw [if_neg hpps] at heq ⊢
  by_cases hfree : timeIn s.dev .freeRun = true
  · rw [if_pos hfree] at heq ⊢
    exact ⟨heq, by rw [heq]; rfl, by rw [heq]; rfl⟩
  · rw [if_neg hfree] at heq ⊢
    exact heq

theorem completes_timeHoldover : Completes (.timeHoldover now) s fun d =>
    let d0 := advanceTo s.dev now
    d = if timeIn s.dev .locked = true ∧
      d0.fab.measuredAt + 8 * (if timeSrc s.dev = 2 then 1000000000 else s.dev.fab.interval) ≤ d0.clock then
        rsetf d0 .fabTimeStatus 0 0 1 0 3 else s.dev := by
  refine completes_onDev hl rfl ?_
  simp only [timeIn_of_regs (advanceTo_regs s.dev now), timeSrc_of_regs (advanceTo_regs s.dev now),
    advanceTo_interval]
  rfl

theorem completes_ppsOutPulse : Completes (.ppsOutPulse now) s fun d =>
    let d0 := advanceTo s.dev now
    d = { d0 with fab := { d0.fab with ppsOut := d.fab.ppsOut } } ∧
      (d.fab.ppsOut = true ↔ wbit (rget d0 .fabTimeCtl) 3 = true ∧
        (timeIn d0 .locked = true ∨ timeIn d0 .holdover = true) ∧ d0.ns % 1000000000 < 10000000) := by
  refine completes_onDev hl (show _ = execPpsOutPulse now s from rfl) ?_
  dsimp only
  refine ⟨rfl, ?_⟩
  simp only [Bool.and_eq_true, Bool.or_eq_true, decide_eq_true_eq, and_assoc]

theorem completes_departureBell (p : Nat) : Completes (.departureBell p now) s fun d =>
    let d0 := advanceTo s.dev now
    match (fabPart d0 p).bell with
    | some b =>
      if b.time b.next ≤ d0.ns ∧ inTurnAt d0 (b.time b.next) .bell = true then
        d = semAdd (setFabPart d0 p { fabPart d0 p with
          bell := some { b with next := (b.next + 1) % 2 ^ 32 }, lastBell := some (b.time b.next).toNat }) b.sem 1 ∧
        semAt d b.sem = semAt s.dev b.sem + 1 ∧ (∀ n, n ≠ b.sem → semAt d n = semAt s.dev n)
      else d = s.dev
    | none => d = s.dev := by
  refine completes_onDev hl (show _ = execDepartureBell p now s from rfl) ?_
  dsimp only
  cases hb : (fabPart (advanceTo s.dev now) p).bell with
  | none => rfl
  | some b =>
    dsimp only
    split
    · have hsem (x : FabPart) (n : Nat) : semAt (setFabPart (advanceTo s.dev now) p x) n = semAt s.dev n :=
        semAt_of_hub ((setFabPart_hub _ _ _).trans (advanceTo_hub _ _)) n
      refine ⟨rfl, ?_, fun n hn => ?_⟩
      · rw [semAt_semAdd, if_pos rfl, hsem]
      · rw [semAt_semAdd, if_neg hn, hsem]
    · rfl

end Rows

theorem completes_ptp {s : State} {now port : Nat} {trailer : Word} {f : Frame} {d1 : Dev}
    (ht : Taken s now port trailer f d1) (hk : isCtl 0x20 f = true) (kind domain seq time : Nat) (corr interval : Int)
    (two : Bool) : Completes (.ptp now port trailer f kind domain seq time corr two interval) s fun d =>
      let p := partOfPort d1 port
      d = if chipIdValid d1 p = false ∨ f.dst ≠ chipId d1 p ∨ timeSrc d1 ≠ 1 ∨
          port ≠ rfield d1 .fabTimeCtl 0 0 20 16 ∨ domain ≠ rfield d1 .fabTimeCtl 0 0 15 8 then d1
        else takePtp d1 p f.src port kind seq time corr two interval := by
  refine completes_control ht (show _ = execPtp now port trailer f kind domain seq time corr two interval s from rfl) hk ?_
  dsimp only
  by_cases hid : chipIdValid d1 (partOfPort d1 port) = true ∧ f.dst = chipId d1 (partOfPort d1 port)
  · obtain ⟨hv, hd⟩ := hid
    by_cases hsrc : timeSrc d1 = 1 ∧ port = rfield d1 .fabTimeCtl 0 0 20 16 ∧ domain = rfield d1 .fabTimeCtl 0 0 15 8
    · obtain ⟨hs, hport, hdomain⟩ := hsrc
      rw [if_pos ⟨hv, hd⟩, if_pos ⟨hs, hport, hdomain⟩, if_neg]
      rintro (h | h | h | h | h)
      exacts [Bool.noConfusion (hv.symm.trans h), h hd, h hs, h hport, h hdomain]
    · rw [if_pos ⟨hv, hd⟩, if_neg hsrc, if_pos]
      tauto
  · rw [if_neg hid, if_pos]
    rw [not_and_or, Bool.not_eq_true] at hid
    tauto

/-- Settles O36: the measurement by how it begins and whether the clock acquires, PTP by its kinds, each other row by its
cases. -/
theorem campusTime : Obligations.CampusTime := by
  unfold Obligations.CampusTime
  intro s now d0 off
  refine ⟨fun hl => completes_ppsInEdge hl now, ?_, ?_, fun hl => ⟨completes_fabTimeSet hl,
    completes_onDev hl (show _ = execFabTimeNsRead s from rfl) rfl, completes_timeHoldover hl now,
    completes_ppsOutPulse hl now, completes_departureBell hl now,
    completes_onDev hl (show _ = execTelemetrySample now s from rfl) rfl⟩⟩
  · intro d x
    have hframe := measure_frame d x
    have hfreq := hframe.freq_eq ▸ correctionOf_le (freeW d).1
    refine ⟨measure_shown d x, hframe.dev, hframe.fab, measure_onlyTimeStatus d x, hfreq.1, hfreq.2,
      fun hacq => measure_acquires d x ?_, measure_locked d x⟩
    unfold startsAcquiring
    rwa [Bool.or_eq_true, or_assoc]
  · intro port trailer f d1 ht hk p kind domain seq time corr interval two
    obtain ⟨t, hexec, hpending, hfuses, ht⟩ := completes_ptp ht hk kind domain seq time corr interval two
    refine ⟨t, hexec, hpending, hfuses, ?_⟩
    dsimp only at ht ⊢
    generalize t.dev = d at ht ⊢
    by_cases hother : chipIdValid d1 p = false ∨ f.dst ≠ chipId d1 p ∨ timeSrc d1 ≠ 1 ∨
        port ≠ rfield d1 .fabTimeCtl 0 0 20 16 ∨ domain ≠ rfield d1 .fabTimeCtl 0 0 15 8
    · rw [if_pos hother] at ht ⊢
      exact ht
    rw [if_neg hother] at ht ⊢
    split
    · rw [takePtp_sync] at ht
      generalize 1000000000 / 2 ^ interval.natAbs = period at ht ⊢
      dsimp only at ht
      by_cases hi : interval < -7 ∨ 0 < interval
      · rw [if_pos hi] at ht ⊢
        exact ht
      rw [if_neg hi] at ht ⊢
      by_cases htwo : two = true
      · rw [if_pos htwo] at ht ⊢
        exact ht
      · rw [if_neg htwo] at ht ⊢
        exact ht
    · rw [takePtp_followUp] at ht
      cases hsync : d1.fab.sync with
      | none =>
        rw [hsync] at ht
        exact ht
      | some y =>
        obtain ⟨n, here, c⟩ := y
        rw [hsync] at ht
        dsimp only at ht ⊢
        by_cases hn : n = seq
        · rw [if_pos hn] at ht ⊢
          exact ht
        · rw [if_neg hn] at ht ⊢
          exact ht
    · rw [takePtp_delayResp] at ht
      cases hsync : d1.fab.sync with
      | none =>
        rw [hsync] at ht
        exact ht
      | some y =>
        obtain ⟨_, here, t1⟩ := y
        cases hreq : d1.fab.delayReq with
        | none =>
          rw [hsync, hreq] at ht
          exact ht
        | some z =>
          obtain ⟨n, t3⟩ := z
          rw [hsync, hreq] at ht
          dsimp only at ht ⊢
          by_cases hn : n = seq
          · rw [if_pos hn] at ht ⊢
            rw [← hsync]
            exact ht
          · rw [if_neg hn] at ht ⊢
            exact ht
    · exact ht.trans (takePtp_of_unlisted _ _ _ _ _ _ _ _ _ ‹_› ‹_› ‹_›)

end Sys2Proof.Machine
end

section
/-!
PROOF. The link level: frames in order, copies and gaps, credits, acknowledgements and LINK_INIT (R273, R275, R277): O32.
-/

namespace Sys2Proof.Machine

/-! ### Every row of a frame -/

/-- The rows of CONTROL frames on an UP port, each with whether it is the row of frame `f`. -/
noncomputable def controlRows (now port : Nat) (trailer : Word) (f : Frame) (a b c k e : Nat) (z : Int) (two : Bool) (lst : List Nat)
    (ws rs : List (Nat × Nat × Nat)) : List (Instr × Bool) :=
  [(.caravanCredit now port trailer f a b c, isCtl 2 f), (.linkAck now port trailer f, isCtl 3 f),
    (.flowOpen now port trailer f, isCtl 0x10 f), (.flowAccept now port trailer f, isCtl 0x11 f),
    (.ack now port trailer f, isCtl 0x12 f), (.status now port trailer f, isCtl 0x13 f),
    (.ptp now port trailer f a b c k z two e, isCtl 0x20 f), (.idAssign now port trailer f a b, isCtl 0x30 f),
    (.memberLost now port trailer f a, isCtl 0x31 f), (.memberReplace now port trailer f a b c, isCtl 0x32 f),
    (.fenceClear now port trailer f a, isCtl 0x33 f), (.shareSet now port trailer f lst ws, isCtl 0x34 f),
    (.routeSet now port trailer f rs, isCtl 0x35 f), (.bellShift now port trailer f a z, isCtl 0x36 f),
    (.controlIgnored now port trailer f, f.type == 6 && !listedCtl.contains (f.area % 256))]

/-- `r` is the row of an arriving frame: what the link level takes goes to the row's act. -/
def IsFrameRow (now port : Nat) (trailer : Word) (f : Frame) (r : Instr × Bool) : Prop :=
  ∃ (kind : Frame → Bool) (act : Dev → Dev), kind f = r.2 ∧
    ∀ s, exec r.1 s = onDev s fun d => onFrame d now port trailer f kind act

theorem controlRows_isFrameRow {now port : Nat} {trailer : Word} {f : Frame} {a b c k e : Nat} {z : Int} {two : Bool}
    {lst : List Nat} {ws rs : List (Nat × Nat × Nat)} {r : Instr × Bool}
    (h : r ∈ controlRows now port trailer f a b c k e z two lst ws rs) : IsFrameRow now port trailer f r := by
  simp only [controlRows, List.mem_cons, List.not_mem_nil, or_false] at h
  rcases h with rfl | rfl | rfl | rfl | rfl | rfl | rfl | rfl | rfl | rfl | rfl | rfl | rfl | rfl | rfl
  · exact ⟨isCtl 2, _, rfl, fun _ => rfl⟩
  · exact ⟨isCtl 3, _, rfl, fun _ => rfl⟩
  · exact ⟨isCtl 0x10, _, rfl, fun _ => rfl⟩
  · exact ⟨isCtl 0x11, _, rfl, fun _ => rfl⟩
  · exact ⟨isCtl 0x12, _, rfl, fun _ => rfl⟩
  · exact ⟨isCtl 0x13, _, rfl, fun _ => rfl⟩
  · exact ⟨isCtl 0x20, _, rfl, fun _ => rfl⟩
  · exact ⟨isCtl 0x30, _, rfl, fun _ => rfl⟩
  · exact ⟨isCtl 0x31, _, rfl, fun _ => rfl⟩
  · exact ⟨isCtl 0x32, _, rfl, fun _ => rfl⟩
  · exact ⟨isCtl 0x33, _, rfl, fun _ => rfl⟩
  · exact ⟨isCtl 0x34, _, rfl, fun _ => rfl⟩
  · exact ⟨isCtl 0x35, _, rfl, fun _ => rfl⟩
  · exact ⟨isCtl 0x36, _, rfl, fun _ => rfl⟩
  · exact ⟨fun f => f.type == 6 && !listedCtl.contains (f.area % 256), _, rfl, fun _ => rfl⟩

theorem packetRows_isFrameRow {now port : Nat} {trailer : Word} {f : Frame} {r : Instr × Bool}
    (h : r ∈ packetRows now port trailer f) : IsFrameRow now port trailer f r := by
  obtain ⟨kind, hkind, hexec⟩ := packetRows_exec h
  exact ⟨kind, fun d => packetIn d port f, hkind, hexec⟩

/-! ### What the link level does with a frame -/

section LinkIn

variable {d : Dev} {i : Nat} {trailer : Word} {f : Frame}

/-- Where a frame stands before or after the next in order: 0 is the next, from 2^15 on a copy of one taken. -/
def lseqAhead (d : Dev) (i : Nat) (trailer : Word) : Nat := (wbits trailer 15 0 + 65536 - (portAt d i).rxSeq) % 65536

/-- A bad frame, and one after a gap, is dropped with a NAK of the next LSEQ. -/
theorem linkIn_dropped (h : frameSound f trailer = false ∨ (lseqAhead d i trailer ≠ 0 ∧ lseqAhead d i trailer < 32768)) :
    linkIn d i trailer f = (false, sendLinkNak d i (portAt d i).rxSeq) := by
  unfold linkIn
  by_cases hs : frameSound f trailer = false
  · exact if_pos hs
  · obtain ⟨hne, hlt⟩ := h.resolve_left hs
    refine (if_neg hs).trans ((if_neg hne).trans (if_neg ?_))
    exact Nat.not_le.2 hlt

/-- A copy of a frame taken is acknowledged again, but for a LINK_ACK, and dropped. -/
theorem linkIn_copy (hs : frameSound f trailer = true) (h : 32768 ≤ lseqAhead d i trailer) :
    linkIn d i trailer f =
      (false, if isCtl 3 f then d else sendLinkAck d i ((portAt d i).rxSeq + 65535)) := by
  have hne : lseqAhead d i trailer ≠ 0 := by omega
  have hsound : ¬ frameSound f trailer = false := by simp [hs]
  unfold linkIn
  exact (if_neg hsound).trans ((if_neg hne).trans (if_pos h))

/-- The next good frame is taken, acknowledged, but for a LINK_ACK, and its credit returned, but for a link-scope
one. -/
theorem linkIn_next (hs : frameSound f trailer = true) (h : lseqAhead d i trailer = 0) :
    linkIn d i trailer f = (true,
      let next := setPort d i { portAt d i with rxSeq := ((portAt d i).rxSeq + 1) % 65536 }
      let d1 := if isCtl 3 f then next else sendLinkAck next i (wbits trailer 15 0)
      if f.type = 6 ∧ f.area % 256 ∈ [1, 2, 3] then d1 else sendCredit d1 i f.vc (f.payload.length / 64 + 1)) := by
  have hscope : linkScope f = true ↔ f.type = 6 ∧ f.area % 256 ∈ [1, 2, 3] := by
    simp only [linkScope, isCtl, Bool.or_eq_true, Bool.and_eq_true, beq_iff_eq, List.mem_cons, List.not_mem_nil,
      or_false, ← and_or_left, or_assoc]
  have hsound : ¬ frameSound f trailer = false := by simp [hs]
  unfold linkIn
  refine (if_neg hsound).trans ((if_pos h).trans ?_)
  dsimp only
  unfold returnCredit
  simp only [hscope]
  rfl

/-- A CREDIT that is the next good frame is acknowledged. -/
theorem linkIn_next_credit (hs : frameSound f trailer = true) (h : lseqAhead d i trailer = 0) (hk : isCtl 2 f = true) :
    linkIn d i trailer f = (true,
      sendLinkAck (setPort d i { portAt d i with rxSeq := ((portAt d i).rxSeq + 1) % 65536 }) i
        (wbits trailer 15 0)) := by
  obtain ⟨htype, hsub⟩ : f.type = 6 ∧ f.area % 256 = 2 := by simpa [isCtl] using hk
  have hack : ¬ isCtl 3 f = true := by simp [isCtl, hsub]
  rw [linkIn_next hs h]
  dsimp only
  rw [if_neg hack, if_pos ⟨htype, by simp [hsub]⟩]

/-- A LINK_ACK that is the next good frame is taken, and nothing leaves. -/
theorem linkIn_next_ack (hs : frameSound f trailer = true) (h : lseqAhead d i trailer = 0) (hk : isCtl 3 f = true) :
    linkIn d i trailer f =
      (true, setPort d i { portAt d i with rxSeq := ((portAt d i).rxSeq + 1) % 65536 }) := by
  obtain ⟨htype, hsub⟩ : f.type = 6 ∧ f.area % 256 = 3 := by simpa [isCtl] using hk
  rw [linkIn_next hs h]
  dsimp only
  rw [if_pos hk, if_pos ⟨htype, by simp [hsub]⟩]

end LinkIn

/-! ### The rows -/

section Rows

variable {s : State} {now port : Nat} {trailer : Word} {f : Frame}

/-- A frame of another kind, and one on a port that is not UP, does nothing. -/
theorem completes_frame_ignored (hl : Live s) {r : Instr × Bool} (hr : IsFrameRow now port trailer f r)
    (h : ¬ (port < 32 ∧ portIn s.dev port .up = true) ∨ r.2 = false) : Completes r.1 s fun d => d = s.dev := by
  obtain ⟨kind, act, hkind, hexec⟩ := hr
  refine completes_onDev hl (hexec s) (if_neg ?_)
  rintro ⟨hp, hu, hk⟩
  rcases h with h | h
  · exact h ⟨hp, hu⟩
  · rw [hkind, h] at hk
    cases hk

/-- A frame that the link level drops does no more than that. -/
theorem completes_frame_dropped (hl : Live s) {r : Instr × Bool} (hr : IsFrameRow now port trailer f r)
    (hup : port < 32 ∧ portIn s.dev port .up = true) (hk : r.2 = true) {d1 : Dev}
    (h : linkIn (advanceTo s.dev now) port trailer f = (false, d1)) : Completes r.1 s fun d => d = d1 := by
  obtain ⟨kind, act, hkind, hexec⟩ := hr
  refine completes_onDev hl (hexec s) ?_
  unfold onFrame
  rw [if_pos ⟨hup.1, hup.2, hkind.trans hk⟩, h]

end Rows

/-- Settles O32: every row of a frame by what the link level answers to it, CREDIT and LINK_ACK by what they do with the
frame taken, LINK_INIT by its row. -/
theorem linkLevel : Obligations.LinkLevel := by
  unfold Obligations.LinkLevel
  intro s now port trailer f hl d0 x lseq ahead sound next up
  refine ⟨?_, fun hs ha => linkIn_next hs ha, ?_, ?_, ?_⟩
  · intro a b c k e z two lst ws rs r hr
    have hrow : IsFrameRow now port trailer f r := by
      rcases List.mem_append.1 hr with hr | hr
      · exact packetRows_isFrameRow hr
      · exact controlRows_isFrameRow hr
    exact ⟨completes_frame_ignored hl hrow,
      fun hup hk h => completes_frame_dropped hl hrow hup hk (linkIn_dropped h),
      fun hup hk hs ha => completes_frame_dropped hl hrow hup hk (linkIn_copy hs ha)⟩
  · exact fun hup hs ha c0 c1 c2 hk =>
      completes_taken ⟨hl, hup.1, hup.2, linkIn_next_credit hs ha hk⟩ rfl hk rfl
  · exact fun hup hs ha hk => completes_taken ⟨hl, hup.1, hup.2, linkIn_next_ack hs ha hk⟩ rfl hk rfl
  · intro c0 c1 c2
    refine completes_onDev hl (show _ = execLinkInit now port trailer f c0 c1 c2 s from rfl) ?_
    dsimp only
    by_cases h : port < 32 ∧ portIn s.dev port .training = true ∧ isCtl 1 f = true
    · rw [if_pos h, if_pos h]
      cases linkIn d0 port trailer f with
      | mk taken d1 =>
        cases taken with
        | false => rfl
        | true => exact ⟨(freeW d1).1, rfl⟩
    · rw [if_neg h, if_neg h]

end Sys2Proof.Machine
end

section
/-!
PROOF. Flows: FLOW_OPEN, FLOW_ACCEPT, ACK, STATUS, and the timers at either end (R278, R279, R283, R284): O33.
-/

namespace Sys2Proof.Machine

/-! ### Control frames of a flow -/

section Control

variable {s : State} {now port : Nat} {trailer : Word} {f : Frame} {d1 : Dev} (ht : Taken s now port trailer f d1)
include ht

/-- The row of an end-to-end CONTROL frame: a frame for another chip ID does nothing above the link level. -/
theorem completes_control_cases {i : Instr} {sub : Nat} {act : Nat → Dev → Dev} {P : Dev → Prop}
    (hi : exec i s = onControl now port trailer f sub act s) (hk : isCtl sub f = true)
    (hp : P (act (partOfPort d1 port) d1)) : Completes i s fun d =>
      if ¬ (chipIdValid d1 (partOfPort d1 port) = true ∧ f.dst = chipId d1 (partOfPort d1 port)) then d = d1
      else P d := by
  refine completes_control ht hi hk ?_
  by_cases h : chipIdValid d1 (partOfPort d1 port) = true ∧ f.dst = chipId d1 (partOfPort d1 port)
  · rw [if_pos h, if_neg (not_not.2 h)]
    exact hp
  · rw [if_neg h, if_pos h]

end Control

/-! ### The timers -/

section Timers

variable {s : State} (hl : Live s) (p peer now : Nat)
include hl

theorem completes_flowRetire_tx : Completes (.flowRetire p peer true now) s fun d =>
    let d0 := advanceTo s.dev now
    match findTx d0 p peer with
    | some x => d = if x.state = .ready ∧ x.pkts = [] ∧ x.usedAt + 100000000 ≤ d0.clock then
        pump { d0 with fab.tx := d0.fab.tx.filter fun y => !(y.part == p && y.dst == peer) } else s.dev
    | none => d = s.dev := by
  refine completes_onDev hl (show _ = execFlowRetire p peer true now s from rfl) ?_
  dsimp only
  rw [if_pos rfl]
  cases findTx (advanceTo s.dev now) p peer with
  | none => rfl
  | some x => simp only [decide_eq_true_eq]

theorem completes_flowRetire_rx : Completes (.flowRetire p peer false now) s fun d =>
    let d0 := advanceTo s.dev now
    match findRx d0 p peer with
    | some x => d = if x.waiting = [] ∧ x.usedAt + 100000000 ≤ d0.clock then
        openWaiting { d0 with fab.rx := d0.fab.rx.filter fun y => !(y.part == p && y.src == peer) } else s.dev
    | none => d = s.dev := by
  refine completes_onDev hl (show _ = execFlowRetire p peer false now s from rfl) ?_
  dsimp only
  rw [if_neg Bool.false_ne_true]
  cases findRx (advanceTo s.dev now) p peer with
  | none => rfl
  | some x => simp only [decide_eq_true_eq]

theorem completes_retransmitTimeout (fseq : Nat) : Completes (.retransmitTimeout p peer fseq now) s fun d =>
    let d0 := advanceTo s.dev now
    match findTx d0 p peer with
    | none => d = s.dev
    | some x =>
      if x.state = .opening then
        if d0.clock < x.openedAt + 2000000 then d = s.dev
        else if 8 ≤ x.opens then d = dropFlow d0 p peer 0x0601
        else d = sendCtl (updTx d0 p peer fun y => { y with openedAt := d0.clock, opens := y.opens + 1 }) p peer 0x10
          (x.inc + x.firstSeq * 2 ^ 32) []
      else match x.pkts.find? fun y => y.frame.fseq == fseq && y.sent with
        | none => d = s.dev
        | some y =>
          if d0.clock < y.sentAt + x.timeout then d = s.dev
          else if 8 ≤ y.tries then d = dropFlow d0 p peer 0x0601
          else d = (resend d0 x y).getD s.dev := by
  refine completes_onDev hl (show _ = execRetransmitTimeout p peer fseq now s from rfl) ?_
  dsimp only
  cases findTx (advanceTo s.dev now) p peer with
  | none => rfl
  | some x =>
    dsimp only
    by_cases hopening : x.state = .opening
    · rw [if_pos hopening, if_pos hopening]
      by_cases hdue : (advanceTo s.dev now).clock < x.openedAt + 2000000
      · rw [if_pos hdue, if_neg (Nat.not_le.2 hdue)]
      · rw [if_neg hdue, if_pos (Nat.not_lt.1 hdue)]
        by_cases hgiven : 8 ≤ x.opens
        · rw [if_pos hgiven, if_pos hgiven]
          rfl
        · rw [if_neg hgiven, if_neg hgiven]
    · rw [if_neg hopening, if_neg hopening]
      cases x.pkts.find? fun y => y.frame.fseq == fseq && y.sent with
      | none => rfl
      | some y =>
        dsimp only
        by_cases hdue : (advanceTo s.dev now).clock < y.sentAt + x.timeout
        · rw [if_pos hdue, if_neg (Nat.not_le.2 hdue)]
        · rw [if_neg hdue, if_pos (Nat.not_lt.1 hdue)]
          by_cases hgiven : 8 ≤ y.tries
          · rw [if_pos hgiven, if_pos hgiven]
            rfl
          · rw [if_neg hgiven, if_neg hgiven]

end Timers

/-- Settles O33: the control frames by their rows, which act for the partition's own chip ID; the timers by the cases of
the flow that they find. -/
theorem flowsOpenAndAnswer : Obligations.FlowsOpenAndAnswer := by
  unfold Obligations.FlowsOpenAndAnswer
  intro s now hl d0
  refine ⟨?_, ?_⟩
  · intro port trailer f d1 ht p mine inc first
    refine ⟨fun hk => ?_, fun hk => ?_, fun hk => ?_, fun hk => ?_⟩
    · refine completes_control_cases ht (show _ = execFlowOpen now port trailer f s from rfl) hk ?_
      dsimp only
      unfold openRx
      dsimp only
      split
      · rfl
      · rfl
    · exact completes_control_cases ht (show _ = execFlowAccept now port trailer f s from rfl) hk rfl
    · exact completes_control_cases ht (show _ = execStatus now port trailer f s from rfl) hk rfl
    · refine completes_control_cases ht (show _ = execAck now port trailer f s from rfl) hk ?_
      dsimp only
      unfold takeAck
      cases findTx d1 p f.src with
      | none => rfl
      | some x => rfl
  · exact fun p peer => ⟨completes_flowRetire_tx hl p peer now, completes_flowRetire_rx hl p peer now,
      completes_retransmitTimeout hl p peer now,
      completes_onDev hl (show _ = execNoRoute p peer now s from rfl) rfl⟩

end Sys2Proof.Machine
end

section
/-!
PROOF. Messages of the fabric manager (R273, R274, R287, R288, R292, R293, R302): O34.
-/

namespace Sys2Proof.Machine

/-! ### The row of a manager's message -/

section Manager

variable {s : State} {now port : Nat} {trailer : Word} {f : Frame} {d1 : Dev} (ht : Taken s now port trailer f d1)
include ht

/-- A message of the manager does what its act does. -/
theorem completes_manager (hm : 0xFFF00 ≤ f.src) {i : Instr} {sub : Nat} {act : Nat → Dev → Dev} {P : Dev → Prop}
    (hi : exec i s = onManager now port trailer f sub act s) (hk : isCtl sub f = true)
    (hp : P (act (partOfPort d1 port) d1)) : Completes i s P := by
  refine completes_taken ht hi hk ?_
  rw [if_pos hm]
  exact hp

/-- A message from a source that is no manager is ignored and counted. -/
theorem completes_not_manager (hm : f.src < 0xFFF00) {i : Instr} {sub : Nat} {act : Nat → Dev → Dev}
    (hi : exec i s = onManager now port trailer f sub act s) (hk : isCtl sub f = true) :
    Completes i s fun d => d = countIgnored d1 := by
  refine completes_taken ht hi hk ?_
  rw [if_neg (Nat.not_le.2 hm)]

end Manager

/-! ### ID_ASSIGN -/

theorem partOfQuarter_lt (d : Dev) {q : Nat} (h : q < 4) : partOfQuarter d q < 4 := by
  unfold partOfQuarter
  split
  · omega
  · omega
  · exact h

/-- The identity of a partition moves no port to another one. -/
theorem portsOf_rset_fabId (d : Dev) {p : Nat} (hp : p < 1024) (v : Word) (q : Nat) :
    portsOf (rset d .fabId 0 p v) q = portsOf d q := by
  have hkey : Reg.chipPartStatus.key 0 0 ≠ Reg.fabId.key 0 p :=
    key_ne (by decide) (by decide) (by decide) hp (.inl (by decide))
  have hlayout : layout (rset d .fabId 0 p v) = layout d := rfield_rset_other _ _ _ _ _ _ _ _ _ _ hkey
  unfold portsOf partOfPort partOfQuarter
  rw [hlayout]

/-! ### MEMBER_LOST -/

theorem fabPart_of_fab {d e : Dev} (h : e.fab = d.fab) (p : Nat) : fabPart e p = fabPart d p := by
  unfold fabPart
  rw [h]

theorem fenced_of_fab {d e : Dev} (h : e.fab = d.fab) (p chip : Nat) : fenced e p chip = fenced d p chip := by
  unfold fenced
  rw [fabPart_of_fab h]

theorem rcount_fab (d : Dev) (r : Reg) (n i hi lo k : Nat) : (rcount d r n i hi lo k).fab = d.fab := rset_fab _ _ _ _ _

theorem foldl_fab {α : Type} {g : Dev → α → Dev} (hg : ∀ d a, (g d a).fab = d.fab) (xs : List α) (d : Dev) :
    (xs.foldl g d).fab = d.fab := by
  induction xs generalizing d with
  | nil => rfl
  | cons x xs ih => exact (ih _).trans (hg d x)

theorem markLost_fab (d : Dev) (p chip : Nat) : (markLost d p chip).fab = d.fab := rfl

theorem returnArrivals_fab (d : Dev) (p chip : Nat) : (returnArrivals d p chip).fab = d.fab := by
  unfold returnArrivals
  refine foldl_fab (fun d e => ?_) _ _
  dsimp only
  refine (rcount_fab _ _ _ _ _ _ _).trans ?_
  exact foldl_fab (g := fun d f => setFrame d f { frameAt d f with state := .banked }) (fun _ _ => rfl) _ d

/-- An ID that is fenced joins the list, in place of the oldest entry in no group where the list is full, or
overflows it. -/
theorem fenceChip_eq (d : Dev) (p chip : Nat) : fenceChip d p chip =
    let q := fabPart d p
    setFabPart d p (
      if q.fence.length < 4096 then { q with fence := q.fence ++ [chip] }
      else match q.fence.find? fun x => !inGroups d p x with
        | some old => { q with fence := q.fence.erase old ++ [chip] }
        | none => { q with overflow := true, beyond := q.beyond ++ [chip] }) := by
  unfold fenceChip
  dsimp only
  by_cases h : (fabPart d p).fence.length < 4096
  · rw [if_pos h, if_pos h]
  · rw [if_neg h, if_neg h]
    cases (fabPart d p).fence.find? fun x => !inGroups d p x with
    | none => rfl
    | some old => rfl

theorem memberLost_of_fenced {d : Dev} {p chip : Nat} (h : fenced d p chip = true) :
    memberLost p chip d = rcount d .fabFence 0 p 31 16 1 :=
  if_pos ((fenced_of_fab (rcount_fab _ _ _ _ _ _ _) p chip).trans h)

theorem memberLost_of_not_fenced {d : Dev} {p chip : Nat} (h : fenced d p chip = false) : memberLost p chip d =
    let d3 := returnArrivals (markLost (rcount d .fabFence 0 p 31 16 1) p chip) p chip
    refuseShut (failStrict (failLost (editMembers (fenceChip d3 p chip) p chip (withState 1)) p chip) p) p := by
  have hf : ¬ fenced (rcount d .fabFence 0 p 31 16 1) p chip = true := by
    rw [fenced_of_fab (rcount_fab _ _ _ _ _ _ _), h]
    exact Bool.false_ne_true
  exact if_neg hf

/-! ### SHARE_SET -/

/-- A port's new ceiling, with its bucket brought up to now. -/
def capPort (d : Dev) (e : Nat × Nat) : Dev :=
  let x := portAt d e.1
  setPort d e.1 { x with ceiling := e.2, bucket := ⟨x.bucket.now x.rate d.clock, d.clock⟩ }

theorem portAt_setPort (d : Dev) (i j : Nat) (x : Port) : portAt (setPort d i x) j = if j = i then x else portAt d j :=
  mget_mset _ _ _ _ _

theorem capPorts_frame (es : List (Nat × Nat)) (d : Dev) :
    es.foldl capPort d = { d with fab := { d.fab with ports := (es.foldl capPort d).fab.ports } } := by
  induction es generalizing d with
  | nil => rfl
  | cons e es ih =>
    have h := ih (capPort d e)
    rw [List.foldl_cons]
    generalize es.foldl capPort (capPort d e) = d' at h ⊢
    exact h

theorem portAt_capPorts_other {i : Nat} (es : List (Nat × Nat)) (d : Dev) (h : i ∉ es.map Prod.fst) :
    portAt (es.foldl capPort d) i = portAt d i := by
  induction es generalizing d with
  | nil => rfl
  | cons e es ih =>
    rw [List.map_cons, List.mem_cons, not_or] at h
    obtain ⟨hne, hes⟩ := h
    rw [List.foldl_cons, ih _ hes]
    unfold capPort
    rw [portAt_setPort, if_neg hne]

/-- Each port of the list gets its own ceiling. -/
theorem portAt_capPorts {e : Nat × Nat} (es : List (Nat × Nat)) (d : Dev) (hn : (es.map Prod.fst).Nodup) (he : e ∈ es) :
    portAt (es.foldl capPort d) e.1 = { portAt d e.1 with
      ceiling := e.2, bucket := ⟨(portAt d e.1).bucket.now (portAt d e.1).rate d.clock, d.clock⟩ } := by
  induction es generalizing d with
  | nil => cases he
  | cons a es ih =>
    rw [List.map_cons, List.nodup_cons] at hn
    obtain ⟨hnot, hn⟩ := hn
    rw [List.foldl_cons]
    rcases List.mem_cons.1 he with rfl | he
    · rw [portAt_capPorts_other _ _ hnot]
      unfold capPort
      rw [portAt_setPort, if_pos rfl]
    · have hne : e.1 ≠ a.1 := fun h => hnot (h ▸ List.mem_map_of_mem he)
      have hport : portAt (capPort d a) e.1 = portAt d e.1 := by
        unfold capPort
        rw [portAt_setPort, if_neg hne]
      have hclock : (capPort d a).clock = d.clock := rfl
      rw [ih _ hn he, hport, hclock]

theorem portsOf_nodup (d : Dev) (p : Nat) : (portsOf d p).Nodup := List.nodup_range.filter _

/-- Port `i` of the list gets ceiling `i`. -/
theorem portAt_capPorts_getD (d : Dev) {ports ceilings : List Nat} (hn : ports.Nodup)
    (hlen : ceilings.length = ports.length) {i : Nat} (hi : i < ports.length) :
    portAt ((ports.zip ceilings).foldl capPort d) (ports.getD i 0) = { portAt d (ports.getD i 0) with
      ceiling := ceilings.getD i 0
      bucket := ⟨(portAt d (ports.getD i 0)).bucket.now (200 * (portAt d (ports.getD i 0)).ceiling) d.clock, d.clock⟩ } := by
  have hfst : (ports.zip ceilings).map Prod.fst = ports := List.map_fst_zip hlen.ge
  have hmem : (ports.getD i 0, ceilings.getD i 0) ∈ ports.zip ceilings := by
    have hi' : i < ceilings.length := hlen ▸ hi
    rw [List.getD_eq_getElem _ _ hi, List.getD_eq_getElem _ _ hi', ← List.getElem_zip (h := by simp [hi, hi'])]
    exact List.getElem_mem _
  exact portAt_capPorts _ d (hfst.symm ▸ hn) hmem

theorem completes_shareSet {s : State} {now port : Nat} {trailer : Word} {f : Frame} {d1 : Dev}
    (ht : Taken s now port trailer f d1) (hm : 0xFFF00 ≤ f.src) (hk : isCtl 0x34 f = true) (ceilings : List Nat)
    (wraps : List (Nat × Nat × Nat)) : Completes (.shareSet now port trailer f ceilings wraps) s fun d =>
      let p := partOfPort d1 port
      let ports := portsOf d1 p
      if ceilings.length = ports.length ∧ (∀ c ∈ ceilings, 1 ≤ c ∧ c ≤ 256) ∧ wraps.length ≤ 64 then
        d = pump (setFabPart ((ports.zip ceilings).foldl capPort d1) p { fabPart d1 p with
          wraps := wraps.map fun w => ⟨w.1, w.2.1, w.2.2, ⟨2 ^ 26, d1.clock⟩⟩ })
      else d = countIgnored d1 := by
  refine completes_manager ht hm (show _ = execShareSet now port trailer f ceilings wraps s from rfl) hk ?_
  have hall : (ceilings.all fun c => decide (1 ≤ c ∧ c ≤ 256)) = true ↔ ∀ c ∈ ceilings, 1 ≤ c ∧ c ≤ 256 := by
    simp only [List.all_eq_true, decide_eq_true_eq]
  have hcap : ∀ e : List (Nat × Nat), e.foldl (fun d e =>
      let x := portAt d e.1
      setPort d e.1 { x with ceiling := e.2, bucket := ⟨x.bucket.now x.rate d.clock, d.clock⟩ }) d1 =
      e.foldl capPort d1 := fun _ => rfl
  dsimp only at hcap ⊢
  rw [hcap]
  have hframe := capPorts_frame ((portsOf d1 (partOfPort d1 port)).zip ceilings) d1
  by_cases h : ceilings.length = (portsOf d1 (partOfPort d1 port)).length ∧ (∀ c ∈ ceilings, 1 ≤ c ∧ c ≤ 256) ∧
      wraps.length ≤ 64
  · obtain ⟨hlen, hrange, hwraps⟩ := h
    rw [if_pos ⟨hlen, hrange, hwraps⟩, if_pos ⟨hlen, hall.2 hrange, hwraps⟩]
    generalize ((portsOf d1 (partOfPort d1 port)).zip ceilings).foldl capPort d1 = d2 at hframe ⊢
    have hpart : fabPart d2 (partOfPort d1 port) = fabPart d1 (partOfPort d1 port) := by rw [hframe]; rfl
    have hclock : d2.clock = d1.clock := by rw [hframe]
    rw [hpart, hclock]
  · rw [if_neg h, if_neg fun h' => h ⟨h'.1, hall.1 h'.2.1, h'.2.2⟩]

/-- Settles O34: each message by its row, MEMBER_LOST by whether the ID is fenced, SHARE_SET port by port. -/
theorem fabricManager : Obligations.FabricManager := by
  unfold Obligations.FabricManager
  intro s now port trailer f d1 ht p q ignored
  refine ⟨?_, ?_, fun hm => ⟨?_, ?_, ?_, ?_, ?_, ?_, ?_⟩⟩
  · intro a b c z lst ws rs r hr hsrc hk
    simp only [List.mem_cons, List.not_mem_nil, or_false] at hr
    rcases hr with rfl | rfl | rfl | rfl | rfl | rfl | rfl
    · exact completes_not_manager ht hsrc (show _ = execIdAssign now port trailer f a b s from rfl) hk
    · exact completes_not_manager ht hsrc (show _ = execMemberLost now port trailer f a s from rfl) hk
    · exact completes_not_manager ht hsrc (show _ = execMemberReplace now port trailer f a b c s from rfl) hk
    · exact completes_not_manager ht hsrc (show _ = execFenceClear now port trailer f a s from rfl) hk
    · exact completes_not_manager ht hsrc (show _ = execShareSet now port trailer f lst ws s from rfl) hk
    · exact completes_not_manager ht hsrc (show _ = execRouteSet now port trailer f rs s from rfl) hk
    · exact completes_not_manager ht hsrc (show _ = execBellShift now port trailer f a z s from rfl) hk
  · intro htype hlist
    refine completes_taken ht (show _ = execControlIgnored now port trailer f s from rfl) ?_ rfl
    simp only [htype, hlist, beq_self_eq_true, Bool.not_false, Bool.and_self]
  · intro hk chip tag
    have hp : p < 1024 := Nat.lt_of_lt_of_le (partOfQuarter_lt d1 (by obtain ⟨-, h, -⟩ := ht; omega)) (by decide)
    refine completes_manager ht hm (show _ = execIdAssign now port trailer f chip tag s from rfl) hk ?_
    dsimp only
    rw [portsOf_rset_fabId _ hp]
    rfl
  · intro hk chip d2 d3
    have hrow : exec (.memberLost now port trailer f chip) s = execMemberLost now port trailer f chip s := rfl
    refine ⟨fun hf => completes_manager ht hm hrow hk (memberLost_of_fenced hf),
      fun hf => completes_manager ht hm hrow hk ⟨fenceChip d3 p chip, memberLost_of_not_fenced hf, ?_⟩⟩
    have hfab : d3.fab = d1.fab :=
      (returnArrivals_fab _ _ _).trans ((markLost_fab _ _ _).trans (rcount_fab _ _ _ _ _ _ _))
    have hq : fabPart d3 p = q := fabPart_of_fab hfab p
    rewrite [fenceChip_eq, hq]
    rfl
  · exact fun hk chip => completes_manager ht hm (show _ = execFenceClear now port trailer f chip s from rfl) hk rfl
  · intro hk old new tray
    refine completes_manager ht hm (show _ = execMemberReplace now port trailer f old new tray s from rfl) hk ?_
    dsimp only
    cases fenced d1 (partOfPort d1 port) old with
    | true => exact (if_pos rfl).trans (if_neg Bool.false_ne_true.symm).symm
    | false => exact (if_neg Bool.false_ne_true).trans (if_pos rfl).symm
  · intro hk ceilings wraps
    obtain ⟨t, hexec, hpending, hfuses, h⟩ := completes_shareSet ht hm hk ceilings wraps
    refine ⟨t, hexec, hpending, hfuses, ?_⟩
    dsimp only at h ⊢
    by_cases hok : ceilings.length = (portsOf d1 p).length ∧ (∀ c ∈ ceilings, 1 ≤ c ∧ c ≤ 256) ∧ wraps.length ≤ 64
    · rw [if_pos hok] at h ⊢
      obtain ⟨hlen, -, -⟩ := hok
      exact ⟨_, h, capPorts_frame _ d1, fun i hi => portAt_capPorts_getD d1 (portsOf_nodup d1 p) hlen hi,
        fun i hi => portAt_capPorts_other _ d1 fun hmem => hi (List.map_fst_zip hlen.ge ▸ hmem)⟩
    · rw [if_neg hok] at h ⊢
      exact h
  · exact fun hk rules => completes_manager ht hm (show _ = execRouteSet now port trailer f rules s from rfl) hk rfl
  · intro hk step shift
    refine completes_manager ht hm (show _ = execBellShift now port trailer f step shift s from rfl) hk ?_
    dsimp only
    cases (fabPart d1 (partOfPort d1 port)).bell with
    | none => rfl
    | some b => rfl

end Sys2Proof.Machine
end

section
/-!
PROOF. Fabric ports: bring-up, faults, laser inputs and calibration (R269 to R272, R300): O35.
-/

namespace Sys2Proof.Machine

/-! ### What a step of ports may touch -/

/-- From `d` to `d'` only ports of `P` and registers of `K` change. -/
def TouchesPorts (P K : Nat → Prop) (d d' : Dev) : Prop :=
  d' = { d with regs := d'.regs, fab := { d.fab with ports := d'.fab.ports } } ∧
    (∀ j, ¬ P j → portAt d' j = portAt d j) ∧
    ∀ (v : Word) (key : Nat), ¬ K key → mget v d'.regs key = mget v d.regs key

theorem TouchesPorts.refl (P K : Nat → Prop) (d : Dev) : TouchesPorts P K d d :=
  ⟨rfl, fun _ _ => rfl, fun _ _ _ => rfl⟩

theorem TouchesPorts.trans {P K : Nat → Prop} {a b c : Dev} (h : TouchesPorts P K a b) (g : TouchesPorts P K b c) :
    TouchesPorts P K a c := by
  obtain ⟨hf, hp, hk⟩ := h
  obtain ⟨gf, gp, gk⟩ := g
  refine ⟨?_, fun j hj => (gp j hj).trans (hp j hj), fun v key hv => (gk v key hv).trans (hk v key hv)⟩
  rw [hf] at gf
  exact gf

theorem TouchesPorts.mono {P K P' K' : Nat → Prop} {d d' : Dev} (h : TouchesPorts P K d d') (hP : ∀ j, P j → P' j)
    (hK : ∀ key, K key → K' key) : TouchesPorts P' K' d d' := by
  obtain ⟨hf, hp, hk⟩ := h
  exact ⟨hf, fun j hj => hp j fun h => hj (hP j h), fun v key hv => hk v key fun h => hv (hK key h)⟩

theorem TouchesPorts.lowFibres {P K : Nat → Prop} {d d' : Dev} (h : TouchesPorts P K d d') :
    d'.fab.lowFibres = d.fab.lowFibres := by
  obtain ⟨hf, -, -⟩ := h
  rw [hf]

theorem TouchesPorts.clock {P K : Nat → Prop} {d d' : Dev} (h : TouchesPorts P K d d') : d'.clock = d.clock := by
  obtain ⟨hf, -, -⟩ := h
  rw [hf]

theorem TouchesPorts.portDark {P K : Nat → Prop} {d d' : Dev} (h : TouchesPorts P K d d') (i : Nat) :
    portDark d' i = portDark d i := by
  unfold Machine.portDark
  rw [h.lowFibres]

theorem TouchesPorts.rget {P K : Nat → Prop} {d d' : Dev} (h : TouchesPorts P K d d') {r : Reg} {n i : Nat}
    (hk : ¬ K (r.key n i)) : rget d' r n i = rget d r n i := by
  obtain ⟨-, -, hr⟩ := h
  exact hr _ _ hk

theorem TouchesPorts.portState {P K : Nat → Prop} {d d' : Dev} (h : TouchesPorts P K d d') {i : Nat}
    (hk : ¬ K (Reg.fabPortStatus.key 0 i)) : portState d' i = portState d i := by
  unfold Machine.portState rfield
  rw [h.rget hk]

/-- From `d` to `d'` nothing of port `i` changes. -/
def BesidePort (i : Nat) : Dev → Dev → Prop := TouchesPorts (· ≠ i) (· ≠ Reg.fabPortStatus.key 0 i)

theorem BesidePort.portState {i : Nat} {d d' : Dev} (h : BesidePort i d d') : portState d' i = portState d i :=
  TouchesPorts.portState h fun hk => hk rfl

theorem BesidePort.portAt {i : Nat} {d d' : Dev} (h : BesidePort i d d') : portAt d' i = portAt d i := by
  obtain ⟨-, hp, -⟩ := h
  exact hp i fun hj => hj rfl

theorem setPort_touches (d : Dev) (i : Nat) (x : Port) (K : Nat → Prop) : TouchesPorts (· = i) K d (setPort d i x) :=
  ⟨rfl, fun j hj => by rw [portAt_setPort, if_neg hj], fun _ _ _ => rfl⟩

theorem rsetf_touches (d : Dev) (r : Reg) (n i hi lo v : Nat) (P : Nat → Prop) :
    TouchesPorts P (· = r.key n i) d (rsetf d r n i hi lo v) := by
  refine ⟨?_, fun j _ => ?_, fun w key hk => mget_mset_other _ _ _ _ hk⟩
  · obtain ⟨rs, h⟩ := rsetf_regs d r n i hi lo v
    rw [h]
  · obtain ⟨rs, h⟩ := rsetf_regs d r n i hi lo v
    rw [h]
    rfl

/-- Ports one after another: only their own parts change. -/
theorem foldl_touches {g : Dev → Nat → Dev} {P K : Nat → Prop} (xs : List Nat) (d : Dev)
    (hg : ∀ d, ∀ i ∈ xs, TouchesPorts P K d (g d i)) : TouchesPorts P K d (xs.foldl g d) := by
  induction xs generalizing d with
  | nil => exact .refl P K d
  | cons x xs ih =>
    exact (hg d x List.mem_cons_self).trans (ih _ fun d i hi => hg d i (List.mem_cons_of_mem _ hi))

/-- Ports one after another: a port of the list has its own step, with nothing of it changed before or after. -/
theorem foldl_at {g : Dev → Nat → Dev} {i : Nat} (xs : List Nat) (d : Dev) (hn : xs.Nodup) (hi : i ∈ xs)
    (hg : ∀ d, ∀ j ∈ xs, j ≠ i → BesidePort i d (g d j)) :
    ∃ d1, BesidePort i d d1 ∧ BesidePort i (g d1 i) (xs.foldl g d) := by
  induction xs generalizing d with
  | nil => cases hi
  | cons x xs ih =>
    rw [List.nodup_cons] at hn
    obtain ⟨hx, hn⟩ := hn
    by_cases h : x = i
    · subst h
      refine ⟨d, .refl _ _ d, foldl_touches xs _ fun d j hj => hg d j (List.mem_cons_of_mem _ hj) fun e => hx (e ▸ hj)⟩
    · have hi' : i ∈ xs := (List.mem_cons.1 hi).resolve_left (Ne.symm h)
      obtain ⟨d1, hb, ha⟩ := ih (g d x) hn hi' fun d j hj => hg d j (List.mem_cons_of_mem _ hj)
      exact ⟨d1, (hg d x List.mem_cons_self h).trans hb, ha⟩

/-- Steps of those ports alone that a test picks, where no step changes the test of another port. -/
theorem foldl_if_eq_filter {g : Dev → Nat → Dev} {c : Dev → Nat → Bool} (xs : List Nat) (d : Dev) (hn : xs.Nodup)
    (hg : ∀ d, ∀ i ∈ xs, ∀ j ∈ xs, j ≠ i → c (g d i) j = c d j) :
    xs.foldl (fun d i => if c d i then g d i else d) d = (xs.filter (c d)).foldl g d := by
  induction xs generalizing d with
  | nil => rfl
  | cons x xs ih =>
    rw [List.nodup_cons] at hn
    obtain ⟨hx, hn⟩ := hn
    have hrest := fun d => ih d hn fun d i hi j hj => hg d i (List.mem_cons_of_mem _ hi) j (List.mem_cons_of_mem _ hj)
    rw [List.foldl_cons, hrest]
    by_cases h : c d x = true
    · rw [if_pos h, List.filter_cons_of_pos h, List.foldl_cons]
      congr 1
      exact List.filter_congr fun j hj => hg d x List.mem_cons_self j (List.mem_cons_of_mem _ hj) fun e => hx (e ▸ hj)
    · rw [if_neg h, List.filter_cons_of_neg h]

/-! ### A port enters a state -/

theorem fabPortStatus_key_ne {i j : Nat} (hi : i < 1024) (hj : j < 1024) (h : j ≠ i) :
    Reg.fabPortStatus.key 0 j ≠ Reg.fabPortStatus.key 0 i :=
  key_ne (by decide) (by decide) hj hi (.inr (.inr h))

theorem fabPortStatus_ne_fabEngineStatus {i e : Nat} (hi : i < 1024) (he : e < 1024) :
    Reg.fabPortStatus.key 0 i ≠ Reg.fabEngineStatus.key 0 e :=
  key_ne (by decide) (by decide) hi he (.inl (by decide))

theorem portState_setPortState (d : Dev) (i : Nat) (st : PortState) : portState (setPortState d i st) i = st.code := by
  unfold portState setPortState
  rw [rfield_rsetf _ _ _ _ _ _ _ (by decide)]
  cases st <;> rfl

/-- A port with its link level empty and LINK_INIT still to be exchanged. -/
def Port.emptied (y : Port) : Port :=
  { y with unacked := [], linkQ := [], ackDue := false, nakDue := false, owed := [], credit := [], init := false }

/-- A port enters a state from `d` with its link level empty; `y` says what else it holds. -/
def EntersState (d d' : Dev) (i : Nat) (st : PortState) (y : Port) : Prop :=
  portState d' i = st.code ∧
    rget d' .fabPortStatus 0 i = wsetBits (rget d .fabPortStatus 0 i) 2 0 st.code ∧
    portAt d' i = y.emptied ∧
    TouchesPorts (· = i) (fun key => key = Reg.fabPortStatus.key 0 i ∨ key = Reg.fabEngineStatus.key 0 (engineOf i)) d d'

theorem setPortState_enters {d d1 : Dev} {i : Nat} {st : PortState} {y : Port} (hi : i < 1024)
    (h : TouchesPorts (· = i) (· = Reg.fabEngineStatus.key 0 (engineOf i)) d d1) :
    EntersState d (setPortState (setPort d1 i y.emptied) i st)
      i st y := by
  have he : engineOf i < 1024 := Nat.lt_of_le_of_lt (Nat.div_le_self _ _) hi
  refine ⟨portState_setPortState _ _ _, ?_, ?_, ?_⟩
  · have hd1 := h.rget (fabPortStatus_ne_fabEngineStatus hi he)
    unfold setPortState rsetf
    rw [rget_rset]
    exact congrArg (fun w => wsetBits w 2 0 st.code) hd1
  · obtain ⟨-, hp, -⟩ := rsetf_touches (setPort d1 i y.emptied)
      .fabPortStatus 0 i 2 0 st.code fun _ => False
    refine (hp i not_false).trans ?_
    rw [portAt_setPort, if_pos rfl]
  · exact ((h.mono (fun _ h => h) fun _ h => .inr h).trans (setPort_touches _ _ _ _)).trans
      ((rsetf_touches _ _ _ _ _ _ _ _).mono (fun _ h => h) fun _ h => .inl h)

theorem portDown_enters (d : Dev) {i : Nat} (hi : i < 1024) (st : PortState) :
    EntersState d (portDown d i st) i st { portAt d i with
      downAt := if portUp d i then d.clock else (portAt d i).downAt, startAt := d.clock + 1000000000 } :=
  setPortState_enters (y := { portAt d i with
    downAt := if portUp d i then d.clock else (portAt d i).downAt, startAt := d.clock + 1000000000 }) hi (.refl _ _ d)

theorem portDown_touches (d : Dev) (i : Nat) (st : PortState) :
    TouchesPorts (· = i) (· = Reg.fabPortStatus.key 0 i) d (portDown d i st) :=
  (setPort_touches _ _ _ _).trans (rsetf_touches _ _ _ _ _ _ _ _)

theorem bringUp_of_dark {d : Dev} {i : Nat} (h : portDark d i = true) : bringUp d i = portDown d i .down := if_pos h

theorem bringUp_enters {d : Dev} {i : Nat} (hi : i < 1024) (h : portDark d i = false) :
    EntersState d (bringUp d i) i .training { portAt d i with
      lseq := 0, rxSeq := 0, trainAt := d.clock, downAt := if portUp d i then d.clock else (portAt d i).downAt } := by
  have he : engineOf i < 1024 := Nat.lt_of_le_of_lt (Nat.div_le_self _ _) hi
  have hreach := rsetf_touches d .fabEngineStatus 0 (engineOf i) 0 0 (rfield d .fabEngineCtl 0 (engineOf i) 0 0)
    fun _ => False
  have hdark : ¬ portDark d i = true := by rw [h]; exact Bool.false_ne_true
  unfold bringUp
  rw [if_neg hdark]
  dsimp only
  generalize rsetf d .fabEngineStatus 0 (engineOf i) 0 0 (rfield d .fabEngineCtl 0 (engineOf i) 0 0) = d1 at hreach ⊢
  have hport : portAt d1 i = portAt d i := hreach.2.1 i not_false
  have hup : portUp d1 i = portUp d i := by
    unfold portUp
    rw [hreach.portState (fabPortStatus_ne_fabEngineStatus hi he)]
  rw [hport, hup, hreach.clock]
  exact setPortState_enters (y := { portAt d i with
    lseq := 0, rxSeq := 0, trainAt := d.clock, downAt := if portUp d i then d.clock else (portAt d i).downAt }) hi
    (hreach.mono (fun _ h => h.elim) fun _ h => h)

theorem bringUp_touches (d : Dev) {i : Nat} (hi : i < 1024) : TouchesPorts (· = i)
    (fun key => key = Reg.fabPortStatus.key 0 i ∨ key = Reg.fabEngineStatus.key 0 (engineOf i)) d (bringUp d i) := by
  cases h : portDark d i with
  | true => exact bringUp_of_dark h ▸ (portDown_touches d i .down).mono (fun _ h => h) fun _ h => .inl h
  | false => exact (bringUp_enters hi h).2.2.2

/-- A bring-up leaves a port DOWN in the dark, and in TRAINING with light. -/
theorem portState_bringUp (d : Dev) {i : Nat} (hi : i < 1024) :
    portState (bringUp d i) i = if portDark d i = true then 0 else 1 := by
  cases h : portDark d i with
  | true => rw [bringUp_of_dark h]; exact (portDown_enters d hi .down).1
  | false => exact (bringUp_enters hi h).1

/-- What a port that enters a state keeps, part by part. -/
theorem EntersState.parts {d d' : Dev} {i : Nat} {st : PortState} {y : Port} (h : EntersState d d' i st y) :
    portState d' i = st.code ∧
      rget d' .fabPortStatus 0 i = wsetBits (rget d .fabPortStatus 0 i) 2 0 st.code ∧
      portAt d' i = y.emptied ∧ (∀ j, j ≠ i → portAt d' j = portAt d j) ∧
      d' = { d with regs := d'.regs, fab := { d.fab with ports := d'.fab.ports } } ∧
      ∀ key, key ≠ Reg.fabPortStatus.key 0 i → key ≠ Reg.fabEngineStatus.key 0 (engineOf i) →
        mget 0 d'.regs key = mget 0 d.regs key := by
  obtain ⟨hs, hr, hp, hf, hports, hregs⟩ := h
  exact ⟨hs, hr, hp, hports, hf, fun key hk he => hregs 0 key fun h => h.elim hk he⟩

/-! ### The rows of one port -/

section Rows

variable {s : State} (hl : Live s) (port now : Nat)

theorem portIn_advanceTo (d : Dev) (st : PortState) : portIn (advanceTo d now) port st = portIn d port st := by
  unfold portIn portState
  rw [rfield_of_regs (advanceTo_regs d now)]

include hl

theorem completes_portBringup : Completes (.portBringup port now) s fun d =>
    let d0 := advanceTo s.dev now
    d = if ((port < 32 ∧ portIn s.dev port .down = true) ∨ (port < 32 ∧ portIn s.dev port .fault = true)) ∧
        (portAt d0 port).startAt ≤ d0.clock then bringUp d0 port else s.dev := by
  refine completes_onDev hl (show _ = execPortBringup port now s from rfl) (if_congr ?_ rfl rfl)
  rw [portIn_advanceTo, portIn_advanceTo, ← and_or_left, and_assoc]

theorem completes_portUp : Completes (.portUp port now) s fun d =>
    let d0 := advanceTo s.dev now
    d = if (port < 32 ∧ portIn s.dev port .training = true) ∧ (portAt d0 port).init = true ∧
        d0.clock ≤ (portAt d0 port).trainAt + 50000000 then
      pump (setPortState (setPort d0 port { portAt d0 port with calAt := d0.clock }) port .up) else s.dev := by
  refine completes_onDev hl (show _ = execPortUp port now s from rfl) (if_congr ?_ rfl rfl)
  rw [portIn_advanceTo, and_assoc]

theorem completes_portFault : Completes (.portFault port now) s fun d =>
    let d0 := advanceTo s.dev now
    d = if (port < 32 ∧ portIn s.dev port .training = true) ∧ (portAt d0 port).trainAt + 50000000 ≤ d0.clock then
      portDown d0 port .fault else s.dev := by
  refine completes_onDev hl (show _ = execPortFault port now s from rfl) (if_congr ?_ rfl rfl)
  rw [portIn_advanceTo, and_assoc]

theorem completes_portDown (corr uncorr : Nat) : Completes (.portDown port corr uncorr now) s fun d =>
    let d0 := advanceTo s.dev now
    d = if (port < 32 ∧ portIn s.dev port .up = true) ∨ (port < 32 ∧ portIn s.dev port .cal = true) then
      portDown (rcount (rcount d0 .fabPortStatus 0 port 63 32 corr) .fabPortStatus 0 port 15 8 uncorr) port .down
    else s.dev := by
  refine completes_onDev hl (show _ = execPortDown port corr uncorr now s from rfl) (if_congr ?_ rfl rfl)
  rw [portIn_advanceTo, portIn_advanceTo, and_or_left]

theorem completes_calWindow : Completes (.calWindow port now) s fun d =>
    let d0 := advanceTo s.dev now
    d = if (port < 32 ∧ portIn s.dev port .up = true) ∧ calFree d0 port = true ∧ calWindow d0 port = true ∧
        (portAt d0 port).calAt + calPeriod d0 port ≤ d0.clock ∧
        inTurnAt d0 (calDueAt d0 port) .calibration = true then startCal d0 port else s.dev := by
  refine completes_onDev hl (show _ = execCalWindow port now s from rfl) (if_congr ?_ rfl rfl)
  simp only [calReady, Bool.and_eq_true, decide_eq_true_eq, portIn_advanceTo, and_assoc]

theorem completes_calForced : Completes (.calForced port now) s fun d =>
    let d0 := advanceTo s.dev now
    d = if (port < 32 ∧ portIn s.dev port .up = true) ∧ calFree d0 port = true ∧
        (portAt d0 port).calAt + 2 * calPeriod d0 port < d0.clock then
      startCal (rcount d0 .fabEngineStatus 0 (engineOf port) 31 16 1) port else s.dev := by
  refine completes_onDev hl (show _ = execCalForced port now s from rfl) (if_congr ?_ rfl rfl)
  rw [portIn_advanceTo, and_assoc]

theorem completes_calDone : Completes (.calDone port now) s fun d =>
    let d0 := advanceTo s.dev now
    d = if (port < 32 ∧ portIn s.dev port .cal = true) ∧ (portAt d0 port).calAt + 20000 ≤ d0.clock then
      pump (setPortState d0 port .up) else s.dev := by
  refine completes_onDev hl (show _ = execCalDone port now s from rfl) (if_congr ?_ rfl rfl)
  rw [portIn_advanceTo, and_assoc]

end Rows

/-! ### RETRAIN -/

/-- A write of FAB_ENGINE_CTL before its RETRAIN. -/
def engineCtlWritten (d : Dev) (e : Nat) (v : Word) : Dev :=
  let d := rsetf d .fabEngineCtl 0 e 0 0 (wbits v 0 0)
  if 1 ≤ wbits v 15 8 ∧ wbits v 15 8 ≤ 100 then rsetf d .fabEngineCtl 0 e 15 8 (wbits v 15 8) else d

/-- The ports of an engine. -/
def enginePorts (e : Nat) : List Nat := (List.range 4).map (4 * e + ·)

theorem mem_enginePorts {e i : Nat} : i ∈ enginePorts e ↔ engineOf i = e := by
  unfold enginePorts engineOf
  simp only [List.mem_map, List.mem_range]
  constructor
  · rintro ⟨k, hk, rfl⟩
    omega
  · intro h
    exact ⟨i % 4, by omega, by omega⟩

theorem enginePorts_nodup (e : Nat) : (enginePorts e).Nodup :=
  List.nodup_range.map fun _ _ h => Nat.add_left_cancel h

theorem writeEngineCtl_retrain {d : Dev} {e : Nat} {v : Word} (h : wbit v 1 = true) :
    writeEngineCtl d e v = (enginePorts e).foldl bringUp (engineCtlWritten d e v) := by
  have hwrite : writeEngineCtl d e v =
      (List.range 4).foldl (fun d i => bringUp d (4 * e + i)) (engineCtlWritten d e v) := if_pos h
  unfold enginePorts
  rw [hwrite, List.foldl_map]

theorem engineCtlWritten_touches (d : Dev) (e : Nat) (v : Word) :
    TouchesPorts (fun _ => False) (· = Reg.fabEngineCtl.key 0 e) d (engineCtlWritten d e v) := by
  unfold engineCtlWritten
  dsimp only
  split
  · exact (rsetf_touches _ _ _ _ _ _ _ _).trans (rsetf_touches _ _ _ _ _ _ _ _)
  · exact rsetf_touches _ _ _ _ _ _ _ _

theorem engineCtlWritten_reach (d : Dev) (e : Nat) (v : Word) :
    rfield (engineCtlWritten d e v) .fabEngineCtl 0 e 0 0 = wbits v 0 0 := by
  have hreach : rfield (rsetf d .fabEngineCtl 0 e 0 0 (wbits v 0 0)) .fabEngineCtl 0 e 0 0 = wbits v 0 0 :=
    (rfield_rsetf _ _ _ _ _ _ _ (by decide)).trans (Nat.mod_eq_of_lt (bits_lt _ _ _))
  unfold engineCtlWritten
  dsimp only
  split
  · exact (rfield_rsetf_ne _ _ _ _ _ _ _ _ _ (by decide) (.inl (by decide))).trans hreach
  · exact hreach

theorem engineCtlWritten_period (d : Dev) (e : Nat) (v : Word) :
    rfield (engineCtlWritten d e v) .fabEngineCtl 0 e 15 8 =
      if 1 ≤ wbits v 15 8 ∧ wbits v 15 8 ≤ 100 then wbits v 15 8 else rfield d .fabEngineCtl 0 e 15 8 := by
  unfold engineCtlWritten
  dsimp only
  split
  · exact (rfield_rsetf _ _ _ _ _ _ _ (by decide)).trans (Nat.mod_eq_of_lt (bits_lt _ _ _))
  · exact rfield_rsetf_ne _ _ _ _ _ _ _ _ _ (by decide) (.inr (by decide))

theorem lt_of_mem_enginePorts {e i : Nat} (he : e < 8) (hi : i ∈ enginePorts e) : i < 1024 := by
  have h := mem_enginePorts.1 hi
  unfold engineOf at h
  omega

/-- The registers of an engine that a bring-up of its ports may change. -/
def RetrainKey (e key : Nat) : Prop :=
  key = Reg.fabEngineStatus.key 0 e ∨ ∃ i ∈ enginePorts e, key = Reg.fabPortStatus.key 0 i

theorem bringUps_touch (d : Dev) {e : Nat} (he : e < 8) :
    TouchesPorts (fun i => i ∈ enginePorts e) (RetrainKey e) d ((enginePorts e).foldl bringUp d) := by
  refine foldl_touches _ _ fun d i hi => (bringUp_touches d (lt_of_mem_enginePorts he hi)).mono ?_ ?_
  · rintro j rfl
    exact hi
  · rintro key (rfl | rfl)
    · exact .inr ⟨i, hi, rfl⟩
    · exact .inl (by rw [mem_enginePorts.1 hi])

theorem bringUp_beside (d : Dev) {i j : Nat} (hi : i < 1024) (hj : j < 1024) (h : j ≠ i) :
    BesidePort i d (bringUp d j) := by
  have he : engineOf j < 1024 := Nat.lt_of_le_of_lt (Nat.div_le_self _ _) hj
  refine (bringUp_touches d hj).mono ?_ ?_
  · rintro k rfl
    exact h
  · rintro key (rfl | rfl)
    · exact fabPortStatus_key_ne hi hj h
    · exact (fabPortStatus_ne_fabEngineStatus hi he).symm

/-- Each port of a retrained engine is DOWN in the dark and in TRAINING with light. -/
theorem portState_bringUps (d : Dev) {e i : Nat} (he : e < 8) (hi : i ∈ enginePorts e) :
    portState ((enginePorts e).foldl bringUp d) i = if portDark d i = true then 0 else 1 := by
  have hlt := lt_of_mem_enginePorts he hi
  obtain ⟨d1, hb, ha⟩ := foldl_at (g := bringUp) (enginePorts e) d (enginePorts_nodup e) hi
    fun d j hj hne => bringUp_beside d hlt (lt_of_mem_enginePorts he hj) hne
  rw [ha.portState, portState_bringUp d1 hlt, TouchesPorts.portDark hb]

theorem fabEngineCtl_not_retrainKey {e : Nat} (he : e < 8) : ¬ RetrainKey e (Reg.fabEngineCtl.key 0 e) := by
  rintro (h | ⟨i, hi, h⟩)
  · exact key_ne (by decide) (by decide) (by omega) (by omega) (.inl (by decide)) h
  · exact key_ne (by decide) (by decide) (by omega) (lt_of_mem_enginePorts he hi) (.inl (by decide)) h

theorem writeEngineCtl_touches (d : Dev) {e : Nat} {v : Word} (he : e < 8) (hv : wbit v 1 = true) :
    TouchesPorts (fun i => i ∈ enginePorts e) (fun key => key = Reg.fabEngineCtl.key 0 e ∨ RetrainKey e key) d
      (writeEngineCtl d e v) := by
  rw [writeEngineCtl_retrain hv]
  exact ((engineCtlWritten_touches d e v).mono (fun _ h => h.elim) fun _ h => .inl h).trans
    ((bringUps_touch _ he).mono (fun _ h => h) fun _ h => .inr h)

theorem rfield_writeEngineCtl (d : Dev) {e : Nat} {v : Word} (he : e < 8) (hv : wbit v 1 = true) (hi lo : Nat) :
    rfield (writeEngineCtl d e v) .fabEngineCtl 0 e hi lo = rfield (engineCtlWritten d e v) .fabEngineCtl 0 e hi lo := by
  unfold rfield
  rw [writeEngineCtl_retrain hv, (bringUps_touch _ he).rget (fabEngineCtl_not_retrainKey he)]

theorem portState_writeEngineCtl (d : Dev) {e i : Nat} {v : Word} (he : e < 8) (hv : wbit v 1 = true)
    (hi : i ∈ enginePorts e) : portState (writeEngineCtl d e v) i = if portDark d i = true then 0 else 1 := by
  rw [writeEngineCtl_retrain hv, portState_bringUps _ he hi, (engineCtlWritten_touches d e v).portDark]

theorem completes_retrain {s : State} (hl : Live s) (n : Nat) (v : Word) : Completes (.retrain n v) s fun d =>
    if n < 8 ∧ wbit v 1 = true then
      rfield d .fabEngineCtl 0 n 0 0 = wbits v 0 0 ∧
      rfield d .fabEngineCtl 0 n 15 8 = (if 1 ≤ wbits v 15 8 ∧ wbits v 15 8 ≤ 100 then wbits v 15 8
        else rfield s.dev .fabEngineCtl 0 n 15 8) ∧
      d = { s.dev with regs := d.regs, fab := { s.dev.fab with ports := d.fab.ports } } ∧
      (∀ i, i < 4 → portState d (4 * n + i) = if portDark s.dev (4 * n + i) = true then 0 else 1) ∧
      (∀ i, (i < 4 * n ∨ 4 * n + 4 ≤ i) → portAt d i = portAt s.dev i) ∧
      ∀ key, key ≠ Reg.fabEngineCtl.key 0 n → key ≠ Reg.fabEngineStatus.key 0 n →
        (∀ i, i < 4 → key ≠ Reg.fabPortStatus.key 0 (4 * n + i)) → mget 0 d.regs key = mget 0 s.dev.regs key
    else d = s.dev := by
  refine completes_onDev hl (show _ = execRetrain n v s from rfl) ?_
  dsimp only
  by_cases h : n < 8 ∧ wbit v 1 = true
  · simp only [if_pos h]
    obtain ⟨hn, hv⟩ := h
    obtain ⟨hframe, hports, hregs⟩ := writeEngineCtl_touches s.dev hn hv
    have hmem (i : Nat) : i ∈ enginePorts n ↔ ∃ k, k < 4 ∧ 4 * n + k = i := by
      simp only [enginePorts, List.mem_map, List.mem_range]
    refine ⟨?_, ?_, hframe, fun i hi => ?_, fun i hi => ?_, fun key hc hs hp => ?_⟩
    · rw [rfield_writeEngineCtl _ hn hv, engineCtlWritten_reach]
    · rw [rfield_writeEngineCtl _ hn hv, engineCtlWritten_period]
    · exact portState_writeEngineCtl _ hn hv ((hmem _).2 ⟨i, hi, rfl⟩)
    · refine hports i fun hmem' => ?_
      obtain ⟨k, hk, rfl⟩ := (hmem i).1 hmem'
      omega
    · refine hregs 0 key ?_
      rintro (hk | hk | ⟨i, hi, hk⟩)
      · exact hc hk
      · exact hs hk
      · obtain ⟨k, hk', rfl⟩ := (hmem i).1 hi
        exact hp k hk' hk
  · simp only [if_neg h]

/-! ### Laser inputs -/

/-- A port that a lost laser input takes DOWN. -/
def losesLight (fibre : Nat) (d : Dev) (i : Nat) : Bool :=
  (fibresOf i).contains fibre && (portIn d i .up || portIn d i .cal || portIn d i .training)

theorem losesLight_of_portState {d d' : Dev} {i : Nat} (h : portState d' i = portState d i) (fibre : Nat) :
    losesLight fibre d' i = losesLight fibre d i := by
  unfold losesLight portIn
  rw [h]

/-- A port goes DOWN. -/
def lightOut (d : Dev) (i : Nat) : Dev := portDown d i .down

theorem lightOut_beside (d : Dev) {i j : Nat} (hi : i < 1024) (hj : j < 1024) (h : j ≠ i) :
    BesidePort i d (lightOut d j) := by
  refine (portDown_touches d j .down).mono ?_ ?_
  · rintro k rfl
    exact h
  · rintro key rfl
    exact fabPortStatus_key_ne hi hj h

/-- The ports of `xs` go DOWN, each with its link level empty. -/
theorem lightsOut (xs : List Nat) (d : Dev) (hn : xs.Nodup) (hlt : ∀ i ∈ xs, i < 1024) :
    let r := xs.foldl lightOut d
    TouchesPorts (fun i => i ∈ xs) (fun key => ∃ i ∈ xs, key = Reg.fabPortStatus.key 0 i) d r ∧
      ∀ i ∈ xs, portState r i = 0 ∧ (portAt r i).unacked = [] ∧ (portAt r i).init = false ∧
        (portAt r i).startAt = d.clock + 1000000000 := by
  intro r
  constructor
  · refine foldl_touches _ _ fun d i hi => (portDown_touches d i .down).mono ?_ ?_
    · rintro j rfl
      exact hi
    · rintro key rfl
      exact ⟨i, hi, rfl⟩
  · intro i hi
    obtain ⟨d1, hb, ha⟩ := foldl_at (g := lightOut) xs d hn hi
      fun d j hj hne => lightOut_beside d (hlt i hi) (hlt j hj) hne
    obtain ⟨hstate, -, hport, -⟩ := portDown_enters d1 (hlt i hi) .down
    have hport' : portAt r i = _ := ha.portAt.trans hport
    rw [TouchesPorts.clock hb] at hport'
    refine ⟨ha.portState.trans hstate, ?_, ?_, ?_⟩
    · rw [hport']; rfl
    · rw [hport']; rfl
    · rw [hport']; rfl

theorem noteLight_touches (d : Dev) (e level : Nat) :
    TouchesPorts (fun _ => False) (· = Reg.fabEngineStatus.key 0 e) d (noteLight d e level) :=
  (rsetf_touches _ _ _ _ _ _ _ _).trans (rsetf_touches _ _ _ _ _ _ _ _)

/-- The device once an input is listed as low. -/
def lowNoted (d : Dev) (e fibre level : Nat) : Dev :=
  noteLight { d with fab.lowFibres := if d.fab.lowFibres.contains (8 * e + fibre) then d.fab.lowFibres
    else d.fab.lowFibres ++ [8 * e + fibre] } e level

theorem portState_lowNoted (d : Dev) {e i : Nat} (fibre level : Nat) (he : e < 8) (hi : i < 1024) :
    portState (lowNoted d e fibre level) i = portState d i := by
  have h := (noteLight_touches { d with fab.lowFibres := if d.fab.lowFibres.contains (8 * e + fibre) then
    d.fab.lowFibres else d.fab.lowFibres ++ [8 * e + fibre] } e level).portState
      (fabPortStatus_ne_fabEngineStatus (e := e) hi (by omega))
  exact h.trans (rfield_of_regs rfl _ _ _ _ _)

/-- The ports of an engine that a lost input takes DOWN go DOWN one after another. -/
theorem laserInputLow_foldl (d : Dev) (fibre : Nat) {e : Nat} (he : e < 8) :
    (enginePorts e).foldl (fun d i =>
      if (fibresOf i).contains fibre ∧ (portIn d i .up ∨ portIn d i .cal ∨ portIn d i .training) then
        portDown d i .down else d) d =
      ((enginePorts e).filter (losesLight fibre d)).foldl lightOut d := by
  have hstep : (fun (d : Dev) (i : Nat) =>
      if (fibresOf i).contains fibre ∧ (portIn d i .up ∨ portIn d i .cal ∨ portIn d i .training) then
        portDown d i .down else d) = fun d i => if losesLight fibre d i then lightOut d i else d := by
    funext d i
    refine if_congr ?_ rfl rfl
    simp only [losesLight, Bool.and_eq_true, Bool.or_eq_true, or_assoc]
  rw [hstep]
  refine foldl_if_eq_filter _ _ (enginePorts_nodup e) fun d i hi j hj hne => ?_
  exact losesLight_of_portState
    (lightOut_beside d (lt_of_mem_enginePorts he hj) (lt_of_mem_enginePorts he hi) hne.symm).portState fibre

/-- The device once the ports that a low input serves are DOWN. -/
def lightLost (d : Dev) (n fibre level : Nat) : Dev :=
  let d1 := lowNoted d n fibre level
  ((enginePorts n).filter (losesLight (8 * n + fibre) d1)).foldl lightOut d1

theorem completes_laserInputLow {s : State} (hl : Live s) (n fibre level now : Nat) :
    Completes (.laserInputLow n fibre level now) s fun d =>
      d = if n < 8 ∧ fibre < 8 ∧ sext 8 level < laserMin s.dev n then lightLost (advanceTo s.dev now) n fibre level
        else s.dev := by
  have hmin : laserMin (advanceTo s.dev now) n = laserMin s.dev n := by
    unfold laserMin rget
    rw [advanceTo_regs]
  refine completes_onDev hl (show _ = execLaserInputLow n fibre level now s from rfl) ?_
  dsimp only
  rw [hmin]
  by_cases h : n < 8 ∧ fibre < 8 ∧ sext 8 level < laserMin s.dev n
  · rw [if_pos h, if_pos h]
    exact laserInputLow_foldl (lowNoted (advanceTo s.dev now) n fibre level) (8 * n + fibre) h.1
  · rw [if_neg h, if_neg h]

/-- What a low input changes: the ports it serves, and the registers of their states. -/
theorem lightLost_parts {s : State} {n : Nat} (fibre level now : Nat) (hn : n < 8) :
    let d := lightLost (advanceTo s.dev now) n fibre level
    let d1 := lowNoted (advanceTo s.dev now) n fibre level
    let served (i : Nat) : Prop := engineOf i = n ∧ 8 * n + fibre ∈ fibresOf i ∧
      (portIn s.dev i .up = true ∨ portIn s.dev i .cal = true ∨ portIn s.dev i .training = true)
    d = { d1 with regs := d.regs, fab := { d1.fab with ports := d.fab.ports } } ∧
      (∀ i, served i → portState d i = 0 ∧ (portAt d i).unacked = [] ∧ (portAt d i).init = false ∧
        (portAt d i).startAt = d1.clock + 1000000000) ∧
      (∀ i, ¬ served i → portAt d i = portAt d1 i) ∧
      ∀ key, (∀ i, served i → key ≠ Reg.fabPortStatus.key 0 i) → mget 0 d.regs key = mget 0 d1.regs key := by
  intro d d1 served
  have hserved (i : Nat) : i ∈ (enginePorts n).filter (losesLight (8 * n + fibre) d1) ↔ served i := by
    rw [List.mem_filter, mem_enginePorts]
    refine and_congr_right fun he => ?_
    have hstate : portState d1 i = portState s.dev i :=
      (portState_lowNoted _ fibre level hn (lt_of_mem_enginePorts hn (mem_enginePorts.2 he))).trans
        (rfield_of_regs (advanceTo_regs s.dev now) _ _ _ _ _)
    rw [losesLight_of_portState hstate]
    simp only [losesLight, Bool.and_eq_true, Bool.or_eq_true, or_assoc, List.contains_eq_mem, decide_eq_true_eq]
  obtain ⟨⟨hframe, hports, hregs⟩, hout⟩ := lightsOut ((enginePorts n).filter (losesLight (8 * n + fibre) d1)) d1
    ((enginePorts_nodup n).filter _) fun i hi => lt_of_mem_enginePorts hn (List.mem_filter.1 hi).1
  refine ⟨hframe, fun i hi => hout i ((hserved i).2 hi), fun i hi => hports i fun h => hi ((hserved i).1 h),
    fun key hk => hregs 0 key ?_⟩
  rintro ⟨i, hi, rfl⟩
  exact hk i ((hserved i).1 hi) rfl

/-! ### The statement -/

/-- A command that does one of two things, in the terms of what the first does. -/
theorem completes_cases {i : Instr} {s : State} {c : Prop} [Decidable c] {x y : Dev} {Q : Dev → Prop}
    (h : Completes i s fun d => d = if c then x else y) (hq : c → Q x) :
    Completes i s fun d => if c then Q d else d = y := by
  obtain ⟨t, hexec, hpending, hfuses, hd⟩ := h
  refine ⟨t, hexec, hpending, hfuses, ?_⟩
  by_cases hc : c
  · rw [if_pos hc] at hd ⊢
    exact hd ▸ hq hc
  · rw [if_neg hc] at hd ⊢
    exact hd

/-- Settles O35: the rows of one port by the state that it enters, RETRAIN and a low input port by port. -/
theorem fabricPorts : Obligations.FabricPorts := by
  unfold Obligations.FabricPorts
  intro s port now hl d0 x e in_ fresh down comesUp
  refine ⟨?_, completes_portUp hl port now, ?_, ?_, completes_retrain hl, ?_,
    ⟨completes_calWindow hl port now, completes_calForced hl port now⟩, completes_calDone hl port now⟩
  · refine completes_cases (completes_portBringup hl port now) fun h => ?_
    have hport : port < 1024 := by
      obtain ⟨h | h, -⟩ := h
      · exact Nat.lt_trans h.1 (by decide)
      · exact Nat.lt_trans h.1 (by decide)
    dsimp only [comesUp]
    cases hdark : portDark d0 port with
    | true =>
      rw [if_pos rfl, bringUp_of_dark hdark]
      exact (portDown_enters d0 hport .down).parts
    | false =>
      rw [if_neg Bool.false_ne_true]
      exact (bringUp_enters hport hdark).parts
  · exact completes_cases (completes_portFault hl port now) fun h =>
      (portDown_enters d0 (Nat.lt_trans h.1.1 (by decide)) .fault).parts
  · intro corr uncorr
    refine completes_cases (completes_portDown hl port now corr uncorr) fun h => ?_
    have hport : port < 1024 := by
      rcases h with h | h
      · exact Nat.lt_trans h.1 (by decide)
      · exact Nat.lt_trans h.1 (by decide)
    exact (portDown_enters _ hport .down).parts
  · exact fun n fibre level => ⟨completes_cases (completes_laserInputLow hl n fibre level now) fun h =>
      lightLost_parts fibre level now h.1,
      completes_onDev hl (show _ = execLaserInputRestored n fibre level now s from rfl) rfl⟩

end Sys2Proof.Machine
end
